-- ==== Sys2Proof/Word.lean ====
section
/-! DEFINITION. The word types of the Chasol (R3, R11, R25). -/

namespace Sys2Proof

/-- A byte of storage. -/
abbrev Byte := BitVec 8
/-- A 32-bit word: an instruction word, a lane of a vector register, an accumulator element. -/
abbrev W32 := BitVec 32
/-- A 64-bit word: a scalar register, a PC, a virtual address. -/
abbrev W64 := BitVec 64
/-- One bit for each of the four lanes of a slice (R11). -/
abbrev Lanes := BitVec 4

/-- All ones in 64 bits: the result of a division by zero (R88), the answer of a channel form that finds nothing (R240). -/
def ones64 : W64 := BitVec.allOnes 64

end Sys2Proof
end

