-- ==== Sys2Proof/Config.lean ====
section
/-! DEFINITION. What one module fixes, and the values that the spec leaves open. None has a body: nothing can be proved of a value
of them. Those that take a number are applied to the count of values drawn so far (State.draws), or, where the machine answers
alike to like operands, to the operands. -/

namespace Sys2Proof

/-- The ordering code is EVX-CHS4-384LX (R1, R2, R63). DESIGN CHOICE, log entry 57. -/
opaque Config.lx : Bool
/-- A free choice between two outcomes that the spec allows. DESIGN CHOICE, log entry 7. -/
opaque Config.coin : Nat → Bool
/-- A free choice for each of four lanes. -/
opaque Config.lanes : Nat → Lanes
/-- A free word: what an IO or remote access returns, a counter that the spec does not determine, a register read too early. DESIGN CHOICE, log entry 7. -/
opaque Config.word : Nat → W64
/-- A free byte: what lies behind an IO page or at another module (R148, R353). DESIGN CHOICE, log entry 7. -/
opaque Config.byte : Nat → Byte
/-- The bit of the read signature that a line maps to: its kind and two numbers (R202). DESIGN CHOICE, log entry 17. -/
opaque Config.signature : Nat → Nat → Nat → BitVec 10
/-- The input from which on a special function has reached a result (R113): by function, format, interval on which the function rises or falls, and the
result's place in the order of codes; the input as its place in that order (Machine/Special.lean). DESIGN CHOICE, log entry 20. -/
opaque Config.special : Nat → Nat → Int → Int → Int
/-- The vendor's private key, which no part of the module holds: its public half's digest is part of the boot ROM's mask (R359). DESIGN CHOICE, log entry 67. -/
opaque Config.vendorKey : Nat
/-- The module's private identity key, in the security block (R363). DESIGN CHOICE, log entry 67. -/
opaque Config.identityKey : Nat
/-- The numbers from which a signature's nonce is drawn: by the key and what is signed, or by the count of values drawn. DESIGN CHOICE, log entry 67. -/
opaque Config.nonce : Nat → Nat → Nat
/-- The bank and row of a pseudo-channel that a granule lies in, by the granule's index there (R160, R163). DESIGN CHOICE, log entry 49. -/
opaque Config.dramRow : Nat → Nat
/-- Temperatures and powers that management reads (R364), by the free value's number. -/
opaque Config.reading : Nat → Nat

end Sys2Proof
end

