-- ==== Sys2Proof/Machine/Num.lean ====
section
/-! DEFINITION. Number formats, rounding, block scales and the accumulation of the matrix unit (R67 to R84). Values are exact until one
rounding makes a code. -/

namespace Sys2Proof.Machine

/-- The meanings of a 4-bit code (R72). -/
inductive Q4 | int | e2m1 | pow2 | hyb
  deriving DecidableEq, Repr

/-- Element formats with a fraction (R69, R72). -/
inductive Fmt | f32 | f16 | bf16 | e4m3 | e5m2 | e2m3 | e3m2 | q4 (t : Q4)
  deriving DecidableEq, Repr

/-- An exact value: a NaN (and whether it makes an operation invalid: a signalling source, or a result that is NaN from
sources that are not), an infinity, or ± num / den with den > 0. -/
inductive Ex
  | nan (invalid : Bool)
  | inf (neg : Bool)
  | fin (neg : Bool) (num den : Nat)
  deriving DecidableEq, Repr

/-- The flags of %fpx (R82). -/
abbrev Flags := BitVec 6

def fInvalid : Flags := 0x01
def fDivZero : Flags := 0x02
def fOverflow : Flags := 0x04
def fUnderflow : Flags := 0x08
def fInexact : Flags := 0x10
def fIsat : Flags := 0x20

/-- `f` if the condition holds, else no flag. -/
def flagIf (c : Bool) (f : Flags) : Flags := if c then f else 0

/-! ### Formats (R69) -/

/-- Bits of a code. -/
def Fmt.width : Fmt → Nat
  | .f32 => 32 | .f16 => 16 | .bf16 => 16 | .e4m3 => 8 | .e5m2 => 8 | .e2m3 => 6 | .e3m2 => 6 | .q4 _ => 4
/-- Bits of the fraction field. -/
def Fmt.frac : Fmt → Nat
  | .f32 => 23 | .f16 => 10 | .bf16 => 7 | .e4m3 => 3 | .e5m2 => 2 | .e2m3 => 3 | .e3m2 => 2 | .q4 _ => 0
def Fmt.bias : Fmt → Nat
  | .f32 => 127 | .f16 => 15 | .bf16 => 127 | .e4m3 => 7 | .e5m2 => 15 | .e2m3 => 1 | .e3m2 => 3 | .q4 _ => 0
/-- The code of the largest finite magnitude, without its sign. -/
def Fmt.maxCode : Fmt → Nat
  | .f32 => 0x7F7FFFFF | .f16 => 0x7BFF | .bf16 => 0x7F7F | .e4m3 => 0x7E | .e5m2 => 0x7B | .e2m3 => 0x1F | .e3m2 => 0x1F | .q4 _ => 7
/-- The canonical NaN (R78); the narrow formats have none. -/
def Fmt.nanCode : Fmt → Nat
  | .f32 => 0x7FC00000 | .f16 => 0x7E00 | .bf16 => 0x7FC0 | .e4m3 => 0x7F | .e5m2 => 0x7E | .e2m3 => 0 | .e3m2 => 0 | .q4 _ => 0
/-- The code of +infinity; the formats below e5m2 have none. -/
def Fmt.infCode : Fmt → Nat
  | .f32 => 0x7F800000 | .f16 => 0x7C00 | .bf16 => 0x7F80 | .e4m3 => 0x7F | .e5m2 => 0x7C | .e2m3 => 0x1F | .e3m2 => 0x1F | .q4 _ => 7
/-- f32, f16 and bf16: the formats that MODE.ftz flushes (R79). -/
def Fmt.wide : Fmt → Bool
  | .f32 | .f16 | .bf16 => true
  | .e4m3 | .e5m2 | .e2m3 | .e3m2 | .q4 _ => false
/-- f32, f16, bf16 and e5m2 have infinities. -/
def Fmt.hasInf : Fmt → Bool
  | .f32 | .f16 | .bf16 | .e5m2 => true
  | .e4m3 | .e2m3 | .e3m2 | .q4 _ => false
/-- e2m3, e3m2 and the 4-bit family: neither infinities nor NaNs. -/
def Fmt.narrow : Fmt → Bool
  | .e2m3 | .e3m2 | .q4 _ => true
  | .f32 | .f16 | .bf16 | .e4m3 | .e5m2 => false

/-- The sign bit of a code. -/
def Fmt.signBit (f : Fmt) : Nat := 2 ^ (f.width - 1)

/-- num × 2^e / den as a fraction. -/
def scale2 (neg : Bool) (num den : Nat) (e : Int) : Ex :=
  match e with
  | .ofNat n => .fin neg (num * 2 ^ n) den
  | .negSucc n => .fin neg num (den * 2 ^ (n + 1))

/-- Magnitudes of the sign-magnitude 4-bit types by m, in eighths (R72). -/
def Q4.eighths : Q4 → List Nat
  | .int => [0, 8, 16, 24, 32, 40, 48, 56]
  | .e2m1 => [0, 4, 8, 12, 16, 24, 32, 48]
  | .pow2 => [0, 1, 2, 4, 8, 16, 32, 64]
  | .hyb => [0, 8, 16, 24, 32, 64, 128, 256]

/-- The value of a 4-bit code (R72). -/
def Q4.decode (t : Q4) (c : Nat) : Ex :=
  let m := c % 8
  let neg := decide (c % 16 ≥ 8)
  match t with
  | .int => if neg then .fin true (16 - c % 16) 1 else .fin false m 1
  | .pow2 => .fin (neg && m != 0) (t.eighths.getD m 0) 8
  | .e2m1 | .hyb => .fin neg (t.eighths.getD m 0) 8

/-- decode_value of a code without a block (R69, R84). A NaN of f32, f16 or bf16 whose top fraction bit is 0 is signalling. -/
def Fmt.decode (f : Fmt) (code : Nat) : Ex :=
  match f with
  | .q4 t => t.decode code
  | _ =>
    let c := code % 2 ^ f.width
    let neg := decide (c ≥ f.signBit)
    let a := c % f.signBit
    let e := a / 2 ^ f.frac
    let m := a % 2 ^ f.frac
    if f.hasInf && a == f.infCode then .inf neg
    else if f.hasInf && decide (a > f.infCode) then .nan (f.wide && decide (m < 2 ^ (f.frac - 1)))
    else if f == .e4m3 && a == 0x7F then .nan false
    else if e = 0 then scale2 neg m 1 (1 - (f.bias : Int) - f.frac)
    else scale2 neg (2 ^ f.frac + m) 1 ((e : Int) - f.bias - f.frac)

/-- flush_source (R84): a subnormal code of f32, f16 or bf16 becomes zero of its sign. -/
def Fmt.flush (f : Fmt) (ftz : Bool) (code : Nat) : Nat :=
  if ftz && f.wide && decide (code % f.signBit < 2 ^ f.frac) then code / f.signBit % 2 * f.signBit else code

/-! ### Arithmetic on exact values -/

def Ex.neg : Ex → Ex
  | .nan i => .nan i
  | .inf n => .inf (!n)
  | .fin n a b => .fin (!n) a b

def Ex.isNan : Ex → Bool
  | .nan _ => true
  | .inf _ | .fin _ _ _ => false

def Ex.isNeg : Ex → Bool
  | .nan _ => false
  | .inf n => n
  | .fin n _ _ => n

def Ex.isZero : Ex → Bool
  | .fin _ a _ => a == 0
  | .nan _ | .inf _ => false

/-- The sum. A sum of exactly zero from operands that are not both −0 is +0, or −0 under RDN. Opposite infinities are invalid. -/
def Ex.add (rdn : Bool) : Ex → Ex → Ex
  | .nan i, .nan j => .nan (i || j)
  | .nan i, .inf _ => .nan i
  | .nan i, .fin _ _ _ => .nan i
  | .inf _, .nan i => .nan i
  | .fin _ _ _, .nan i => .nan i
  | .inf m, .inf n => if m == n then .inf m else .nan true
  | .inf m, .fin _ _ _ => .inf m
  | .fin _ _ _, .inf n => .inf n
  | .fin m a b, .fin n c d =>
    let x := a * d
    let y := c * b
    if m == n then .fin m (x + y) (b * d)
    else if x = y then .fin rdn 0 1
    else if x > y then .fin m (x - y) (b * d)
    else .fin n (y - x) (b * d)

/-- The product. Zero times infinity is invalid. -/
def Ex.mul : Ex → Ex → Ex
  | .nan i, .nan j => .nan (i || j)
  | .nan i, .inf _ => .nan i
  | .nan i, .fin _ _ _ => .nan i
  | .inf _, .nan i => .nan i
  | .fin _ _ _, .nan i => .nan i
  | .inf m, .inf n => .inf (m != n)
  | .inf m, .fin n c _ => if c = 0 then .nan true else .inf (m != n)
  | .fin m a _, .inf n => if a = 0 then .nan true else .inf (m != n)
  | .fin m a b, .fin n c d => .fin (m != n) (a * c) (b * d)

/-- x < y, for values that are not NaN. Zeros of either sign are equal. -/
def Ex.lt : Ex → Ex → Bool
  | .nan _, _ => false
  | _, .nan _ => false
  | .inf m, .inf n => m && !n
  | .inf m, .fin _ _ _ => m
  | .fin _ _ _, .inf n => !n
  | .fin m a b, .fin n c d =>
    match m, n with
    | false, false => decide (a * d < c * b)
    | true, true => decide (c * b < a * d)
    | true, false => decide (a ≠ 0 ∨ c ≠ 0)
    | false, true => false

/-- x = y, for values that are not NaN. -/
def Ex.eq (x y : Ex) : Bool := !x.isNan && !y.isNan && !x.lt y && !y.lt x

def Ex.ofInt (i : Int) : Ex := .fin (decide (i < 0)) i.natAbs 1

/-! ### Rounding (R76 to R79) -/

/-- MODE.rnd (R34). -/
inductive Rnd | rne | rz | rdn | rup
  deriving DecidableEq, Repr

def Rnd.ofBits : Nat → Rnd
  | 0 => .rne
  | 1 => .rz
  | 2 => .rdn
  | _ => .rup

/-- num / den rounded to a whole number, for a value of the given sign; a tie of RNE goes to the even one. -/
def roundNat (r : Rnd) (neg : Bool) (num den : Nat) : Nat :=
  let q := num / den
  let m := num % den
  let up := match r with
    | .rne => decide (2 * m > den) || (decide (2 * m = den) && q % 2 == 1)
    | .rz => false
    | .rdn => neg && decide (m ≠ 0)
    | .rup => !neg && decide (m ≠ 0)
  if up then q + 1 else q

/-- floor(log2(num / den)), for num > 0. -/
def log2Floor (num den : Nat) : Int :=
  let e : Int := (Nat.log2 num : Int) - Nat.log2 den
  match e with
  | .ofNat n => if den * 2 ^ n ≤ num then e else e - 1
  | .negSucc n => if den ≤ num * 2 ^ (n + 1) then e else e - 1

/-- num / den in units of 2^u, rounded; and whether that was exact. -/
def roundUnits (r : Rnd) (neg : Bool) (num den : Nat) (u : Int) : Nat × Bool :=
  match u with
  | .ofNat n => (roundNat r neg num (den * 2 ^ n), num % (den * 2 ^ n) == 0)
  | .negSucc n => (roundNat r neg (num * 2 ^ (n + 1)) den, num * 2 ^ (n + 1) % den == 0)

/-- The code of a magnitude with the exponent unbounded above; whether it is exact; whether it is tiny (R76, R79). -/
def Fmt.roundMag (f : Fmt) (r : Rnd) (neg : Bool) (num den : Nat) : Nat × Bool × Bool :=
  let e := log2Floor num den
  let emin : Int := 1 - (f.bias : Int)
  let ee := max e emin
  let u := ee - f.frac
  let (n, exact) := roundUnits r neg num den u
  let code := if n < 2 ^ f.frac then n else (ee + f.bias).toNat * 2 ^ f.frac + (n - 2 ^ f.frac)
  let tiny := decide (e < emin) &&
    !(decide (e = emin - 1) && (roundUnits r neg num den (e - f.frac)).1 == 2 ^ (f.frac + 1))
  (code, exact, tiny)

def Fmt.signed (f : Fmt) (neg : Bool) (mag : Nat) : Nat := if neg then mag + f.signBit else mag

/-- What a result that overflows becomes in f32, f16, bf16 and e5m2 (R77). -/
def overflowToInf (r : Rnd) (neg : Bool) : Bool :=
  match r with
  | .rne => true
  | .rz => false
  | .rdn => neg
  | .rup => !neg

/-- The largest m whose magnitude is at most num / den, from a list of magnitudes in eighths (R72). -/
def lastFit (num den : Nat) : List Nat → Nat → Nat → Nat
  | [], _, best => best
  | v :: vs, i, best => lastFit num den vs (i + 1) (if v * den ≤ num * 8 then i else best)

/-- A 4-bit code of ± num / den, within the type's range (R72, R76); and whether it is exact. -/
def Q4.round (t : Q4) (r : Rnd) (neg : Bool) (num den : Nat) : Nat × Bool :=
  match t with
  | .int =>
    let n := roundNat r neg num den
    (if neg then (16 - n) % 16 else n, num % den == 0)
  | .e2m1 | .pow2 | .hyb =>
    let m := lastFit num den t.eighths 0 0
    let lo := t.eighths.getD m 0
    let hi := t.eighths.getD (m + 1) lo
    let exact := lo * den == num * 8
    let up := if exact then false else match r with
      | .rne => decide (16 * num > (lo + hi) * den) || (decide (16 * num = (lo + hi) * den) && m % 2 == 1)
      | .rz => false
      | .rdn => neg
      | .rup => !neg
    let m' := if up then m + 1 else m
    (if m' = 0 then 0 else if neg then m' + 8 else m', exact)

/-- The end of a 4-bit type's range on the side of a sign, as a magnitude in eighths and as a code (R72, R77). -/
def Q4.bound (t : Q4) (neg : Bool) : Nat × Nat :=
  match t, neg with
  | .int, true => (64, 8)
  | .int, false => (56, 7)
  | .e2m1, true => (48, 15)
  | .e2m1, false => (48, 7)
  | .pow2, true => (64, 15)
  | .pow2, false => (64, 7)
  | .hyb, true => (256, 15)
  | .hyb, false => (256, 7)

/-- The end of a narrow format's range: magnitude as num / 8 or num / 16, and its code. -/
def Fmt.rangeEnd (f : Fmt) (neg : Bool) : Ex × Nat :=
  match f with
  | .q4 t => (.fin false (t.bound neg).1 8, (t.bound neg).2)
  | _ => (f.decode f.maxCode, f.signed neg f.maxCode)

/-- A finite nonzero value to its code and flags (R76, R77, R79). -/
def Fmt.encodeFin (f : Fmt) (r : Rnd) (sat ftz : Bool) (neg : Bool) (num den : Nat) : Nat × Flags :=
  match f with
  | .q4 t =>
    if (t.bound neg).1 * den < num * 8 then ((t.bound neg).2, fOverflow ||| fInexact)
    else
      let (c, exact) := t.round r neg num den
      (c, flagIf (!exact) fInexact ||| flagIf (c == 0) fUnderflow)
  | _ =>
    if f.narrow && (f.decode f.maxCode).lt (.fin false num den) then (f.signed neg f.maxCode, fOverflow ||| fInexact)
    else
      let (code, exact, tiny) := f.roundMag r neg num den
      if f.maxCode < code then
        (if sat then f.signed neg f.maxCode
         else if f.hasInf then (if overflowToInf r neg then f.signed neg f.infCode else f.signed neg f.maxCode)
         else f.nanCode, fOverflow ||| fInexact)
      else if ftz && f.wide && tiny then (f.signed neg 0, fUnderflow ||| fInexact)
      else (f.signed neg code, flagIf (!exact) fInexact ||| flagIf (tiny && !exact) fUnderflow)

/-- encode_value (R84): the code of an exact value and the flags it raises. An infinity into e2m3, e3m2 or the 4-bit family raises none, since the table of R77
names none there and an infinity is not rounded. DEDUCED, log entry 21. -/
def Fmt.encode (f : Fmt) (r : Rnd) (sat ftz : Bool) (x : Ex) : Nat × Flags :=
  match x with
  | .nan i => (f.nanCode, flagIf (i || f.narrow) fInvalid)
  | .inf neg =>
    if f.hasInf then (if sat then f.signed neg f.maxCode else f.signed neg f.infCode, 0)
    else if f == .e4m3 then (if sat then (f.signed neg f.maxCode, fOverflow) else (f.nanCode, fInvalid))
    else ((f.rangeEnd neg).2, 0)
  | .fin neg num den =>
    if num = 0 then (match f with | .q4 _ => 0 | _ => f.signed neg 0, 0) else f.encodeFin r sat ftz neg num den

/-! ### Integers (R68, R77) -/

/-- The range of an integer type of `w` bits. -/
def intLo (w : Nat) (sg : Bool) : Int := if sg then -(2 ^ (w - 1) : Int) else 0
def intHi (w : Nat) (sg : Bool) : Int := if sg then (2 ^ (w - 1) : Int) - 1 else (2 ^ w : Int) - 1

/-- int_result (R84): wrapped, or clamped with isat. The result is the element's bits. -/
def intResult (w : Nat) (sg sat : Bool) (x : Int) : Nat × Flags :=
  if sat then
    if x < intLo w sg then ((intLo w sg % (2 ^ w : Int)).toNat, fIsat)
    else if intHi w sg < x then ((intHi w sg % (2 ^ w : Int)).toNat, fIsat)
    else ((x % (2 ^ w : Int)).toNat, 0)
  else ((x % (2 ^ w : Int)).toNat, 0)

/-- A floating-point value to an integer type: rounded, with inexact where that changes it, then clamped with invalid (R76, R77, R117). A whole number
out of range raises invalid alone, as R117 has it. DEDUCED, log entry 21. -/
def intOfEx (w : Nat) (sg : Bool) (r : Rnd) (x : Ex) : Nat × Flags :=
  match x with
  | .nan _ => (0, fInvalid)
  | .inf neg => (((if neg then intLo w sg else intHi w sg) % (2 ^ w : Int)).toNat, fInvalid)
  | .fin neg num den =>
    let n : Int := if neg then -(roundNat r neg num den : Int) else roundNat r neg num den
    let fl := flagIf (num % den != 0) fInexact
    if n < intLo w sg then ((intLo w sg % (2 ^ w : Int)).toNat, fInvalid ||| fl)
    else if intHi w sg < n then ((intHi w sg % (2 ^ w : Int)).toNat, fInvalid ||| fl)
    else ((n % (2 ^ w : Int)).toNat, fl)

/-- The bits of an element read as an integer. -/
def intOfBits (w : Nat) (sg : Bool) (n : Nat) : Int :=
  let m := n % 2 ^ w
  if sg && decide (m ≥ 2 ^ (w - 1)) then (m : Int) - 2 ^ w else m

/-! ### Format slots and scale entries (R74, R75) -/

def slotFmtCode (s : BitVec 64) : Nat := (s.extractLsb' 0 4).toNat
def slotValid (s : BitVec 64) : Bool := s.getLsbD 4
def slotScales (s : BitVec 64) : Bool := s.getLsbD 5
def slotQtype (s : BitVec 64) : Nat := (s.extractLsb' 6 2).toNat
def slotTuse (s : BitVec 64) : Bool := s.getLsbD 8
def slotBlen (s : BitVec 64) : Nat := (s.extractLsb' 9 7).toNat
def slotPack (s : BitVec 64) : Bool := s.getLsbD 16
def slotScbase (s : BitVec 64) : Nat := (s.extractLsb' 32 17).toNat

/-- Whether a slot is accepted (R75). -/
def slotAccepted (s : BitVec 64) : Bool :=
  let f := slotFmtCode s
  slotValid s && (s.extractLsb' 17 15).toNat == 0 && (s.extractLsb' 49 15).toNat == 0 &&
  (f == 0 || decide (f ≥ 8)) && slotBlen s == 32 &&
  !(slotScales s && (f == 0 || f == 8 || f == 9 || f == 10)) &&
  !(slotPack s && !(f == 0xD || f == 0xE || f == 0xF))

/-- A 4-bit type of its code (R72, R74). -/
def Q4.ofBits : Nat → Q4
  | 0 => .int
  | 1 => .e2m1
  | 2 => .pow2
  | _ => .hyb

/-- The floating-point format of a code of R35 or R75 (0x8 to 0xE); with 0xF, the 4-bit family of the given type. -/
def fmtOfCode (c : Nat) (t4 : Q4) : Option Fmt :=
  match c with
  | 0x8 => some .f16
  | 0x9 => some .bf16
  | 0xA => some .f32
  | 0xB => some .e4m3
  | 0xC => some .e5m2
  | 0xD => some .e2m3
  | 0xE => some .e3m2
  | 0xF => some (.q4 t4)
  | _ => none

/-- The 4-bit type that a block of a slot uses (R75, R84). -/
def slotQ4 (s : BitVec 64) (entry : BitVec 16) : Q4 :=
  if slotTuse s then Q4.ofBits (entry.extractLsb' 8 2).toNat else Q4.ofBits (slotQtype s)

/-- decode_value through a slot (R84); an i8 element is an integer. -/
def slotDecode (s : BitVec 64) (entry : BitVec 16) (c : Nat) : Ex :=
  match fmtOfCode (slotFmtCode s) (slotQ4 s entry) with
  | some f => f.decode c
  | none => Ex.ofInt (intOfBits 8 true c)

/-- scale_value (R74, R84): NaN when negative or NaN. A negative entry counts as a quiet NaN and raises no flag (R82, R119). DEDUCED, log entry 21. -/
def scaleValue (s : BitVec 64) (entry : BitVec 16) : Ex :=
  if slotScales s then
    let e := (entry.extractLsb' 0 8).toNat
    if e ≥ 0x80 then .nan false else Fmt.e4m3.decode e
  else .fin false 1 1

/-- Bits of an element in a slot's format. -/
def slotWidth (s : BitVec 64) : Nat :=
  match slotFmtCode s with
  | 0 => 8
  | 0x8 | 0x9 => 16
  | 0xA => 32
  | 0xB | 0xC => 8
  | 0xD | 0xE => 6
  | _ => 4

/-! ### Quantising a block (R80) -/

/-- qmax, in eighths (R80, R84). -/
def Fmt.qmaxEighths : Fmt → Nat
  | .e4m3 => 448 * 8
  | .e5m2 => 57344 * 8
  | .e2m3 => 60
  | .e3m2 => 28 * 8
  | .q4 .int => 56
  | .q4 .e2m1 => 48
  | .q4 .pow2 => 64
  | .q4 .hyb => 256
  | .f32 | .f16 | .bf16 => 8

/-- The 4-bit type bits that a scale entry carries: 0 but for the 4-bit family. -/
def Fmt.entryBits : Fmt → Nat
  | .q4 .int => 0
  | .q4 .e2m1 => 0x100
  | .q4 .pow2 => 0x200
  | .q4 .hyb => 0x300
  | .f32 | .f16 | .bf16 | .e4m3 | .e5m2 | .e2m3 | .e3m2 => 0

def Ex.abs : Ex → Ex
  | .nan i => .nan i
  | .inf _ => .inf false
  | .fin _ a b => .fin false a b

/-- x / q, for a finite q > 0. -/
def Ex.divFin (x : Ex) (qn qd : Nat) : Ex :=
  match x with
  | .nan i => .nan i
  | .inf n => .inf n
  | .fin n a b => .fin n (a * qd) (b * qn)

/-- The smallest e4m3 code from `c` up whose value is at least num / den, looking at `k` codes. -/
def leastE4m3 (num den : Nat) : Nat → Nat → Option Nat
  | 0, _ => none
  | k + 1, c =>
    match Fmt.e4m3.decode c with
    | .fin _ a b => if num * b ≤ a * den then some c else leastE4m3 num den k (c + 1)
    | .nan _ | .inf _ => none

/-- quantise_block (R80): each element's code with the flags that its conversion raises, the scale entry, and the flags that
the block raises as a whole. DEDUCED, log entry 21. -/
def quantiseBlock (xs : List Ex) (f : Fmt) (r : Rnd) : List (Nat × Flags) × BitVec 16 × Flags :=
  if xs.any Ex.isNan then (xs.map fun _ => (0, 0), BitVec.ofNat 16 (f.entryBits + 0x7F), fInvalid)
  else
    let amax := xs.foldl (fun m x => if m.lt x.abs then x.abs else m) (Ex.fin false 0 1)
    if amax.isZero then (xs.map fun _ => (0, 0), BitVec.ofNat 16 f.entryBits, 0)
    else
      let (qc, fl) : Nat × Flags := match amax with
        | .fin _ a b =>
          match leastE4m3 (a * 8) (b * f.qmaxEighths) 0x7F 0 with
          | some c => (c, 0)
          | none => (0x7E, fOverflow)
        | .nan _ | .inf _ => (0x7E, fOverflow)
      let (qn, qd) : Nat × Nat := match Fmt.e4m3.decode qc with
        | .fin _ a b => (a, b)
        | .nan _ | .inf _ => (448, 1)
      (xs.map fun x => f.encode r true false (x.divFin qn qd), BitVec.ofNat 16 (f.entryBits + qc), fl)

/-! ### Matrix accumulation (R81) -/

/-- The exact sum of the products of two blocks, from +0. -/
def dotExact (sa sb : BitVec 64) (ea eb : BitVec 16) : List (Nat × Nat) → Ex
  | [] => .fin false 0 1
  | (a, b) :: rest => Ex.add false (Ex.mul (slotDecode sa ea a) (slotDecode sb eb b)) (dotExact sa sb ea eb rest)

/-- Zero is +0 (R81). -/
def Ex.posZero (x : Ex) : Ex := if x.isZero then .fin false 0 1 else x

/-- kblock_accumulate (R81, R84): the new accumulator element; and whether an int32 sum wrapped. -/
def kblockAccumulate (acc : W32) (ab : List (Nat × Nat)) (sa sb : BitVec 64) (ea eb : BitVec 16) : W32 × Bool :=
  if slotFmtCode sa = 0 then
    let s : Int := ab.foldl (fun t p => t + intOfBits 8 true p.1 * intOfBits 8 true p.2) acc.toInt
    (BitVec.ofInt 32 s, decide (s < -(2 ^ 31 : Int)) || decide ((2 ^ 31 : Int) ≤ s))
  else
    let s := Ex.posZero (Ex.mul (Ex.mul (dotExact sa sb ea eb ab) (scaleValue sa ea)) (scaleValue sb eb))
    let t := (Fmt.f32.encode .rne false false s).1
    (BitVec.ofNat 32 (Fmt.f32.encode .rne false false (Ex.add false (Fmt.f32.decode acc.toNat) (Fmt.f32.decode t))).1, false)

end Sys2Proof.Machine
end

