-- ==== Sys2Proof/Machine/Special.lean ====
section
/-! DEFINITION. The special functions' exact values, each to within 2^-85 of itself or better, and the codes that lie within a bound of such a value (R112,
R113). -/

namespace Sys2Proof.Machine

/-- The special functions, by number. -/
inductive Special | rcp | rsq | sqrt | exp2 | log2 | sin | cos | tanh | erf | sigm
  deriving DecidableEq, Repr

def Special.num : Special → Nat
  | .rcp => 0 | .rsq => 1 | .sqrt => 2 | .exp2 => 3 | .log2 => 4 | .sin => 5 | .cos => 6 | .tanh => 7 | .erf => 8 | .sigm => 9

/-- The integer square root, from its highest bit down. -/
def isqrtFrom : Nat → Nat → Nat → Nat
  | 0, _, r => r
  | k + 1, n, r => if (r + 2 ^ k) * (r + 2 ^ k) ≤ n then isqrtFrom k n (r + 2 ^ k) else isqrtFrom k n r

/-- √(num / den): exact where it is rational with these terms; else a value strictly between the same neighbours at 200 bits
below the denominator, which rounds as the exact one does in every format and mode. -/
def sqrtEx (num den : Nat) : Ex :=
  let n := num * den * 4 ^ 200
  let q := isqrtFrom (Nat.log2 n / 2 + 1) n 0
  if q * q = n then .fin false q (den * 2 ^ 200) else .fin false (2 * q + 1) (den * 2 ^ 201)

/-- num / den = 2^e, if it is a power of two. -/
def powerOfTwo (num den : Nat) : Option Int :=
  let e := log2Floor num den
  let same := match e with
    | .ofNat n => num == den * 2 ^ n
    | .negSucc n => num * 2 ^ (n + 1) == den
  if same then some e else none

/-! ### Fixed point: an integer stands for itself over 2^400 -/

def fxOne : Int := 2 ^ 400
def fxMul (a b : Int) : Int := a * b / 2 ^ 400
def fxDiv (a b : Int) : Int := a * 2 ^ 400 / b
/-- ± num / den, its size held to at most `top`. -/
def fxOf (neg : Bool) (num den top : Nat) : Int :=
  let v : Int := if top * den < num then top * 2 ^ 400 else num * 2 ^ 400 / den
  if neg then -v else v
/-- The value of a number in fixed point. -/
def fxEx (v : Int) : Ex := .fin (decide (v < 0)) v.natAbs (2 ^ 400)

/-- The sum of `n` terms, from the term `t` with number `k` on, each following term made from the one before. -/
def fxSum (next : Nat → Int → Int) (part : Nat → Int → Int) : Nat → Nat → Int → Int
  | 0, _, _ => 0
  | n + 1, k, t => part k t + fxSum next part n (k + 1) (next k t)

/-- artanh z, for |z| ≤ 1/3. -/
def fxAtanh (z : Int) : Int := fxSum (fun _ t => fxMul (fxMul t z) z) (fun k t => t / (2 * k + 1)) 130 0 z
/-- arctan (1 / n). -/
def fxArctan (n : Nat) : Int := fxSum (fun _ t => -t / (n * n)) (fun k t => t / (2 * k + 1)) 180 0 (fxOne / n)
def fxLn2 : Int := 2 * fxAtanh (fxOne / 3)
def fxPi : Int := 16 * fxArctan 5 - 4 * fxArctan 239

/-- e^y, for 0 ≤ y < 1. -/
def fxExp (y : Int) : Int := fxSum (fun k t => fxMul t y / (k + 1)) (fun _ t => t) 90 0 fxOne
/-- 2^y, for any y. -/
def exp2Ex (y : Int) : Ex := scale2 false (fxExp (fxMul (y % 2 ^ 400) fxLn2)).toNat (2 ^ 400) (y / 2 ^ 400)
/-- e^-y, for 0 ≤ y ≤ 200. -/
def fxExpNeg (y : Int) : Int :=
  let z := fxDiv (-y) fxLn2
  fxExp (fxMul (z % 2 ^ 400) fxLn2) / 2 ^ (-(z / 2 ^ 400)).toNat

/-- log2 of p / q. -/
def log2Ex (p q : Nat) : Ex :=
  let e := log2Floor p q
  match scale2 false p q (-e) with
  | .fin _ a b =>
    let m := fxOf false a b 2
    fxEx (e * fxOne + fxDiv (2 * fxAtanh (fxDiv (m - fxOne) (m + fxOne))) fxLn2)
  | .inf _ | .nan _ => .nan false

/-- 1 / x and 1 / √x, where they are finite. -/
def rcpEx : Ex → Ex
  | .fin n p q => if p = 0 then .nan false else .fin n q p
  | .inf _ | .nan _ => .nan false
def rsqEx : Ex → Ex
  | .fin n p q => if p = 0 ∨ n = true then .nan false else sqrtEx q p
  | .inf _ | .nan _ => .nan false

/-- An angle less whole turns. -/
def fxTurn (neg : Bool) (num den : Nat) : Int :=
  let x : Int := num * 2 ^ 400 / den
  (if neg then -x else x) % (2 * fxPi)
def fxCircle (k0 : Nat) (first r : Int) : Int :=
  fxSum (fun k t => -(fxMul (fxMul t r) r / ((2 * k + 1 + k0) * (2 * k + 2 + k0)))) (fun _ t => t) 90 0 first
def sinEx (neg : Bool) (num den : Nat) : Ex := fxEx (fxCircle 1 (fxTurn neg num den) (fxTurn neg num den))
def cosEx (neg : Bool) (num den : Nat) : Ex := fxEx (fxCircle 0 fxOne (fxTurn neg num den))
def tanhEx (neg : Bool) (num den : Nat) : Ex :=
  let t := fxExpNeg (2 * fxOf false num den 90)
  fxEx (if neg then -fxDiv (fxOne - t) (fxOne + t) else fxDiv (fxOne - t) (fxOne + t))
/-- erf x; past 8 it is 1 to within 2^-95. -/
def erfEx (neg : Bool) (num den : Nat) : Ex :=
  let x := fxOf false num den 8
  let s := fxSum (fun k t => -(fxMul (fxMul t x) x / (k + 1))) (fun k t => t / (2 * k + 1)) 320 0 x
  let root : Int := isqrtFrom 403 (fxPi * fxOne).toNat 0
  let v := if x = 8 * fxOne then fxOne else fxDiv (2 * s) root
  fxEx (if neg then -v else v)
def sigmEx (neg : Bool) (num den : Nat) : Ex :=
  let t := fxExpNeg (fxOf false num den 200)
  fxEx (if neg then fxDiv t (fxOne + t) else fxDiv fxOne (fxOne + t))

/-- A function of a finite number's sign and terms, as one of values. -/
def Ex.apply (g : Bool → Nat → Nat → Ex) : Ex → Ex
  | .fin n p q => g n p q
  | .inf _ | .nan _ => .nan false

/-- A value that no code equals, told from the fixed-point number beside it: less by 2^-90 of itself. -/
def Ex.beside (x : Ex) : Ex := Ex.mul x (.fin false (2 ^ 90 - 1) (2 ^ 90))

/-! ### The codes within a bound of a value (R113) -/

/-- A code's place in the order of values: −1 for the first below 0, 1 for the first above, an infinity one past the largest finite value. -/
def Fmt.placeOf (f : Fmt) (c : Nat) : Int := if f.signBit ≤ c then -((c - f.signBit : Nat) : Int) else c
/-- The place of the first code that is not less than a value; the infinity's, for a value past the largest finite one, which overflows (R77). -/
def Fmt.placeAbove (f : Fmt) (x : Ex) : Int :=
  if x.lt (f.decode f.maxCode).neg then -(f.maxCode + 1) else f.placeOf (f.encode .rup false false x).1
/-- The place of the last code that is not greater than a value; likewise past the largest finite one. -/
def Fmt.placeBelow (f : Fmt) (x : Ex) : Int :=
  if (f.decode f.maxCode).lt x then f.maxCode + 1 else f.placeOf (f.encode .rdn false false x).1
/-- The value at a place; one that overflows, for an infinity's place. -/
def Fmt.atPlace (f : Fmt) (v : Int) : Ex :=
  if f.maxCode < v.natAbs then .fin (decide (v < 0)) (2 ^ 200) 1 else f.decode (f.signed (decide (v < 0)) v.natAbs)

/-- n units in the last place of num / den in a format, and 2^-40 of one more for what the fixed point drops. -/
def Fmt.ulps (f : Fmt) (n num den : Nat) : Ex :=
  scale2 false (n * 2 ^ 40 + 1) 1 (max (log2Floor num den) (1 - (f.bias : Int)) - f.frac - 40)
/-- The bound of `n` units in the last place of a value (R113). -/
def Fmt.ulpsOf (f : Fmt) (n : Nat) (x : Ex) : Ex :=
  match x with
  | .fin _ p q => f.ulps n p q
  | .inf _ | .nan _ => .fin false 0 1

/-- The place of a value rounded to nearest. -/
def Fmt.placeNearest (f : Fmt) (x : Ex) : Int := f.placeOf (f.encode .rne false false x).1

/-- The first and the last place within `bound` of a value and between two places; where the bound holds no code, the nearest (R113). DESIGN CHOICE, log
entry 20. -/
def placesNear (f : Fmt) (x bound : Ex) (least most : Int) : Int × Int :=
  let lo := max least (f.placeAbove (Ex.add false x bound.neg))
  let hi := min most (f.placeBelow (Ex.add false x bound))
  if hi < lo then (f.placeNearest x, f.placeNearest x) else (lo, hi)

/-- The least size within n units of a value's last place that a function may take there if it rises with its inputs, where that is more than the bound itself
gives: just above a power of two, the size allowed at the last input below it, whose units are half as large (R113). `near j` is the value at the j-th input on
the side of smaller sizes; eight are looked at, beyond which the inputs lie so close that the power of two itself stands for the last one. -/
def Fmt.steadyFloor (f : Fmt) (n : Nat) (near : Nat → Ex) (y : Ex) : Option Ex :=
  match y with
  | .inf _ | .nan _ => none
  | .fin _ p q =>
    let edge := scale2 false 1 1 (log2Floor p q)
    let least (v u : Ex) := Ex.add false v.abs (f.ulpsOf n u).neg
    let under := least edge (.fin false p (2 * q))
    if p != 0 && (least y y).lt under then
      some (((List.range 8).findSome? fun j => let z := near (j + 1); if z.abs.lt edge then some (least z z) else none).getD under)
    else none

/-- The first and the last place within n units of the last place of `g` at an input's place, for a function that rises (or falls) with its input and keeps to its
bound at every input. -/
def placesSteady (f : Fmt) (n : Nat) (rises : Bool) (g : Ex → Ex) (x0 least most : Int) (y : Ex) : Int × Int :=
  let near (j : Nat) := g (f.atPlace (x0 + if rises == y.isNeg then (j : Int) else -(j : Int)))
  match f.steadyFloor n near y with
  | none => placesNear f y (f.ulpsOf n y) least most
  | some m =>
    if y.isNeg then placesNear f y (f.ulpsOf n y) least (min most (-(f.placeAbove m))) else placesNear f y (f.ulpsOf n y) (max least (f.placeAbove m)) most

/-- The place that `right` leads to: at each halving of the places from `a` up, whether the result lies in the upper half. -/
def descend (right : Int → Bool) : Nat → Int → Int
  | 0, a => a
  | n + 1, a => if right (a + 2 ^ n) then descend right n (a + 2 ^ n) else descend right n a

/-- The place that a function takes within `w` at the input place `x`: it has reached place m from the input `cut m` on, or until there where the function
falls. Any function that rises (or falls) with its input and stays within its bounds is one of these, and each of these rises (or falls).
DESIGN CHOICE, log entry 20. -/
def curvePlace (w : Int × Int) (rises : Bool) (cut : Int → Int) (x : Int) : Int :=
  descend (fun m => decide (m ≤ w.1) || (decide (m ≤ w.2) && (if rises then decide (cut m ≤ x) else decide (x ≤ cut m)))) 33 (-(2 ^ 32))

/-- The code at a place, as a result whose exact value is `x`: the flags are those of rounding a value beside that code, toward x (R77, R79, R112). -/
def codeAt (f : Fmt) (sat ftz : Bool) (x : Ex) (v : Int) : Nat × Flags :=
  f.encode .rne sat ftz (Ex.add false (Ex.mul (f.atPlace v) (.fin false (2 ^ 60 - 1) (2 ^ 60))) (Ex.mul x (.fin false 1 (2 ^ 60))))

/-- The intervals between the extremes of sine and cosine: the number of the one that holds an angle (0 for the one at 0 or just above). -/
def sinBranch (neg : Bool) (num den : Nat) : Int :=
  let x : Int := num * 2 ^ 400 / den
  (2 * (if neg then -x else x) + fxPi) / (2 * fxPi)
def cosBranch (neg : Bool) (num den : Nat) : Int :=
  let x : Int := num * 2 ^ 400 / den
  (if neg then -x else x) / fxPi

end Sys2Proof.Machine
end

