-- ==== Sys2Proof/Syntax.lean ====
section
/-! DEFINITION. The instructions of the Chasol: one constructor for each row of spec/opcode_table.json.
The rows with a word come first, in the table's order; the rows without one are the part's own events
(spec/95_what_each_step_holds.md), each whole and indivisible.
Register fields are register numbers; WellFormed holds their bounds. -/

namespace Sys2Proof

/-- Condition of BR.cc, in the sd field (R50). -/
inductive BrCond | z | nz | lz | gez
  deriving DecidableEq, Repr

/-- Condition of VCMP.cc (R107). -/
inductive CmpCond | eq | ne | lt | le
  deriving DecidableEq, Repr

/-- Condition of VFCMP.cc (R111). -/
inductive FcmpCond | eq | ne | lt | le | un
  deriving DecidableEq, Repr

/-- The half that VUNPK widens (R120). -/
inductive Half | lo | hi
  deriving DecidableEq, Repr

/-- Kind of VSHFL (R126). -/
inductive ShflKind | xor | up | down
  deriving DecidableEq, Repr

/-- Operation of VRED and VSCAN (R128, R129), and of ALLRED (R292). -/
inductive RedOp | sum | min | max
  deriving DecidableEq, Repr

/-- Operation of ATOM, RED, ATOMT and REDT (R55). -/
inductive AtomOp | add | min | max | and | or | xor | exch | cas | fadd
  deriving DecidableEq, Repr

/-- Condition of WAIT.cc, and of WAITSIG packets and graph nodes (R56, R301). -/
inductive WaitCond | eq | ne | lt | ge | ltN | geN
  deriving DecidableEq, Repr

/-- Access size of SLD and SST (R54). -/
inductive Width | b | h | w | d
  deriving DecidableEq, Repr

/-- Binding of COPY (R278). -/
inductive Binding | none | gate | channel
  deriving DecidableEq, Repr

/-- What a leaf-entry change writes: node entries the service processor adds at nominal physical addresses, the leaf of
the page of `va` at level `lvl` (0, 1 or 2), whether its blocks are uncompressible-IO (R177), and, for a replicated page,
the frame of each other die's replica (R138, R216). DESIGN CHOICE, log entry 46. -/
structure LeafMap where
  ctx      : Nat
  va       : W64
  lvl      : Nat
  entry    : W64
  nodes    : List (Nat × W64)
  uio      : Bool
  replicas : List (Nat × Nat)
  deriving DecidableEq, Repr

/-- What the driver gives for a new context (R297, R17, R335). `promise = none`: ceil(quota / 128) pages. -/
structure CtxSpec where
  num      : Nat
  quota    : Nat
  promise  : Option Nat
  prio     : Nat
  root     : Nat
  trapbase : W64
  logbase  : W64
  logExp   : Nat
  shared   : Bool
  deriving DecidableEq, Repr

/-- What the driver gives for a new host queue (R299). -/
structure QueueSpec where
  num  : Nat
  ctx  : Nat
  base : W64
  exp  : Nat
  rix  : W64
  deriving DecidableEq, Repr

/-- One member of a collective group (R355). -/
structure Member where
  module : Nat
  ctx    : Nat
  rank   : Nat
  deriving DecidableEq, Repr

/-- A collective group that system software defines (R355). -/
structure GroupSpec where
  handle  : Nat
  members : List Member
  deriving DecidableEq, Repr

/-- A boot image as module flash holds it (R359, R360): `health` are the thresholds of R362, by kind of part; `sig` is none for the vendor's own signature
over the content (log entry 59). -/
structure BootImage where
  version : Nat
  masks   : List (List (BitVec 21))
  timeout : Nat
  health  : List Nat
  power   : Nat
  body    : List Byte
  sig     : Option (List Byte)
  deriving DecidableEq, Repr

/-- A repair map as module flash holds it: its sequence number, the core as fabricated that stands for each number of each die, the cores of each die that a
spare has replaced, the other parts that spares replace, and its signature, none for the security block's own over the content (R360, R361; log entry 59). -/
structure RepairMap where
  seq      : Nat
  cores    : List (List Nat)
  retired  : List (List Nat)
  llcSets  : List Nat
  bonds    : List Nat
  serdes   : List Nat
  rows     : List Nat
  channels : List Nat
  sig      : Option (List Byte)
  deriving DecidableEq, Repr

/-- An image that Write image puts into flash (R364). -/
inductive Image
  | boot (b : BootImage)
  | map (m : RepairMap)
  deriving DecidableEq, Repr

/-- A part that the service processor keeps a health counter for (R362), by its number. -/
inductive Part
  | core (die n : Nat)
  | llcSet (n : Nat)
  | bond (n : Nat)
  | row (n : Nat)
  | serdes (n : Nat)
  | channel (n : Nat)
  deriving DecidableEq, Repr

/-- Errors that a part has shown (R362): how many, corrected soft errors or repair retries. -/
structure PartErrors where
  part  : Part
  retry : Bool
  count : Nat
  deriving DecidableEq, Repr

/-- The instructions and events of the Chasol. -/
inductive Instr
  -- scalar ALU group, R88
  | sadd (d a b : Nat)
  | ssub (d a b : Nat)
  | smul (d a b : Nat)
  | smulh (d a b : Nat)
  | smulhN (d a b : Nat)
  | sdiv (d a b : Nat)
  | sdivN (d a b : Nat)
  | srem (d a b : Nat)
  | sremN (d a b : Nat)
  | sand (d a b : Nat)
  | sor (d a b : Nat)
  | sxor (d a b : Nat)
  | sshl (d a b : Nat)
  | sshr (d a b : Nat)
  | ssra (d a b : Nat)
  | smin (d a b : Nat)
  | sminN (d a b : Nat)
  | smax (d a b : Nat)
  | smaxN (d a b : Nat)
  | sslt (d a b : Nat)
  | ssltn (d a b : Nat)
  | ssel (d a b : Nat)
  -- immediates, R89, R90
  | saddi (d a : Nat) (i : BitVec 13)
  | sandi (d a : Nat) (i : BitVec 13)
  | sori (d a : Nat) (i : BitVec 13)
  | sxori (d a : Nat) (i : BitVec 13)
  | sshli (d a : Nat) (n : BitVec 6)
  | slui (d : Nat) (i : BitVec 19)
  -- special registers and lane moves, R91 to R93
  | srd (d n : Nat)
  | swr (a n : Nat)
  | smovv (d s : Nat)
  | smovvLane (d : Nat)
  | smovvTlane (d : Nat)
  | vrdl (d a l : Nat)
  -- branches and control, R94 to R100
  | br (i : BitVec 22)
  | brCc (c : BrCond) (a : Nat) (i : BitVec 13)
  | bany (p : Nat) (i : BitVec 22)
  | ball (p : Nat) (i : BitVec 22)
  | bnone (p : Nat) (i : BitVec 22)
  | call (i : BitVec 22)
  | nop
  | ret
  | jmpr (a : Nat)
  | regang
  | exit
  | mode (i : BitVec 16)
  | moder (a : Nat)
  -- integer group, R104
  | vadd (d a b : Nat)
  | vsub (d a b : Nat)
  | vmul (d a b : Nat)
  | vmulh (d a b : Nat)
  | vmad (d a b : Nat)
  | vmin (d a b : Nat)
  | vmax (d a b : Nat)
  | vand (d a b : Nat)
  | vor (d a b : Nat)
  | vxor (d a b : Nat)
  | vshl (d a b : Nat)
  | vshr (d a b : Nat)
  | vabs (d a : Nat)
  | vneg (d a : Nat)
  | vnot (d a : Nat)
  | vsel (d a b p : Nat)
  | vcmp (c : CmpCond) (p a b : Nat)
  | vaddi (d a : Nat) (i : BitVec 11)
  | vmovi (d : Nat) (i : BitVec 18)
  -- float group, R109 to R111
  | vfadd (d a b : Nat)
  | vfsub (d a b : Nat)
  | vfmul (d a b : Nat)
  | vfma (d a b : Nat)
  | vfmin (d a b : Nat)
  | vfmax (d a b : Nat)
  | vfabs (d a : Nat)
  | vfneg (d a : Nat)
  | vfcmp (c : FcmpCond) (p a b : Nat)
  -- special functions, R112
  | vrcp (d a l : Nat)
  | vrsq (d a l : Nat)
  | vsqrt (d a l : Nat)
  | vexp2 (d a l : Nat)
  | vlog2 (d a l : Nat)
  | vsin (d a l : Nat)
  | vcos (d a l : Nat)
  -- predicate group, R115
  | pand (d a b : Nat)
  | por (d a b : Nat)
  | pxor (d a b : Nat)
  | pnot (d a : Nat)
  | pset (d s : Nat)
  -- conversion, R116 to R121
  | vcvt (d a k : Nat) (t : BitVec 4) (l : Nat)
  | vqnt (d a k l : Nat)
  | vdqnt (d a b k : Nat)
  | vpack (d a b : Nat)
  | vunpk (h : Half) (d a : Nat)
  | vclass (d a : Nat)
  -- cross-lane, R124 to R130
  | vperm (d a b : Nat)
  | vbperm (d a b : Nat)
  | vslide (d a b n : Nat)
  | vshfl (k : ShflKind) (d a m : Nat)
  | vbcast (d a m : Nat)
  | vred (o : RedOp) (d a : Nat)
  | vscan (o : RedOp) (d a : Nat)
  | vballot (d p : Nat)
  | vcount (d p : Nat)
  -- loads and stores, R143 to R145
  | vld (t x b : Nat) (dbl : Bool) (l : Nat)
  | vst (t x b : Nat) (dbl : Bool) (l : Nat)
  | vldc (t b : Nat) (dbl : Bool) (o : BitVec 10)
  | vstc (t b : Nat) (dbl : Bool) (o : BitVec 10)
  | sld (d b : Nat) (w : Width) (o : BitVec 10)
  | sst (d b : Nat) (w : Width) (o : BitVec 10)
  | tld (t x b : Nat) (dbl : Bool) (l : Nat)
  | tst (t x b : Nat) (dbl : Bool) (l : Nat)
  | pref (b : Nat) (o : BitVec 10)
  -- maintenance and diagnostics, R154, R155
  | cwb (a b : Nat)
  | cinv (a b : Nat)
  | cdisc (a b : Nat)
  | rdnpa (d a : Nat)
  -- atomics, R225
  | atom (o : AtomOp) (t x b : Nat) (dbl : Bool)
  | red (o : AtomOp) (t x b : Nat) (dbl : Bool)
  | atomt (o : AtomOp) (t x b : Nat) (dbl : Bool)
  | redt (o : AtomOp) (t x b : Nat) (dbl : Bool)
  -- waiting, barriers, gates, channels, R232 to R240
  | wait (c : WaitCond) (a b : Nat)
  | bar (n : Nat)
  | ginit (a b : Nat)
  | gexpect (a b : Nat)
  | garrive (a : Nat)
  | gwait (p a b : Nat)
  | chacq (d a : Nat)
  | chacqNb (d a : Nat)
  | chpub (a : Nat)
  | chtake (d a : Nat)
  | chtakeNb (d a : Nat)
  | chfree (a : Nat)
  -- speculation and capacity, R213, R214, R190
  | cmit
  | specrd (d s : Nat)
  | rsvrd (d : Nat)
  | rsvpin (a b : Nat)
  | rsvunpin (a b : Nat)
  | forfeit (d a b : Nat)
  | balrd (d : Nat)
  | balack (a b : Nat)
  | czero (a b : Nat)
  | csize (blk : Bool) (d a : Nat)
  -- matrix, R262 to R274
  | mloop (d fa fb t : Nat) (ka : Bool) (l : Nat)
  | mzero (t : Nat)
  | mwait
  | mrd (d s t l : Nat)
  | mwr (d s t l : Nat)
  | mdrain (d t : Nat)
  | mscl (a b n : Nat)
  -- engines, R276 to R293
  | copy (f : Binding) (d a b : Nat)
  | cwait (a : Nat)
  | cseq (d : Nat)
  | allred (d a : Nat)
  | repsync (d a b : Nat)
  | cspill (d : Nat)
  -- launches and system, R314, R330, R331, R63, R46, R338, R337, R222
  | launchN (a : Nat)
  | launchT (a : Nat)
  | graphgo (a : Nat)
  | signal (d a : Nat)
  | trap (n : Nat)
  | brk (n : Nat)
  | rte
  | rdcap (d n : Nat)
  | csrr (d n : Nat)
  | csrw (a n : Nat)
  | pcrd (d n : Nat)
  | logrd (d n : Nat)
  | fenceio
  -- extensions, R131, R132
  | vtanh (d a l : Nat)
  | verf (d a l : Nat)
  | vsigm (d a l : Nat)
  | vpopc (d a l : Nat)
  | vclz (d a l : Nat)
  | vbrev (d a l : Nat)
  -- events of a slice: words that are no instruction, chunks, waits
  | extensionEmulation (w : W32)
  | illegalInstruction (w : W32) (sub : Nat)
  | chunkCommit (t k : Nat)
  | rollback (t k : Nat)
  | levelChange (t k : Nat)
  | regangTimeout (t home : Nat) (pc : W64)
  | faultAnswer (die seq : Nat) (map : Option LeafMap)
  | waitWake (t k : Nat)
  | gwaitWake (t k : Nat)
  | channelWake (t k : Nat)
  | cwaitWake (t k : Nat)
  | mwaitWake (t k : Nat)
  -- events of engines and sequencers; `i` is a position in the queue or the list of accesses left
  | engineComplete (e : Nat)
  | spillReplay (die i : Nat)
  | allredRound (g : Nat) (seq : W64)
  | kStep (t i : Nat)
  | drain (t i : Nat)
  | matrixCommandPerform (t i : Nat)
  -- events of the memory system; lines are NPA >> 7, blocks NPA >> 12
  | writeBack (line : Nat)
  | anteRefill (die s : Nat)
  | rowCapture (die : Nat) (lines : List Nat)
  | rowUnpin (die : Nat) (lines : List Nat)
  | bmePoisonReplace (block : Nat)
  -- balloon requests
  | balloonRequest (ctx : Nat) (id : W64) (wanted urgency : Nat)
  | balloonUrgencyRaise (ctx : Nat)
  | balloonRequestExpiry (ctx : Nat)
  -- scheduler
  | teamPlace (t : Nat)
  | teamSwapOut (t : Nat)
  | teamRunnable (t : Nat)
  | quantumEnd (die : Nat)
  | residencyFloor (ctx die : Nat)
  | teamRetire (t : Nat)
  -- command processor; `g` a graph run, `n` a node
  | notifyRegisterWrite (q : Nat) (v : W64)
  | launchPacket (q : Nat)
  | graphPacket (q : Nat)
  | waitsigPacket (q : Nat)
  | signalPacket (q : Nat)
  | notifiedReread (ctx : Nat)
  | kernelNode (g n : Nat)
  | copyNode (g n : Nat)
  | signalNode (g n : Nat)
  | waitNode (g n : Nat)
  | condNode (g n : Nat)
  | loopNode (g n : Nat)
  | loopIteration (g n : Nat)
  -- driver, host, expanders, links, module
  | contextCreate (c : CtxSpec)
  | queueCreate (q : QueueSpec)
  | contextReset (ctx : Nat)
  | hostRead (npa : Nat)
  | hostWrite (npa : Nat) (bytes : List Byte)
  | hostSnoop (npa : Nat) (inv : Bool)
  | expanderLinkDown (x : Nat)
  | expanderTimeout (x : Nat)
  | linkFailure (l : Nat)
  | groupEnd (g : Nat)
  | healthThreshold (p : PartErrors)
  | spareBringIn (die n : Nat)
  | junctionThrottle (die : Nat)
  | thermalReset
  | powerOn
  | getIdentityCertificate
  | getAttestationReport (nonce : BitVec 256)
  | getHealth
  | setPowerLimit (watts : Nat)
  | writeImage (img : Image)
  | moduleReset
  | contextDestroy (ctx : Nat)
  | promiseChange (ctx pages : Nat)
  | quotaChange (ctx granules : Nat)
  | leafEntryChange (m : LeafMap)
  | expanderBringBack (x : Nat)
  | collectiveGroupDefine (g : GroupSpec)
  | engineSectorAccess (e i : Nat)
  | corePowerGate (die n : Nat)
  deriving DecidableEq, Repr

end Sys2Proof
end

