-- ==== Sys2Proof/WellFormed.lean ====
section
/-! DEFINITION. Which instructions a word can stand for: every register number, selector and count in the range that its
field and the spec's tables give it (R29, R33, R43 to R59). What depends on the launch or on MODE (allocation, groups, types, slots)
is checked when the instruction issues (Machine/Operands.lean). -/

namespace Sys2Proof

/-- A scalar register number (R29). -/
def sreg (n : Nat) : Bool := decide (n < 64)
/-- A vector register number (R29). -/
def vreg (n : Nat) : Bool := decide (n < 128)
/-- A predicate register number (R29). -/
def preg (n : Nat) : Bool := decide (n < 8)
/-- A value that a field of `bits` bits can hold. -/
def inField (bits n : Nat) : Bool := decide (n < 2 ^ bits)
/-- The special registers that SRD and SWR can name (R43). -/
def srdListed (n : Nat) : Bool := decide (n ≤ 0x010)
/-- The context status registers (R46). -/
def csrListed (n : Nat) : Bool :=
  n == 0x000 || n == 0x001 || n == 0x002 || n == 0x010 || n == 0x011 || n == 0x012 || n == 0x013 || n == 0x014 || n == 0x015
/-- The selectors of SPECRD (R213). -/
def specListed (n : Nat) : Bool := decide (n < 4)
/-- The counters of PCRD (R171, R338). -/
def pcrListed (n : Nat) : Bool := decide (n ≤ 0x00A) || (decide (0x100 ≤ n) && decide (n < 0x150)) || (decide (0x200 ≤ n) && decide (n < 0x300))
/-- The selectors of LOGRD (R337). -/
def logListed (n : Nat) : Bool := decide (n < 2)
/-- The counts of BAR (R56). -/
def barListed (n : Nat) : Bool := decide (n ≤ 256)
/-- RED and REDT have no exch and no cas (R55). -/
def AtomOp.reduces : AtomOp → Bool
  | .exch | .cas => false
  | .add | .min | .max | .and | .or | .xor | .fadd => true

/-- An instruction that some word stands for; an event is well formed as it is. -/
def Instr.wellFormed : Instr → Bool
  | .sadd d a b => sreg d && sreg a && sreg b
  | .ssub d a b => sreg d && sreg a && sreg b
  | .smul d a b => sreg d && sreg a && sreg b
  | .smulh d a b => sreg d && sreg a && sreg b
  | .smulhN d a b => sreg d && sreg a && sreg b
  | .sdiv d a b => sreg d && sreg a && sreg b
  | .sdivN d a b => sreg d && sreg a && sreg b
  | .srem d a b => sreg d && sreg a && sreg b
  | .sremN d a b => sreg d && sreg a && sreg b
  | .sand d a b => sreg d && sreg a && sreg b
  | .sor d a b => sreg d && sreg a && sreg b
  | .sxor d a b => sreg d && sreg a && sreg b
  | .sshl d a b => sreg d && sreg a && sreg b
  | .sshr d a b => sreg d && sreg a && sreg b
  | .ssra d a b => sreg d && sreg a && sreg b
  | .smin d a b => sreg d && sreg a && sreg b
  | .sminN d a b => sreg d && sreg a && sreg b
  | .smax d a b => sreg d && sreg a && sreg b
  | .smaxN d a b => sreg d && sreg a && sreg b
  | .sslt d a b => sreg d && sreg a && sreg b
  | .ssltn d a b => sreg d && sreg a && sreg b
  | .ssel d a b => sreg d && sreg a && sreg b
  | .saddi d a _ => sreg d && sreg a
  | .sandi d a _ => sreg d && sreg a
  | .sori d a _ => sreg d && sreg a
  | .sxori d a _ => sreg d && sreg a
  | .sshli d a _ => sreg d && sreg a
  | .slui d _ => sreg d
  | .srd d n => sreg d && srdListed n
  | .swr a n => sreg a && srdListed n
  | .smovv d s => vreg d && sreg s
  | .smovvLane d => vreg d
  | .smovvTlane d => vreg d
  | .vrdl d a l => sreg d && vreg a && inField 2 l
  | .br _ => true
  | .brCc _ a _ => sreg a
  | .bany p _ => preg p
  | .ball p _ => preg p
  | .bnone p _ => preg p
  | .call _ => true
  | .nop => true
  | .ret => true
  | .jmpr a => sreg a
  | .regang => true
  | .exit => true
  | .mode _ => true
  | .moder a => sreg a
  | .vadd d a b => vreg d && vreg a && vreg b
  | .vsub d a b => vreg d && vreg a && vreg b
  | .vmul d a b => vreg d && vreg a && vreg b
  | .vmulh d a b => vreg d && vreg a && vreg b
  | .vmad d a b => vreg d && vreg a && vreg b
  | .vmin d a b => vreg d && vreg a && vreg b
  | .vmax d a b => vreg d && vreg a && vreg b
  | .vand d a b => vreg d && vreg a && vreg b
  | .vor d a b => vreg d && vreg a && vreg b
  | .vxor d a b => vreg d && vreg a && vreg b
  | .vshl d a b => vreg d && vreg a && vreg b
  | .vshr d a b => vreg d && vreg a && vreg b
  | .vabs d a => vreg d && vreg a
  | .vneg d a => vreg d && vreg a
  | .vnot d a => vreg d && vreg a
  | .vsel d a b p => vreg d && vreg a && vreg b && preg p
  | .vcmp _ p a b => preg p && vreg a && vreg b
  | .vaddi d a _ => vreg d && vreg a
  | .vmovi d _ => vreg d
  | .vfadd d a b => vreg d && vreg a && vreg b
  | .vfsub d a b => vreg d && vreg a && vreg b
  | .vfmul d a b => vreg d && vreg a && vreg b
  | .vfma d a b => vreg d && vreg a && vreg b
  | .vfmin d a b => vreg d && vreg a && vreg b
  | .vfmax d a b => vreg d && vreg a && vreg b
  | .vfabs d a => vreg d && vreg a
  | .vfneg d a => vreg d && vreg a
  | .vfcmp _ p a b => preg p && vreg a && vreg b
  | .vrcp d a l => vreg d && vreg a && inField 4 l
  | .vrsq d a l => vreg d && vreg a && inField 4 l
  | .vsqrt d a l => vreg d && vreg a && inField 4 l
  | .vexp2 d a l => vreg d && vreg a && inField 4 l
  | .vlog2 d a l => vreg d && vreg a && inField 4 l
  | .vsin d a l => vreg d && vreg a && inField 4 l
  | .vcos d a l => vreg d && vreg a && inField 4 l
  | .pand d a b => preg d && preg a && preg b
  | .por d a b => preg d && preg a && preg b
  | .pxor d a b => preg d && preg a && preg b
  | .pnot d a => preg d && preg a
  | .pset d s => preg d && sreg s
  | .vcvt d a k _ l => vreg d && vreg a && inField 3 k && inField 4 l
  | .vqnt d a k l => vreg d && vreg a && inField 3 k && inField 4 l
  | .vdqnt d a b k => vreg d && vreg a && vreg b && inField 3 k
  | .vpack d a b => vreg d && vreg a && vreg b
  | .vunpk _ d a => vreg d && vreg a
  | .vclass d a => vreg d && vreg a
  | .vperm d a b => vreg d && vreg a && vreg b
  | .vbperm d a b => vreg d && vreg a && vreg b
  | .vslide d a b n => vreg d && vreg a && vreg b && inField 4 n
  | .vshfl _ d a m => vreg d && vreg a && inField 5 m
  | .vbcast d a m => vreg d && vreg a && inField 5 m
  | .vred _ d a => sreg d && vreg a
  | .vscan _ d a => vreg d && vreg a
  | .vballot d p => sreg d && preg p
  | .vcount d p => sreg d && preg p
  | .vld t x b _ l => vreg t && vreg x && sreg b && inField 4 l
  | .vst t x b _ l => vreg t && vreg x && sreg b && inField 4 l
  | .vldc t b _ _ => vreg t && sreg b
  | .vstc t b _ _ => vreg t && sreg b
  | .sld d b _ _ => sreg d && sreg b
  | .sst d b _ _ => sreg d && sreg b
  | .tld t x b _ l => vreg t && vreg x && sreg b && inField 4 l
  | .tst t x b _ l => vreg t && vreg x && sreg b && inField 4 l
  | .pref b _ => sreg b
  | .cwb a b => sreg a && sreg b
  | .cinv a b => sreg a && sreg b
  | .cdisc a b => sreg a && sreg b
  | .rdnpa d a => sreg d && sreg a
  | .atom _ t x b _ => vreg t && vreg x && sreg b
  | .red o t x b _ => o.reduces && vreg t && vreg x && sreg b
  | .atomt _ t x b _ => vreg t && vreg x && sreg b
  | .redt o t x b _ => o.reduces && vreg t && vreg x && sreg b
  | .wait _ a b => sreg a && sreg b
  | .bar n => barListed n
  | .ginit a b => sreg a && sreg b
  | .gexpect a b => sreg a && sreg b
  | .garrive a => sreg a
  | .gwait p a b => preg p && sreg a && sreg b
  | .chacq d a => sreg d && sreg a
  | .chacqNb d a => sreg d && sreg a
  | .chpub a => sreg a
  | .chtake d a => sreg d && sreg a
  | .chtakeNb d a => sreg d && sreg a
  | .chfree a => sreg a
  | .cmit => true
  | .specrd d s => sreg d && specListed s
  | .rsvrd d => sreg d
  | .rsvpin a b => sreg a && sreg b
  | .rsvunpin a b => sreg a && sreg b
  | .forfeit d a b => sreg d && sreg a && sreg b
  | .balrd d => sreg d
  | .balack a b => sreg a && sreg b
  | .czero a b => sreg a && sreg b
  | .csize _ d a => sreg d && sreg a
  | .mloop d a b t _ l => sreg d && inField 3 a && inField 3 b && inField 2 t && inField 4 l
  | .mzero t => inField 2 t
  | .mwait => true
  | .mrd d s t l => vreg d && sreg s && inField 2 t && inField 4 l
  | .mwr d s t l => vreg d && sreg s && inField 2 t && inField 4 l
  | .mdrain d t => sreg d && inField 2 t
  | .mscl a b n => sreg a && sreg b && inField 7 n
  | .copy m d a b => sreg d && sreg a && sreg b && (m != .none || b == 0)
  | .cwait a => sreg a
  | .cseq d => sreg d
  | .allred d a => sreg d && sreg a
  | .repsync d a b => sreg d && sreg a && sreg b
  | .cspill d => sreg d
  | .launchN a => sreg a
  | .launchT a => sreg a
  | .graphgo a => sreg a
  | .signal d a => sreg d && sreg a
  | .trap n => inField 10 n
  | .brk n => inField 10 n
  | .rte => true
  | .rdcap d n => sreg d && inField 10 n
  | .csrr d n => sreg d && csrListed n
  | .csrw a n => sreg a && csrListed n
  | .pcrd d n => sreg d && pcrListed n
  | .logrd d n => sreg d && logListed n
  | .fenceio => true
  | .vtanh d a l => vreg d && vreg a && inField 4 l
  | .verf d a l => vreg d && vreg a && inField 4 l
  | .vsigm d a l => vreg d && vreg a && inField 4 l
  | .vpopc d a l => vreg d && vreg a && inField 4 l
  | .vclz d a l => vreg d && vreg a && inField 4 l
  | .vbrev d a l => vreg d && vreg a && inField 4 l
  | .extensionEmulation .. => true
  | .illegalInstruction .. => true
  | .chunkCommit .. => true
  | .rollback .. => true
  | .levelChange .. => true
  | .regangTimeout .. => true
  | .faultAnswer .. => true
  | .waitWake .. => true
  | .gwaitWake .. => true
  | .channelWake .. => true
  | .cwaitWake .. => true
  | .mwaitWake .. => true
  | .engineComplete .. => true
  | .spillReplay .. => true
  | .allredRound .. => true
  | .kStep .. => true
  | .drain .. => true
  | .matrixCommandPerform .. => true
  | .writeBack .. => true
  | .anteRefill .. => true
  | .rowCapture .. => true
  | .rowUnpin .. => true
  | .bmePoisonReplace .. => true
  | .balloonRequest .. => true
  | .balloonUrgencyRaise .. => true
  | .balloonRequestExpiry .. => true
  | .teamPlace .. => true
  | .teamSwapOut .. => true
  | .teamRunnable .. => true
  | .quantumEnd .. => true
  | .residencyFloor .. => true
  | .teamRetire .. => true
  | .notifyRegisterWrite .. => true
  | .launchPacket .. => true
  | .graphPacket .. => true
  | .waitsigPacket .. => true
  | .signalPacket .. => true
  | .notifiedReread .. => true
  | .kernelNode .. => true
  | .copyNode .. => true
  | .signalNode .. => true
  | .waitNode .. => true
  | .condNode .. => true
  | .loopNode .. => true
  | .loopIteration .. => true
  | .contextCreate .. => true
  | .queueCreate .. => true
  | .contextReset .. => true
  | .hostRead .. => true
  | .hostWrite .. => true
  | .hostSnoop .. => true
  | .expanderLinkDown .. => true
  | .expanderTimeout .. => true
  | .linkFailure .. => true
  | .groupEnd .. => true
  | .healthThreshold .. => true
  | .spareBringIn .. => true
  | .junctionThrottle .. => true
  | .thermalReset => true
  | .powerOn => true
  | .getIdentityCertificate => true
  | .getAttestationReport .. => true
  | .getHealth => true
  | .setPowerLimit .. => true
  | .writeImage .. => true
  | .moduleReset => true
  | .contextDestroy .. => true
  | .promiseChange .. => true
  | .quotaChange .. => true
  | .leafEntryChange .. => true
  | .expanderBringBack .. => true
  | .collectiveGroupDefine .. => true
  | .engineSectorAccess .. => true
  | .corePowerGate .. => true

end Sys2Proof
end

