-- ==== Sys2Proof/Decode.lean ====
section
/-! DEFINITION. Words to instructions and back, from the encoding tables of R28 to R64. A word is a natural number below 2 ^ 32. -/

namespace Sys2Proof

/-- Why a word is no instruction, in the order in which R61 asks: an extension opcode that this part does not implement (R64);
then subcodes 0, 1 and 2 of the illegal-instruction trap (R62). `truncated`: fewer than four bytes were given. -/
inductive DecodeError
  | extension
  | unassignedOpcode
  | unassignedFunction
  | reservedField
  | truncated
  deriving DecidableEq, Repr

/-- The field of `len` bits of the word whose lowest bit is bit `lo`. -/
def fld (w lo len : Nat) : Nat := w / 2 ^ lo % 2 ^ len

/-- The instruction, unless a reserved bit is set (R29, R62 subcode 2). -/
def resv (bad : Bool) (i : Instr) : Except DecodeError Instr := if bad then .error .reservedField else .ok i

/-- What follows, if the function value or selector is one that the spec lists (R62 subcode 1). -/
def listed (good : Bool) (r : Except DecodeError Instr) : Except DecodeError Instr := if good then r else .error .unassignedFunction

/-- What follows, for a condition or operation code that the spec lists (R62 subcode 1). -/
def withMod {α : Type} (m : Option α) (k : α → Except DecodeError Instr) : Except DecodeError Instr :=
  match m with
  | some a => k a
  | none => .error .unassignedFunction

/-- Condition codes of BR.cc (R50). -/
def BrCond.code : BrCond → Nat
  | .z => 0
  | .nz => 1
  | .lz => 2
  | .gez => 3

/-- BrCond of its code. -/
def BrCond.ofCode : Nat → Option BrCond
  | 0 => some .z
  | 1 => some .nz
  | 2 => some .lz
  | 3 => some .gez
  | _ => none

/-- Condition codes of VCMP (R51). -/
def CmpCond.code : CmpCond → Nat
  | .eq => 0
  | .ne => 1
  | .lt => 2
  | .le => 3

/-- CmpCond of its code. -/
def CmpCond.ofCode : Nat → Option CmpCond
  | 0 => some .eq
  | 1 => some .ne
  | 2 => some .lt
  | 3 => some .le
  | _ => none

/-- Condition codes of VFCMP (R51). -/
def FcmpCond.code : FcmpCond → Nat
  | .eq => 0
  | .ne => 1
  | .lt => 2
  | .le => 3
  | .un => 4

/-- FcmpCond of its code. -/
def FcmpCond.ofCode : Nat → Option FcmpCond
  | 0 => some .eq
  | 1 => some .ne
  | 2 => some .lt
  | 3 => some .le
  | 4 => some .un
  | _ => none

/-- Function values of VUNPK (R53). -/
def Half.code : Half → Nat
  | .lo => 1
  | .hi => 2

/-- Kinds of VSHFL (R53). -/
def ShflKind.code : ShflKind → Nat
  | .xor => 0
  | .up => 1
  | .down => 2

/-- ShflKind of its code. -/
def ShflKind.ofCode : Nat → Option ShflKind
  | 0 => some .xor
  | 1 => some .up
  | 2 => some .down
  | _ => none

/-- Function values of VRED (R53). -/
def RedOp.code : RedOp → Nat
  | .sum => 0
  | .min => 1
  | .max => 2

/-- Function values of VSCAN (R53). -/
def RedOp.scanCode : RedOp → Nat
  | .sum => 3
  | .min => 4
  | .max => 5

/-- Operations of the atomics (R55). -/
def AtomOp.code : AtomOp → Nat
  | .add => 0
  | .min => 1
  | .max => 2
  | .and => 3
  | .or => 4
  | .xor => 5
  | .exch => 6
  | .cas => 7
  | .fadd => 8

/-- AtomOp of its code. -/
def AtomOp.ofCode : Nat → Option AtomOp
  | 0 => some .add
  | 1 => some .min
  | 2 => some .max
  | 3 => some .and
  | 4 => some .or
  | 5 => some .xor
  | 6 => some .exch
  | 7 => some .cas
  | 8 => some .fadd
  | _ => none

/-- Conditions of WAIT (R56). -/
def WaitCond.code : WaitCond → Nat
  | .eq => 0
  | .ne => 1
  | .lt => 2
  | .ge => 3
  | .ltN => 4
  | .geN => 5

/-- WaitCond of its code. -/
def WaitCond.ofCode : Nat → Option WaitCond
  | 0 => some .eq
  | 1 => some .ne
  | 2 => some .lt
  | 3 => some .ge
  | 4 => some .ltN
  | 5 => some .geN
  | _ => none

/-- Access sizes of SLD and SST (R54). -/
def Width.code : Width → Nat
  | .b => 0
  | .h => 1
  | .w => 2
  | .d => 3

/-- Width of its code. -/
def Width.ofCode : Nat → Option Width
  | 0 => some .b
  | 1 => some .h
  | 2 => some .w
  | 3 => some .d
  | _ => none

/-- Bindings of COPY (R58). -/
def Binding.code : Binding → Nat
  | .none => 0
  | .gate => 1
  | .channel => 2

/-- Binding of its code. -/
def Binding.ofCode : Nat → Option Binding
  | 0 => some .none
  | 1 => some .gate
  | 2 => some .channel
  | _ => Option.none

/-- Opcodes 0x00 to 0x1F (R48 to R52). -/
def decodeScalar (w : Nat) : Except DecodeError Instr :=
  match fld w 25 7 with
  | 0x01 => match fld w 0 7 with
    | 0 => .ok (.sadd (fld w 19 6) (fld w 13 6) (fld w 7 6))
    | 1 => .ok (.ssub (fld w 19 6) (fld w 13 6) (fld w 7 6))
    | 2 => .ok (.smul (fld w 19 6) (fld w 13 6) (fld w 7 6))
    | 3 => .ok (.smulh (fld w 19 6) (fld w 13 6) (fld w 7 6))
    | 4 => .ok (.smulhN (fld w 19 6) (fld w 13 6) (fld w 7 6))
    | 5 => .ok (.sdiv (fld w 19 6) (fld w 13 6) (fld w 7 6))
    | 6 => .ok (.sdivN (fld w 19 6) (fld w 13 6) (fld w 7 6))
    | 7 => .ok (.srem (fld w 19 6) (fld w 13 6) (fld w 7 6))
    | 8 => .ok (.sremN (fld w 19 6) (fld w 13 6) (fld w 7 6))
    | 9 => .ok (.sand (fld w 19 6) (fld w 13 6) (fld w 7 6))
    | 10 => .ok (.sor (fld w 19 6) (fld w 13 6) (fld w 7 6))
    | 11 => .ok (.sxor (fld w 19 6) (fld w 13 6) (fld w 7 6))
    | 12 => .ok (.sshl (fld w 19 6) (fld w 13 6) (fld w 7 6))
    | 13 => .ok (.sshr (fld w 19 6) (fld w 13 6) (fld w 7 6))
    | 14 => .ok (.ssra (fld w 19 6) (fld w 13 6) (fld w 7 6))
    | 15 => .ok (.smin (fld w 19 6) (fld w 13 6) (fld w 7 6))
    | 16 => .ok (.sminN (fld w 19 6) (fld w 13 6) (fld w 7 6))
    | 17 => .ok (.smax (fld w 19 6) (fld w 13 6) (fld w 7 6))
    | 18 => .ok (.smaxN (fld w 19 6) (fld w 13 6) (fld w 7 6))
    | 19 => .ok (.sslt (fld w 19 6) (fld w 13 6) (fld w 7 6))
    | 20 => .ok (.ssltn (fld w 19 6) (fld w 13 6) (fld w 7 6))
    | 21 => .ok (.ssel (fld w 19 6) (fld w 13 6) (fld w 7 6))
    | _ => .error .unassignedFunction
  | 0x02 => .ok (.saddi (fld w 19 6) (fld w 13 6) (BitVec.ofNat 13 (fld w 0 13)))
  | 0x03 => .ok (.sandi (fld w 19 6) (fld w 13 6) (BitVec.ofNat 13 (fld w 0 13)))
  | 0x04 => .ok (.sori (fld w 19 6) (fld w 13 6) (BitVec.ofNat 13 (fld w 0 13)))
  | 0x05 => .ok (.sxori (fld w 19 6) (fld w 13 6) (BitVec.ofNat 13 (fld w 0 13)))
  | 0x06 => resv (fld w 6 7 != 0) (.sshli (fld w 19 6) (fld w 13 6) (BitVec.ofNat 6 (fld w 0 6)))
  | 0x07 => .ok (.slui (fld w 19 6) (BitVec.ofNat 19 (fld w 0 19)))
  | 0x08 => listed (srdListed (fld w 0 13)) (resv (fld w 13 6 != 0) (.srd (fld w 19 6) (fld w 0 13)))
  | 0x09 => listed (srdListed (fld w 0 13)) (resv (fld w 19 6 != 0) (.swr (fld w 13 6) (fld w 0 13)))
  | 0x0A =>
    if fld w 17 1 = 0 then resv (fld w 0 11 != 0) (.smovv (fld w 18 7) (fld w 11 6))
    else match fld w 11 6 with
      | 0 => resv (fld w 0 11 != 0) (.smovvLane (fld w 18 7))
      | 1 => resv (fld w 0 11 != 0) (.smovvTlane (fld w 18 7))
      | _ => .error .unassignedFunction
  | 0x0B => resv (fld w 2 9 != 0 || fld w 24 1 != 0) (.vrdl (fld w 18 6) (fld w 11 7) (fld w 0 2))
  | 0x10 => resv (fld w 22 3 != 0) (.br (BitVec.ofNat 22 (fld w 0 22)))
  | 0x11 => withMod (BrCond.ofCode (fld w 19 6)) fun m => .ok (.brCc m (fld w 13 6) (BitVec.ofNat 13 (fld w 0 13)))
  | 0x12 => .ok (.bany (fld w 22 3) (BitVec.ofNat 22 (fld w 0 22)))
  | 0x13 => .ok (.ball (fld w 22 3) (BitVec.ofNat 22 (fld w 0 22)))
  | 0x14 => .ok (.bnone (fld w 22 3) (BitVec.ofNat 22 (fld w 0 22)))
  | 0x15 => resv (fld w 22 3 != 0) (.call (BitVec.ofNat 22 (fld w 0 22)))
  | 0x16 => match fld w 0 7 with
    | 0 => resv (fld w 7 18 != 0) (.nop)
    | 1 => resv (fld w 7 18 != 0) (.ret)
    | 2 => resv (fld w 7 6 != 0 || fld w 19 6 != 0) (.jmpr (fld w 13 6))
    | 3 => resv (fld w 7 18 != 0) (.regang)
    | 4 => resv (fld w 7 18 != 0) (.exit)
    | _ => .error .unassignedFunction
  | 0x17 => match fld w 16 3 with
    | 0 => resv (fld w 19 6 != 0) (.mode (BitVec.ofNat 16 (fld w 0 16)))
    | 1 => resv (fld w 0 16 != 0) (.moder (fld w 19 6))
    | _ => .error .unassignedFunction
  | 0x18 => match fld w 0 4 with
    | 0 => .ok (.vadd (fld w 18 7) (fld w 11 7) (fld w 4 7))
    | 1 => .ok (.vsub (fld w 18 7) (fld w 11 7) (fld w 4 7))
    | 2 => .ok (.vmul (fld w 18 7) (fld w 11 7) (fld w 4 7))
    | 3 => .ok (.vmulh (fld w 18 7) (fld w 11 7) (fld w 4 7))
    | 4 => .ok (.vmad (fld w 18 7) (fld w 11 7) (fld w 4 7))
    | 5 => .ok (.vmin (fld w 18 7) (fld w 11 7) (fld w 4 7))
    | 6 => .ok (.vmax (fld w 18 7) (fld w 11 7) (fld w 4 7))
    | 7 => .ok (.vand (fld w 18 7) (fld w 11 7) (fld w 4 7))
    | 8 => .ok (.vor (fld w 18 7) (fld w 11 7) (fld w 4 7))
    | 9 => .ok (.vxor (fld w 18 7) (fld w 11 7) (fld w 4 7))
    | 10 => .ok (.vshl (fld w 18 7) (fld w 11 7) (fld w 4 7))
    | 11 => .ok (.vshr (fld w 18 7) (fld w 11 7) (fld w 4 7))
    | 12 => resv (fld w 4 7 != 0) (.vabs (fld w 18 7) (fld w 11 7))
    | 13 => resv (fld w 4 7 != 0) (.vneg (fld w 18 7) (fld w 11 7))
    | 14 => resv (fld w 4 7 != 0) (.vnot (fld w 18 7) (fld w 11 7))
    | _ => .error .unassignedFunction
  | 0x19 => resv (fld w 3 1 != 0) (.vsel (fld w 18 7) (fld w 11 7) (fld w 4 7) (fld w 0 3))
  | 0x1A => withMod (CmpCond.ofCode (fld w 0 4)) fun m => resv (fld w 21 4 != 0) (.vcmp m (fld w 18 3) (fld w 11 7) (fld w 4 7))
  | 0x1B => .ok (.vaddi (fld w 18 7) (fld w 11 7) (BitVec.ofNat 11 (fld w 0 11)))
  | 0x1C => .ok (.vmovi (fld w 18 7) (BitVec.ofNat 18 (fld w 0 18)))
  | 0x1D => match fld w 0 4 with
    | 0 => .ok (.vfadd (fld w 18 7) (fld w 11 7) (fld w 4 7))
    | 1 => .ok (.vfsub (fld w 18 7) (fld w 11 7) (fld w 4 7))
    | 2 => .ok (.vfmul (fld w 18 7) (fld w 11 7) (fld w 4 7))
    | 3 => .ok (.vfma (fld w 18 7) (fld w 11 7) (fld w 4 7))
    | 4 => .ok (.vfmin (fld w 18 7) (fld w 11 7) (fld w 4 7))
    | 5 => .ok (.vfmax (fld w 18 7) (fld w 11 7) (fld w 4 7))
    | 6 => resv (fld w 4 7 != 0) (.vfabs (fld w 18 7) (fld w 11 7))
    | 7 => resv (fld w 4 7 != 0) (.vfneg (fld w 18 7) (fld w 11 7))
    | _ => .error .unassignedFunction
  | 0x1E => withMod (FcmpCond.ofCode (fld w 0 4)) fun m => resv (fld w 21 4 != 0) (.vfcmp m (fld w 18 3) (fld w 11 7) (fld w 4 7))
  | 0x1F => resv (fld w 4 7 != 0) (.vrcp (fld w 18 7) (fld w 11 7) (fld w 0 4))
  | _ => .error .unassignedOpcode

/-- Opcodes 0x20 to 0x3F (R48, R51 to R54). -/
def decodeVector (w : Nat) : Except DecodeError Instr :=
  match fld w 25 7 with
  | 0x20 => resv (fld w 4 7 != 0) (.vrsq (fld w 18 7) (fld w 11 7) (fld w 0 4))
  | 0x21 => resv (fld w 4 7 != 0) (.vsqrt (fld w 18 7) (fld w 11 7) (fld w 0 4))
  | 0x22 => resv (fld w 4 7 != 0) (.vexp2 (fld w 18 7) (fld w 11 7) (fld w 0 4))
  | 0x23 => resv (fld w 4 7 != 0) (.vlog2 (fld w 18 7) (fld w 11 7) (fld w 0 4))
  | 0x24 => resv (fld w 4 7 != 0) (.vsin (fld w 18 7) (fld w 11 7) (fld w 0 4))
  | 0x25 => resv (fld w 4 7 != 0) (.vcos (fld w 18 7) (fld w 11 7) (fld w 0 4))
  | 0x26 => match fld w 0 4 with
    | 0 => resv (fld w 7 4 != 0 || fld w 14 4 != 0 || fld w 21 4 != 0) (.pand (fld w 18 3) (fld w 11 3) (fld w 4 3))
    | 1 => resv (fld w 7 4 != 0 || fld w 14 4 != 0 || fld w 21 4 != 0) (.por (fld w 18 3) (fld w 11 3) (fld w 4 3))
    | 2 => resv (fld w 7 4 != 0 || fld w 14 4 != 0 || fld w 21 4 != 0) (.pxor (fld w 18 3) (fld w 11 3) (fld w 4 3))
    | 3 => resv (fld w 4 7 != 0 || fld w 14 4 != 0 || fld w 21 4 != 0) (.pnot (fld w 18 3) (fld w 11 3))
    | 4 => resv (fld w 4 7 != 0 || fld w 17 1 != 0 || fld w 21 4 != 0) (.pset (fld w 18 3) (fld w 11 6))
    | _ => .error .unassignedFunction
  | 0x2C => .ok (.vcvt (fld w 18 7) (fld w 11 7) (fld w 8 3) (BitVec.ofNat 4 (fld w 4 4)) (fld w 0 4))
  | 0x2D => resv (fld w 7 4 != 0) (.vqnt (fld w 18 7) (fld w 11 7) (fld w 4 3) (fld w 0 4))
  | 0x2E => resv (fld w 3 1 != 0) (.vdqnt (fld w 18 7) (fld w 11 7) (fld w 4 7) (fld w 0 3))
  | 0x2F => match fld w 0 4 with
    | 0 => .ok (.vpack (fld w 18 7) (fld w 11 7) (fld w 4 7))
    | 1 => resv (fld w 4 7 != 0) (.vunpk .lo (fld w 18 7) (fld w 11 7))
    | 2 => resv (fld w 4 7 != 0) (.vunpk .hi (fld w 18 7) (fld w 11 7))
    | 3 => resv (fld w 4 7 != 0) (.vclass (fld w 18 7) (fld w 11 7))
    | _ => .error .unassignedFunction
  | 0x30 => match fld w 0 4 with
    | 0 => .ok (.vperm (fld w 18 7) (fld w 11 7) (fld w 4 7))
    | 1 => .ok (.vbperm (fld w 18 7) (fld w 11 7) (fld w 4 7))
    | _ => .error .unassignedFunction
  | 0x31 => .ok (.vslide (fld w 18 7) (fld w 11 7) (fld w 4 7) (fld w 0 4))
  | 0x32 => match ShflKind.ofCode (fld w 9 2) with
    | some m => resv (fld w 5 4 != 0) (.vshfl m (fld w 18 7) (fld w 11 7) (fld w 0 5))
    | none => resv (fld w 5 4 != 0) (.vbcast (fld w 18 7) (fld w 11 7) (fld w 0 5))
  | 0x33 => match fld w 0 4 with
    | 0 => resv (fld w 4 7 != 0 || fld w 24 1 != 0) (.vred .sum (fld w 18 6) (fld w 11 7))
    | 1 => resv (fld w 4 7 != 0 || fld w 24 1 != 0) (.vred .min (fld w 18 6) (fld w 11 7))
    | 2 => resv (fld w 4 7 != 0 || fld w 24 1 != 0) (.vred .max (fld w 18 6) (fld w 11 7))
    | 3 => resv (fld w 4 7 != 0) (.vscan .sum (fld w 18 7) (fld w 11 7))
    | 4 => resv (fld w 4 7 != 0) (.vscan .min (fld w 18 7) (fld w 11 7))
    | 5 => resv (fld w 4 7 != 0) (.vscan .max (fld w 18 7) (fld w 11 7))
    | 6 => resv (fld w 4 7 != 0 || fld w 14 4 != 0 || fld w 24 1 != 0) (.vballot (fld w 18 6) (fld w 11 3))
    | 7 => resv (fld w 4 7 != 0 || fld w 14 4 != 0 || fld w 24 1 != 0) (.vcount (fld w 18 6) (fld w 11 3))
    | _ => .error .unassignedFunction
  | 0x34 => .ok (.vld (fld w 18 7) (fld w 11 7) (fld w 5 6) (fld w 4 1 == 1) (fld w 0 4))
  | 0x35 => .ok (.vst (fld w 18 7) (fld w 11 7) (fld w 5 6) (fld w 4 1 == 1) (fld w 0 4))
  | 0x36 => listed (fld w 10 2 < 2) (.ok (.vldc (fld w 18 7) (fld w 12 6) (fld w 10 1 == 1) (BitVec.ofNat 10 (fld w 0 10))))
  | 0x37 => listed (fld w 10 2 < 2) (.ok (.vstc (fld w 18 7) (fld w 12 6) (fld w 10 1 == 1) (BitVec.ofNat 10 (fld w 0 10))))
  | 0x38 => withMod (Width.ofCode (fld w 10 2)) fun m => resv (fld w 24 1 != 0) (.sld (fld w 18 6) (fld w 12 6) m (BitVec.ofNat 10 (fld w 0 10)))
  | 0x39 => withMod (Width.ofCode (fld w 10 2)) fun m => resv (fld w 24 1 != 0) (.sst (fld w 18 6) (fld w 12 6) m (BitVec.ofNat 10 (fld w 0 10)))
  | 0x3A => .ok (.tld (fld w 18 7) (fld w 11 7) (fld w 5 6) (fld w 4 1 == 1) (fld w 0 4))
  | 0x3B => .ok (.tst (fld w 18 7) (fld w 11 7) (fld w 5 6) (fld w 4 1 == 1) (fld w 0 4))
  | 0x3C => resv (fld w 10 2 != 0 || fld w 18 7 != 0) (.pref (fld w 12 6) (BitVec.ofNat 10 (fld w 0 10)))
  | 0x3D => resv (fld w 0 7 != 0 || fld w 19 6 != 0) (.cwb (fld w 13 6) (fld w 7 6))
  | 0x3E => resv (fld w 0 7 != 0 || fld w 19 6 != 0) (.cinv (fld w 13 6) (fld w 7 6))
  | 0x3F => resv (fld w 0 7 != 0 || fld w 19 6 != 0) (.cdisc (fld w 13 6) (fld w 7 6))
  | _ => .error .unassignedOpcode

/-- Opcodes 0x40 to 0x5F (R48, R54 to R58). -/
def decodeSync (w : Nat) : Except DecodeError Instr :=
  match fld w 25 7 with
  | 0x40 => resv (fld w 0 13 != 0) (.rdnpa (fld w 19 6) (fld w 13 6))
  | 0x44 => withMod (AtomOp.ofCode (fld w 0 4)) fun m => .ok (.atom m (fld w 18 7) (fld w 11 7) (fld w 5 6) (fld w 4 1 == 1))
  | 0x45 => withMod (AtomOp.ofCode (fld w 0 4)) fun m => listed m.reduces (.ok (.red m (fld w 18 7) (fld w 11 7) (fld w 5 6) (fld w 4 1 == 1)))
  | 0x46 => withMod (AtomOp.ofCode (fld w 0 4)) fun m => .ok (.atomt m (fld w 18 7) (fld w 11 7) (fld w 5 6) (fld w 4 1 == 1))
  | 0x47 => withMod (AtomOp.ofCode (fld w 0 4)) fun m => listed m.reduces (.ok (.redt m (fld w 18 7) (fld w 11 7) (fld w 5 6) (fld w 4 1 == 1)))
  | 0x48 => withMod (WaitCond.ofCode (fld w 0 7)) fun m => resv (fld w 19 6 != 0) (.wait m (fld w 13 6) (fld w 7 6))
  | 0x49 => listed (barListed (fld w 0 13)) (resv (fld w 13 12 != 0) (.bar (fld w 0 13)))
  | 0x4A => match fld w 0 7 with
    | 0 => resv (fld w 19 6 != 0) (.ginit (fld w 13 6) (fld w 7 6))
    | 1 => resv (fld w 19 6 != 0) (.gexpect (fld w 13 6) (fld w 7 6))
    | 2 => resv (fld w 7 6 != 0 || fld w 19 6 != 0) (.garrive (fld w 13 6))
    | 3 => resv (fld w 22 3 != 0) (.gwait (fld w 19 3) (fld w 13 6) (fld w 7 6))
    | _ => .error .unassignedFunction
  | 0x4B => match fld w 0 7 with
    | 0 => resv (fld w 7 6 != 0) (.chacq (fld w 19 6) (fld w 13 6))
    | 1 => resv (fld w 7 6 != 0) (.chacqNb (fld w 19 6) (fld w 13 6))
    | 2 => resv (fld w 7 6 != 0 || fld w 19 6 != 0) (.chpub (fld w 13 6))
    | 3 => resv (fld w 7 6 != 0) (.chtake (fld w 19 6) (fld w 13 6))
    | 4 => resv (fld w 7 6 != 0) (.chtakeNb (fld w 19 6) (fld w 13 6))
    | 5 => resv (fld w 7 6 != 0 || fld w 19 6 != 0) (.chfree (fld w 13 6))
    | _ => .error .unassignedFunction
  | 0x52 => resv (fld w 0 25 != 0) .cmit
  | 0x53 => listed (specListed (fld w 0 13)) (resv (fld w 13 6 != 0) (.specrd (fld w 19 6) (fld w 0 13)))
  | 0x54 => resv (fld w 0 19 != 0) (.rsvrd (fld w 19 6))
  | 0x55 => match fld w 0 7 with
    | 0 => resv (fld w 19 6 != 0) (.rsvpin (fld w 13 6) (fld w 7 6))
    | 1 => resv (fld w 19 6 != 0) (.rsvunpin (fld w 13 6) (fld w 7 6))
    | _ => .error .unassignedFunction
  | 0x56 => match fld w 0 7 with
    | 0 => .ok (.forfeit (fld w 19 6) (fld w 13 6) (fld w 7 6))
    | _ => .error .unassignedFunction
  | 0x57 => match fld w 0 7 with
    | 0 => resv (fld w 7 12 != 0) (.balrd (fld w 19 6))
    | 1 => resv (fld w 19 6 != 0) (.balack (fld w 13 6) (fld w 7 6))
    | _ => .error .unassignedFunction
  | 0x58 => match fld w 0 7 with
    | 0 => resv (fld w 19 6 != 0) (.czero (fld w 13 6) (fld w 7 6))
    | _ => .error .unassignedFunction
  | 0x59 => match fld w 0 7 with
    | 0 => resv (fld w 7 6 != 0) (.csize false (fld w 19 6) (fld w 13 6))
    | 1 => resv (fld w 7 6 != 0) (.csize true (fld w 19 6) (fld w 13 6))
    | _ => .error .unassignedFunction
  | 0x5A => resv (fld w 5 6 != 0) (.mloop (fld w 19 6) (fld w 16 3) (fld w 13 3) (fld w 11 2) (fld w 4 1 == 1) (fld w 0 4))
  | 0x5B => resv (fld w 0 11 != 0 || fld w 13 12 != 0) (.mzero (fld w 11 2))
  | 0x5C => resv (fld w 0 25 != 0) .mwait
  | 0x5D => resv (fld w 6 5 != 0 || fld w 17 1 != 0) (.mrd (fld w 18 7) (fld w 11 6) (fld w 4 2) (fld w 0 4))
  | 0x5E => resv (fld w 6 5 != 0 || fld w 17 1 != 0) (.mwr (fld w 18 7) (fld w 11 6) (fld w 4 2) (fld w 0 4))
  | 0x5F => resv (fld w 0 11 != 0 || fld w 13 6 != 0) (.mdrain (fld w 19 6) (fld w 11 2))
  | _ => .error .unassignedOpcode

/-- Opcodes 0x60 to 0x75 (R48, R58, R59). -/
def decodeSystem (w : Nat) : Except DecodeError Instr :=
  match fld w 25 7 with
  | 0x60 => resv (fld w 19 6 != 0) (.mscl (fld w 13 6) (fld w 7 6) (fld w 0 7))
  | 0x62 => withMod (Binding.ofCode (fld w 0 7)) fun m => resv (fld w 0 7 == 0 && fld w 7 6 != 0) (.copy m (fld w 19 6) (fld w 13 6) (fld w 7 6))
  | 0x63 => resv (fld w 0 13 != 0 || fld w 19 6 != 0) (.cwait (fld w 13 6))
  | 0x64 => resv (fld w 0 19 != 0) (.cseq (fld w 19 6))
  | 0x65 => resv (fld w 0 13 != 0) (.allred (fld w 19 6) (fld w 13 6))
  | 0x66 => resv (fld w 0 7 != 0) (.repsync (fld w 19 6) (fld w 13 6) (fld w 7 6))
  | 0x67 => resv (fld w 0 19 != 0) (.cspill (fld w 19 6))
  | 0x68 => match fld w 10 3 with
    | 0 => resv (fld w 0 10 != 0 || fld w 19 6 != 0) (.launchN (fld w 13 6))
    | 1 => resv (fld w 0 10 != 0 || fld w 19 6 != 0) (.launchT (fld w 13 6))
    | _ => .error .unassignedFunction
  | 0x69 => match fld w 10 3 with
    | 0 => resv (fld w 0 10 != 0 || fld w 19 6 != 0) (.graphgo (fld w 13 6))
    | 1 => resv (fld w 0 10 != 0) (.signal (fld w 19 6) (fld w 13 6))
    | _ => .error .unassignedFunction
  | 0x6A => match fld w 10 3 with
    | 0 => resv (fld w 13 12 != 0) (.trap (fld w 0 10))
    | 1 => resv (fld w 13 12 != 0) (.brk (fld w 0 10))
    | _ => .error .unassignedFunction
  | 0x6B => match fld w 10 3 with
    | 0 => resv (fld w 0 10 != 0 || fld w 13 12 != 0) .rte
    | _ => .error .unassignedFunction
  | 0x6C => match fld w 10 3 with
    | 0 => resv (fld w 13 6 != 0) (.rdcap (fld w 19 6) (fld w 0 10))
    | _ => .error .unassignedFunction
  | 0x6D => match fld w 10 3 with
    | 0 => listed (csrListed (fld w 0 10)) (resv (fld w 13 6 != 0) (.csrr (fld w 19 6) (fld w 0 10)))
    | 1 => listed (csrListed (fld w 0 10)) (resv (fld w 19 6 != 0) (.csrw (fld w 13 6) (fld w 0 10)))
    | _ => .error .unassignedFunction
  | 0x6E => match fld w 10 3 with
    | 0 => listed (pcrListed (fld w 0 10)) (resv (fld w 13 6 != 0) (.pcrd (fld w 19 6) (fld w 0 10)))
    | 1 => listed (logListed (fld w 0 10)) (resv (fld w 13 6 != 0) (.logrd (fld w 19 6) (fld w 0 10)))
    | _ => .error .unassignedFunction
  | 0x6F => match fld w 10 3 with
    | 0 => resv (fld w 0 10 != 0 || fld w 13 12 != 0) .fenceio
    | _ => .error .unassignedFunction
  | 0x70 => resv (fld w 4 7 != 0) (.vtanh (fld w 18 7) (fld w 11 7) (fld w 0 4))
  | 0x71 => resv (fld w 4 7 != 0) (.verf (fld w 18 7) (fld w 11 7) (fld w 0 4))
  | 0x72 => resv (fld w 4 7 != 0) (.vsigm (fld w 18 7) (fld w 11 7) (fld w 0 4))
  | 0x73 => resv (fld w 4 7 != 0) (.vpopc (fld w 18 7) (fld w 11 7) (fld w 0 4))
  | 0x74 => resv (fld w 4 7 != 0) (.vclz (fld w 18 7) (fld w 11 7) (fld w 0 4))
  | 0x75 => resv (fld w 4 7 != 0) (.vbrev (fld w 18 7) (fld w 11 7) (fld w 0 4))
  | _ => .error .unassignedOpcode

/-- The instruction of a word, or why there is none, by steps 1 and 2 of R61. The parts of step 2 that depend on MODE
(a slot field of VCVT that must be 0) are asked when the instruction issues. -/
def decode (w : Nat) : Except DecodeError Instr :=
  let op := fld w 25 7
  if op < 0x20 then decodeScalar w
  else if op < 0x40 then decodeVector w
  else if op < 0x60 then decodeSync w
  else if op < 0x76 then decodeSystem w
  else .error .extension

/-- The word of four bytes in memory, the least significant first (R3, R26). -/
def wordOfBytes (b0 b1 b2 b3 : Byte) : Nat := b0.toNat + b1.toNat * 2 ^ 8 + b2.toNat * 2 ^ 16 + b3.toNat * 2 ^ 24

/-- The bytes of a word, in memory order (R3). -/
def bytesOfWord (w : Nat) : List Byte := [BitVec.ofNat 8 w, BitVec.ofNat 8 (w / 2 ^ 8), BitVec.ofNat 8 (w / 2 ^ 16), BitVec.ofNat 8 (w / 2 ^ 24)]

/-- The first instruction of a string of bytes, and the bytes after it. Every string is answered. -/
def decodeBytes : List Byte → Except DecodeError (Instr × List Byte)
  | b0 :: b1 :: b2 :: b3 :: rest => (decode (wordOfBytes b0 b1 b2 b3)).map fun i => (i, rest)
  | _ => .error .truncated

/-- The instruction of a word that has the bits of `w`: every instruction of this part is one word of 32 bits (R26). -/
def decodeTableWord (nbits w : Nat) : Option Instr :=
  if nbits ≤ 32 then
    match decodeBytes (bytesOfWord (w % 2 ^ nbits)) with
    | .ok (i, _) => some i
    | .error _ => none
  else none

/-- A word of format V3: vd[24:18], va[17:11], vb[10:4], fn[3:0] (R28). -/
def wV3 (op d a b fn : Nat) : Nat :=
  op * 33554432 + d * 262144 + a * 2048 + b * 16 + fn

/-- A word of format VI: vd[24:18], va[17:11], imm11[10:0] (R28). -/
def wVI (op d a imm : Nat) : Nat :=
  op * 33554432 + d * 262144 + a * 2048 + imm

/-- A word of format S3: sd[24:19], sa[18:13], sb[12:7], fn7[6:0] (R28). -/
def wS3 (op d a b fn : Nat) : Nat :=
  op * 33554432 + d * 524288 + a * 8192 + b * 128 + fn

/-- A word of format SI: sd[24:19], sa[18:13], imm13[12:0] (R28). -/
def wSI (op d a imm : Nat) : Nat :=
  op * 33554432 + d * 524288 + a * 8192 + imm

/-- A word of format B: cond[24:22], disp22[21:0] (R28). -/
def wB (op cond disp : Nat) : Nat :=
  op * 33554432 + cond * 4194304 + disp

/-- A word of format M: vt[24:18], vx[17:11], sb[10:5], sz[4], op or la[3:0] (R28). -/
def wM (op t x b z lo : Nat) : Nat :=
  op * 33554432 + t * 262144 + x * 2048 + b * 32 + z * 16 + lo

/-- A word of format MS: t[24:18], sb[17:12], w[11:10], off10[9:0] (R28). -/
def wMS (op t b w off : Nat) : Nat :=
  op * 33554432 + t * 262144 + b * 4096 + w * 1024 + off

/-- A word of format MX: sdesc[24:19], fA[18:16], fB[15:13], tile[12:11], flags[10:4], la[3:0] (R28). -/
def wMX (op desc fa fb tile flags la : Nat) : Nat :=
  op * 33554432 + desc * 524288 + fa * 65536 + fb * 8192 + tile * 2048 + flags * 16 + la

/-- A word of format Mode: sa[24:19], fn[18:16], imm16[15:0] (R28). -/
def wMode (op a fn imm : Nat) : Nat :=
  op * 33554432 + a * 524288 + fn * 65536 + imm

/-- A word of format Sys: sd[24:19], sa[18:13], fn[12:10], imm10[9:0] (R28). -/
def wSys (op d a fn imm : Nat) : Nat :=
  op * 33554432 + d * 524288 + a * 8192 + fn * 1024 + imm

/-- A word of SLUI, the form SI with its low fields fused (R30): sd[24:19], imm19[18:0]. -/
def wImm19 (op d imm : Nat) : Nat :=
  op * 33554432 + d * 524288 + imm

/-- A word of VMOVI, the form VI with its low fields fused (R52): vd[24:18], imm18[17:0]. -/
def wImm18 (op d imm : Nat) : Nat :=
  op * 33554432 + d * 262144 + imm

/-- The word of an instruction; an event has none. -/
def encode : Instr → Option Nat
  | .sadd d a b => some (wS3 0x01 d a b 0)
  | .ssub d a b => some (wS3 0x01 d a b 1)
  | .smul d a b => some (wS3 0x01 d a b 2)
  | .smulh d a b => some (wS3 0x01 d a b 3)
  | .smulhN d a b => some (wS3 0x01 d a b 4)
  | .sdiv d a b => some (wS3 0x01 d a b 5)
  | .sdivN d a b => some (wS3 0x01 d a b 6)
  | .srem d a b => some (wS3 0x01 d a b 7)
  | .sremN d a b => some (wS3 0x01 d a b 8)
  | .sand d a b => some (wS3 0x01 d a b 9)
  | .sor d a b => some (wS3 0x01 d a b 0xa)
  | .sxor d a b => some (wS3 0x01 d a b 0xb)
  | .sshl d a b => some (wS3 0x01 d a b 0xc)
  | .sshr d a b => some (wS3 0x01 d a b 0xd)
  | .ssra d a b => some (wS3 0x01 d a b 0xe)
  | .smin d a b => some (wS3 0x01 d a b 0xf)
  | .sminN d a b => some (wS3 0x01 d a b 0x10)
  | .smax d a b => some (wS3 0x01 d a b 0x11)
  | .smaxN d a b => some (wS3 0x01 d a b 0x12)
  | .sslt d a b => some (wS3 0x01 d a b 0x13)
  | .ssltn d a b => some (wS3 0x01 d a b 0x14)
  | .ssel d a b => some (wS3 0x01 d a b 0x15)
  | .saddi d a i => some (wSI 0x02 d a i.toNat)
  | .sandi d a i => some (wSI 0x03 d a i.toNat)
  | .sori d a i => some (wSI 0x04 d a i.toNat)
  | .sxori d a i => some (wSI 0x05 d a i.toNat)
  | .sshli d a n => some (wSI 0x06 d a n.toNat)
  | .slui d i => some (wImm19 0x07 d i.toNat)
  | .srd d n => some (wSI 0x08 d 0 n)
  | .swr a n => some (wSI 0x09 0 a n)
  | .smovv d s => some (wV3 0x0A d s 0 0)
  | .smovvLane d => some (wV3 0x0A d 0x40 0 0)
  | .smovvTlane d => some (wV3 0x0A d 0x41 0 0)
  | .vrdl d a l => some (wVI 0x0B d a l)
  | .br d => some (wB 0x10 0 d.toNat)
  | .brCc c a d => some (wSI 0x11 c.code a d.toNat)
  | .bany p d => some (wB 0x12 p d.toNat)
  | .ball p d => some (wB 0x13 p d.toNat)
  | .bnone p d => some (wB 0x14 p d.toNat)
  | .call d => some (wB 0x15 0 d.toNat)
  | .nop => some (wS3 0x16 0 0 0 0)
  | .ret => some (wS3 0x16 0 0 0 1)
  | .jmpr a => some (wS3 0x16 0 a 0 2)
  | .regang => some (wS3 0x16 0 0 0 3)
  | .exit => some (wS3 0x16 0 0 0 4)
  | .mode i => some (wMode 0x17 0 0 i.toNat)
  | .moder a => some (wMode 0x17 a 1 0)
  | .vadd d a b => some (wV3 0x18 d a b 0)
  | .vsub d a b => some (wV3 0x18 d a b 1)
  | .vmul d a b => some (wV3 0x18 d a b 2)
  | .vmulh d a b => some (wV3 0x18 d a b 3)
  | .vmad d a b => some (wV3 0x18 d a b 4)
  | .vmin d a b => some (wV3 0x18 d a b 5)
  | .vmax d a b => some (wV3 0x18 d a b 6)
  | .vand d a b => some (wV3 0x18 d a b 7)
  | .vor d a b => some (wV3 0x18 d a b 8)
  | .vxor d a b => some (wV3 0x18 d a b 9)
  | .vshl d a b => some (wV3 0x18 d a b 0xa)
  | .vshr d a b => some (wV3 0x18 d a b 0xb)
  | .vabs d a => some (wV3 0x18 d a 0 0xc)
  | .vneg d a => some (wV3 0x18 d a 0 0xd)
  | .vnot d a => some (wV3 0x18 d a 0 0xe)
  | .vsel d a b p => some (wV3 0x19 d a b p)
  | .vcmp c p a b => some (wV3 0x1A p a b c.code)
  | .vaddi d a i => some (wVI 0x1B d a i.toNat)
  | .vmovi d i => some (wImm18 0x1C d i.toNat)
  | .vfadd d a b => some (wV3 0x1D d a b 0)
  | .vfsub d a b => some (wV3 0x1D d a b 1)
  | .vfmul d a b => some (wV3 0x1D d a b 2)
  | .vfma d a b => some (wV3 0x1D d a b 3)
  | .vfmin d a b => some (wV3 0x1D d a b 4)
  | .vfmax d a b => some (wV3 0x1D d a b 5)
  | .vfabs d a => some (wV3 0x1D d a 0 6)
  | .vfneg d a => some (wV3 0x1D d a 0 7)
  | .vfcmp c p a b => some (wV3 0x1E p a b c.code)
  | .vrcp d a l => some (wV3 0x1F d a 0 l)
  | .vrsq d a l => some (wV3 0x20 d a 0 l)
  | .vsqrt d a l => some (wV3 0x21 d a 0 l)
  | .vexp2 d a l => some (wV3 0x22 d a 0 l)
  | .vlog2 d a l => some (wV3 0x23 d a 0 l)
  | .vsin d a l => some (wV3 0x24 d a 0 l)
  | .vcos d a l => some (wV3 0x25 d a 0 l)
  | .pand d a b => some (wV3 0x26 d a b 0)
  | .por d a b => some (wV3 0x26 d a b 1)
  | .pxor d a b => some (wV3 0x26 d a b 2)
  | .pnot d a => some (wV3 0x26 d a 0 3)
  | .pset d s => some (wV3 0x26 d s 0 4)
  | .vcvt d a k t l => some (wV3 0x2C d a (k * 16 + t.toNat) l)
  | .vqnt d a k l => some (wV3 0x2D d a k l)
  | .vdqnt d a b k => some (wV3 0x2E d a b k)
  | .vpack d a b => some (wV3 0x2F d a b 0)
  | .vunpk h d a => some (wV3 0x2F d a 0 h.code)
  | .vclass d a => some (wV3 0x2F d a 0 3)
  | .vperm d a b => some (wV3 0x30 d a b 0)
  | .vbperm d a b => some (wV3 0x30 d a b 1)
  | .vslide d a b n => some (wV3 0x31 d a b n)
  | .vshfl k d a m => some (wVI 0x32 d a (k.code * 512 + m))
  | .vbcast d a m => some (wVI 0x32 d a (0x600 + m))
  | .vred c d a => some (wV3 0x33 d a 0 c.code)
  | .vscan c d a => some (wV3 0x33 d a 0 c.scanCode)
  | .vballot d p => some (wV3 0x33 d p 0 6)
  | .vcount d p => some (wV3 0x33 d p 0 7)
  | .vld t x b z l => some (wM 0x34 t x b z.toNat l)
  | .vst t x b z l => some (wM 0x35 t x b z.toNat l)
  | .vldc t b z o => some (wMS 0x36 t b z.toNat o.toNat)
  | .vstc t b z o => some (wMS 0x37 t b z.toNat o.toNat)
  | .sld d b m o => some (wMS 0x38 d b m.code o.toNat)
  | .sst d b m o => some (wMS 0x39 d b m.code o.toNat)
  | .tld t x b z l => some (wM 0x3A t x b z.toNat l)
  | .tst t x b z l => some (wM 0x3B t x b z.toNat l)
  | .pref b o => some (wMS 0x3C 0 b 0 o.toNat)
  | .cwb a b => some (wS3 0x3D 0 a b 0)
  | .cinv a b => some (wS3 0x3E 0 a b 0)
  | .cdisc a b => some (wS3 0x3F 0 a b 0)
  | .rdnpa d a => some (wS3 0x40 d a 0 0)
  | .atom o t x b z => some (wM 0x44 t x b z.toNat o.code)
  | .red o t x b z => some (wM 0x45 t x b z.toNat o.code)
  | .atomt o t x b z => some (wM 0x46 t x b z.toNat o.code)
  | .redt o t x b z => some (wM 0x47 t x b z.toNat o.code)
  | .wait c a b => some (wS3 0x48 0 a b c.code)
  | .bar n => some (wSI 0x49 0 0 n)
  | .ginit a b => some (wS3 0x4A 0 a b 0)
  | .gexpect a b => some (wS3 0x4A 0 a b 1)
  | .garrive a => some (wS3 0x4A 0 a 0 2)
  | .gwait p a b => some (wS3 0x4A p a b 3)
  | .chacq d a => some (wS3 0x4B d a 0 0)
  | .chacqNb d a => some (wS3 0x4B d a 0 1)
  | .chpub a => some (wS3 0x4B 0 a 0 2)
  | .chtake d a => some (wS3 0x4B d a 0 3)
  | .chtakeNb d a => some (wS3 0x4B d a 0 4)
  | .chfree a => some (wS3 0x4B 0 a 0 5)
  | .cmit => some (wS3 0x52 0 0 0 0)
  | .specrd d s => some (wSI 0x53 d 0 s)
  | .rsvrd d => some (wSI 0x54 d 0 0)
  | .rsvpin a b => some (wS3 0x55 0 a b 0)
  | .rsvunpin a b => some (wS3 0x55 0 a b 1)
  | .forfeit d a b => some (wS3 0x56 d a b 0)
  | .balrd d => some (wS3 0x57 d 0 0 0)
  | .balack a b => some (wS3 0x57 0 a b 1)
  | .czero a b => some (wS3 0x58 0 a b 0)
  | .csize f d a => some (wS3 0x59 d a 0 f.toNat)
  | .mloop d a b t k l => some (wMX 0x5A d a b t k.toNat l)
  | .mzero t => some (wMX 0x5B 0 0 0 t 0 0)
  | .mwait => some (wMX 0x5C 0 0 0 0 0 0)
  | .mrd d s t l => some (wV3 0x5D d s t l)
  | .mwr d s t l => some (wV3 0x5E d s t l)
  | .mdrain d t => some (wMX 0x5F d 0 0 t 0 0)
  | .mscl a b n => some (wS3 0x60 0 a b n)
  | .copy f d a b => some (wS3 0x62 d a b f.code)
  | .cwait a => some (wS3 0x63 0 a 0 0)
  | .cseq d => some (wS3 0x64 d 0 0 0)
  | .allred d a => some (wS3 0x65 d a 0 0)
  | .repsync d a b => some (wS3 0x66 d a b 0)
  | .cspill d => some (wS3 0x67 d 0 0 0)
  | .launchN a => some (wSys 0x68 0 a 0 0)
  | .launchT a => some (wSys 0x68 0 a 1 0)
  | .graphgo a => some (wSys 0x69 0 a 0 0)
  | .signal d a => some (wSys 0x69 d a 1 0)
  | .trap n => some (wSys 0x6A 0 0 0 n)
  | .brk n => some (wSys 0x6A 0 0 1 n)
  | .rte => some (wSys 0x6B 0 0 0 0)
  | .rdcap d n => some (wSys 0x6C d 0 0 n)
  | .csrr d n => some (wSys 0x6D d 0 0 n)
  | .csrw a n => some (wSys 0x6D 0 a 1 n)
  | .pcrd d n => some (wSys 0x6E d 0 0 n)
  | .logrd d n => some (wSys 0x6E d 0 1 n)
  | .fenceio => some (wSys 0x6F 0 0 0 0)
  | .vtanh d a l => some (wV3 0x70 d a 0 l)
  | .verf d a l => some (wV3 0x71 d a 0 l)
  | .vsigm d a l => some (wV3 0x72 d a 0 l)
  | .vpopc d a l => some (wV3 0x73 d a 0 l)
  | .vclz d a l => some (wV3 0x74 d a 0 l)
  | .vbrev d a l => some (wV3 0x75 d a 0 l)
  | .extensionEmulation .. => none
  | .illegalInstruction .. => none
  | .chunkCommit .. => none
  | .rollback .. => none
  | .levelChange .. => none
  | .regangTimeout .. => none
  | .faultAnswer .. => none
  | .waitWake .. => none
  | .gwaitWake .. => none
  | .channelWake .. => none
  | .cwaitWake .. => none
  | .mwaitWake .. => none
  | .engineComplete .. => none
  | .spillReplay .. => none
  | .allredRound .. => none
  | .kStep .. => none
  | .drain .. => none
  | .matrixCommandPerform .. => none
  | .writeBack .. => none
  | .anteRefill .. => none
  | .rowCapture .. => none
  | .rowUnpin .. => none
  | .bmePoisonReplace .. => none
  | .balloonRequest .. => none
  | .balloonUrgencyRaise .. => none
  | .balloonRequestExpiry .. => none
  | .teamPlace .. => none
  | .teamSwapOut .. => none
  | .teamRunnable .. => none
  | .quantumEnd .. => none
  | .residencyFloor .. => none
  | .teamRetire .. => none
  | .notifyRegisterWrite .. => none
  | .launchPacket .. => none
  | .graphPacket .. => none
  | .waitsigPacket .. => none
  | .signalPacket .. => none
  | .notifiedReread .. => none
  | .kernelNode .. => none
  | .copyNode .. => none
  | .signalNode .. => none
  | .waitNode .. => none
  | .condNode .. => none
  | .loopNode .. => none
  | .loopIteration .. => none
  | .contextCreate .. => none
  | .queueCreate .. => none
  | .contextReset .. => none
  | .hostRead .. => none
  | .hostWrite .. => none
  | .hostSnoop .. => none
  | .expanderLinkDown .. => none
  | .expanderTimeout .. => none
  | .linkFailure .. => none
  | .groupEnd .. => none
  | .healthThreshold .. => none
  | .spareBringIn .. => none
  | .junctionThrottle .. => none
  | .thermalReset => none
  | .powerOn => none
  | .getIdentityCertificate => none
  | .getAttestationReport .. => none
  | .getHealth => none
  | .setPowerLimit .. => none
  | .writeImage .. => none
  | .moduleReset => none
  | .contextDestroy .. => none
  | .promiseChange .. => none
  | .quotaChange .. => none
  | .leafEntryChange .. => none
  | .expanderBringBack .. => none
  | .collectiveGroupDefine .. => none
  | .engineSectorAccess .. => none
  | .corePowerGate .. => none

end Sys2Proof
end

