-- ==== Sys2Proof/Machine/FMap.lean ====
section
/-! DEFINITION. Tables from numbers to values, as lists with strictly rising keys. A table may have a default: what a key
that it does not list stands for; in its canonical form no entry holds the default, so equal tables are equal lists. -/

namespace Sys2Proof.Machine

/-- A table from numbers to values. -/
abbrev FMap (α : Type) := List (Nat × α)

/-- The entry of a key, if the table lists it. -/
def FMap.find? {α : Type} : FMap α → Nat → Option α
  | [], _ => none
  | (k, v) :: m, i => if k = i then some v else FMap.find? m i

/-- The value of a key, `d` where the table does not list it. -/
def FMap.get {α : Type} (d : α) : FMap α → Nat → α
  | [], _ => d
  | (k, v) :: m, i => if k = i then v else FMap.get d m i

/-- The table without a key. -/
def FMap.erase {α : Type} (m : FMap α) (i : Nat) : FMap α := m.filter fun e => e.1 != i

/-- An entry put in its place by key. -/
def FMap.insertSorted {α : Type} : FMap α → Nat → α → FMap α
  | [], i, v => [(i, v)]
  | (k, w) :: m, i, v => if i < k then (i, v) :: (k, w) :: m else (k, w) :: FMap.insertSorted m i v

/-- The table with `v` at a key. -/
def FMap.put {α : Type} (m : FMap α) (i : Nat) (v : α) : FMap α := FMap.insertSorted (FMap.erase m i) i v

/-- The table whose value at a key is `v`, in canonical form for the default `d`. -/
def FMap.set {α : Type} [DecidableEq α] (d : α) (m : FMap α) (i : Nat) (v : α) : FMap α :=
  if v = d then FMap.erase m i else FMap.put m i v

/-- The table with `f` applied at a key that it lists. -/
def FMap.modify {α : Type} : FMap α → Nat → (α → α) → FMap α
  | [], _, _ => []
  | (k, v) :: m, i, f => if k = i then (k, f v) :: m else (k, v) :: FMap.modify m i f

/-- The keys of a table. -/
def FMap.keys {α : Type} (m : FMap α) : List Nat := m.map (·.1)

/-- Keys strictly rising. -/
def FMap.sorted {α : Type} : FMap α → Bool
  | [] => true
  | [_] => true
  | a :: b :: m => decide (a.1 < b.1) && FMap.sorted (b :: m)

/-- The canonical form: keys strictly rising, no entry equal to the default. -/
def FMap.wf {α : Type} [DecidableEq α] (d : α) (m : FMap α) : Bool := FMap.sorted m && m.all fun e => e.2 != d

end Sys2Proof.Machine
end

