-- ==== Sys2Proof/Machine/State.lean ====
section
/-! DEFINITION. What the machine holds: every piece of state that the spec gives the Chasol, module-wide, as plain data, and
the module right after reset. The last six fields of State are the model's own: the gang the present instruction acts on, the
order in which agents move, the number of free values drawn, the idle opportunities, what has left the module and the values that stores
have given words. -/

namespace Sys2Proof.Machine

/-- Memory by nominal physical address, one byte a cell, in canonical form (R16, R134). -/
abbrev Memory := List Host.Cell

/-- What a byte of memory that nothing has written reads as: 0, since storage granted to a new owner reads as zero and reset
clears every storage array (R23, R188, R360 step 4). DEDUCED, log entry 5. -/
def Memory.blank : Byte := 0

/-- The canonical form of memory: addresses strictly rising, no cell equal to what an unlisted address reads as. -/
def Memory.wf (m : Memory) : Bool := FMap.wf Memory.blank m

/-! ### Slices and gangs -/

/-- A register of a slice (R11). -/
inductive Reg
  | s (n : Nat)
  | v (n : Nat)
  | p (n : Nat)
  deriving DecidableEq, Repr

/-- An open lookahead window (R39 to R42): its instruction, where it stood, the MODE that it read and the slices of its gang; the registers that it wrote and those that
it read, with what they held before it (a scalar in 64 bits, a vector register as four words with lane 0 lowest, a predicate in 4 bits); those of its
destinations that a later instruction has written; its place in its chunk, and whether that chunk is the one in commit (R206); whether the instruction has completed
(the promise goes on, but no source can be read too early any more); the flags that it has raised, none once an SWR has written %fpx, and those that stand
without it; and how many later instructions the promise still covers. -/
structure Window where
  instr : Instr
  pc    : W64
  mode  : BitVec 16
  ks    : List Nat
  wrote : List (Reg × BitVec 128)
  read  : List (Reg × BitVec 128)
  lost  : List Reg
  num   : Nat
  old   : Bool
  complete : Bool
  own   : Option (BitVec 6)
  rest  : BitVec 6
  left  : Nat
  deriving DecidableEq, Repr

/-- The state that a checkpoint saves (R11, R20, R31, R34, R82, R83). Registers that a table does not list are 0;
`v` is keyed by 4 × register + lane, `p` holds the four lanes of a predicate. -/
structure Regs where
  s         : FMap W64
  v         : FMap W32
  p         : FMap Lanes
  mode      : BitVec 16
  pc        : W64
  fpx       : BitVec 6
  delivered : BitVec 6
  wins      : List Window
  deriving DecidableEq, Repr

/-- What a read signature or a written-line count counts (R199, R202): a line of memory (NPA >> 7), a line of a team's team
memory (offset >> 7), a balloon mailbox, a team's issued or done counter, the counters of a channel, an error log's head. -/
inductive LineId
  | mem (line : Nat)
  | team (t line : Nat)
  | mailbox (ctx : Nat)
  | issued (t : Nat)
  | done (t : Nat)
  | chan (t c : Nat)
  | log (ctx : Nat)
  | range (n : Nat)
  deriving DecidableEq, Repr

/-- A byte that a store writes: its virtual address, its nominal physical address, whether its leaf replicates the page (an alias store does not,
R217), its value. -/
structure StoreByte where
  va  : Nat
  npa : Nat
  rep : Bool
  val : Byte
  deriving DecidableEq, Repr

/-- The tile command of an MLOOP, as read at issue (R263, R267). -/
structure LoopCmd where
  tile   : Nat
  fa     : BitVec 64
  fb     : BitVec 64
  ka     : Bool
  params : List W64
  desc   : List Byte
  deriving DecidableEq, Repr

/-- A matrix command (R259). `drain` holds registers +5 to +7 and the descriptor (R267, R271). -/
inductive MatOp
  | loop (c : LoopCmd)
  | drain (tile : Nat) (params : List W64) (desc : List Byte)
  | zero (tile : Nat)
  | write (tile row col : Nat) (lanes : List (Nat × W32))
  | scale (off idx groups : Nat)
  deriving DecidableEq, Repr

/-- A held engine command (R276): what it does. A COPY's binding names a gate's offset, or a channel's owner and number. -/
inductive EngOp
  | copy (bind : Binding) (gate : Nat) (chan : Option (Nat × Nat)) (va : W64) (desc : List Byte) (slot : BitVec 64)
  | allred (desc : List Byte) (va : W64)
  | repsync (base len : W64)
  deriving DecidableEq, Repr

/-- Maintenance and capacity instructions over a range (R154, R192, R193). -/
inductive RangeOp | pin | unpin | zero | wb | inv | disc
  deriving DecidableEq, Repr

/-- One lane of a held reduction: where, and the operand. `npa` is a team-memory offset for REDT. -/
structure RedLane where
  va  : Nat
  npa : Nat
  rep : Bool
  val : W64
  deriving DecidableEq, Repr

/-- Updates of a gate (R235) and of a channel's counters (R240). -/
inductive GateOp
  | init (arrive : BitVec 16)
  | expect (n : W32)
  | arrive
  deriving DecidableEq, Repr

inductive ChanOp | acq | pub | take | free
  deriving DecidableEq, Repr

/-- An effect held until commit (R201). `leaves` are the nominal physical addresses of the leaf entries it goes through, whose
d bits its commit sets (R140). -/
inductive Held
  | store (nc : Bool) (bytes : List StoreByte) (leaves : List Nat)
  | tstore (bytes : List (Nat × Byte))
  | red (op : AtomOp) (wide : Bool) (mode : BitVec 16) (lanes : List RedLane) (leaves : List Nat)
  | redt (op : AtomOp) (wide : Bool) (mode : BitVec 16) (lanes : List RedLane)
  | gate (off : Nat) (o : GateOp)
  | chan (team c : Nat) (o : ChanOp)
  | range (o : RangeOp) (base len : W64) (num : Nat)
  | matrix (o : MatOp)
  | engine (ticket : Nat) (o : EngOp)
  | launchN (addr : W64) (bytes : List Byte)
  | launchT (addr : W64) (bytes : List Byte)
  | graph (addr : W64) (bytes : List Byte)
  | signal (bytes : List StoreByte) (leaves : List Nat)
  | csr (n : Nat) (v : W64)
  deriving DecidableEq, Repr

/-- A held effect with the address of its instruction, and its instruction's place in the chunk (R180). -/
structure HeldItem where
  pc  : W64
  num : Nat
  eff : Held
  deriving DecidableEq, Repr

/-- The closer that a slice sleeps in (R203), for WAIT, GWAIT, CHACQ and CHTAKE the instruction; for CWAIT and MWAIT the count that it
waits for (R289, R273), the CWAIT's of completed tickets, the MWAIT's of released commands. -/
inductive Sleep
  | wait (i : Instr)
  | bar
  | gate (i : Instr)
  | chan (i : Instr)
  | cwait (target : Nat)
  | mwait (target : Nat)
  deriving DecidableEq, Repr

inductive Status
  | run
  | asleep (k : Sleep)
  | exited
  deriving DecidableEq, Repr

/-- What a completed lane of a parked store or reduction leaves in the instruction's buffer (R151): the bytes of a store, with
whether its page is NC, or a reduction; and the NPA of its leaf entry. -/
structure Buffered where
  lane  : Nat
  nc    : Bool
  bytes : List StoreByte
  red   : Option RedLane
  leaf  : Nat
  deriving DecidableEq, Repr

/-- A parked instruction of a slice (R151), none where it is the fetch that waits (R152): the lanes left and the lanes it began with, their addresses as first formed, the 64 KiB
pages whose answers it awaits, the buffer, the lines that its completed lanes read, the lanes performed at another agent, which are never
performed again (R148), and whether the slice has completed it and waits for the rest of its gang alone (R151). -/
structure Park where
  instr : Option Instr
  mask  : Lanes
  all   : Lanes
  far   : Lanes
  vas   : List (Nat × W64)
  pages : List Nat
  buf   : List Buffered
  rset  : List LineId
  done  : Bool := false
  deriving DecidableEq, Repr

/-- The open chunk of a slice (R199): its checkpoint, its counts, its held effects in program order, the 64 KiB pages that it fetched from (R141), whether it has ended and waits for its commit (R200), and the
values of ctx.lachk and ctx.fpxen that it obeys (R47: another slice's write is obeyed from the next chunk start). -/
structure Chunk where
  ckpt   : Regs
  instrs : Nat
  held   : List HeldItem
  wlines : List LineId
  rlines : List LineId
  code   : List Nat
  ended  : Bool
  lachk  : Bool
  fpxen  : BitVec 6
  deriving DecidableEq, Repr

/-- A slice (R11): registers, open chunk; the one earlier chunk in commit, before its commit point, and whether an invalidation has hit it (R205, R206), or,
past its commit point, what step 6 of R204 has still to do for it; the enabled flags under which the commit of a CMIT has still to deliver (R83); the handler
flag (R329), the escalation state (R210, R211), the counters of SPECRD (R213), what it sleeps in, whether an invalidation
has hit its open chunk (R205), its park, the tile of a waiting MRD and the count of released matrix commands that it waits for (R274), and its copies of NC
lines in the L1 (R147). -/
structure Slice where
  regs      : Regs
  chunk     : Chunk
  prev      : Option Chunk
  prevHit   : Bool
  post      : List HeldItem
  tell      : Option (BitVec 6)
  handler   : Bool
  level     : Nat
  rb        : Nat
  cm        : Nat
  rollbacks : Nat
  commits   : Nat
  status    : Status
  hit       : Bool
  park      : Option Park
  mark      : Option (Nat × Nat)
  nc        : FMap (List Byte)
  deriving DecidableEq, Repr

/-- A gang (R11, R86, R97): slices of one home gang in ascending order, its ageing count, and the opportunities passed since
its wait at a REGANG began (R99). -/
structure Gang where
  team : Nat
  ks   : List Nat
  age  : Nat
  wait : Option Nat
  deriving DecidableEq, Repr

/-! ### Teams and launches -/

/-- A channel (R237). -/
structure Chan where
  base   : Nat
  lsz    : Nat
  count  : Nat
  free   : Nat
  filled : Nat
  acq    : W32
  pub    : W32
  take   : W32
  rel    : W32
  deriving DecidableEq, Repr

/-- A command in a team's matrix queue (R259): the order of its release, the slice and the core that issued it, the K-steps done,
whether an int32 sum wrapped (R81), whether its drain has run and waits for spilled writes, the conditions that the drain met (bit 0
invalid, bit 2 overflow; R268), the first failing address, and the pages whose faults it posted and those answered as unresolvable
(R269, R286). -/
structure MatCmd where
  num     : Nat
  slice   : Nat
  core    : Nat
  op      : MatOp
  steps   : Nat
  wrapped : Bool
  drained : Bool
  flags   : BitVec 6
  bad     : Option Nat
  asked   : List Nat
  gone    : List Nat
  deriving DecidableEq, Repr

/-- Where a team is: in its ready pool, resident on a core with the quarter of each home gang, swapped out, or retired
(R318 to R324). `order` is the order of placement, `since` the quanta resident. -/
inductive Place
  | ready
  | resident (core : Nat) (quarters : List Nat) (order since : Nat)
  | swapped
  | retired
  deriving DecidableEq, Repr

/-- A team (R11, R12): its launch, coordinate and stage; its team slot (R327); team memory (R135), scale memory, B-store and
accumulator tiles (R252, R258; a tile element is keyed by 32768 × tile + 256 × row + column, a B-store byte by
65536 × bank + offset); matrix queue and released count (R259); drain conditions not yet joined, by slice (R273); engine
counters (R277); barrier (R233); channels (R237); quanta passed over (R320); whether it has been where it is since its die's quantum began (R320, R322); the
core that it was on last (R348); pages awaited after a swap-out (R153), and, of a team swapped out while every slice sleeps, what each sleeps in and how
that stood (R323); the granules of its image (R324). -/
structure Team where
  launch   : Nat
  ctx      : Nat
  x        : Nat
  y        : Nat
  z        : Nat
  stage    : Nat
  slices   : Nat
  slot     : Option Nat
  place    : Place
  started  : Bool
  tmem     : FMap Byte
  scale    : FMap (BitVec 16)
  bstore   : FMap Byte
  acc      : FMap W32
  queue    : List MatCmd
  released : Nat
  conds    : FMap (BitVec 6)
  issued   : Nat
  ended    : List Nat
  arrivals : Nat
  target   : Nat
  chans    : List Chan
  passed   : Nat
  whole    : Bool
  floor    : Bool
  last     : Option Nat
  awaited  : List Nat
  watch    : List (Nat × Sleep × List Nat)
  image    : List Nat
  deriving DecidableEq, Repr

/-- A launch record's fields (R304), its counts as the spec reads them (slices and stages from 1, registers in number). -/
structure LaunchRec where
  entry  : W64
  args   : W64
  signal : W64
  value  : W64
  chtab  : W64
  nx     : Nat
  ny     : Nat
  nz     : Nat
  tmem   : Nat
  slices : Nat
  stages : Nat
  vregs  : Nat
  sregs  : Nat
  chan   : Nat
  acc    : Nat
  bstore : Nat
  prio   : Nat
  sigadd : Bool
  slots  : List (BitVec 64)
  deriving DecidableEq, Repr

/-- What a launch, a graph or a graph's copy completes for (R302, R311). -/
inductive Origin
  | packet (q idx : Nat)
  | node (g n : Nat)
  | slice
  | tail
  deriving DecidableEq, Repr

/-- An admitted launch (R306, R307): its record and the record's address, its context, the teams retired, its tails (R316), what
it completes for, whether it has completed, and, for its fetches (R27), memory as it stood at its admission and how many values
stores had given words by then. -/
structure Launch where
  params  : LaunchRec
  addr    : W64
  ctx     : Nat
  retired : Nat
  tails   : List (W64 × List Byte)
  origin  : Origin
  done    : Bool
  snap    : Memory
  past    : Nat
  deriving DecidableEq, Repr

/-- A node of a graph, from the command processor's copy (R309). -/
structure Node where
  kind  : Nat
  cond  : Nat
  deps  : Nat
  setA  : List Nat
  setB  : List Nat
  p0    : W64
  p1    : W64
  first : Nat
  last  : Nat
  max   : Nat
  deriving DecidableEq, Repr

/-- Where a node stands in a run (R311, R312). -/
inductive NodeState | idle | running | done
  deriving DecidableEq, Repr

/-- A run of a graph (R310 to R312): its nodes, working counts, states, iterations of LOOPs, the LOOPs whose
bodies are entered, where its nodes lie while it waits to be read (R366), the notification count at the last reading of a WAIT's word, and whether an access was refused (R366). -/
structure GraphRun where
  ctx     : Nat
  header  : W64
  signal  : W64
  value   : W64
  sigadd  : Bool
  nodes   : List Node
  counts  : List Nat
  states  : List NodeState
  iters   : List Nat
  entered : List Bool
  start   : Option (W64 × Nat)
  seen    : List Nat
  refused : Bool
  origin  : Origin
  done    : Bool
  deriving DecidableEq, Repr

/-! ### Contexts and the command processor -/

/-- The balloon mailbox (R185). -/
structure Mailbox where
  id       : W64
  wanted   : W32
  owed     : W32
  urgency  : Nat
  answered : W64
  given    : W32
  deriving DecidableEq, Repr

/-- A context (R297): capacity (R17, R178), the registers of R46, its error log (R335), page-table root (R136), mailbox, whether
admission is stopped and whether it is halted by a context fault (R334), its counters of R338 (entries posted and merged by
die), the notifications given (R303), the pages that accesses of the command processor wait for, each with the access's kind and number (R366), the quanta since its urgency last rose and the die its request is for (R341), the quanta
since it had a team resident, by die (R322). -/
structure Ctx where
  quota     : Int
  occupied  : Nat
  promise   : Nat
  mapped    : Nat
  tvec      : W64
  trapbase  : W64
  lachk     : Bool
  fpxen     : BitVec 6
  logbase   : W64
  logExp    : Nat
  logHead   : Nat
  prio      : Nat
  root      : Nat
  shared    : Bool
  mailbox   : Mailbox
  stopped   : Bool
  halted    : Bool
  capFaults : Nat
  traps     : Nat
  posted    : FMap Nat
  merged    : FMap Nat
  notified  : Nat
  asked     : List (Nat × Nat × Nat)
  openDie   : Option Nat
  openFor   : Nat
  absent    : FMap Nat
  deriving DecidableEq, Repr

/-- A packet that the command processor has consumed and that has not completed (R301, R302): its number in the queue's order, its kind (1 a
launch, 2 a graph, 3 WAITSIG, 4 SIGNAL), and for the last two the word's address, the value and the comparison. -/
structure PacketRun where
  idx   : Nat
  kind  : Nat
  addr  : W64
  value : W64
  cond  : Nat
  deriving DecidableEq, Repr

/-- A host queue (R299, R300): its context, ring, read-index word, read index, the largest value written to its notify register,
the packets that have not completed, the notification count at the last reading of a WAITSIG's word, and whether its read-index word waits for its page to be
written (R366). -/
structure HostQueue where
  ctx      : Nat
  base     : W64
  exp      : Nat
  rix      : W64
  read     : Nat
  posted   : Nat
  packets  : List PacketRun
  waiting  : Option Nat
  owes     : Bool := false
  deriving DecidableEq, Repr

/-! ### Memory system -/

/-- The metadata of a compression block (R172, R173): stored codes by line (0 where not listed), granule pointers, owner (none:
device-owned), home die, flags, and whether the entry fails its check (R174). `sys`: how many leaves of its owning context map it SYS (R345). `lent`: the
context whose trap area or error log a device-owned block belongs to, by the service processor's own records (R327, R335). `gp`: the page's leaf has gp = 1 (R184). -/
structure Block where
  codes  : FMap Nat
  count  : Nat
  ptrs   : List Nat
  owner  : Option Nat
  home   : Nat
  uio    : Bool
  pinned : Bool
  rep    : Bool
  bad    : Bool
  gp     : Bool
  sys    : Nat
  lent   : Option Nat
  deriving DecidableEq, Repr

/-- A line that an LLC holds (R168, R169): dirty, its code, the indices of its sectors in its set's pool, its pin, and when it was last used. -/
structure LlcLine where
  dirty   : Bool
  code    : Nat
  sectors : List Nat
  pin     : Bool
  stamp   : Nat
  deriving DecidableEq, Repr

/-- Free granules, as runs (first granule, how many) in ascending order (R161, R182). -/
abbrev Pool := List (Nat × Nat)

/-- An entry of a fault queue (R339). `page` is VA[56:16]. -/
structure FaultEntry where
  seq    : Nat
  merged : Nat
  core   : Nat
  tslot  : Nat
  mtx    : Bool
  eng    : Bool
  mal    : Bool
  kind   : Nat
  lanes  : Nat
  ctx    : Nat
  page   : Nat
  deriving DecidableEq, Repr

/-- A write of up to 32 bytes in a spill buffer (R286): of an engine thread, or of a team's matrix command, in a context; its bytes by
virtual address, each with the mask of the bits that it writes. -/
structure Spill where
  ctx    : Nat
  engine : Option Nat
  team   : Option Nat
  cmd    : Nat
  bytes  : List (Nat × Byte × Byte)
  deriving DecidableEq, Repr

/-- A compute die: its pool, the antes of its LLC slices (R182), the service processor's stock and the loans on it (R183), the
counters of R171, its fault queue and the faults that wait for room in it (R339), its spill buffer (R286), the counters of R338, its
quantum (R321) and how many have passed, the quanta since its last POOL failure and the shares still to be asked of contexts for it (R341), its clock step in sixteenths below
nominal (R358), and its hash masks (R160). -/
structure Die where
  pool     : Pool
  antes    : List Pool
  stock    : Pool
  loans    : FMap Nat
  evicts   : FMap Nat
  captures : FMap Nat
  fq       : List FaultEntry
  fqWait   : List FaultEntry
  fqSeq    : Nat
  spill    : List Spill
  tlbMiss  : Nat
  walks    : Nat
  swapOuts : Nat
  opps     : Nat
  quanta   : Nat
  poolFail : Option Nat
  asks     : List (Nat × Nat)
  step     : Nat
  masks    : List (BitVec 21)
  deriving DecidableEq, Repr

/-- A core as fabricated (R6, R7): its number (R43, none for a spare not brought in), its cycle counter (R91) with the last value read of it by
quarter, its counters of R338
(issue opportunities and gang instructions by quarter), whether it is worn and whether it is gated (R348, R362), and the teams whose loops its array has given a K-step in the present turn (R259). -/
structure Core where
  num       : Option Nat
  clk       : Nat
  clkRead   : FMap Nat
  opps      : FMap Nat
  issues    : FMap Nat
  tlbMiss   : Nat
  rollbacks : Nat
  worn      : Bool
  gated     : Bool
  stepped   : List Nat
  deriving DecidableEq, Repr

/-- What an engine thread is (R276, R311). -/
inductive EngKind | copy | allred | repsync
  deriving DecidableEq, Repr

/-- An engine thread (R212, R276 to R293): who issued it and where, its ticket, its descriptor with the descriptor's address, the range of
a REPSYNC, its binding with the gate offset or the channel's owner, number and acquired slot, the format slot of conv = 2; the source
sectors read, by their numbers (an empty list: unreadable), the writes performed by their numbers, the bytes delivered, the first failing
address, the pages whose faults it posted and those answered as unresolvable, whether it writes nothing more, whether its context's reset
has stopped it (R288), whether an ALLRED takes part in its group's round (R292), what it completes for, and whether it has completed. -/
structure Engine where
  kind    : EngKind
  ctx     : Nat
  team    : Option Nat
  slice   : Nat
  die     : Nat
  core    : Nat
  ticket  : Nat
  desc    : List Byte
  va      : W64
  base    : W64
  len     : W64
  bind    : Binding
  gate    : Nat
  chan    : Option (Nat × Nat)
  chSlot  : Option Nat
  slot    : BitVec 64
  got     : FMap (List Byte)
  perf    : List Nat
  sent    : Nat
  failed  : Option Nat
  asked   : List Nat
  gone    : List Nat
  void    : Bool
  stopped : Bool
  joined  : Bool
  origin  : Origin
  done    : Bool
  deriving DecidableEq, Repr

/-- A collective group (R355), with the number of its round, if one is in progress, or else the lowest number that may open one (R292). -/
structure Group where
  members : List Member
  round   : W64
  isOpen  : Bool
  deriving DecidableEq, Repr

/-- A memory expander (R350, R351): its NPA range (first block, blocks), its pool, whether it has failed. -/
structure Expander where
  first  : Nat
  blocks : Nat
  pool   : Pool
  failed : Bool
  deriving DecidableEq, Repr

/-- The module outside its dies (R352, R357 to R364); `domain` is its number in the load-store domain; `bootLate` and `mapLate` say that flash's copy B was
written after copy A. -/
structure Module where
  domain     : Nat
  inReset    : Bool
  powerLimit : Nat
  health     : FMap Nat
  bootA      : Option BootImage
  bootB      : Option BootImage
  mapA       : Option RepairMap
  mapB       : Option RepairMap
  bootVer    : Nat
  mapSeq     : Nat
  boot       : Option BootImage
  map        : Option RepairMap
  newMap     : Option RepairMap
  links      : List Nat
  cause      : Nat
  timeout    : Nat
  cert       : Option (List Byte)
  bootLate   : Bool := false
  mapLate    : Bool := false
  deriving DecidableEq, Repr

/-! ### The order of moves, and what leaves the module -/

/-- One move of the machine: an event, or an issue opportunity of a quarter of a core, `core` being 18 × die + core as fabricated;
`busy` names by team and lowest slice the gangs that are not ready for reasons of time (R85: an operand not yet complete, a
unit or walker that cannot accept); or the retry of a parked gang, by one of its slices, a page that it awaits having been answered (R151).
DESIGN CHOICE, log entry 2. -/
inductive Move
  | event (i : Instr)
  | opp (core q : Nat) (busy : List (Nat × Nat))
  | retry (team k : Nat)
  deriving DecidableEq, Repr

/-- What leaves the module: answers to the host (R345), to management (R364), driver events (R334), transactions on IO pages
(R148) and through the remote window (R353). -/
inductive Out
  | hostData (npa : Nat) (bytes : List Byte) (poison : Bool)
  | driver (ctx code : Nat)
  | io (npa : Nat) (write : Bool) (bytes : List Byte)
  | remote (npa : Nat) (write : Bool) (bytes : List Byte)
  | certificate (bytes : List Byte)
  | report (bytes : List Byte)
  | health (temps powers clocks : List Nat) (counters : List (Nat × Nat)) (spares worn bonds rows : List Nat)
  | restart (cause : Nat)
  deriving DecidableEq, Repr

/-- The gang that the present instruction acts on, and whether the instruction has waited and not issued (R203, R206). -/
structure Cur where
  team : Nat
  ks   : List Nat
  waits : Bool := false
  deriving DecidableEq, Repr

/-! ### The module -/

structure State where
  mem      : Memory
  blocks   : FMap Block
  llc      : FMap LlcLine
  replicas : FMap (List (Nat × Nat))
  hostMem  : List (Nat × Nat)
  clock    : Nat
  dies     : FMap Die
  cores    : FMap Core
  slices   : FMap Slice
  gangs    : List Gang
  teams    : FMap Team
  launches : FMap Launch
  graphs   : FMap GraphRun
  ctxs     : FMap Ctx
  queues   : FMap HostQueue
  engines  : FMap Engine
  groups   : FMap Group
  expanders : FMap Expander
  module   : Module
  cur      : Cur
  tape     : List Move
  draws    : Nat
  idle     : Nat
  out      : List Out
  words    : List (Nat × Nat)
  deriving DecidableEq, Repr

/-! ### Reset (R6, R160, R182, R357 to R361) -/

/-- Granules of a die's HBM4: 96 GB of 512 bytes (R161). -/
def dieGranules : Nat := 187500000

/-- The granules of a die's spill buffer, 64 MiB, which no pool holds (R286). -/
def spillGranules : Nat := 131072

/-- The granules of the service processor's stock on a die, and of each ante, after reset. DESIGN CHOICE, log entry 4. -/
def resetStock : Nat := 65536
def resetAnte : Nat := 512

/-- The NPAs that stand for host memory (R346): from 1,536 GB up to 2^47, in 64 KiB frames; expander ranges within it are not host memory.
PRESUMED, log entry 6. -/
def resetHost : Nat × Nat := (23437500, 2 ^ 31 - 23437500)

/-- The hash masks that hardware uses unless the boot image says otherwise (R160). -/
def defaultMasks : List (BitVec 21) := (List.range 7).map fun j => 1#21 <<< j

/-- A die after reset: its free granules in the antes of its sixteen LLC slices, the pool and the stock, but for those of its spill buffer. -/
def Die.reset (masks : List (BitVec 21)) : Die :=
  { pool := [(16 * resetAnte, dieGranules - 16 * resetAnte - resetStock - spillGranules)], antes := (List.range 16).map fun i => [(i * resetAnte, resetAnte)],
    stock := [(dieGranules - resetStock, resetStock)], loans := [], evicts := [], captures := [], fq := [], fqWait := [], fqSeq := 0,
    spill := [], tlbMiss := 0, walks := 0, swapOuts := 0, opps := 0, quanta := 0, poolFail := none, asks := [], step := 0, masks := masks }

/-- The images in flash of a module that has never been repaired. -/
def defaultBoot : BootImage :=
  { version := 0, masks := List.replicate 4 defaultMasks, timeout := 4500000, health := [], power := 2600, body := [], sig := none }
def defaultMap : RepairMap :=
  { seq := 0, cores := List.replicate 4 (List.range 16), retired := [], llcSets := [], bonds := [], serdes := [], rows := [], channels := [], sig := none }

/-- The core as fabricated `i`, from the enabled cores of its die in the order of their numbers (R6, R7, R43); one that a spare has replaced
is worn (R361). -/
def Core.reset (map : RepairMap) (i : Nat) : Core :=
  let num := ((map.cores.getD (i / 18) []).findIdx? fun c => c == i % 18)
  { num := num, clk := 0, clkRead := [], opps := [], issues := [], tlbMiss := 0, rollbacks := 0, worn := (map.retired.getD (i / 18) []).contains (i % 18), gated := num.isNone, stepped := [] }

def Module.reset : Module :=
  { domain := 0, inReset := false, powerLimit := 2600, health := [], bootA := some defaultBoot, bootB := none, mapA := some defaultMap, mapB := none,
    bootVer := 0, mapSeq := 0, boot := some defaultBoot, map := some defaultMap, newMap := none, links := List.range 18, cause := 0,
    timeout := 4500000, cert := none }

/-- The module right after reset, with its two images accepted: every storage array clear, no context, no team, no move at hand
(R23, R360). DESIGN CHOICE, log entry 4. -/
def State.reset : State :=
  { mem := [], blocks := [], llc := [], replicas := [], hostMem := [resetHost], clock := 0,
    dies := (List.range 4).map fun d => (d, Die.reset defaultMasks),
    cores := (List.range 72).map fun i => (i, Core.reset defaultMap i),
    slices := [], gangs := [], teams := [], launches := [], graphs := [], ctxs := [], queues := [], engines := [], groups := [],
    expanders := [], module := Module.reset, cur := { team := 0, ks := [] }, tape := [], draws := 0, idle := 0, out := [], words := [] }

/-- Why a step stops. -/
inductive Fault
  /-- The module is held in reset: no accepted boot image or repair map (R359), and no management command is at hand. Raised by
  `step` when it is asked for anything but a management command then. Safe: the spec lets nothing else happen. -/
  | heldInReset
  deriving DecidableEq, Repr

/-- Why an instruction has no meaning. -/
inductive Refusal
  /-- The model does not give the instruction a meaning yet; raised only by an arm of `exec`. Safe: the run stops. -/
  | notModelled (mnemonic : String)
  deriving DecidableEq, Repr

end Sys2Proof.Machine
end

