-- ==== Sys2Proof/Machine/Line.lean ====
section
/-! DEFINITION. Lines, their encodings, where they live in an LLC and in the HBM4 array, and the block metadata entry
(R160, R164 to R168, R172 to R174). -/

namespace Sys2Proof.Machine

/-! ### Little-endian words (R3) -/

/-- The number whose bytes, least significant first, these are. -/
def leNat : List Byte → Nat
  | [] => 0
  | b :: bs => b.toNat + 256 * leNat bs

/-- The `k` low bytes of a number, least significant first. -/
def leBytes : Nat → Nat → List Byte
  | 0, _ => []
  | k + 1, n => BitVec.ofNat 8 n :: leBytes k (n / 256)

/-- The bytes of a list of 32-bit words. -/
def wordsBytes (ws : List W32) : List Byte := ws.flatMap fun w => leBytes 4 w.toNat

/-- The 32-bit words of a list of bytes. -/
def bytesWords : List Byte → List W32
  | a :: b :: c :: d :: r => BitVec.ofNat 32 (leNat [a, b, c, d]) :: bytesWords r
  | _ => []

/-- The 64-bit doublewords of a list of words. -/
def wordsDoubles : List W32 → List W64
  | a :: b :: r => (b ++ a : BitVec 64) :: wordsDoubles r
  | _ => []

/-! ### Codes (R164) -/

def codeZero : Nat := 0
def codeRep : Nat := 1
def codeB8 : Nat := 2
def codeZr1 : Nat := 3
def codeB4D1 : Nat := 4
def codeZr2 : Nat := 5
def codeB4D2 : Nat := 6
def codeZr3 : Nat := 7
def codeRaw : Nat := 8
def codePoison : Nat := 15

/-- Sectors of a code (R164). Codes 9 to 15 occupy none. -/
def codeSectors : Nat → Nat
  | 1 => 1
  | 2 => 1
  | 3 => 1
  | 4 => 2
  | 5 => 2
  | 6 => 3
  | 7 => 3
  | 8 => 4
  | _ => 0

/-- A code that reads as poison (R167). -/
def codePoisoned (c : Nat) : Bool := decide (9 ≤ c)

/-- fits (R165): the word, read as signed, fits in `n` bits. -/
def fitsBits (n : Nat) (x : W32) : Bool := decide (-(2 ^ (n - 1) : Int) ≤ x.toInt) && decide (x.toInt ≤ 2 ^ (n - 1) - 1)

/-- The base of base_fits: the lowest word that does not fit, or 0 (R165). -/
def lineBase (n : Nat) : List W32 → W32
  | [] => 0
  | w :: ws => if fitsBits n w then lineBase n ws else w

/-- base_fits (R165). -/
def baseFits (n : Nat) (ws : List W32) : Bool :=
  ws.all fun w => fitsBits n w || fitsBits n (w - lineBase n ws)

/-- The number of words that are not 0. -/
def nonzeroWords (ws : List W32) : Nat := (ws.filter fun w => w != 0).length

/-- δ(i) of B8D1 fits in a byte (R164). -/
def deltaFits8 (base d : W64) : Bool := decide (-128 ≤ (d - base).toInt) && decide ((d - base).toInt ≤ 127)

/-- Whether the condition of a code of 1 to 8 holds for a line (R164). -/
def codeApplies (c : Nat) (ws : List W32) : Bool :=
  match c with
  | 1 => ws.all fun w => w == ws.headD 0
  | 2 => (wordsDoubles ws).all fun d => deltaFits8 ((wordsDoubles ws).headD 0) d
  | 3 => decide (nonzeroWords ws ≤ 7)
  | 4 => baseFits 8 ws
  | 5 => decide (nonzeroWords ws ≤ 15)
  | 6 => baseFits 16 ws
  | 7 => decide (nonzeroWords ws ≤ 23)
  | 8 => true
  | _ => false

/-- encode_line (R166): the candidate with the fewest sectors, a tie to the lowest code. Codes rise with their sectors, so the
lowest code that applies is that candidate. -/
def encodeLine (ws : List W32) : Nat :=
  if ws.all fun w => w == 0 then codeZero
  else if codeApplies 1 ws then 1
  else if codeApplies 2 ws then 2
  else if codeApplies 3 ws then 3
  else if codeApplies 4 ws then 4
  else if codeApplies 5 ws then 5
  else if codeApplies 6 ws then 6
  else if codeApplies 7 ws then 7
  else codeRaw

/-- Zeros up to a whole number of bytes (R164: unused bytes of the last sector are 0). -/
def padTo (n : Nat) (bs : List Byte) : List Byte := bs ++ List.replicate (n - bs.length) 0

/-- A mask with bit i set where the i-th word satisfies a test. -/
def maskOf (p : W32 → Bool) : List W32 → Nat
  | [] => 0
  | w :: ws => (if p w then 1 else 0) + 2 * maskOf p ws

/-- The stored bytes of a line under a code (R164, R165). -/
def storeLine (c : Nat) (ws : List W32) : List Byte :=
  match c with
  | 1 => padTo 32 (leBytes 4 (ws.headD 0).toNat)
  | 2 =>
    let ds := wordsDoubles ws
    let base := ds.headD 0
    padTo 32 (leBytes 8 base.toNat ++ ds.map fun d => (d - base).setWidth 8)
  | 3 | 5 | 7 =>
    padTo (32 * codeSectors c) (leBytes 4 (maskOf (fun w => w != 0) ws) ++ wordsBytes (ws.filter fun w => w != 0))
  | 4 | 6 =>
    let n := if c = 4 then 8 else 16
    let base := lineBase n ws
    padTo (32 * codeSectors c) (leBytes 4 base.toNat ++ leBytes 4 (maskOf (fun w => !fitsBits n w) ws) ++
      ws.flatMap fun w => leBytes (n / 8) (if fitsBits n w then w else w - base).toNat)
  | 8 => wordsBytes ws
  | _ => []

/-- The words of a zero-run form: from the mask, its nonzero words in order. -/
def zrWords : Nat → Nat → List W32 → List W32
  | 0, _, _ => []
  | k + 1, m, ws =>
    if m % 2 = 1 then ws.headD 0 :: zrWords k (m / 2) ws.tail else 0 :: zrWords k (m / 2) ws

/-- The words of a base form: from the select mask and the deltas of `n` bits. -/
def baseWords (n : Nat) (base : W32) : Nat → List Nat → List W32
  | _, [] => []
  | m, d :: ds =>
    let x : W32 := (BitVec.ofNat n d).signExtend 32
    (if m % 2 = 1 then base + x else x) :: baseWords n base (m / 2) ds

/-- Numbers of `k` bytes each. -/
def groupBytes (k : Nat) : Nat → List Byte → List Nat
  | 0, _ => []
  | n + 1, bs => leNat (bs.take k) :: groupBytes k n (bs.drop k)

/-- The two words of a doubleword. -/
def doubleWords (d : W64) : List W32 := [d.setWidth 32, d.extractLsb' 32 32]

/-- The 32 words of stored bytes under a code (R164, R165). -/
def loadLine (c : Nat) (bs : List Byte) : List W32 :=
  match c with
  | 1 => List.replicate 32 (BitVec.ofNat 32 (leNat (bs.take 4)))
  | 2 =>
    let base : W64 := BitVec.ofNat 64 (leNat (bs.take 8))
    ((bs.drop 8).take 16).flatMap fun b => doubleWords (base + b.signExtend 64)
  | 3 | 5 | 7 => zrWords 32 (leNat (bs.take 4)) (bytesWords (bs.drop 4))
  | 4 | 6 =>
    let n := if c = 4 then 8 else 16
    baseWords n (BitVec.ofNat 32 (leNat (bs.take 4))) (leNat ((bs.drop 4).take 4)) (groupBytes (n / 8) 32 (bs.drop 8))
  | 8 => bytesWords (bs.take 128)
  | _ => List.replicate 32 0

/-! ### Where a line lives -/

/-- The line, sector and block of an NPA (R16). -/
def lineOf (npa : Nat) : Nat := npa / 128
def blockOf (npa : Nat) : Nat := npa / 4096
def blockOfLine (line : Nat) : Nat := line / 32
def lineInBlock (line : Nat) : Nat := line % 32

/-- The LLC slice of a block: the exclusive-or of the nine 4-bit fields of NPA[47:12] (R168). -/
def llcSlice (block : Nat) : Nat :=
  let f (i : Nat) := block / 16 ^ i % 16
  f 0 ^^^ f 1 ^^^ f 2 ^^^ f 3 ^^^ f 4 ^^^ f 5 ^^^ f 6 ^^^ f 7 ^^^ f 8

/-- The set index of a line within its LLC slice: NPA[19:7] (R168). -/
def llcSet (line : Nat) : Nat := line % 8192

/-- parity (R84). -/
def parity (w : Nat) (x : BitVec w) : Bool := (List.range w).foldl (fun p i => p ^^ x.getLsbD i) false

/-- h of R160: bit j is the parity of A[36:16] under mask j. -/
def hashBits (masks : List (BitVec 21)) (idx : BitVec 21) : BitVec 7 :=
  (List.range 7).foldl (fun h j => if parity 21 (idx &&& masks.getD j 0) then h ||| (1#7 <<< j) else h) 0

/-- The granule index within its pseudo-channel, and the pseudo-channel, of a storage address (R160). -/
def granuleIndex (a : BitVec 37) : BitVec 21 := a.extractLsb' 16 21
def pseudoChannel (masks : List (BitVec 21)) (a : BitVec 37) : BitVec 7 :=
  a.extractLsb' 9 7 ^^^ hashBits masks (granuleIndex a)

/-- The sector offset at which line i of a block begins (R172). -/
def sectorOffset (codes : FMap Nat) (i : Nat) : Nat :=
  ((List.range i).map fun j => codeSectors (FMap.get 0 codes j)).foldl (· + ·) 0

/-- The storage address of a sector offset of a block (R172). -/
def storageAddr (ptrs : List Nat) (s : Nat) : Nat := ptrs.getD (s / 16) 0 * 512 + 32 * (s % 16)

/-! ### The block metadata entry (R173, R174) -/

/-- One bit of CRC-32C, reflected (R174). -/
def crcBit (c : W32) : W32 := if c.getLsbD 0 then (c >>> 1) ^^^ 0x82F63B78#32 else c >>> 1

/-- CRC-32C over bytes in increasing order, before the final exclusive-or. -/
def crcBytes : List Byte → W32 → W32
  | [], c => c
  | b :: bs, c =>
    let x := c ^^^ b.setWidth 32
    crcBytes bs (crcBit (crcBit (crcBit (crcBit (crcBit (crcBit (crcBit (crcBit x))))))))

/-- The check value (R174). -/
def crc32c (bs : List Byte) : W32 := crcBytes bs 0xFFFFFFFF#32 ^^^ 0xFFFFFFFF#32

/-- Bits [479:0] of a block's metadata entry (R173). -/
def bmeBits (b : Block) : Nat :=
  let codes := (List.range 32).foldl (fun n i => n + FMap.get 0 b.codes i % 16 * 16 ^ i) 0
  let ptrs := (List.range 8).foldl (fun n j => n + (if j < b.count then b.ptrs.getD j 0 % 2 ^ 28 else 0) * 2 ^ (28 * j)) 0
  codes + ptrs * 2 ^ 128 + b.count % 16 * 2 ^ 352 + b.home % 4 * 2 ^ 356 + b.rep.toNat * 2 ^ 358 + b.pinned.toNat * 2 ^ 359 +
    b.uio.toNat * 2 ^ 360 + (match b.owner with | some c => c % 2 ^ 32 | none => 0xFFFFFFFF) * 2 ^ 448

/-- The 64 bytes of a block's metadata entry (R173, R174). -/
def bmeBytes (b : Block) : List Byte :=
  let bs := leBytes 60 (bmeBits b)
  bs ++ leBytes 4 (crc32c bs).toNat

end Sys2Proof.Machine
end

