-- ==== Sys2Proof/Machine/Mem.lean ====
section
/-! DEFINITION. Memory by nominal physical address, address translation, and where an address leads (R134 to R140, R146,
R216, R346, R350, R353). -/

namespace Sys2Proof.Machine

/-! ### Bytes -/

def Memory.read (m : Memory) (a : Nat) : Byte := FMap.get Memory.blank m a
def Memory.write (m : Memory) (a : Nat) (b : Byte) : Memory := FMap.set Memory.blank m a b

/-- `n` bytes from an address up. -/
def Memory.readBytes (m : Memory) (a : Nat) : Nat → List Byte
  | 0 => []
  | n + 1 => Memory.read m a :: Memory.readBytes m (a + 1) n

def Memory.writeBytes (m : Memory) (a : Nat) : List Byte → Memory
  | [] => m
  | b :: bs => Memory.writeBytes (Memory.write m a b) (a + 1) bs

def State.readByte (s : State) (a : Nat) : Byte := Memory.read s.mem a
def State.readBytes (s : State) (a n : Nat) : List Byte := Memory.readBytes s.mem a n
/-- The little-endian number in `n` bytes. -/
def State.readNat (s : State) (a n : Nat) : Nat := leNat (s.readBytes a n)
def State.readWord64 (s : State) (a : Nat) : W64 := BitVec.ofNat 64 (s.readNat a 8)
/-- Bytes put into memory, with no accounting. -/
def State.pokeBytes (s : State) (a : Nat) (bs : List Byte) : State := { s with mem := Memory.writeBytes s.mem a bs }
/-- The 32 words of a line. -/
def State.lineWords (s : State) (line : Nat) : List W32 := bytesWords (s.readBytes (line * 128) 128)

/-! ### Free values -/

def State.drawn (s : State) : State := { s with draws := s.draws + 1 }

/-- The free bytes that another agent returns. -/
def State.freeBytes (s : State) (n : Nat) : List Byte := (List.range n).map fun i => Config.byte (s.draws + i)

/-! ### Tables of the state -/

def Block.blank : Block :=
  { codes := [], count := 0, ptrs := [], owner := none, home := 0, uio := false, pinned := false, rep := false, bad := false, gp := false, sys := 0,
    lent := none }

def State.block (s : State) (b : Nat) : Block := FMap.get Block.blank s.blocks b
def State.setBlock (s : State) (b : Nat) (v : Block) : State := { s with blocks := FMap.set Block.blank s.blocks b v }

def Mailbox.empty : Mailbox := { id := 0, wanted := 0, owed := 0, urgency := 0, answered := 0, given := 0 }

/-- What a context that does not exist reads as: every field 0. PRESUMED, log entry 19. -/
def Ctx.blank : Ctx :=
  { quota := 0, occupied := 0, promise := 0, mapped := 0, tvec := 0, trapbase := 0, lachk := false, fpxen := 0, logbase := 0,
    logExp := 6, logHead := 0, prio := 0, root := 0, shared := false, mailbox := Mailbox.empty, stopped := false, halted := false,
    capFaults := 0, traps := 0, posted := [], merged := [], notified := 0, asked := [], openDie := none, openFor := 0, absent := [] }

def State.ctx (s : State) (c : Nat) : Ctx := FMap.get Ctx.blank s.ctxs c
def State.modCtx (s : State) (c : Nat) (f : Ctx → Ctx) : State := { s with ctxs := FMap.modify s.ctxs c f }

def Die.blank : Die :=
  { pool := [], antes := [], stock := [], loans := [], evicts := [], captures := [], fq := [], fqWait := [], fqSeq := 0, spill := [],
    tlbMiss := 0, walks := 0, swapOuts := 0, opps := 0, quanta := 0, poolFail := none, asks := [], step := 0, masks := defaultMasks }

def State.die (s : State) (d : Nat) : Die := FMap.get Die.blank s.dies d
def State.modDie (s : State) (d : Nat) (f : Die → Die) : State := { s with dies := FMap.modify s.dies d f }

def Core.blank : Core :=
  { num := none, clk := 0, clkRead := [], opps := [], issues := [], tlbMiss := 0, rollbacks := 0, worn := false, gated := true, stepped := [] }

def State.core (s : State) (c : Nat) : Core := FMap.get Core.blank s.cores c
def State.modCore (s : State) (c : Nat) (f : Core → Core) : State := { s with cores := FMap.modify s.cores c f }

def LaunchRec.blank : LaunchRec :=
  { entry := 0, args := 0, signal := 0, value := 0, chtab := 0, nx := 1, ny := 1, nz := 1, tmem := 0, slices := 1, stages := 1,
    vregs := 8, sregs := 8, chan := 0, acc := 0, bstore := 0, prio := 0, sigadd := false, slots := [] }

def Launch.blank : Launch :=
  { params := LaunchRec.blank, addr := 0, ctx := 0, retired := 0, tails := [], origin := .slice, done := true, snap := [], past := 0 }

def State.launch (s : State) (l : Nat) : Launch := FMap.get Launch.blank s.launches l
def State.modLaunch (s : State) (l : Nat) (f : Launch → Launch) : State := { s with launches := FMap.modify s.launches l f }

def Team.blank : Team :=
  { launch := 0, ctx := 0, x := 0, y := 0, z := 0, stage := 0, slices := 0, slot := none, place := .ready, started := false,
    tmem := [], scale := [], bstore := [], acc := [], queue := [], released := 0, conds := [], issued := 0, ended := [],
    arrivals := 0, target := 0, chans := [], passed := 0, whole := false, floor := false, last := none,
    awaited := [], watch := [], image := [] }

def State.team (s : State) (t : Nat) : Team := FMap.get Team.blank s.teams t
def State.modTeam (s : State) (t : Nat) (f : Team → Team) : State := { s with teams := FMap.modify s.teams t f }

def Regs.blank : Regs := { s := [], v := [], p := [], mode := 0x000A, pc := 0, fpx := 0, delivered := 0, wins := [] }

/-- A chunk that begins with the given registers, in a context (R47, R199). -/
def Chunk.begin (c : Ctx) (r : Regs) : Chunk :=
  { ckpt := r, instrs := 0, held := [], wlines := [], rlines := [], code := [], ended := false, lachk := c.lachk, fpxen := c.fpxen }

/-- A slice as its team starts it: every register 0, MODE 0x000A, level 0 (R23, R34, R82, R83, R211). -/
def Slice.start (c : Ctx) (pc : W64) : Slice :=
  let r := { Regs.blank with pc := pc }
  { regs := r, chunk := Chunk.begin c r, prev := none, prevHit := false, post := [], tell := none, handler := false, level := 0, rb := 0, cm := 0, rollbacks := 0, commits := 0,
    status := .run, hit := false, park := none, mark := none, nc := [] }

/-- The key of slice k of a team. -/
def sliceKey (t k : Nat) : Nat := t * 256 + k

def State.slice (s : State) (t k : Nat) : Slice := FMap.get (Slice.start Ctx.blank 0) s.slices (sliceKey t k)
def State.modSlice (s : State) (t k : Nat) (f : Slice → Slice) : State :=
  { s with slices := FMap.modify s.slices (sliceKey t k) f }

def Engine.blank : Engine :=
  { kind := .copy, ctx := 0, team := none, slice := 0, die := 0, core := 0, ticket := 0, desc := [], va := 0, base := 0, len := 0,
    bind := .none, gate := 0, chan := none, chSlot := none, slot := 0, got := [], perf := [], sent := 0, failed := none, asked := [],
    gone := [], void := false, stopped := false, joined := false, origin := .slice, done := true }

def State.engine (s : State) (e : Nat) : Engine := FMap.get Engine.blank s.engines e
def State.modEngine (s : State) (e : Nat) (f : Engine → Engine) : State := { s with engines := FMap.modify s.engines e f }

/-- The die that a team is placed on: its linear index modulo 4 (R317). -/
def State.teamDie (s : State) (t : Nat) : Nat :=
  let tm := s.team t
  let r := (s.launch tm.launch).params
  (tm.x + r.nx * (tm.y + r.ny * tm.z)) % 4

/-- The core as fabricated that a team is resident on (18 × die + core). -/
def State.teamCore (s : State) (t : Nat) : Option Nat :=
  match (s.team t).place with
  | .resident c _ _ _ => some c
  | .ready | .swapped | .retired => none

/-- The next free key of a table. -/
def nextKey {α : Type} : FMap α → Nat
  | [] => 0
  | [(k, _)] => k + 1
  | _ :: b :: m => nextKey (b :: m)

/-! ### Kinds of physical address -/

/-- A fabric NPA: another module's memory (R353). -/
def isFabric (npa : Nat) : Bool := decide (2 ^ 47 ≤ npa)

/-- The expander in whose range a block lies (R350). -/
def State.expanderOf (s : State) (block : Nat) : Option Nat :=
  (List.find? (fun (e : Nat × Expander) => decide (e.2.first ≤ block) && decide (block < e.2.first + e.2.blocks)) s.expanders).map (·.1)

/-- An NPA of host memory (R346): `hostMem` lists ranges of 64 KiB frames (first, how many); an expander's range is not host memory. -/
def State.isHost (s : State) (npa : Nat) : Bool :=
  (s.hostMem.any fun r => decide (r.1 ≤ npa / 65536) && decide (npa / 65536 < r.1 + r.2)) && (s.expanderOf (blockOf npa)).isNone

/-- Whether an NPA lies in an expander that has failed (R351). -/
def State.expanderDown (s : State) (npa : Nat) : Bool :=
  match s.expanderOf (blockOf npa) with
  | some x => match FMap.find? s.expanders x with
    | some e => e.failed
    | none => false
  | none => false

/-! ### Translation -/

/-- Coherence classes (R138, R146). -/
inductive Cc | dev | sys | nc | io
  deriving DecidableEq, Repr

def Cc.ofBits (n : Nat) : Cc :=
  match n with
  | 0 => .dev
  | 1 => .sys
  | 2 => .nc
  | _ => .io

/-- A leaf entry met by a walk (R138): where it lies, its level (0, 1, 2: 64 KiB, 2 MiB, 1 GiB), its bits. -/
structure Leaf where
  addr : Nat
  lvl  : Nat
  bits : W64
  deriving DecidableEq, Repr

def Leaf.home (l : Leaf) : Nat := (l.bits.extractLsb' 48 2).toNat
def Leaf.frame (l : Leaf) : Nat := (l.bits.extractLsb' 16 32).toNat * 65536
def Leaf.d (l : Leaf) : Bool := l.bits.getLsbD 14
def Leaf.a (l : Leaf) : Bool := l.bits.getLsbD 13
def Leaf.gp (l : Leaf) : Bool := l.bits.getLsbD 12
def Leaf.ff (l : Leaf) : Bool := l.bits.getLsbD 11
def Leaf.rep (l : Leaf) : Bool := l.bits.getLsbD 10
def Leaf.ns (l : Leaf) : Bool := l.bits.getLsbD 9
def Leaf.cc (l : Leaf) : Cc := Cc.ofBits (l.bits.extractLsb' 7 2).toNat
def Leaf.x (l : Leaf) : Bool := l.bits.getLsbD 4
def Leaf.w (l : Leaf) : Bool := l.bits.getLsbD 3
def Leaf.r (l : Leaf) : Bool := l.bits.getLsbD 2

/-- log2 of the page size of a level, and of the reach of one entry of it (R136). -/
def levelShift : Nat → Nat
  | 0 => 16
  | 1 => 21
  | 2 => 30
  | 3 => 39
  | _ => 48

/-- Sizes of pages, in 64 KiB. -/
def Leaf.pages (l : Leaf) : Nat := 2 ^ (levelShift l.lvl - 16)

/-- What a walk finds: a leaf, or no translation, with whether it met a malformed entry (R139). -/
inductive Walk
  | leaf (l : Leaf)
  | none (malformed : Bool)
  deriving DecidableEq, Repr

/-- Whether some of `n` 64 KiB frames from one on lie in host memory. -/
def State.hostIn (s : State) (frame n : Nat) : Bool :=
  (s.hostMem.any fun r => decide (r.1 < frame + n) && decide (frame < r.1 + r.2)) && (List.range n).any fun i => s.isHost (65536 * (frame + i))

/-- Whether a leaf entry is well formed at its level (R138, R139): a DEV page has no frame of host memory (R346). -/
def leafOk (s : State) (lvl : Nat) (e : W64) : Bool :=
  let l : Leaf := { addr := 0, lvl := lvl, bits := e }
  decide (lvl ≤ 2) && (e.extractLsb' 50 10).toNat == 0 && !e.getLsbD 15 && !e.getLsbD 5 && !e.getLsbD 1 &&
  (l.frame % 2 ^ levelShift lvl == 0) && !(l.cc == .dev && s.hostIn (l.frame / 65536) l.pages) && !(l.rep && isFabric l.frame)

/-- Whether a node entry is well formed, the next node being of level `next` (R137). -/
def nodeOk (next : Nat) (e : W64) : Bool :=
  (e.extractLsb' 48 16).toNat == 0 && !e.getLsbD 7 && (e.extractLsb' 1 5).toNat == 0 &&
  (next == 0 || (e.extractLsb' 8 4).toNat == 0)

/-- The walk from a node of a level down (R136 to R139). -/
def walkFrom (s : State) (va : Nat) : Nat → Nat → Walk
  | 0, node =>
    let a := node + 8 * (va / 2 ^ 16 % 32)
    let e := s.readWord64 a
    if !e.getLsbD 0 then .none false
    else if e.getLsbD 6 && leafOk s 0 e then .leaf { addr := a, lvl := 0, bits := e } else .none true
  | lvl + 1, node =>
    let a := node + 8 * (va / 2 ^ levelShift (lvl + 1) % 512)
    let e := s.readWord64 a
    if !e.getLsbD 0 then .none false
    else if e.getLsbD 6 then
      if leafOk s (lvl + 1) e then .leaf { addr := a, lvl := lvl + 1, bits := e } else .none true
    else if nodeOk lvl e then walkFrom s va lvl ((e.extractLsb' 8 40).toNat * 256)
    else .none true

/-- Bits [63:57] of a virtual address equal bit 56 (R134). -/
def canonical (va : W64) : Bool := va.toNat / 2 ^ 56 == 0 || va.toNat / 2 ^ 56 == 255

/-- The walk for a virtual address of a context (R136). -/
def State.walk (s : State) (c : Nat) (va : W64) : Walk := walkFrom s (va.toNat % 2 ^ 57) 4 (s.ctx c).root

/-- The NPA of a byte of a leaf's page. -/
def Leaf.npa (l : Leaf) (va : W64) : Nat := l.frame + va.toNat % 2 ^ levelShift l.lvl

/-! ### Replicas (R216) -/

/-- Where a byte of a replicated page lies on a die: `replicas` lists by the lead frame (NPA >> 16) each other die's frame. -/
def State.replicaOn (s : State) (npa d : Nat) : Nat :=
  match FMap.find? s.replicas (npa / 65536) with
  | some rs => match rs.find? fun r => r.1 == d with
    | some (_, f) => f * 65536 + npa % 65536
    | none => npa
  | none => npa

/-- Every replica of a byte, the lead first; for a page that is not replicated, the byte alone. -/
def State.replicasOf (s : State) (npa : Nat) : List Nat :=
  match FMap.find? s.replicas (npa / 65536) with
  | some rs => npa :: rs.map fun r => r.2 * 65536 + npa % 65536
  | none => [npa]

/-- Where a write through a leaf goes: to every replica where the leaf replicates its page, else to its own address alone (R216, R217).
DEDUCED, log entry 55. -/
def State.copies (s : State) (rep : Bool) (npa : Nat) : List Nat := if rep then s.replicasOf npa else [npa]

/-! ### Lines -/

/-- The code of a line's present content: the LLC's dirty copy, or the stored code (R194); every line of a poisoned block reads
as poisoned (R174). -/
def State.lineCode (s : State) (line : Nat) : Nat :=
  let b := s.block (blockOfLine line)
  if b.bad then codePoison
  else match FMap.find? s.llc line with
    | some l => if l.dirty then l.code else FMap.get 0 b.codes (lineInBlock line)
    | none => FMap.get 0 b.codes (lineInBlock line)

/-- Whether a line of device memory is poisoned (R167). -/
def State.poisoned (s : State) (npa : Nat) : Bool :=
  !s.isHost npa && !isFabric npa && codePoisoned (s.lineCode (lineOf npa))

end Sys2Proof.Machine
end

