-- ==== Sys2Proof/Machine/Flags.lean ====
section
/-! DEFINITION. The registers of a slice, the fields of its MODE, its active lanes, and the sticky flags of %fpx
(R11, R31, R33, R34, R36, R45, R70, R82). -/

namespace Sys2Proof.Machine

/-! ### MODE (R34, R35) -/

def modeType (m : BitVec 16) : Nat := (m.extractLsb' 0 4).toNat
def modeGuard (m : BitVec 16) : Nat := (m.extractLsb' 4 3).toNat
def modeGen (m : BitVec 16) : Bool := m.getLsbD 7
def modeGinv (m : BitVec 16) : Bool := m.getLsbD 8
def modeRnd (m : BitVec 16) : Rnd := Rnd.ofBits (m.extractLsb' 9 2).toNat
def modeSat (m : BitVec 16) : Bool := m.getLsbD 11
def modeFtz (m : BitVec 16) : Bool := m.getLsbD 12
/-- Bits [15:13] of MODE are reserved (R34, R37). -/
def modeReserved (m : BitVec 16) : Bool := (m.extractLsb' 13 3) != 0

/-- Types i8 to n64: bit 3 clear (R35). -/
def typeInt (t : Nat) : Bool := decide (t < 8)
/-- i types are signed (R35). -/
def typeSigned (t : Nat) : Bool := decide (t < 4)
/-- The 64-bit types (R35). -/
def typePair (t : Nat) : Bool := t == 3 || t == 7
/-- Bits of an element of a type, as it lies in a register (R70): a 6-bit code takes a byte. -/
def typeWidth (t : Nat) : Nat :=
  match t with
  | 0x0 | 0x4 => 8
  | 0x1 | 0x5 => 16
  | 0x2 | 0x6 => 32
  | 0x3 | 0x7 => 64
  | 0x8 | 0x9 => 16
  | 0xA => 32
  | _ => 8

/-! ### Registers -/

namespace Regs

def getS (r : Regs) (n : Nat) : W64 := FMap.get 0 r.s n
def setS (r : Regs) (n : Nat) (v : W64) : Regs := { r with s := FMap.set 0 r.s n v }
def getV (r : Regs) (n l : Nat) : W32 := FMap.get 0 r.v (4 * n + l)
def setV (r : Regs) (n l : Nat) (v : W32) : Regs := { r with v := FMap.set 0 r.v (4 * n + l) v }
def getP (r : Regs) (n : Nat) : Lanes := FMap.get 0 r.p n
def setP (r : Regs) (n : Nat) (v : Lanes) : Regs := { r with p := FMap.set 0 r.p n v }
def setPc (r : Regs) (v : W64) : Regs := { r with pc := v }
def setMode (r : Regs) (v : BitVec 16) : Regs := { r with mode := v }

/-- Flags raised in %fpx: they stick (R82), whatever the instruction of an open window reads (R40). -/
def raise (r : Regs) (f : Flags) : Regs := { r with fpx := r.fpx ||| f, wins := r.wins.map fun w => { w with rest := w.rest ||| f } }

/-- The flags that stand whatever the instructions of open windows read. -/
def plain (r : Regs) : Flags :=
  match r.wins.find? fun w => !w.complete with
  | some w => w.rest
  | none => r.fpx

/-- Every instruction issued so far has completed (R39). -/
def complete (r : Regs) : Regs := { r with wins := r.wins.map fun w => { w with complete := true } }

/-- The promises nearer their end by one instruction. -/
def aged (r : Regs) : Regs := { r with wins := (r.wins.map fun w => { w with left := w.left - 1 }).filter fun w => w.left != 0 }

/-- The pair v[n], v[n+1] of a lane, v[n] low (R33). -/
def getPair (r : Regs) (n l : Nat) : W64 := (r.getV (n + 1) l ++ r.getV n l : BitVec 64)
def setPair (r : Regs) (n l : Nat) (v : W64) : Regs :=
  (r.setV n l (v.setWidth 32)).setV (n + 1) l (v.extractLsb' 32 32)

/-- The active lanes of a slice: those that pass the guard (R36). Every lane of a slice is present. -/
def active (r : Regs) : Lanes :=
  if modeGen r.mode then
    if modeGinv r.mode then ~~~ (r.getP (modeGuard r.mode)) else r.getP (modeGuard r.mode)
  else 0xF

/-- A predicate written in the active lanes alone (R36). -/
def mergeP (r : Regs) (n : Nat) (v : Lanes) : Regs :=
  r.setP n ((v &&& r.active) ||| (r.getP n &&& ~~~ r.active))

end Regs

/-- The active lanes, as numbers in ascending order. -/
def laneList (m : Lanes) : List Nat := (List.range 4).filter fun l => m.getLsbD l

/-! ### Elements of a lane (R67, R70) -/

/-- The elements of `w` bits of a value of `total` bits, from the low end. -/
def elements (w total x : Nat) : List Nat := (List.range (total / w)).map fun j => x / 2 ^ (w * j) % 2 ^ w

/-- Elements of `w` bits put together, from the low end. -/
def joinElements (w : Nat) : List Nat → Nat
  | [] => 0
  | e :: es => e % 2 ^ w + 2 ^ w * joinElements w es

/-- A lane's operand of a type: the register, or the pair under a 64-bit type (R105). -/
def laneOperand (t : Nat) (r : Regs) (n l : Nat) : Nat :=
  if typePair t then (r.getPair n l).toNat else (r.getV n l).toNat

/-- A lane's destination of a type. -/
def laneResult (t : Nat) (r : Regs) (n l : Nat) (v : Nat) : Regs :=
  if typePair t then r.setPair n l (BitVec.ofNat 64 v) else r.setV n l (BitVec.ofNat 32 v)

/-- Bits of a lane's operand of a type. -/
def laneBits (t : Nat) : Nat := if typePair t then 64 else 32

/-- `f` on the registers in each of some lanes, in order. -/
def eachLane (ls : List Nat) (f : Regs → Nat → Regs) (r : Regs) : Regs := ls.foldl f r

end Sys2Proof.Machine
end

