-- ==== Sys2Proof/Machine/Operands.lean ====
section
/-! DEFINITION. The operands of every instruction: which registers it reads and writes, the groups of R33, what types and format
slots it accepts (R38, R102, R116, R118, R119, R226, R253, R256), and the checks of R61, steps 2 to 5. -/

namespace Sys2Proof.Machine

/-- The operands of an instruction under the MODE and format slots of a slice: register numbers read and written, scalar registers of its groups that it does
not read, accumulator tiles named, whether every group obeys R33, whether it is guarded, the subcode of a word that step 2 of R61 refuses, and
the subcodes of the slot and pairing checks of VCVT (made before step 3) and of step 4, and the registers that it writes without naming them (RTE, R330). -/
structure Operands where
  srcS    : List Nat := []
  dstS    : List Nat := []
  idleS   : List Nat := []
  srcV    : List Nat := []
  dstV    : List Nat := []
  srcP    : List Nat := []
  dstP    : List Nat := []
  tiles   : List Nat := []
  aligned : Bool := true
  guarded : Bool := false
  word    : Option Nat := none
  early   : Option Nat := none
  late    : Option Nat := none
  back    : List Reg := []
  deriving DecidableEq, Repr

/-- Subcode 4 unless the type is one that the instruction accepts (R38, R62). -/
def needType (ok : Bool) : Option Nat := if ok then none else some 4

/-- f16, bf16 and f32. -/
def typeFloat (t : Nat) : Bool := t == 8 || t == 9 || t == 10

/-! ### Shapes -/

/-- A group of `n` registers from a first one (R33). -/
def group (n first : Nat) : List Nat := (List.range n).map (first + ·)

/-- Registers of an operand of a type: one, or the pair of a 64-bit type (R105). -/
def typed (t n : Nat) : List Nat := if typePair t then [n, n + 1] else [n]

/-- Whether every first register is even, if the type is a 64-bit one (R33, R105). -/
def evens (t : Nat) (ns : List Nat) : Bool := !typePair t || ns.all fun n => n % 2 == 0

/-- Scalar forms, which ignore MODE (R88). -/
def opScalar (dst src : List Nat) : Operands := { srcS := src, dstS := dst }

/-- Vector forms on a type, with single registers or pairs (R105). -/
def opTyped (t : Nat) (ok : Bool) (dst src : List Nat) : Operands :=
  { srcV := src.flatMap (typed t), dstV := dst.flatMap (typed t), aligned := evens t (dst ++ src), guarded := true, late := needType ok }

/-- Vector forms on single registers. -/
def opVec (ok : Bool) (dst src : List Nat) : Operands :=
  { srcV := src, dstV := dst, guarded := true, late := needType ok }

/-- The group that VLD and the like name: one register, or an even pair (R143). -/
def dblGroup (dbl : Bool) (t : Nat) : List Nat := if dbl then [t, t + 1] else [t]
def dblAligned (dbl : Bool) (t : Nat) : Bool := !dbl || t % 2 == 0

/-! ### Conversion (R116, R118, R119) -/

/-- Elements per register of a type code; 0 stands for a 64-bit type (R116). -/
def perReg (t : Nat) : Nat :=
  match typeWidth t with
  | 8 => 4
  | 16 => 2
  | 32 => 1
  | _ => 0

/-- The type of a side of VCVT, through the slot where it is slot-typed. -/
def cvtType (t : Nat) (slot : BitVec 64) : Nat := if t = 15 then slotFmtCode slot else t

/-- Registers that a side of VCVT occupies, beside the other side. -/
def cvtGroup (e other : Nat) : Nat := if e = 0 then 2 else (max e other) / e

/-- Whether a slot serves VQNT and VDQNT (R118). -/
def blockSlot (s : BitVec 64) : Bool := slotAccepted s && slotScales s && decide (0xB ≤ slotFmtCode s)

def opVcvt (d a k t dt : Nat) (slots : List (BitVec 64)) : Operands :=
  let slot := slots.getD k 0
  let uses := t == 15 || dt == 15
  let es := perReg (cvtType t slot)
  let ed := perReg (cvtType dt slot)
  let ns := cvtGroup es ed
  let nd := cvtGroup ed es
  { srcV := group ns a, dstV := group nd d, aligned := a % ns == 0 && d % nd == 0, guarded := true, word := if !uses && k != 0 then some 2 else none, early := if uses && (!slotAccepted slot || slotFmtCode slot == 15) then some 5
      else if (es == 0 && decide (1 < ed)) || (ed == 0 && decide (1 < es)) then some 4 else none }

/-! ### Atomics (R226) -/

def atomType (o : AtomOp) (dbl : Bool) (t : Nat) : Bool :=
  match o, dbl with
  | .add, false | .min, false | .max, false => t == 2 || t == 6
  | .add, true | .min, true | .max, true => t == 3 || t == 7
  | .fadd, false => typeFloat t
  | .fadd, true => false
  | .and, _ | .or, _ | .xor, _ | .exch, _ | .cas, _ => t != 15

/-- How many registers vt heads. -/
def atomRegs (o : AtomOp) (dbl : Bool) : Nat :=
  match o, dbl with
  | .cas, true => 4
  | .cas, false => 2
  | _, true => 2
  | _, false => 1

def opAtom (o : AtomOp) (t x b : Nat) (dbl returns : Bool) (mt : Nat) : Operands :=
  { srcS := [b], srcV := group (atomRegs o dbl) t ++ [x], dstV := if returns then dblGroup dbl t else [], aligned := t % atomRegs o dbl == 0, guarded := true, late := needType (atomType o dbl mt) }

/-! ### Matrix formats (R253, R256) -/

/-- Whether two slot formats form a pair of R253. -/
def matrixPair (a b : Nat) : Bool :=
  (a == 0 && b == 0) || (decide (a ≠ 0) && decide (b ≠ 0) && a != 10 && b != 10)

def matrixSlots (sa sb : BitVec 64) (ka : Bool) : Bool :=
  slotAccepted sa && slotAccepted sb && matrixPair (slotFmtCode sa) (slotFmtCode sb) &&
  (!ka || decide (8 ≤ slotWidth sa))

/-! ### The table -/

/-- A byte of VBPERM's index that keeps its byte of vd (R125), in some active lane. -/
def bpermKeeps (r : Regs) (a : Nat) : Bool :=
  (laneList r.active).any fun l => (elements 8 32 (r.getV a l).toNat).any fun x => x / 16 == 15

/-- The registers of an MLOOP's parameter block that it reads: +5 to +7 only where it drains at its end (R263). -/
def loopReads (d : Nat) (r : Regs) : List Nat := if (r.getS (d + 4)).getLsbD 33 then group 8 d else group 5 d

/-- The operands of an instruction in a slice with the given registers, in a launch with the given format slots. The fill of VPERM, VSLIDE, VSHFL and VBCAST,
the receiving lane's own v[d] (R122), is no source: a lane that takes it is left as it is. DESIGN CHOICE, log entry 18. -/
def operandsOf (i : Instr) (r : Regs) (slots : List (BitVec 64)) : Operands :=
  let t := modeType r.mode
  match i with
  | .sadd d a b => opScalar [d] [a, b]
  | .ssub d a b => opScalar [d] [a, b]
  | .smul d a b => opScalar [d] [a, b]
  | .smulh d a b => opScalar [d] [a, b]
  | .smulhN d a b => opScalar [d] [a, b]
  | .sdiv d a b => opScalar [d] [a, b]
  | .sdivN d a b => opScalar [d] [a, b]
  | .srem d a b => opScalar [d] [a, b]
  | .sremN d a b => opScalar [d] [a, b]
  | .sand d a b => opScalar [d] [a, b]
  | .sor d a b => opScalar [d] [a, b]
  | .sxor d a b => opScalar [d] [a, b]
  | .sshl d a b => opScalar [d] [a, b]
  | .sshr d a b => opScalar [d] [a, b]
  | .ssra d a b => opScalar [d] [a, b]
  | .smin d a b => opScalar [d] [a, b]
  | .sminN d a b => opScalar [d] [a, b]
  | .smax d a b => opScalar [d] [a, b]
  | .smaxN d a b => opScalar [d] [a, b]
  | .sslt d a b => opScalar [d] [a, b]
  | .ssltn d a b => opScalar [d] [a, b]
  | .ssel d a b => opScalar [d] [d, a, b]
  | .saddi d a _ => opScalar [d] [a]
  | .sandi d a _ => opScalar [d] [a]
  | .sori d a _ => opScalar [d] [a]
  | .sxori d a _ => opScalar [d] [a]
  | .sshli d a _ => opScalar [d] [a]
  | .slui d _ => opScalar [d] []
  | .srd d _ => opScalar [d] []
  | .swr a n => { srcS := [a], late := if n = 0x10 then none else some 6 }
  | .smovv d s => { srcS := [s], dstV := [d], guarded := true }
  | .smovvLane d => opVec true [d] []
  | .smovvTlane d => opVec true [d] []
  | .vrdl d a _ => { srcV := [a], dstS := [d] }
  | .br _ => {}
  | .brCc _ a _ => opScalar [] [a]
  | .bany p _ => { srcP := [p], guarded := true }
  | .ball p _ => { srcP := [p], guarded := true }
  | .bnone p _ => { srcP := [p], guarded := true }
  | .call _ => opScalar [63] []
  | .nop => {}
  | .ret => opScalar [] [63]
  | .jmpr a => opScalar [] [a]
  | .regang => {}
  | .exit => {}
  | .mode i => { late := if modeReserved i then some 4 else none }
  | .moder a => { srcS := [a], late := if modeReserved ((r.getS a).setWidth 16) then some 4 else none }
  | .vadd d a b => opTyped t (typeInt t) [d] [a, b]
  | .vsub d a b => opTyped t (typeInt t) [d] [a, b]
  | .vmul d a b => opTyped t (typeInt t) [d] [a, b]
  | .vmulh d a b => opTyped t (typeInt t) [d] [a, b]
  | .vmad d a b => opTyped t (typeInt t) [d] [d, a, b]
  | .vmin d a b => opTyped t (typeInt t) [d] [a, b]
  | .vmax d a b => opTyped t (typeInt t) [d] [a, b]
  | .vand d a b => opTyped t (t != 15) [d] [a, b]
  | .vor d a b => opTyped t (t != 15) [d] [a, b]
  | .vxor d a b => opTyped t (t != 15) [d] [a, b]
  | .vshl d a b => opTyped t (typeInt t) [d] [a, b]
  | .vshr d a b => opTyped t (typeInt t) [d] [a, b]
  | .vabs d a => opTyped t (typeInt t) [d] [a]
  | .vneg d a => opTyped t (typeInt t) [d] [a]
  | .vnot d a => opTyped t (t != 15) [d] [a]
  | .vsel d a b p => { opTyped t (t != 15) [d] [a, b] with srcP := [p] }
  | .vcmp _ p a b => { opTyped t (typeInt t) [] [a, b] with dstP := [p] }
  | .vaddi d a _ => opTyped t (typeInt t) [d] [a]
  | .vmovi d _ => opVec true [d] []
  | .vfadd d a b => opVec (typeFloat t) [d] [a, b]
  | .vfsub d a b => opVec (typeFloat t) [d] [a, b]
  | .vfmul d a b => opVec (typeFloat t) [d] [a, b]
  | .vfma d a b => opVec (typeFloat t) [d] [d, a, b]
  | .vfmin d a b => opVec (typeFloat t) [d] [a, b]
  | .vfmax d a b => opVec (typeFloat t) [d] [a, b]
  | .vfabs d a => opVec (typeFloat t) [d] [a]
  | .vfneg d a => opVec (typeFloat t) [d] [a]
  | .vfcmp _ p a b => { opVec (typeFloat t) [] [a, b] with dstP := [p] }
  | .vrcp d a _ => opVec (typeFloat t) [d] [a]
  | .vrsq d a _ => opVec (typeFloat t) [d] [a]
  | .vsqrt d a _ => opVec (typeFloat t) [d] [a]
  | .vexp2 d a _ => opVec (typeFloat t) [d] [a]
  | .vlog2 d a _ => opVec (typeFloat t) [d] [a]
  | .vsin d a _ => opVec (typeFloat t) [d] [a]
  | .vcos d a _ => opVec (typeFloat t) [d] [a]
  | .pand d a b => { srcP := [a, b], dstP := [d], guarded := true }
  | .por d a b => { srcP := [a, b], dstP := [d], guarded := true }
  | .pxor d a b => { srcP := [a, b], dstP := [d], guarded := true }
  | .pnot d a => { srcP := [a], dstP := [d], guarded := true }
  | .pset d s => { srcS := [s], dstP := [d], guarded := true }
  | .vcvt d a k u _ => opVcvt d a k u.toNat t slots
  | .vqnt d a k _ => { srcV := [a], dstV := [d, d + 1], aligned := d % 2 == 0, guarded := true, late := if !typeFloat t then some 4 else if blockSlot (slots.getD k 0) then none else some 5 }
  | .vdqnt d a b k => { srcV := [a, a + 1, b], dstV := [d], aligned := a % 2 == 0, guarded := true, late := if !typeFloat t then some 4 else if blockSlot (slots.getD k 0) then none else some 5 }
  | .vpack d a b => opVec (t == 0 || t == 1 || t == 4 || t == 5 || t == 8 || t == 9 || (decide (11 ≤ t) && t != 15)) [d] [a, b]
  | .vunpk _ d a => opVec (t == 0 || t == 1 || t == 4 || t == 5) [d] [a]
  | .vclass d a => opVec (decide (8 ≤ t) && t != 15) [d] [a]
  | .vperm d a b => opVec true [d] [a, b]
  | .vbperm d a b => opVec true [d] (if bpermKeeps r a then [d, a, b] else [a, b])
  | .vslide d a b _ => opVec true [d] [a, b]
  | .vshfl _ d a _ => opVec true [d] [a]
  | .vbcast d a _ => opVec true [d] [a]
  | .vred _ d a => { srcV := [a], dstS := [d], guarded := true, late := needType (t == 2 || t == 6 || t == 10) }
  | .vscan _ d a => opVec (t == 2 || t == 6 || t == 10) [d] [a]
  | .vballot d p => { srcP := [p], dstS := [d], guarded := true }
  | .vcount d p => { srcP := [p], dstS := [d], guarded := true }
  | .vld v x b z _ => { srcS := [b], srcV := [x], dstV := dblGroup z v, aligned := dblAligned z v, guarded := true }
  | .vst v x b z _ => { srcS := [b], srcV := x :: dblGroup z v, aligned := dblAligned z v, guarded := true }
  | .vldc v b z _ => { srcS := [b], dstV := dblGroup z v, aligned := dblAligned z v, guarded := true }
  | .vstc v b z _ => { srcS := [b], srcV := dblGroup z v, aligned := dblAligned z v, guarded := true }
  | .sld d b _ _ => opScalar [d] [b]
  | .sst d b _ _ => opScalar [] [d, b]
  | .tld v x b z _ => { srcS := [b], srcV := [x], dstV := dblGroup z v, aligned := dblAligned z v, guarded := true }
  | .tst v x b z _ => { srcS := [b], srcV := x :: dblGroup z v, aligned := dblAligned z v, guarded := true }
  | .pref b _ => opScalar [] [b]
  | .cwb a b => opScalar [] [a, b]
  | .cinv a b => opScalar [] [a, b]
  | .cdisc a b => opScalar [] [a, b]
  | .rdnpa d a => opScalar [d] [a]
  | .atom o v x b z => opAtom o v x b z true t
  | .red o v x b z => opAtom o v x b z false t
  | .atomt o v x b z => opAtom o v x b z true t
  | .redt o v x b z => opAtom o v x b z false t
  | .wait _ a b => opScalar [] [a, b]
  | .bar _ => {}
  | .ginit a b => { srcS := [a, b], late := if (r.getS b).toNat = 0 ∨ 65536 ≤ (r.getS b).toNat ∨ (r.getS b).toNat % 65536 = 0 then some 2 else none }
  | .gexpect a b => opScalar [] [a, b]
  | .garrive a => opScalar [] [a]
  | .gwait p a b => { srcS := [a, b], dstP := [p] }
  | .chacq d a => opScalar [d] [a]
  | .chacqNb d a => opScalar [d] [a]
  | .chpub a => opScalar [] [a]
  | .chtake d a => opScalar [d] [a]
  | .chtakeNb d a => opScalar [d] [a]
  | .chfree a => opScalar [] [a]
  | .cmit => {}
  | .specrd d _ => opScalar [d] []
  | .rsvrd d => opScalar [d] []
  | .rsvpin a b => opScalar [] [a, b]
  | .rsvunpin a b => opScalar [] [a, b]
  | .forfeit d a b => opScalar [d] [a, b]
  | .balrd d => { dstS := [d, d + 1, d + 2], aligned := decide (d ≤ 61) }
  | .balack a b => opScalar [] [a, b]
  | .czero a b => opScalar [] [a, b]
  | .csize _ d a => opScalar [d] [a]
  | .mloop d fa fb v ka _ => { srcS := loopReads d r, idleS := (group 8 d).drop 5, tiles := [v], aligned := decide (d ≤ 56), late := if matrixSlots (slots.getD fa 0) (slots.getD fb 0) ka then none else some 5 }
  | .mzero v => { tiles := [v] }
  | .mwait => {}
  | .mrd d s v _ => { srcS := [s], dstV := [d], tiles := [v], guarded := true }
  | .mwr d s v _ => { srcS := [s], srcV := [d], tiles := [v], guarded := true }
  | .mdrain d v => { srcS := group 8 d, tiles := [v], aligned := decide (d ≤ 56) }
  | .mscl a b _ => opScalar [] [a, b]
  | .copy f d a b => { srcS := if f = .none then [a] else [a, b], dstS := [d], word := if f = .none ∧ b ≠ 0 then some 2 else none }
  | .cwait a => opScalar [] [a]
  | .cseq d => opScalar [d] []
  | .allred d a => opScalar [d] [a]
  | .repsync d a b => opScalar [d] [a, b]
  | .cspill d => opScalar [d] []
  | .launchN a => opScalar [] [a]
  | .launchT a => opScalar [] [a]
  | .graphgo a => opScalar [] [a]
  | .signal d a => opScalar [] [d, a]
  | .trap _ => {}
  | .brk _ => {}
  | .rte => { back := (List.range 8).map .s ++ [.p 0, .p 1] }
  | .rdcap d _ => opScalar [d] []
  | .csrr d _ => opScalar [d] []
  | .csrw a n => { srcS := [a], late := if n = 0x010 ∨ n = 0x012 ∨ n = 0x013 then none else some 6 }
  | .pcrd d _ => opScalar [d] []
  | .logrd d _ => opScalar [d] []
  | .fenceio => {}
  | .vtanh d a _ => opVec (typeFloat t) [d] [a]
  | .verf d a _ => opVec (typeFloat t) [d] [a]
  | .vsigm d a _ => opVec (typeFloat t) [d] [a]
  | .vpopc d a _ => opTyped t (typeInt t) [d] [a]
  | .vclz d a _ => opTyped t (typeInt t) [d] [a]
  | .vbrev d a _ => opTyped t (typeInt t) [d] [a]
  | .extensionEmulation _ => {}
  | .illegalInstruction _ _ => {}
  | .chunkCommit _ _ => {}
  | .rollback _ _ => {}
  | .levelChange _ _ => {}
  | .regangTimeout _ _ _ => {}
  | .faultAnswer _ _ _ => {}
  | .waitWake _ _ => {}
  | .gwaitWake _ _ => {}
  | .channelWake _ _ => {}
  | .cwaitWake _ _ => {}
  | .mwaitWake _ _ => {}
  | .engineComplete _ => {}
  | .spillReplay _ _ => {}
  | .allredRound _ _ => {}
  | .kStep _ _ => {}
  | .drain _ _ => {}
  | .matrixCommandPerform _ _ => {}
  | .writeBack _ => {}
  | .anteRefill _ _ => {}
  | .rowCapture _ _ => {}
  | .rowUnpin _ _ => {}
  | .bmePoisonReplace _ => {}
  | .balloonRequest _ _ _ _ => {}
  | .balloonUrgencyRaise _ => {}
  | .balloonRequestExpiry _ => {}
  | .teamPlace _ => {}
  | .teamSwapOut _ => {}
  | .teamRunnable _ => {}
  | .quantumEnd _ => {}
  | .residencyFloor _ _ => {}
  | .teamRetire _ => {}
  | .notifyRegisterWrite _ _ => {}
  | .launchPacket _ => {}
  | .graphPacket _ => {}
  | .waitsigPacket _ => {}
  | .signalPacket _ => {}
  | .notifiedReread _ => {}
  | .kernelNode _ _ => {}
  | .copyNode _ _ => {}
  | .signalNode _ _ => {}
  | .waitNode _ _ => {}
  | .condNode _ _ => {}
  | .loopNode _ _ => {}
  | .loopIteration _ _ => {}
  | .contextCreate _ => {}
  | .queueCreate _ => {}
  | .contextReset _ => {}
  | .hostRead _ => {}
  | .hostWrite _ _ => {}
  | .hostSnoop _ _ => {}
  | .expanderLinkDown _ => {}
  | .expanderTimeout _ => {}
  | .linkFailure _ => {}
  | .groupEnd _ => {}
  | .healthThreshold _ => {}
  | .spareBringIn _ _ => {}
  | .junctionThrottle _ => {}
  | .thermalReset => {}
  | .powerOn => {}
  | .getIdentityCertificate => {}
  | .getAttestationReport _ => {}
  | .getHealth => {}
  | .setPowerLimit _ => {}
  | .writeImage _ => {}
  | .moduleReset => {}
  | .contextDestroy _ => {}
  | .promiseChange _ _ => {}
  | .quotaChange _ _ => {}
  | .leafEntryChange _ => {}
  | .expanderBringBack _ => {}
  | .collectiveGroupDefine _ => {}
  | .engineSectorAccess _ _ => {}
  | .corePowerGate _ _ => {}

/-- la(i): how many later instructions may issue before the instruction completes (R39). -/
def lookaheadOf : Instr → Nat
  | .vrcp _ _ l => l
  | .vrsq _ _ l => l
  | .vsqrt _ _ l => l
  | .vexp2 _ _ l => l
  | .vlog2 _ _ l => l
  | .vsin _ _ l => l
  | .vcos _ _ l => l
  | .vcvt _ _ _ _ l => l
  | .vqnt _ _ _ l => l
  | .vld _ _ _ _ l => l
  | .vst _ _ _ _ l => l
  | .tld _ _ _ _ l => l
  | .tst _ _ _ _ l => l
  | .mloop _ _ _ _ _ l => l
  | .mrd _ _ _ l => l
  | .mwr _ _ _ l => l
  | .vtanh _ _ l => l
  | .verf _ _ l => l
  | .vsigm _ _ l => l
  | .vpopc _ _ l => l
  | .vclz _ _ l => l
  | .vbrev _ _ l => l
  | .sadd _ _ _ | .ssub _ _ _ | .smul _ _ _ | .smulh _ _ _ | .smulhN _ _ _ | .sdiv _ _ _
  | .sdivN _ _ _ | .srem _ _ _ | .sremN _ _ _ | .sand _ _ _ | .sor _ _ _ | .sxor _ _ _
  | .sshl _ _ _ | .sshr _ _ _ | .ssra _ _ _ | .smin _ _ _ | .sminN _ _ _ | .smax _ _ _
  | .smaxN _ _ _ | .sslt _ _ _ | .ssltn _ _ _ | .ssel _ _ _ | .saddi _ _ _ | .sandi _ _ _
  | .sori _ _ _ | .sxori _ _ _ | .sshli _ _ _ | .slui _ _ | .srd _ _ | .swr _ _
  | .smovv _ _ | .smovvLane _ | .smovvTlane _ | .vrdl _ _ _ | .br _ | .brCc _ _ _
  | .bany _ _ | .ball _ _ | .bnone _ _ | .call _ | .nop | .ret
  | .jmpr _ | .regang | .exit | .mode _ | .moder _ | .vadd _ _ _
  | .vsub _ _ _ | .vmul _ _ _ | .vmulh _ _ _ | .vmad _ _ _ | .vmin _ _ _ | .vmax _ _ _
  | .vand _ _ _ | .vor _ _ _ | .vxor _ _ _ | .vshl _ _ _ | .vshr _ _ _ | .vabs _ _
  | .vneg _ _ | .vnot _ _ | .vsel _ _ _ _ | .vcmp _ _ _ _ | .vaddi _ _ _ | .vmovi _ _
  | .vfadd _ _ _ | .vfsub _ _ _ | .vfmul _ _ _ | .vfma _ _ _ | .vfmin _ _ _ | .vfmax _ _ _
  | .vfabs _ _ | .vfneg _ _ | .vfcmp _ _ _ _ | .pand _ _ _ | .por _ _ _ | .pxor _ _ _
  | .pnot _ _ | .pset _ _ | .vdqnt _ _ _ _ | .vpack _ _ _ | .vunpk _ _ _ | .vclass _ _
  | .vperm _ _ _ | .vbperm _ _ _ | .vslide _ _ _ _ | .vshfl _ _ _ _ | .vbcast _ _ _ | .vred _ _ _
  | .vscan _ _ _ | .vballot _ _ | .vcount _ _ | .vldc _ _ _ _ | .vstc _ _ _ _ | .sld _ _ _ _
  | .sst _ _ _ _ | .pref _ _ | .cwb _ _ | .cinv _ _ | .cdisc _ _ | .rdnpa _ _
  | .atom _ _ _ _ _ | .red _ _ _ _ _ | .atomt _ _ _ _ _ | .redt _ _ _ _ _ | .wait _ _ _ | .bar _
  | .ginit _ _ | .gexpect _ _ | .garrive _ | .gwait _ _ _ | .chacq _ _ | .chacqNb _ _
  | .chpub _ | .chtake _ _ | .chtakeNb _ _ | .chfree _ | .cmit | .specrd _ _
  | .rsvrd _ | .rsvpin _ _ | .rsvunpin _ _ | .forfeit _ _ _ | .balrd _ | .balack _ _
  | .czero _ _ | .csize _ _ _ | .mzero _ | .mwait | .mdrain _ _ | .mscl _ _ _
  | .copy _ _ _ _ | .cwait _ | .cseq _ | .allred _ _ | .repsync _ _ _ | .cspill _
  | .launchN _ | .launchT _ | .graphgo _ | .signal _ _ | .trap _ | .brk _
  | .rte | .rdcap _ _ | .csrr _ _ | .csrw _ _ | .pcrd _ _ | .logrd _ _
  | .fenceio | .extensionEmulation _ | .illegalInstruction _ _ | .chunkCommit _ _ | .rollback _ _ | .levelChange _ _
  | .regangTimeout _ _ _ | .faultAnswer _ _ _ | .waitWake _ _ | .gwaitWake _ _ | .channelWake _ _ | .cwaitWake _ _
  | .mwaitWake _ _ | .engineComplete _ | .spillReplay _ _ | .allredRound _ _ | .kStep _ _ | .drain _ _
  | .matrixCommandPerform _ _ | .writeBack _ | .anteRefill _ _ | .rowCapture _ _ | .rowUnpin _ _ | .bmePoisonReplace _
  | .balloonRequest _ _ _ _ | .balloonUrgencyRaise _ | .balloonRequestExpiry _ | .teamPlace _ | .teamSwapOut _ | .teamRunnable _
  | .quantumEnd _ | .residencyFloor _ _ | .teamRetire _ | .notifyRegisterWrite _ _ | .launchPacket _ | .graphPacket _
  | .waitsigPacket _ | .signalPacket _ | .notifiedReread _ | .kernelNode _ _ | .copyNode _ _ | .signalNode _ _
  | .waitNode _ _ | .condNode _ _ | .loopNode _ _ | .loopIteration _ _ | .contextCreate _ | .queueCreate _
  | .contextReset _ | .hostRead _ | .hostWrite _ _ | .hostSnoop _ _ | .expanderLinkDown _ | .expanderTimeout _
  | .linkFailure _ | .groupEnd _ | .healthThreshold _ | .spareBringIn _ _ | .junctionThrottle _ | .thermalReset
  | .powerOn | .getIdentityCertificate | .getAttestationReport _ | .getHealth | .setPowerLimit _ | .writeImage _
  | .moduleReset | .contextDestroy _ | .promiseChange _ _ | .quotaChange _ _ | .leafEntryChange _ | .expanderBringBack _
  | .collectiveGroupDefine _ | .engineSectorAccess _ _ | .corePowerGate _ _ => 0

/-- Whether an instruction that is no closer reads or writes memory or team memory, reads a counter that the read signature holds, or
holds an effect until commit: at level 2 the chunk ends after it (R200, R201, R202). -/
def touchesMemory : Instr → Bool
  | .vld _ _ _ _ _ | .vst _ _ _ _ _ | .vldc _ _ _ _ | .vstc _ _ _ _ | .sld _ _ _ _ | .sst _ _ _ _
  | .tld _ _ _ _ _ | .tst _ _ _ _ _ | .cwb _ _ | .cinv _ _ | .cdisc _ _ | .red _ _ _ _ _
  | .atomt _ _ _ _ _ | .redt _ _ _ _ _ | .ginit _ _ | .gexpect _ _ | .garrive _ | .chacqNb _ _
  | .chpub _ | .chtakeNb _ _ | .chfree _ | .rsvpin _ _ | .rsvunpin _ _ | .czero _ _
  | .csize _ _ _ | .balrd _ | .mloop _ _ _ _ _ _ | .mzero _ | .mwr _ _ _ _ | .mdrain _ _
  | .mscl _ _ _ | .copy _ _ _ _ | .cseq _ | .allred _ _ | .repsync _ _ _ | .launchN _
  | .launchT _ | .graphgo _ | .signal _ _ | .csrw _ _ | .logrd _ _ => true
  | .sadd _ _ _ | .ssub _ _ _ | .smul _ _ _ | .smulh _ _ _ | .smulhN _ _ _ | .sdiv _ _ _
  | .sdivN _ _ _ | .srem _ _ _ | .sremN _ _ _ | .sand _ _ _ | .sor _ _ _ | .sxor _ _ _
  | .sshl _ _ _ | .sshr _ _ _ | .ssra _ _ _ | .smin _ _ _ | .sminN _ _ _ | .smax _ _ _
  | .smaxN _ _ _ | .sslt _ _ _ | .ssltn _ _ _ | .ssel _ _ _ | .saddi _ _ _ | .sandi _ _ _
  | .sori _ _ _ | .sxori _ _ _ | .sshli _ _ _ | .slui _ _ | .srd _ _ | .swr _ _
  | .smovv _ _ | .smovvLane _ | .smovvTlane _ | .vrdl _ _ _ | .br _ | .brCc _ _ _
  | .bany _ _ | .ball _ _ | .bnone _ _ | .call _ | .nop | .ret
  | .jmpr _ | .regang | .exit | .mode _ | .moder _ | .vadd _ _ _
  | .vsub _ _ _ | .vmul _ _ _ | .vmulh _ _ _ | .vmad _ _ _ | .vmin _ _ _ | .vmax _ _ _
  | .vand _ _ _ | .vor _ _ _ | .vxor _ _ _ | .vshl _ _ _ | .vshr _ _ _ | .vabs _ _
  | .vneg _ _ | .vnot _ _ | .vsel _ _ _ _ | .vcmp _ _ _ _ | .vaddi _ _ _ | .vmovi _ _
  | .vfadd _ _ _ | .vfsub _ _ _ | .vfmul _ _ _ | .vfma _ _ _ | .vfmin _ _ _ | .vfmax _ _ _
  | .vfabs _ _ | .vfneg _ _ | .vfcmp _ _ _ _ | .vrcp _ _ _ | .vrsq _ _ _ | .vsqrt _ _ _
  | .vexp2 _ _ _ | .vlog2 _ _ _ | .vsin _ _ _ | .vcos _ _ _ | .pand _ _ _ | .por _ _ _
  | .pxor _ _ _ | .pnot _ _ | .pset _ _ | .vcvt _ _ _ _ _ | .vqnt _ _ _ _ | .vdqnt _ _ _ _
  | .vpack _ _ _ | .vunpk _ _ _ | .vclass _ _ | .vperm _ _ _ | .vbperm _ _ _ | .vslide _ _ _ _
  | .vshfl _ _ _ _ | .vbcast _ _ _ | .vred _ _ _ | .vscan _ _ _ | .vballot _ _ | .vcount _ _
  | .pref _ _ | .rdnpa _ _ | .atom _ _ _ _ _ | .wait _ _ _ | .bar _ | .gwait _ _ _
  | .chacq _ _ | .chtake _ _ | .cmit | .specrd _ _ | .rsvrd _ | .forfeit _ _ _
  | .balack _ _ | .mwait | .mrd _ _ _ _ | .cwait _ | .cspill _ | .trap _
  | .brk _ | .rte | .rdcap _ _ | .csrr _ _ | .pcrd _ _ | .fenceio
  | .vtanh _ _ _ | .verf _ _ _ | .vsigm _ _ _ | .vpopc _ _ _ | .vclz _ _ _ | .vbrev _ _ _
  | .extensionEmulation _ | .illegalInstruction _ _ | .chunkCommit _ _ | .rollback _ _ | .levelChange _ _ | .regangTimeout _ _ _
  | .faultAnswer _ _ _ | .waitWake _ _ | .gwaitWake _ _ | .channelWake _ _ | .cwaitWake _ _ | .mwaitWake _ _
  | .engineComplete _ | .spillReplay _ _ | .allredRound _ _ | .kStep _ _ | .drain _ _ | .matrixCommandPerform _ _
  | .writeBack _ | .anteRefill _ _ | .rowCapture _ _ | .rowUnpin _ _ | .bmePoisonReplace _ | .balloonRequest _ _ _ _
  | .balloonUrgencyRaise _ | .balloonRequestExpiry _ | .teamPlace _ | .teamSwapOut _ | .teamRunnable _ | .quantumEnd _
  | .residencyFloor _ _ | .teamRetire _ | .notifyRegisterWrite _ _ | .launchPacket _ | .graphPacket _ | .waitsigPacket _
  | .signalPacket _ | .notifiedReread _ | .kernelNode _ _ | .copyNode _ _ | .signalNode _ _ | .waitNode _ _
  | .condNode _ _ | .loopNode _ _ | .loopIteration _ _ | .contextCreate _ | .queueCreate _ | .contextReset _
  | .hostRead _ | .hostWrite _ _ | .hostSnoop _ _ | .expanderLinkDown _ | .expanderTimeout _ | .linkFailure _
  | .groupEnd _ | .healthThreshold _ | .spareBringIn _ _ | .junctionThrottle _ | .thermalReset | .powerOn
  | .getIdentityCertificate | .getAttestationReport _ | .getHealth | .setPowerLimit _ | .writeImage _ | .moduleReset
  | .contextDestroy _ | .promiseChange _ _ | .quotaChange _ _ | .leafEntryChange _ | .expanderBringBack _ | .collectiveGroupDefine _
  | .engineSectorAccess _ _ | .corePowerGate _ _ => false

/-- The closers that are so whatever they access (R203): an access to an IO page or through the remote window is one too. -/
def closes : Instr → Bool
  | .atom _ _ _ _ _ | .wait _ _ _ | .bar _ | .gwait _ _ _ | .chacq _ _ | .chtake _ _ | .forfeit _ _ _ | .balack _ _
  | .mwait | .cwait _ | .trap _ | .brk _ | .fenceio => true
  | .srd _ n => n == 0x00F
  | .vld _ _ _ _ _ | .vst _ _ _ _ _ | .vldc _ _ _ _ | .vstc _ _ _ _ | .sld _ _ _ _ | .sst _ _ _ _ | .tld _ _ _ _ _
  | .tst _ _ _ _ _ | .cwb _ _ | .cinv _ _ | .cdisc _ _ | .red _ _ _ _ _ | .atomt _ _ _ _ _ | .redt _ _ _ _ _
  | .ginit _ _ | .gexpect _ _ | .garrive _ | .chacqNb _ _ | .chpub _ | .chtakeNb _ _ | .chfree _ | .rsvpin _ _
  | .rsvunpin _ _ | .czero _ _ | .csize _ _ _ | .balrd _ | .mloop _ _ _ _ _ _ | .mzero _ | .mwr _ _ _ _ | .mdrain _ _
  | .mscl _ _ _ | .copy _ _ _ _ | .cseq _ | .allred _ _ | .repsync _ _ _ | .launchN _ | .launchT _ | .graphgo _
  | .signal _ _ | .csrw _ _ | .logrd _ _ | .sadd _ _ _ | .ssub _ _ _ | .smul _ _ _ | .smulh _ _ _ | .smulhN _ _ _
  | .sdiv _ _ _ | .sdivN _ _ _ | .srem _ _ _ | .sremN _ _ _ | .sand _ _ _ | .sor _ _ _ | .sxor _ _ _ | .sshl _ _ _
  | .sshr _ _ _ | .ssra _ _ _ | .smin _ _ _ | .sminN _ _ _ | .smax _ _ _ | .smaxN _ _ _ | .sslt _ _ _ | .ssltn _ _ _
  | .ssel _ _ _ | .saddi _ _ _ | .sandi _ _ _ | .sori _ _ _ | .sxori _ _ _ | .sshli _ _ _ | .slui _ _ | .swr _ _
  | .smovv _ _ | .smovvLane _ | .smovvTlane _ | .vrdl _ _ _ | .br _ | .brCc _ _ _ | .bany _ _ | .ball _ _
  | .bnone _ _ | .call _ | .nop | .ret | .jmpr _ | .regang | .exit | .mode _ | .moder _ | .vadd _ _ _ | .vsub _ _ _
  | .vmul _ _ _ | .vmulh _ _ _ | .vmad _ _ _ | .vmin _ _ _ | .vmax _ _ _ | .vand _ _ _ | .vor _ _ _ | .vxor _ _ _
  | .vshl _ _ _ | .vshr _ _ _ | .vabs _ _ | .vneg _ _ | .vnot _ _ | .vsel _ _ _ _ | .vcmp _ _ _ _ | .vaddi _ _ _
  | .vmovi _ _ | .vfadd _ _ _ | .vfsub _ _ _ | .vfmul _ _ _ | .vfma _ _ _ | .vfmin _ _ _ | .vfmax _ _ _ | .vfabs _ _
  | .vfneg _ _ | .vfcmp _ _ _ _ | .vrcp _ _ _ | .vrsq _ _ _ | .vsqrt _ _ _ | .vexp2 _ _ _ | .vlog2 _ _ _
  | .vsin _ _ _ | .vcos _ _ _ | .pand _ _ _ | .por _ _ _ | .pxor _ _ _ | .pnot _ _ | .pset _ _ | .vcvt _ _ _ _ _
  | .vqnt _ _ _ _ | .vdqnt _ _ _ _ | .vpack _ _ _ | .vunpk _ _ _ | .vclass _ _ | .vperm _ _ _ | .vbperm _ _ _
  | .vslide _ _ _ _ | .vshfl _ _ _ _ | .vbcast _ _ _ | .vred _ _ _ | .vscan _ _ _ | .vballot _ _ | .vcount _ _
  | .pref _ _ | .rdnpa _ _ | .cmit | .specrd _ _ | .rsvrd _ | .mrd _ _ _ _ | .cspill _ | .rte | .rdcap _ _
  | .csrr _ _ | .pcrd _ _ | .vtanh _ _ _ | .verf _ _ _ | .vsigm _ _ _ | .vpopc _ _ _ | .vclz _ _ _ | .vbrev _ _ _
  | .extensionEmulation _ | .illegalInstruction _ _ | .chunkCommit _ _ | .rollback _ _ | .levelChange _ _
  | .regangTimeout _ _ _ | .faultAnswer _ _ _ | .waitWake _ _ | .gwaitWake _ _ | .channelWake _ _ | .cwaitWake _ _
  | .mwaitWake _ _ | .engineComplete _ | .spillReplay _ _ | .allredRound _ _ | .kStep _ _ | .drain _ _
  | .matrixCommandPerform _ _ | .writeBack _ | .anteRefill _ _ | .rowCapture _ _ | .rowUnpin _ _
  | .bmePoisonReplace _ | .balloonRequest _ _ _ _ | .balloonUrgencyRaise _ | .balloonRequestExpiry _ | .teamPlace _
  | .teamSwapOut _ | .teamRunnable _ | .quantumEnd _ | .residencyFloor _ _ | .teamRetire _ | .notifyRegisterWrite _ _
  | .launchPacket _ | .graphPacket _ | .waitsigPacket _ | .signalPacket _ | .notifiedReread _ | .kernelNode _ _
  | .copyNode _ _ | .signalNode _ _ | .waitNode _ _ | .condNode _ _ | .loopNode _ _ | .loopIteration _ _
  | .contextCreate _ | .queueCreate _ | .contextReset _ | .hostRead _ | .hostWrite _ _ | .hostSnoop _ _
  | .expanderLinkDown _ | .expanderTimeout _ | .linkFailure _ | .groupEnd _ | .healthThreshold _
  | .spareBringIn _ _ | .junctionThrottle _ | .thermalReset | .powerOn | .getIdentityCertificate
  | .getAttestationReport _ | .getHealth | .setPowerLimit _ | .writeImage _ | .moduleReset | .contextDestroy _
  | .promiseChange _ _ | .quotaChange _ _ | .leafEntryChange _ | .expanderBringBack _ | .collectiveGroupDefine _
  | .engineSectorAccess _ _ | .corePowerGate _ _ => false

/-! ### Checks (R61) -/

/-- The registers that an instruction reads: its sources, and the guard predicate when it is guarded and MODE.gen is 1 (R36). -/
def Operands.reads (o : Operands) (m : BitVec 16) : List Reg :=
  o.srcS.map .s ++ o.srcV.map .v ++ o.srcP.map .p ++ (if o.guarded && modeGen m then [.p (modeGuard m)] else [])

/-- The registers that an instruction writes. -/
def Operands.writes (o : Operands) : List Reg := o.dstS.map .s ++ o.dstV.map .v ++ o.dstP.map .p ++ o.back

/-- Every register and tile lies within the launch's allocation (R32, R252). -/
def Operands.allocated (o : Operands) (p : LaunchRec) : Bool :=
  (o.srcS ++ o.dstS ++ o.idleS).all (fun n => decide (n < p.sregs)) && (o.srcV ++ o.dstV).all (fun n => decide (n < p.vregs)) &&
  (o.srcP ++ o.dstP).all (fun n => decide (n < 8)) && o.tiles.all fun n => decide (n < p.acc)

/-- Whether an instruction reads what a window's instruction writes, or writes what that reads and does not write itself (R40, R41). -/
def Window.breach (w : Window) (reads writes : List Reg) : Bool :=
  reads.any (fun x => (w.wrote.map (·.1)).contains x) || writes.any fun x => (w.read.map (·.1)).contains x && !(w.wrote.map (·.1)).contains x

/-- The trap of an instruction before it executes: its cause and subcode, by steps 2 to 5 of R61. DEDUCED, log entry 22. -/
def Operands.refuse (o : Operands) (p : LaunchRec) (lachk : Bool) (r : Regs) : Option (Nat × Nat) :=
  match o.word, o.early with
  | some c, _ => some (1, c)
  | none, some c => some (1, c)
  | none, none =>
    if !(o.allocated p && o.aligned) then some (1, 3)
    else match o.late with
      | some c => some (1, c)
      | none => if lachk && r.wins.any (fun w => w.breach (o.reads r.mode) o.writes) then some (9, 0) else none

end Sys2Proof.Machine
end

