-- ==== Sys2Proof/Machine/AtomAlu.lean ====
section
/-! DEFINITION. What an atomic operation makes of a word (R227), and team-memory gates and channels as data (R234, R235, R237, R240). -/

namespace Sys2Proof.Machine

/-! ### Atomic operations (R227) -/

/-- The new word: `w` is 32 or 64, `m` the MODE at issue, `y` the new value of cas. -/
def atomApply (o : AtomOp) (w : Nat) (m : BitVec 16) (old x y : Nat) : Nat × Flags :=
  let t := modeType m
  let sg := typeSigned t
  match o with
  | .add => intResult w sg (modeSat m) (intOfBits w sg old + intOfBits w sg x)
  | .min => (if intOfBits w sg x < intOfBits w sg old then x else old, 0)
  | .max => (if intOfBits w sg x > intOfBits w sg old then x else old, 0)
  | .and => (old &&& x, 0)
  | .or => (old ||| x, 0)
  | .xor => (old ^^^ x, 0)
  | .exch => (x, 0)
  | .cas => (if old = x then y else old, 0)
  | .fadd =>
    let f : Fmt := match t with
      | 8 => .f16
      | 9 => .bf16
      | _ => .f32
    let rs := List.zipWith (fun a b => f.encode (modeRnd m) (modeSat m) (modeFtz m)
      (Ex.add (modeRnd m == .rdn) (f.decode (f.flush (modeFtz m) a)) (f.decode (f.flush (modeFtz m) b))))
      (elements f.width w old) (elements f.width w x)
    (joinElements f.width (rs.map (·.1)), rs.foldl (fun u r => u ||| r.2) 0)

/-! ### Gates (R234, R235) -/

/-- A gate's fields. -/
structure Gate where
  round   : BitVec 16
  arrive  : BitVec 16
  apend   : BitVec 16
  erounds : BitVec 16
  resv    : BitVec 30
  ecur    : Bool
  err     : Bool
  bpend   : W32
  deriving DecidableEq, Repr

def Gate.ofBits (n : Nat) : Gate :=
  { round := BitVec.ofNat 16 (n / 2 ^ 112), arrive := BitVec.ofNat 16 (n / 2 ^ 96), apend := BitVec.ofNat 16 (n / 2 ^ 80),
    erounds := BitVec.ofNat 16 (n / 2 ^ 64), resv := BitVec.ofNat 30 (n / 2 ^ 34), ecur := n.testBit 33, err := n.testBit 32,
    bpend := BitVec.ofNat 32 n }

def Gate.bits (g : Gate) : Nat :=
  g.bpend.toNat + g.err.toNat * 2 ^ 32 + g.ecur.toNat * 2 ^ 33 + g.resv.toNat * 2 ^ 34 + g.erounds.toNat * 2 ^ 64 +
  g.apend.toNat * 2 ^ 80 + g.arrive.toNat * 2 ^ 96 + g.round.toNat * 2 ^ 112

/-- The open round closes when no arrival and no byte is pending (R234). -/
def Gate.settle (g : Gate) : Gate :=
  if g.apend = 0 ∧ g.bpend = 0 then
    { g with round := g.round + 1, err := g.ecur, erounds := g.erounds + (if g.ecur then 1 else 0), ecur := false, apend := g.arrive }
  else g

/-- An update of a gate, and whether it is an over-arrival (R235). -/
def Gate.update (g : Gate) : GateOp → Gate × Bool
  | .init a => (Gate.settle { round := 0, arrive := a, apend := a, erounds := 0, resv := 0, ecur := false, err := false, bpend := 0 }, false)
  | .expect n => (Gate.settle { g with bpend := g.bpend + n }, false)
  | .arrive => if g.apend = 0 then (Gate.settle { g with ecur := true }, true) else (Gate.settle { g with apend := g.apend - 1 }, false)

/-- A COPY's delivered bytes, or those it will not deliver, subtracted (R236). -/
def Gate.deliver (g : Gate) (n : Nat) (error : Bool) : Gate :=
  Gate.settle { g with bpend := g.bpend - BitVec.ofNat 32 n, ecur := g.ecur || error }

/-- Whether the round that a waiter names has closed (R235). -/
def Gate.passed (g : Gate) (round : BitVec 16) : Bool :=
  let d := (g.round - round).toNat
  decide (1 ≤ d) && decide (d ≤ 32767)

/-- The gate at an offset of a team's team memory, and one put there. -/
def Team.gate (t : Team) (off : Nat) : Gate := Gate.ofBits (leNat ((List.range 16).map fun i => FMap.get 0 t.tmem (off + i)))
def Team.putBytes (t : Team) (off : Nat) : List Byte → Team
  | [] => t
  | b :: bs => Team.putBytes { t with tmem := FMap.set 0 t.tmem off b } (off + 1) bs
def Team.setGate (t : Team) (off : Nat) (g : Gate) : Team := t.putBytes off (leBytes 16 g.bits)
def Team.readBytes (t : Team) (off n : Nat) : List Byte := (List.range n).map fun i => FMap.get 0 t.tmem (off + i)

/-! ### Channels (R237, R240) -/

/-- An update of a channel's counters, and whether it is an underflow. An acquire or take is made only with its counter above 0. -/
def Chan.update (c : Chan) : ChanOp → Chan × Bool
  | .acq => ({ c with free := c.free - 1, acq := c.acq + 1 }, false)
  | .take => ({ c with filled := c.filled - 1, take := c.take + 1 }, false)
  | .pub => if c.pub ≠ c.acq then ({ c with filled := c.filled + 1, pub := c.pub + 1 }, false) else (c, true)
  | .free => if c.rel ≠ c.take then ({ c with free := c.free + 1, rel := c.rel + 1 }, false) else (c, true)

/-- The slot that an acquire or take names next: its running count modulo the count of slots. -/
def Chan.slot (c : Chan) (o : ChanOp) : Nat :=
  match o with
  | .acq | .pub => c.acq.toNat % c.count
  | .take | .free => c.take.toNat % c.count

/-- Whether an acquire or take need not wait. -/
def Chan.ready (c : Chan) (o : ChanOp) : Bool :=
  match o with
  | .acq => decide (0 < c.free)
  | .take => decide (0 < c.filled)
  | .pub | .free => true

/-- The channel of an entry of the channel table in a team with so much team memory; none where it breaks the limits (R237). -/
def Chan.ofEntry (n tmem : Nat) : Option Chan :=
  let count := n / 2 ^ 26 % 2 ^ 9
  let lsz := n / 2 ^ 22 % 16
  let base := n % 2 ^ 22
  let size := 128 * 2 ^ lsz
  if n / 2 ^ 35 = 0 ∧ 2 ≤ count ∧ count ≤ 256 ∧ lsz ≤ 9 ∧ base % size = 0 ∧ base + count * size ≤ tmem then
    some { base := base, lsz := lsz, count := count, free := count, filled := 0, acq := 0, pub := 0, take := 0, rel := 0 }
  else none

end Sys2Proof.Machine
end

