-- ==== Sys2Proof/Machine/Cap.lean ====
section
/-! DEFINITION. Capacity: granules, claims and charges (R172 to R184); lines in the LLC, their eviction and write-back (R168 to R170,
R175); invalidation of read signatures (R202, R205); the error log (R335, R336). -/

namespace Sys2Proof.Machine

/-! ### Free granules -/

/-- How many granules a pool holds. -/
def Pool.size (p : Pool) : Nat := (p.map (·.2)).foldl (· + ·) 0

/-- The `n` lowest granules of a pool (as many as it has), and the rest (R161). -/
def Pool.take : Pool → Nat → List Nat × Pool
  | [], _ => ([], [])
  | (a, k) :: p, n =>
    if n = 0 then ([], (a, k) :: p)
    else if k ≤ n then ((List.range k).map (a + ·) ++ (Pool.take p (n - k)).1, (Pool.take p (n - k)).2)
    else ((List.range n).map (a + ·), (a + n, k - n) :: p)

/-- A granule put back in its place. -/
def Pool.put : Pool → Nat → Pool
  | [], g => [(g, 1)]
  | (a, k) :: p, g =>
    if g + 1 < a then (g, 1) :: (a, k) :: p
    else if g + 1 = a then (g, k + 1) :: p
    else if g = a + k then
      match p with
      | (b, m) :: q => if b = g + 1 then (a, k + 1 + m) :: q else (a, k + 1) :: (b, m) :: q
      | [] => [(a, k + 1)]
    else (a, k) :: Pool.put p g

/-- free(p) of a die: its pool together with its antes (R182). -/
def Die.free (d : Die) : Nat := d.pool.size + (d.antes.map Pool.size).foldl (· + ·) 0

/-- The granules free to a block: its expander's pool, which is offline while the expander has failed (R351), or its home die's pool and antes
(R177, R182). -/
def State.freeFor (s : State) (b : Nat) : Nat :=
  match s.expanderOf b with
  | some x => match FMap.find? s.expanders x with
    | some e => if e.failed then 0 else e.pool.size
    | none => 0
  | none => (s.die (s.block b).home).free

/-- The pool that a block draws from, by a number: 0 to 3 a die's, 4 and up an expander's (R177). -/
def State.poolId (s : State) (b : Nat) : Nat :=
  match s.expanderOf b with
  | some x => 4 + x
  | none => (s.block b).home

/-- Granules taken from antes in order. -/
def takeAntes : List Pool → Nat → List Nat × List Pool
  | [], _ => ([], [])
  | p :: ps, n => ((p.take n).1 ++ (takeAntes ps (n - (p.take n).1.length)).1, (p.take n).2 :: (takeAntes ps (n - (p.take n).1.length)).2)

/-- Up to `n` granules for a block: from the ante of the LLC slice that homes it, then the die's pool, then the other antes,
recalled (R182); an expander block from its expander's pool. -/
def State.draw (s : State) (b n : Nat) : List Nat × State :=
  match s.expanderOf b with
  | some x =>
    match FMap.find? s.expanders x with
    | some e =>
      if e.failed then ([], s) else ((e.pool.take n).1, { s with expanders := FMap.put s.expanders x { e with pool := (e.pool.take n).2 } })
    | none => ([], s)
  | none =>
    let d := (s.block b).home
    let die := s.die d
    let ante := die.antes.getD (llcSlice b) []
    let g1 := (ante.take n).1
    let antes1 := die.antes.set (llcSlice b) (ante.take n).2
    let g2 := (die.pool.take (n - g1.length)).1
    let pool2 := (die.pool.take (n - g1.length)).2
    let r := takeAntes antes1 (n - g1.length - g2.length)
    (g1 ++ g2 ++ r.1, s.modDie d fun v => { v with pool := pool2, antes := r.2 })

/-- The owner field of a block metadata entry: 0xFFFF_FFFF for a device-owned block (R173). -/
def ownerBits (o : Option Nat) : Nat := o.getD 0xFFFFFFFF

/-- Granules for a write that is always performed: what the die's pool cannot supply comes from the service processor's stock, as a
loan of the owner on that die (R183). An expander has no stock: its block takes what its pool has, and its growth is charged in full. DESIGN CHOICE, log entry 60. -/
def State.drawAlways (s : State) (b n : Nat) : List Nat × State :=
  let r := s.draw b n
  let short := n - r.1.length
  if short = 0 ∨ (s.expanderOf b).isSome then r
  else
    let d := (s.block b).home
    let o := ownerBits (s.block b).owner
    let t := (s.die d).stock.take short
    (r.1 ++ t.1, r.2.modDie d fun v => { v with stock := t.2, loans := FMap.set 0 v.loans o (FMap.get 0 v.loans o + t.1.length) })

/-- A granule put back on a die by an owner: to the stock while its loan on that die is nonzero, else to the pool (R183). -/
def Die.giveBack (v : Die) (o g : Nat) : Die :=
  if FMap.get 0 v.loans o = 0 then { v with pool := v.pool.put g }
  else { v with stock := v.stock.put g, loans := FMap.set 0 v.loans o (FMap.get 0 v.loans o - 1) }

/-- A granule that the owner of a block frees (R183). -/
def State.release (s : State) (b g : Nat) : State :=
  match s.expanderOf b with
  | some x => { s with expanders := FMap.modify s.expanders x fun e => { e with pool := e.pool.put g } }
  | none => s.modDie (s.block b).home fun v => v.giveBack (ownerBits (s.block b).owner) g

/-- A change of a context's occupied total (R178); a device-owned block has none. -/
def State.occupy (s : State) (owner : Option Nat) (up down : Nat) : State :=
  match owner with
  | some c => s.modCtx c fun x => { x with occupied := x.occupied + up - down }
  | none => s

/-- ctx.reserve = ctx.quota − occupied (R17, R178); it may be below zero (R183). -/
def Ctx.reserve (c : Ctx) : Int := c.quota - c.occupied

/-! ### Claims (R178) -/

/-- Sectors of a line's stored code; a line of an uncompressible-IO block takes four (R172, R177). -/
def Block.storedSize (b : Block) (i : Nat) : Nat := if b.uio then 4 else codeSectors (FMap.get 0 b.codes i)

/-- The committed size of a line: that of the LLC's dirty copy, 0 without one (R169). -/
def State.committedSize (s : State) (line : Nat) : Nat :=
  match FMap.find? s.llc line with
  | some l => if l.dirty then codeSectors l.code else 0
  | none => 0

/-- The claim of a block with some lines given new committed sizes by their codes (R178, R179). -/
def State.claimWith (s : State) (b : Nat) (chg : List (Nat × Nat)) : Nat :=
  ((List.range 32).map fun i =>
    max ((s.block b).storedSize i)
      (match List.find? (fun (e : Nat × Nat) => e.1 == b * 32 + i) chg with
       | some (_, c) => codeSectors c
       | none => s.committedSize (b * 32 + i))).foldl (· + ·) 0

def State.claim (s : State) (b : Nat) : Nat := s.claimWith b []

/-- Granules for a claim: ceil(claim / 16). -/
def granulesFor (claim : Nat) : Nat := (claim + 15) / 16

/-- need[b] of R179, for lines with new codes and blocks named by a held RSVPIN. -/
def State.need (s : State) (chg : List (Nat × Nat)) (pins : List Nat) (b : Nat) : Nat :=
  let v := s.block b
  if v.pinned || v.uio || v.bad || s.isHost (b * 4096) then 0
  else if pins.contains b then 8 - v.count
  else granulesFor (s.claimWith b chg) - v.count

/-- The blocks that a list of lines lies in, each once. -/
def blocksOf (lines : List Nat) : List Nat := (lines.map blockOfLine).dedup

/-- A block given granules (R179). -/
def State.attach (s : State) (b : Nat) (gs : List Nat) : State :=
  let v := s.block b
  if gs.isEmpty then s
  else (s.setBlock b { v with count := v.count + gs.length, ptrs := v.ptrs ++ gs }).occupy v.owner gs.length 0

/-- A block given `n` granules by a growth that is always performed, of which these could be supplied: all are counted and charged (R183). -/
def State.attachAlways (s : State) (b n : Nat) (gs : List Nat) : State :=
  let v := s.block b
  if n = 0 then s
  else (s.setBlock b { v with count := v.count + n, ptrs := v.ptrs ++ gs }).occupy v.owner n 0

/-- The granules above what a block needs, released (step 3 of R175); those of a failed expander stay counted (R351). -/
def State.repack (s : State) (b : Nat) : State :=
  let v := s.block b
  let n := granulesFor (s.claim b)
  if v.pinned || v.uio || v.bad || decide (v.count ≤ n) || s.expanderDown (b * 4096) then s
  else
    let s1 := s.setBlock b { v with count := n, ptrs := v.ptrs.take n }
    (v.ptrs.drop n).foldl (fun t g => t.release b g) (s1.occupy v.owner 0 (v.count - n))

/-! ### POOL failures (R341) -/

/-- The granules that a context occupies on a die. -/
def State.heldOn (s : State) (c d : Nat) : Nat :=
  (s.blocks.filter fun e => e.2.owner == some c && e.2.home == d && (s.expanderOf e.1).isNone).foldl (fun n e => n + e.2.count) 0

/-- A context put in the order in which the service processor chooses: ascending ctx.prio, descending granules on the die (R341), and
of equal ones the lower number first. DESIGN CHOICE, log entry 69. -/
def chooseInsert (x : Nat × Nat × Nat) : List (Nat × Nat × Nat) → List (Nat × Nat × Nat)
  | [] => [x]
  | y :: ys => if x.2.1 < y.2.1 ∨ (x.2.1 = y.2.1 ∧ y.2.2 < x.2.2) then x :: y :: ys else y :: chooseInsert x ys

/-- Shares of a shortfall among contexts in the order chosen. -/
def shares : Nat → List (Nat × Nat × Nat) → List (Nat × Nat)
  | 0, _ => []
  | _, [] => []
  | n + 1, x :: xs => (x.1, min x.2.2 (n + 1)) :: shares (n + 1 - x.2.2) xs

/-- A POOL failure of a context that needed `g` granules, on some dies: each die's failure is noted, with what the service processor
is to ask of other contexts (R341). -/
def State.poolFailed (s : State) (c g : Nat) (dies : List Nat) : State :=
  dies.foldl (fun u d =>
    let cs := (((FMap.keys u.ctxs).filter fun x => x != c && decide (0 < u.heldOn x d)).map fun x => (x, (u.ctx x).prio, u.heldOn x d)).foldl
      (fun l x => chooseInsert x l) []
    u.modDie d fun v => { v with poolFail := some 0, asks := v.asks ++ shares (g - v.free) cs }) s

/-! ### Read signatures (R202, R205) -/

/-- The kind and numbers of a line in the read signature. -/
def LineId.nums : LineId → Nat × Nat × Nat
  | .mem l => (0, l, 0)
  | .team t l => (1, t, l)
  | .mailbox c => (2, c, 0)
  | .issued t => (3, t, 0)
  | .done t => (4, t, 0)
  | .chan t c => (5, t, c)
  | .log c => (6, c, 0)
  | .range n => (7, n, 0)

/-- The bit of the signature that a line maps to. -/
def LineId.bit (l : LineId) : BitVec 10 := Config.signature l.nums.1 l.nums.2.1 l.nums.2.2

/-- Team-memory lines have a space of their own (R202). -/
def LineId.isTeam : LineId → Bool
  | .team _ _ => true
  | .mem _ | .mailbox _ | .issued _ | .done _ | .chan _ _ | .log _ | .range _ => false

/-- The lines of a signature that count as read: a team's count of issued commands, which engine commands enter, does not (R199, R276). -/
def readLines (ls : List LineId) : List LineId :=
  (ls.filter fun l => match l with
    | .issued _ => false
    | .mem _ | .team _ _ | .mailbox _ | .done _ | .chan _ _ | .log _ | .range _ => true).dedup

/-- Whether an invalidation of one line hits another's bit. -/
def LineId.clash (a b : LineId) : Bool := a == b || (a.isTeam == b.isTeam && a.bit == b.bit)

def clashAny (xs ys : List LineId) : Bool := xs.any fun x => ys.any fun y => x.clash y

/-- The read signature of the chunk in commit, before its commit point (R205). -/
def Slice.prevLines (sl : Slice) : List LineId := (sl.prev.map (·.rlines)).getD []

/-- A parked instruction to be performed anew, but for its lanes performed at another agent (R148, R151). -/
def Park.anew (p : Park) : Park := { p with mask := p.all &&& ~~~p.far, buf := [], rset := [] }

/-- What an invalidation of some lines does to a slice: a hit on the read signature of its open chunk, or of the chunk in commit, marks that one for rollback;
a hit on a parked instruction's own read set alone marks every lane of that instruction unfinished again, but those performed at another agent (R148, R151,
R205). -/
def Slice.invalidate (ls : List LineId) (sl : Slice) : Slice :=
  let v := if clashAny sl.prevLines ls then { sl with prevHit := true } else sl
  if clashAny sl.chunk.rlines ls then { v with hit := true }
  else match sl.park with
    | some p => if clashAny p.rset ls then { v with park := some p.anew } else v
    | none => v

/-- An invalidation of some lines in every slice but one (R205). DEDUCED, log entry 53. -/
def State.invalidate (s : State) (ls : List LineId) (skip : Option Nat) : State :=
  if ls.isEmpty then s
  else { s with slices := s.slices.map fun e => if skip = some e.1 then e else (e.1, e.2.invalidate ls) }

/-! ### Lines in the LLC -/

/-- Whether two lines share an LLC set: home die, LLC slice and set index (R168). -/
def State.sameSet (s : State) (a b : Nat) : Bool :=
  (s.block (blockOfLine a)).home == (s.block (blockOfLine b)).home && llcSlice (blockOfLine a) == llcSlice (blockOfLine b) &&
  llcSet a == llcSet b

/-- A dirty line leaves the LLC, or becomes clean there (R175): its code becomes the stored code, and the block repacks. Nothing is written back to an expander
that has failed, whose lost lines stay POISON where they are (R351). -/
def State.writeBack (s : State) (line : Nat) (keep : Bool) : State :=
  match FMap.find? s.llc line with
  | none => s
  | some l =>
    if s.expanderDown (line * 128) then s else
    let b := blockOfLine line
    let v := s.block b
    let s1 := { s with llc := if keep then FMap.put s.llc line { l with dirty := false } else FMap.erase s.llc line }
    if l.dirty && !v.bad then
      (s1.setBlock b { v with codes := FMap.set 0 v.codes (lineInBlock line) l.code }).repack b
    else s1

/-- The least recently used line of a line's set that may be evicted: not itself, not pinned (R170), not lost with its expander (R351). -/
def State.victim (s : State) (line : Nat) : Option Nat :=
  (s.llc.foldl (fun (best : Option (Nat × Nat)) e =>
    if s.sameSet e.1 line && e.1 != line && !e.2.pin && !s.expanderDown (e.1 * 128) then
      match best with
      | some (_, st) => if e.2.stamp < st then some (e.1, e.2.stamp) else best
      | none => some (e.1, e.2.stamp)
    else best) none).map (·.1)

/-- Tags and sectors in use in a line's set (R168). -/
def State.setUse (s : State) (line : Nat) : Nat × Nat :=
  s.llc.foldl (fun u e => if s.sameSet e.1 line then (u.1 + 1, u.2 + codeSectors e.2.code) else u) (0, 0)

/-- Expansion evictions counted by an LLC slice of a die, modulo 2^64 (R171). -/
def State.countEvicts (s : State) (d i n : Nat) : State :=
  s.modDie d fun v => { v with evicts := FMap.set 0 v.evicts i ((FMap.get 0 v.evicts i + n) % 2 ^ 64) }

/-- Evictions until a line's set fits (R170), at most `fuel` of them: victims are written back and removed, and their L1 copies invalidated. Those made for want of
sectors are expansion evictions, which are counted (R171); one for want of a tag alone is a plain replacement. -/
def State.fit (s : State) (line : Nat) (skip : Option Nat) : Nat → State
  | 0 => s
  | fuel + 1 =>
    if (s.setUse line).1 ≤ 48 ∧ (s.setUse line).2 ≤ 64 then s
    else match s.victim line with
      | none => s
      | some v =>
        let s1 := (s.writeBack v false).invalidate [.mem v] skip
        State.fit (if (s.setUse line).2 ≤ 64 then s1 else s1.countEvicts (s.block (blockOfLine v)).home (llcSlice (blockOfLine v)) 1) line skip fuel

/-- The indices of a set's pool of 64 sectors that no other line of the set occupies (R168). -/
def State.freeSectors (s : State) (line : Nat) : List Nat :=
  (List.range 64).filter fun i => !(s.llc.any fun e => s.sameSet e.1 line && e.1 != line && e.2.sectors.contains i)

/-- A line's sectors: the lowest free ones of its set. DESIGN CHOICE, log entry 60. -/
def State.placeLine (s : State) (line : Nat) : State :=
  { s with llc := FMap.modify s.llc line fun l => { l with sectors := (s.freeSectors line).take (codeSectors l.code) } }

/-- A line written in the LLC with a code (R169, R170). -/
def State.setLine (s : State) (skip : Option Nat) (e : Nat × Nat) : State :=
  let pin := match FMap.find? s.llc e.1 with
    | some l => l.pin
    | none => false
  (State.fit { s with llc := FMap.put s.llc e.1 { dirty := true, code := e.2, sectors := [], pin := pin, stamp := s.clock }, clock := s.clock + 1 }
    e.1 skip 64).placeLine e.1

/-! ### Writes -/

/-- The lines of some bytes, each once. -/
def linesOf (ws : List (Nat × Byte)) : List Nat := (ws.map fun w => lineOf w.1).dedup

/-- Every byte of a line is among those written. -/
def coversLine (ws : List (Nat × Byte)) (line : Nat) : Bool :=
  (List.range 128).all fun i => ws.any fun w => w.1 == line * 128 + i

/-- Whether a line is accounted: device memory of this module (R146, R346). -/
def State.accounted (s : State) (line : Nat) : Bool := !s.isHost (line * 128) && !isFabric (line * 128)

/-- Writes to an address are discarded: its block is poisoned, or its expander has failed (R174, R351). -/
def State.discards (s : State) (a : Nat) : Bool := (s.block (blockOf a)).bad || s.expanderDown a

/-- Bytes put into memory; those of poisoned blocks and of failed expanders are discarded (R174, R351). The words that they give a value are noted, the
latest first, since a fetch may still find an earlier value (R27). -/
def State.applyBytes (s : State) (ws : List (Nat × Byte)) : State :=
  let m := ws.foldl (fun m w => if s.discards w.1 then m else Memory.write m w.1 w.2) s.mem
  { s with mem := m, words := ((ws.map fun w => w.1 / 4).dedup.map fun a => (4 * a, leNat (Memory.readBytes m (4 * a) 4))) ++ s.words }

/-- The codes that written lines take (R166, R176, R177), from the state before and the state after the bytes were written: of `ws` all, of `cover`
those that replace what was there, not merge into it (R167). -/
def newCodes (s s1 : State) (ws cover : List (Nat × Byte)) : List (Nat × Nat) :=
  ((linesOf ws).filter fun l => s.accounted l && !s.discards (l * 128)).map fun l =>
    (l, if codePoisoned (s.lineCode l) && !coversLine cover l then codePoison
        else if (s.block (blockOfLine l)).uio then codeRaw
        else encodeLine (s1.lineWords l))

/-! ### The error log -/

/-- A record (R336), without the fields that its origin fixes. All ones stands for a field that does not apply. -/
structure LogRec where
  pc    : W64
  addr  : W64
  info  : W32
  slice : Nat
  core  : Nat
  die   : Nat
  tslot : Nat
  cause : Nat
  src   : Nat
  deriving DecidableEq, Repr

def LogRec.bytes (r : LogRec) : List Byte :=
  leBytes 8 r.pc.toNat ++ leBytes 8 r.addr.toNat ++ leBytes 4 r.info.toNat ++ leBytes 2 r.slice ++ leBytes 1 r.core ++
  leBytes 1 r.die ++ leBytes 4 r.tslot ++ leBytes 2 r.cause ++ leBytes 1 r.src ++ [0]

/-- A record of the command processor or the service processor that concerns no die, core, slice or team. -/
def LogRec.plain (cause src : Nat) (addr : W64) (info : W32) : LogRec :=
  { pc := 0, addr := addr, info := info, slice := 0xFFFF, core := 0xFF, die := 0xFF, tslot := 0xFFFFFFFF, cause := cause, src := src }

/-- Growth of device-owned blocks and of writes that are always performed: granules drawn without a test (R183). -/
def State.growAlways (s : State) (chg : List (Nat × Nat)) : State :=
  (blocksOf (chg.map (·.1))).foldl (fun t b => let n := t.need chg [] b; let r := t.drawAlways b n; r.2.attachAlways b n r.1) s

/-- A write that is always performed, in the single order: memory, growth, LLC codes, invalidations (R169, R183, R205). -/
def State.agentWrite (s : State) (ws : List (Nat × Byte)) (skip : Option Nat) : State :=
  let s1 := s.applyBytes ws
  let chg := newCodes s s1 ws ws
  let s2 := (s1.growAlways chg).invalidate ((linesOf ws).map .mem) skip
  chg.foldl (fun t e => t.setLine skip e) s2

/-! ### Entries of page tables (R18, R140) -/

/-- Bytes of page tables, which lie in device-owned blocks, written: their lines are encoded and their blocks grow as any (R18). No program holds them in a
read signature. -/
def State.tableWrite (s : State) (ws : List (Nat × Byte)) : State :=
  let s1 := { s with mem := ws.foldl (fun m w => if s.discards w.1 then m else Memory.write m w.1 w.2) s.mem }
  let chg := newCodes s s1 ws ws
  chg.foldl (fun t e => t.setLine none e) (s1.growAlways chg)

/-- The leaf's a bit set in memory (R140). -/
def State.setA (s : State) (l : Leaf) : State :=
  if l.a then s else s.tableWrite [(l.addr + 1, (l.bits ||| 0x2000).extractLsb' 8 8)]

/-- The d bit of the leaf entry at an address set in memory (R140). -/
def State.setD (s : State) (addr : Nat) : State :=
  let e := s.readWord64 addr
  if e.getLsbD 14 then s else s.tableWrite [(addr + 1, (e ||| 0x4000).extractLsb' 8 8)]

/-- The accessed bits of the leaves that walks meet (R140); an access to another module's memory uses up the free choices of its check. -/
def State.touch (s : State) (c : Nat) (vas : List W64) : State :=
  vas.foldl (fun u va => if canonical va then match u.walk c va with
    | .leaf l => if isFabric (l.npa va) then { u.setA l with draws := u.draws + 64 } else u.setA l
    | .none _ => u
    else u) s

/-- Bytes at consecutive addresses. -/
def byteRun (a : Nat) : List Byte → List (Nat × Byte)
  | [] => []
  | b :: bs => (a, b) :: byteRun (a + 1) bs

/-- A record appended to a context's ring (R335): one sector write at logbase + 32 × (head mod 2^e), then the head. -/
def State.appendLog (s : State) (c : Nat) (r : LogRec) : State :=
  let x := s.ctx c
  let va := x.logbase + BitVec.ofNat 64 (32 * (x.logHead % 2 ^ x.logExp))
  let s1 := match s.walk c va with
    | .leaf l => (s.setA l).agentWrite (byteRun (l.npa va) r.bytes) none
    | .none _ => s
  (s1.modCtx c fun y => { y with logHead := y.logHead + 1 }).invalidate [.log c] none

end Sys2Proof.Machine
end

