-- ==== Sys2Proof/Machine/Faults.lean ====
section
/-! DEFINITION. Page faults and the fault queues (R152, R339); the command processor's accesses (R366) and writes (R183, R303,
R306, R307). -/

namespace Sys2Proof.Machine

/-! ### The fault queue (R339) -/

/-- The 32 bytes of an entry, as the die's ring in device-owned memory has it (R339). -/
def FaultEntry.bytes (e : FaultEntry) : List Byte :=
  leBytes 12 (e.page % 2 ^ 41) ++ leBytes 4 e.ctx ++ leBytes 2 e.lanes ++ leBytes 1 e.kind ++
  leBytes 1 (e.mal.toNat + 2 * e.eng.toNat + 4 * e.mtx.toNat) ++ leBytes 2 e.tslot ++ leBytes 2 e.core ++ leBytes 4 e.merged ++ leBytes 4 e.seq

/-- Access kinds: 0 load, 1 store, 2 atomic or reduction, 3 fetch, 4 range instruction; by the permission that they need. -/
def kindRank : Nat → Nat
  | 1 => 1
  | 4 => 1
  | 2 => 2
  | _ => 0

/-- The number of a die, of no die (all ones in a record). -/
def allOnes8 : Nat := 0xFF

/-- A fault posted to a die's queue: merged into the unanswered entry of its context and page, or a new entry, or waiting for
room (R152, R339). -/
def State.postFault (s : State) (d : Nat) (e : FaultEntry) : State :=
  let q := (s.die d).fq
  if q.any fun x => x.ctx == e.ctx && x.page == e.page then
    (s.modDie d fun v => { v with fq := v.fq.map fun x =>
        if x.ctx == e.ctx && x.page == e.page then
          { x with merged := x.merged + 1, lanes := min 65535 (x.lanes + e.lanes),
                   kind := if kindRank x.kind < kindRank e.kind then e.kind else x.kind }
        else x }).modCtx e.ctx fun c => { c with merged := FMap.set 0 c.merged d (FMap.get 0 c.merged d + 1) }
  else if q.length < 4096 then
    (s.modDie d fun v => { v with fq := v.fq ++ [{ e with seq := v.fqSeq }], fqSeq := (v.fqSeq + 1) % 2 ^ 32 }).modCtx e.ctx fun c =>
      { c with posted := FMap.set 0 c.posted d (FMap.get 0 c.posted d + 1) }
  else s.modDie d fun v => { v with fqWait := v.fqWait ++ [e] }

/-- Whether a page of a context waits for an answer on a die. -/
def State.awaits (s : State) (d c page : Nat) : Bool :=
  ((s.die d).fq ++ (s.die d).fqWait).any fun e => e.ctx == c && e.page == page

/-- VA[56:16]. -/
def pageOf (va : W64) : Nat := va.toNat / 65536 % 2 ^ 41

/-- A fault of the command processor, on die 0 (R152, R366). -/
def cpFault (c : Nat) (va : W64) (kind : Nat) : FaultEntry :=
  { seq := 0, merged := 0, core := 0xFFFF, tslot := 0xFFFF, mtx := false, eng := false, mal := false, kind := kind, lanes := 1,
    ctx := c, page := pageOf va }

/-! ### Accesses of the command processor (R366) -/

/-- What becomes of an access to a range: it may be made; it waits for missing pages (with whether the walk of each met a
malformed entry); it is refused. -/
inductive Access
  | ok
  | missing (pages : List (W64 × Bool))
  | refused
  deriving DecidableEq, Repr

def Access.and : Access → Access → Access
  | .refused, _ => .refused
  | _, .refused => .refused
  | .ok, a => a
  | a, .ok => a
  | .missing p, .missing q => .missing (p ++ q)

/-- The first byte of a 64 KiB page and those after it, over a range. -/
def pagesFrom (va : W64) (n : Nat) : List W64 :=
  if n = 0 then []
  else (List.range ((va.toNat % 65536 + n - 1) / 65536 + 1)).map fun i =>
    if i = 0 then va else BitVec.ofNat 64 ((va.toNat / 65536 + i) * 65536)

/-- One page of an access of the command processor; `draws` picks whether another module's memory is reachable (R353). -/
def State.cpPage (s : State) (c : Nat) (write : Bool) (va : W64) : Access :=
  if !canonical va then .refused
  else match s.walk c va with
    | .none m => .missing [(va, m)]
    | .leaf l =>
      if l.ff || !(if write then l.w else l.r) || l.cc == .nc || l.cc == .io ||
          (isFabric (l.npa va) && (l.cc != .dev || Config.coin s.draws)) then .refused
      else .ok

/-- The NPA of a virtual address of a context; none without a translation. -/
def State.npaOf (s : State) (c : Nat) (va : W64) : Option Nat :=
  match s.walk c va with
  | .leaf l => some (l.npa va)
  | .none _ => none

/-- Bytes at a virtual address; a byte without a translation reads as 0, one of another module's memory is a free value (R353). -/
def State.vaBytes (s : State) (c : Nat) (va : W64) : Nat → List Byte
  | 0 => []
  | n + 1 => (match s.npaOf c va with
    | some a => if isFabric a then Config.byte (s.draws + n) else s.readByte a
    | none => 0) :: State.vaBytes s c (va + 1) n

/-- Bytes at a virtual address within one page, by one walk. -/
def State.vaRun (s : State) (c : Nat) (va : W64) (n : Nat) : List Byte :=
  if va.toNat % 65536 + n ≤ 65536 then
    match s.npaOf c va with
    | some a => if isFabric a then s.freeBytes n else s.readBytes a n
    | none => List.replicate n 0
  else s.vaBytes c va n

/-- Whether a range of device memory holds a poisoned line. -/
def State.vaPoisoned (s : State) (c : Nat) (va : W64) (n : Nat) : Bool :=
  (List.range (n / 128 + 2)).any fun i =>
    let a := va + BitVec.ofNat 64 (128 * i)
    let b := if i = 0 then va else BitVec.ofNat 64 (a.toNat / 128 * 128)
    decide (b.toNat < va.toNat + n) && (match s.npaOf c b with
      | some p => s.poisoned p || s.expanderDown p
      | none => false)

/-- A whole access: its pages, and the poison of its lines. -/
def State.cpAccess (s : State) (c : Nat) (va : W64) (n : Nat) (write : Bool) : Access :=
  match ((pagesFrom va n).map (s.cpPage c write)).foldl Access.and .ok with
  | .ok => if s.vaPoisoned c va n then .refused else .ok
  | a => a

/-- The walks of an access: the a bits of the leaves that they load, whatever becomes of it (R140). -/
def State.cpTouch (s : State) (c : Nat) (va : W64) (n : Nat) : State := s.touch c (pagesFrom va n)

/-- The faults of missing pages, posted on die 0, once for each access that waits: `who` is the access's kind (0 a queue's next packet, 1 a packet under way,
2 a graph, 3 a node, 4 a launch, 5 a team's channel table, 6 a queue's read-index word) and number. -/
def State.cpPost (s : State) (c : Nat) (who : Nat × Nat) (kind : Nat) (ps : List (W64 × Bool)) : State :=
  ps.foldl (fun t p =>
    if (t.ctx c).asked.contains (who.1, who.2, pageOf p.1) then t
    else (t.postFault 0 { cpFault c p.1 kind with mal := p.2 }).modCtx c fun x => { x with asked := x.asked ++ [(who.1, who.2, pageOf p.1)] }) s

/-- What an access that reads memory leaves: the a bits of its leaves (R140), and, for another module's memory, a transaction (R353). -/
def State.cpReads (s : State) (c : Nat) (va : W64) (n : Nat) : State :=
  let u := s.cpTouch c va n
  match s.npaOf c va with
  | some a => if isFabric a then { u with draws := u.draws + n, out := u.out ++ [.remote a false (s.vaRun c va n)] } else u
  | none => u

/-- The 64-bit word at a virtual address. -/
def State.vaWord (s : State) (c : Nat) (va : W64) : W64 := BitVec.ofNat 64 (leNat (s.vaRun c va 8))

/-- The command processor is notified for a context, by a write to one of its notify registers (R303). -/
def State.notify (s : State) (c : Nat) : State := s.modCtx c fun x => { x with notified := x.notified + 1 }

/-- The command processor is notified by a signal, which whoever waits on the word may have been waiting for (R303). -/
def State.notifyAll (s : State) : State :=
  { s with ctxs := s.ctxs.map fun (e : Nat × Ctx) => (e.1, { e.2 with notified := e.2.notified + 1 }) }

/-- Bytes written at a virtual address within a page, at every replica (R216), as an agent's write that is always performed, after the a and d bits of its leaf
(R140); at another module, a transaction (R353). -/
def State.vaWrite (s : State) (c : Nat) (va : W64) (bs : List Byte) : State :=
  match s.walk c va with
  | .leaf l =>
    let u := (s.setA l).setD l.addr
    if isFabric (l.npa va) then { u with out := u.out ++ [.remote (l.npa va) true bs] }
    else u.agentWrite ((u.copies l.rep (l.npa va)).flatMap fun p => byteRun p bs) none
  | .none _ => s

/-- The record of an agent's write within one line, of fewer than 128 bytes, that a poisoned line or block loses (R174, R176). -/
def State.lossRecord (s : State) (c : Nat) (va : W64) (r : LogRec) : State :=
  let a := BitVec.ofNat 64 (va.toNat / 128 * 128)
  match s.npaOf c va with
  | none => s
  | some p =>
    if !s.accounted (lineOf p) then s
    else if (s.block (blockOf p)).bad then s.appendLog c { r with cause := 0x0015, addr := a }
    else if codePoisoned (s.lineCode (lineOf p)) then s.appendLog c { r with cause := 0x0014, addr := a }
    else s

/-- A signal word written, or added to, with its notification (R303, R307). -/
def State.writeSignal (s : State) (c : Nat) (va value : W64) (add : Bool) : State :=
  (s.vaWrite c va (leBytes 8 (if add then s.vaWord c va + value else value).toNat)).notifyAll

/-- Whether the signal word of a refused launch or graph is to be written: not where its address is zero, misaligned, not canonical, or in no writable DEV or
SYS page (R306, R310). -/
def State.signalFits (s : State) (c : Nat) (va : W64) : Bool :=
  va != 0 && va.toNat % 8 == 0 && canonical va &&
  (match s.walk c va with
   | .leaf l => l.w && (l.cc == .dev || (l.cc == .sys && !isFabric (l.npa va)))
   | .none _ => true)

/-- The signal of all ones of a refused launch or graph: what becomes of it, and the state. A write that R366 refuses, to a forfeited page or a poisoned line, is
discarded with a record that names the record or header. -/
def State.refusalSignal (s : State) (c : Nat) (va name : W64) : Access × State :=
  if !s.signalFits c va then (.refused, s)
  else match s.cpAccess c va 8 true with
    | .ok => (.ok, s.writeSignal c va ones64 false)
    | .refused => (.refused, (s.cpTouch c va 8).appendLog c (LogRec.plain 0x0022 3 name 0))
    | .missing ps => (.missing ps, s)

end Sys2Proof.Machine
end

