-- ==== Sys2Proof/Machine/Launching.lean ====
section
/-! DEFINITION. Launch records, admission and completion (R304 to R307, R316); graphs, their start and their completion
(R308 to R313). -/

namespace Sys2Proof.Machine

/-! ### Launch records (R304) -/

/-- The little-endian number in `n` bytes of a record from an offset. -/
def field (bs : List Byte) (off n : Nat) : Nat := leNat ((bs.drop off).take n)
def field64 (bs : List Byte) (off : Nat) : W64 := BitVec.ofNat 64 (field bs off 8)
/-- Bits hi down to lo of a number. -/
def bitsOf (x hi lo : Nat) : Nat := x / 2 ^ lo % 2 ^ (hi + 1 - lo)

def LaunchRec.ofBytes (bs : List Byte) : LaunchRec :=
  let c := field bs 56 8
  { entry := field64 bs 0, args := field64 bs 8, signal := field64 bs 16, value := field64 bs 24, chtab := field64 bs 32,
    nx := field bs 40 4, ny := field bs 44 4, nz := field bs 48 4, tmem := field bs 52 4,
    slices := bitsOf c 7 0 + 1, stages := bitsOf c 10 8 + 1, vregs := 8 * (bitsOf c 19 16 + 1), sregs := 8 * (bitsOf c 22 20 + 1),
    chan := bitsOf c 29 24, acc := bitsOf c 34 32, bstore := bitsOf c 48 40 * 65536, prio := bitsOf c 51 49,
    sigadd := bitsOf c 52 52 == 1, slots := (List.range 8).map fun k => field64 bs (128 + 8 * k) }

/-- Whether a record's reserved bits are all 0 (R304). -/
def launchReserved (bs : List Byte) : Bool :=
  let c := field bs 56 8
  bitsOf c 15 11 == 0 && bitsOf c 23 23 == 0 && bitsOf c 31 30 == 0 && bitsOf c 39 35 == 0 && bitsOf c 63 53 == 0 &&
  ((bs.drop 64).take 64).all (fun b => b == 0) && ((bs.drop 192).take 64).all fun b => b == 0

/-- Whether the command processor accepts a record (R306). Every record within these limits fits an empty core (R319). -/
def launchOk (bs : List Byte) : Bool :=
  let r := LaunchRec.ofBytes bs
  launchReserved bs && decide (1 ≤ r.nx) && decide (r.nx ≤ 2 ^ 24) && decide (1 ≤ r.ny) && decide (r.ny ≤ 65535) &&
  decide (1 ≤ r.nz) && decide (r.nz ≤ 65535) && r.entry.toNat % 4 == 0 && canonical r.entry && r.chtab.toNat % 16 == 0 &&
  canonical r.chtab && r.signal.toNat % 8 == 0 && canonical r.signal && r.tmem % 4096 == 0 && decide (r.tmem ≤ 2 ^ 22) &&
  ((r.chan == 0) == (r.chtab == 0)) && decide (r.acc ≤ 4) && decide (r.chan ≤ 32) && decide (r.bstore ≤ 2 ^ 24)

/-- Teams of every stage of a launch. -/
def LaunchRec.teams (r : LaunchRec) : Nat := r.nx * r.ny * r.nz * r.stages

/-- A launch's effective priority (R317). -/
def State.launchPrio (s : State) (l : Nat) : Nat := min (s.launch l).params.prio (s.ctx (s.launch l).ctx).prio

/-- The team of a linear index and a stage, before it starts (R12, R317). -/
def Team.ofLaunch (l c : Nat) (r : LaunchRec) (idx stage : Nat) : Team :=
  { Team.blank with launch := l, ctx := c, x := idx % r.nx, y := idx / r.nx % r.ny, z := idx / (r.nx * r.ny), stage := stage,
                    slices := r.slices }

/-! ### Completion of what a queue started -/

/-- A packet that has completed. -/
def State.packetDone (s : State) (q idx : Nat) : State :=
  { s with queues := FMap.modify s.queues q fun v =>
      { v with packets := v.packets.filter fun p => p.idx != idx } }

/-! ### Graph runs (R311, R312) -/

/-- The innermost LOOP whose body holds a node. -/
def nodeScope (nodes : List Node) (n : Nat) : Option Nat :=
  ((List.range nodes.length).foldl (fun (best : Option (Nat × Nat)) i =>
    match nodes[i]? with
    | some v =>
      if v.kind == 6 && decide (v.first ≤ n) && decide (n ≤ v.last) then
        match best with
        | some (_, w) => if v.last - v.first < w then some (i, v.last - v.first) else best
        | none => some (i, v.last - v.first)
      else best
    | none => best) none).map (·.1)

/-- A node is ready: idle, with working count 0, in a scope that has been entered. -/
def GraphRun.ready (g : GraphRun) (n : Nat) : Bool :=
  g.start.isNone && !g.done && !g.refused && g.states[n]? == some .idle && g.counts[n]? == some 0 &&
  (match nodeScope g.nodes n with
   | some l => g.entered.getD l false
   | none => true)

def GraphRun.running (g : GraphRun) (n : Nat) : Bool := g.states[n]? == some .running

/-- No node is running and no node is ready. -/
def GraphRun.still (g : GraphRun) : Bool :=
  g.start.isNone && (List.range g.nodes.length).all fun n => !g.ready n && !g.running n

/-- The nodes of a LOOP's body are neither running nor ready. -/
def GraphRun.bodyStill (g : GraphRun) (n : Nat) : Bool :=
  match g.nodes[n]? with
  | some v => (List.range g.nodes.length).all fun i => !(decide (v.first ≤ i) && decide (i ≤ v.last)) || (!g.ready i && !g.running i)
  | none => true

def State.graph (s : State) (g : Nat) : Option GraphRun := FMap.find? s.graphs g
def State.modGraph (s : State) (g : Nat) (f : GraphRun → GraphRun) : State := { s with graphs := FMap.modify s.graphs g f }

/-- A signal at the end of a launch or graph: written; waiting for its page, whose fault is posted; or discarded with a record
(R307, R366). The second part says whether it is settled. -/
def State.endSignal (s : State) (c : Nat) (who : Nat × Nat) (va value : W64) (add : Bool) (name : W64) : State × Bool :=
  if va = 0 then (s, true)
  else match s.cpAccess c va 8 true with
    | .ok => (s.writeSignal c va value add, true)
    | .missing ps => (s.cpPost c who 1 ps, false)
    | .refused => ((s.cpTouch c va 8).appendLog c (LogRec.plain 0x0022 3 name 0), true)

/-- A graph run with nothing running or ready completes: its signal, then what it completes for (R311, R366). -/
def State.graphCheck (s : State) (g : Nat) : State :=
  match s.graph g with
  | none => s
  | some v =>
    if v.done || !v.still then s
    else
      let r := s.endSignal v.ctx (2, g) v.signal (if v.refused then ones64 else v.value) (!v.refused && v.sigadd) v.header
      if r.2 then
        let s1 := r.1.modGraph g fun x => { x with done := true }
        match v.origin with
        | .packet q i => s1.packetDone q i
        | .node _ _ | .slice | .tail => s1
      else r.1

/-- A node completes: the counts of the released set fall by 1 (R311); one that is 0 already stays 0. DESIGN CHOICE, log entry 68. -/
def State.nodeDone (s : State) (g n : Nat) (setB : Bool) : State :=
  (s.modGraph g fun v =>
    let rel := match v.nodes[n]? with
      | some x => if setB then x.setB else x.setA
      | none => []
    { v with states := v.states.set n .done,
             counts := rel.foldl (fun cs k => cs.set k (cs.getD k 0 - 1)) v.counts }).graphCheck g

/-- An access of a running graph is refused (R366): no further node starts; a record names the node, which completes without
releasing its successors. -/
def State.graphRefuse (s : State) (g n : Nat) : State :=
  match s.graph g with
  | none => s
  | some v =>
    ((s.modGraph g fun x => { x with refused := true, states := x.states.set n .done }).appendLog v.ctx
      (LogRec.plain 0x0023 3 v.header (BitVec.ofNat 32 (n + 1)))).graphCheck g

/-- What a launch, or an engine thread of a COPY node, completes for. -/
def State.originDone (s : State) : Origin → State
  | .packet q i => s.packetDone q i
  | .node g n => s.nodeDone g n false
  | .slice | .tail => s

/-! ### Admission and completion of launches (R306, R307, R316) -/

/-- A launch without teams, whose signal of all ones waits for its page. -/
def Launch.signalOnly (c : Nat) (addr signal : W64) (o : Origin) : Launch :=
  { Launch.blank with params := { LaunchRec.blank with nx := 0, signal := signal, value := ones64 }, addr := addr, ctx := c, origin := o, done := false }

/-- A refused launch: a record, its signal, and it counts as completed once that has been written (R306, R366). -/
def State.refuseLaunch (s : State) (c : Nat) (addr : W64) (signal : W64) (o : Origin) : State :=
  let r := (s.appendLog c (LogRec.plain 0x0022 3 addr 0)).refusalSignal c signal addr
  let u := r.2
  match r.1 with
  | .ok | .refused => u.originDone o
  | .missing ps =>
    let l := nextKey u.launches
    State.cpPost { u with launches := FMap.put u.launches l (Launch.signalOnly c addr signal o) } c (4, l) 1 ps

/-- The command processor admits the launch of a record that it has read, or refuses it. -/
def State.admitLaunch (s : State) (c : Nat) (addr : W64) (bs : List Byte) (o : Origin) : State :=
  if launchOk bs then
    let r := LaunchRec.ofBytes bs
    let l := nextKey s.launches
    let v : Launch := { params := r, addr := addr, ctx := c, retired := 0, tails := [], origin := o, done := false, snap := s.mem, past := s.words.length }
    let s1 := { s with launches := FMap.put s.launches l v }
    (List.range r.teams).foldl (fun t i =>
      { t with teams := FMap.put t.teams (nextKey t.teams) (Team.ofLaunch l c r (i / r.stages) (i % r.stages)) }) s1
  else s.refuseLaunch c addr (LaunchRec.ofBytes bs).signal o

/-- A launch whose teams have all retired completes: its signal, what it completes for, then its tails (R307, R316). -/
def State.launchCheck (s : State) (l : Nat) : State :=
  let v := s.launch l
  if v.done || v.retired < v.params.teams then s
  else
    let r := s.endSignal v.ctx (4, l) v.params.signal v.params.value v.params.sigadd v.addr
    if r.2 then
      let s1 := (r.1.modLaunch l fun x => { x with done := true, tails := [] }).originDone v.origin
      v.tails.foldl (fun t e => t.admitLaunch v.ctx e.1 e.2 .tail) s1
    else r.1

/-- LAUNCH.T at its commit: a tail of the issuing launch, or, past 64, a refusal (R316). -/
def State.addTail (s : State) (l : Nat) (addr : W64) (bs : List Byte) : State :=
  let v := s.launch l
  if v.tails.length < 64 then s.modLaunch l fun x => { x with tails := x.tails ++ [(addr, bs)] }
  else s.refuseLaunch v.ctx addr (LaunchRec.ofBytes bs).signal .slice

/-! ### Starting graphs (R308 to R310) -/

/-- A node of its 64 bytes, its successor sets yet to be read. -/
def Node.ofBytes (bs : List Byte) : Node :=
  { kind := field bs 0 1, cond := field bs 1 1, deps := field bs 2 2, setA := [], setB := [], p0 := field64 bs 16, p1 := field64 bs 24,
    first := field bs 32 2, last := field bs 34 2, max := field bs 36 4 }

def nodeNa (bs : List Byte) : Nat := field bs 4 2
def nodeNb (bs : List Byte) : Nat := field bs 6 2
def nodeSucc (bs : List Byte) : W64 := field64 bs 8

/-- Whether a node's fields are as R309 lays them out: reserved bytes 0, a listed kind, fields of other kinds 0, a listed condition, addresses aligned, a
LOOP's max not 0. R310's list of refusals names the first two alone. DESIGN CHOICE, log entry 68. -/
def nodeFieldsOk (bs : List Byte) : Bool :=
  let v := Node.ofBytes bs
  let waits := v.kind == 4 || v.kind == 5 || v.kind == 6
  (bs.drop 40).all (fun b => b == 0) && decide (1 ≤ v.kind) && decide (v.kind ≤ 6) &&
  (if waits then decide (v.cond ≤ 5) else v.cond == 0) && (v.kind == 5 || nodeNb bs == 0) &&
  (waits || v.kind == 3 || v.p1 == 0) &&
  (if v.kind == 6 then decide (1 ≤ v.max) else v.max == 0 && v.first == 0 && v.last == 0) &&
  (if nodeNa bs + nodeNb bs = 0 then nodeSucc bs == 0 else (nodeSucc bs).toNat % 2 == 0) &&
  (decide (v.kind ≤ 2) || v.p0.toNat % 8 == 0)

/-- Node `i` lies in the body of LOOP `v`. -/
def inBody (v : Node) (i : Nat) : Bool := decide (v.first ≤ i) && decide (i ≤ v.last)

/-- Whether a graph's nodes pass the checks of R310 on indices, loops and edges: an edge enters or leaves a body only from or to its own LOOP node. -/
def graphShapeOk (nodes : List Node) : Bool :=
  let n := nodes.length
  let idx := List.range n
  let loops := idx.filter fun i => (nodes.getD i (Node.ofBytes [])).kind == 6
  let node (i : Nat) := nodes.getD i (Node.ofBytes [])
  nodes.all (fun v => (v.setA ++ v.setB).all fun k => decide (k < n)) &&
  loops.all (fun l => decide ((node l).last < n) && decide ((node l).first ≤ (node l).last) && !inBody (node l) l) &&
  loops.all (fun l => loops.all fun m =>
    let a := node l
    let b := node m
    decide (a.last < b.first) || decide (b.last < a.first) ||
    (decide (a.first ≤ b.first) && decide (b.last ≤ a.last)) || (decide (b.first ≤ a.first) && decide (a.last ≤ b.last))) &&
  idx.all fun i => ((node i).setA ++ (node i).setB).all fun k => loops.all fun l => inBody (node l) i == inBody (node l) k || i == l || k == l

/-- The nodes of a graph with their successor lists, once every page of them can be read. -/
def State.readNodes (s : State) (c : Nat) (va : W64) (count : Nat) : List (List Byte × Node) :=
  (List.range count).map fun k =>
    let bs := s.vaRun c (va + BitVec.ofNat 64 (64 * k)) 64
    let na := nodeNa bs
    let l := s.vaRun c (nodeSucc bs) (2 * (na + nodeNb bs))
    let get (i : Nat) := field l (2 * i) 2
    (bs, { Node.ofBytes bs with setA := (List.range na).map get, setB := (List.range (nodeNb bs)).map fun i => get (na + i) })

/-- Whether the nodes, and then the successor lists, can be read. -/
def State.nodesAccess (s : State) (c : Nat) (va : W64) (count : Nat) : Access :=
  match s.cpAccess c va (64 * count) false with
  | .ok => ((s.readNodes c va count).map fun r =>
      if nodeNa r.1 + nodeNb r.1 = 0 then .ok else s.cpAccess c (nodeSucc r.1) (2 * (nodeNa r.1 + nodeNb r.1)) false).foldl Access.and .ok
  | a => a

/-- The walks for a graph's nodes and, where those can be read, its successor lists (R140). -/
def State.nodesTouch (s : State) (c : Nat) (va : W64) (count : Nat) : State :=
  let u := s.cpTouch c va (64 * count)
  match s.cpAccess c va (64 * count) false with
  | .ok => (s.readNodes c va count).foldl (fun w r => w.cpTouch c (nodeSucc r.1) (2 * (nodeNa r.1 + nodeNb r.1))) u
  | .missing _ | .refused => u

/-- A run that waits to be read is read and checked: it starts, waits for pages, or is refused (R310, R366). -/
def State.graphTry (s : State) (g : Nat) : State :=
  match s.graph g with
  | none => s
  | some v => match v.start with
    | none => s
    | some (va, count) => match s.nodesAccess v.ctx va count with
      | .missing ps => (s.nodesTouch v.ctx va count).cpPost v.ctx (2, g) 0 ps
      | .refused => refuse (s.nodesTouch v.ctx va count) g v
      | .ok =>
        let ns := s.readNodes v.ctx va count
        let u := ns.foldl (fun u r => u.cpReads v.ctx (nodeSucc r.1) (2 * (nodeNa r.1 + nodeNb r.1))) (s.cpReads v.ctx va (64 * count))
        if ns.all (fun r => nodeFieldsOk r.1) && graphShapeOk (ns.map (·.2)) then
          (u.modGraph g fun x =>
            { x with start := none, nodes := ns.map (·.2), counts := ns.map (·.2.deps), states := ns.map fun _ => .idle,
                     iters := ns.map fun _ => 0, entered := ns.map fun _ => false, seen := ns.map fun _ => 0 }).graphCheck g
        else refuse u g v
where
  /-- A refused graph: a record, its signal, and it counts as completed once that has been written. -/
  refuse (s : State) (g : Nat) (v : GraphRun) : State :=
    let r := (s.appendLog v.ctx (LogRec.plain 0x0023 3 v.header 0)).refusalSignal v.ctx v.signal v.header
    let u := r.2
    let ends (w : State) : State :=
      let s1 := w.modGraph g fun x => { x with start := none, done := true }
      match v.origin with
      | .packet q i => s1.packetDone q i
      | .node _ _ | .slice | .tail => s1
    match r.1 with
    | .ok | .refused => ends u
    | .missing ps => (u.modGraph g fun x => { x with start := none, refused := true, nodes := [], counts := [], states := [] }).cpPost v.ctx (2, g) 1 ps

/-- Whether a header's fields are as R308 lays them out, a count of at least 1 and the alignments among them. DESIGN CHOICE, log entry 68. -/
def headerOk (bs : List Byte) : Bool :=
  (bs.drop 33).all (fun b => b == 0) && decide (field bs 32 1 < 2) && field bs 10 6 == 0 && decide (1 ≤ field bs 8 2) &&
  field bs 16 8 % 8 == 0 && field bs 0 8 % 64 == 0

/-- A graph starts from its header's 64 bytes (R310). -/
def State.graphStart (s : State) (c : Nat) (addr : W64) (bs : List Byte) (o : Origin) : State :=
  let g := nextKey s.graphs
  let run : GraphRun :=
    { ctx := c, header := addr, signal := field64 bs 16, value := field64 bs 24, sigadd := field bs 32 1 == 1, nodes := [],
      counts := [], states := [], iters := [], entered := [], start := some (field64 bs 0, field bs 8 2), seen := [],
      refused := false, origin := o, done := false }
  let s1 := { s with graphs := FMap.put s.graphs g run }
  if headerOk bs && canonical (field64 bs 0) && canonical (field64 bs 16) then s1.graphTry g
  else State.graphTry.refuse s1 g run

/-- Runs and launches that waited for a page try again (R366). -/
def State.settle (s : State) : State :=
  let s1 := (FMap.keys s.graphs).foldl (fun t g => (t.graphTry g).graphCheck g) s
  (FMap.keys s1.launches).foldl (fun t l => t.launchCheck l) s1

end Sys2Proof.Machine
end

