-- ==== Sys2Proof/Machine/Ranges.lean ====
section
/-! DEFINITION. Ranges of memory: their lines and blocks (R154, R190), write-back, removal, discard and zeroing of a line
(R154, R175, R189, R193), pinning (R192). -/

namespace Sys2Proof.Machine

/-! ### Ranges -/

/-- The parts of a range in each 64 KiB page: start and length. -/
def rangePieces (base len : Nat) : List (Nat × Nat) :=
  if len = 0 then []
  else (List.range ((base % 65536 + len - 1) / 65536 + 1)).map fun i =>
    let lo := if i = 0 then base else (base / 65536 + i) * 65536
    (lo, min (base + len) ((base / 65536 + i + 1) * 65536) - lo)

/-- The 128-byte lines that a piece touches: address of the first byte, and whether the piece covers the line. -/
def pieceLines (p : Nat × Nat) : List (Nat × Bool) :=
  (List.range ((p.1 % 128 + p.2 - 1) / 128 + 1)).map fun i =>
    let a := (p.1 / 128 + i) * 128
    (a, decide (p.1 ≤ a) && decide (a + 128 ≤ p.1 + p.2))

/-- A line of a range: its virtual address, its NPA (the lead replica's), whether it is wholly in the range, its leaf. -/
structure RangeLine where
  va    : Nat
  npa   : Nat
  whole : Bool
  leaf  : Leaf
  deriving DecidableEq, Repr

/-- The translated pages of a range: for each 64 KiB piece its start, its length and its leaf. An address that is not canonical has none. -/
def State.rangePages (s : State) (c : Nat) (base len : W64) : List ((Nat × Nat) × Leaf) :=
  (rangePieces base.toNat len.toNat).filterMap fun p =>
    if canonical (BitVec.ofNat 64 p.1) then
      match s.walk c (BitVec.ofNat 64 p.1) with
      | .none _ => none
      | .leaf l => some (p, l)
    else none

/-- The lines of a range whose pages are translated and not forfeited (R154). -/
def State.rangeLines (s : State) (c : Nat) (base len : W64) : List RangeLine :=
  (s.rangePages c base len).flatMap fun e =>
    let p := e.1
    let l := e.2
      if l.ff then []
      else (pieceLines p).map fun x => { va := x.1, npa := l.npa (BitVec.ofNat 64 x.1), whole := x.2, leaf := l }

/-- The blocks of a range, every replica, each once, with the address of the block's first byte. -/
def State.rangeBlocks (s : State) (c : Nat) (base len : W64) : List (Nat × Nat) :=
  ((s.rangeLines c base len).flatMap fun r => (s.copies r.leaf.rep r.npa).map fun a => (blockOf a, r.va / 4096 * 4096)).dedup

/-- Lines of the module's own device or expander memory: those that the LLC holds compressed; not of an expander that has failed (R351). -/
def State.lineKept (s : State) (r : RangeLine) : Bool := s.accounted (lineOf r.npa) && !s.expanderDown r.npa

/-! ### One line -/

/-- A line that capture has pinned in the LLC (R163). -/
def State.linePinned (s : State) (line : Nat) : Bool :=
  match FMap.find? s.llc line with
  | some l => l.pin
  | none => false

/-- The rows that a line's stored sectors lie in, each by its pseudo-channel and its number there (R160, R172); none for a line that has no sector in the
die's HBM4. -/
def State.lineRows (s : State) (d line : Nat) : List (BitVec 7 × Nat) :=
  let b := s.block (blockOfLine line)
  if b.home = d ∧ (s.expanderOf (blockOfLine line)).isNone ∧ !b.bad ∧ b.count ≠ 0 then
    let off := if b.uio then 4 * lineInBlock line else sectorOffset b.codes (lineInBlock line)
    (List.range (b.storedSize (lineInBlock line))).map fun i =>
      let a := BitVec.ofNat 37 (storageAddr b.ptrs (off + i))
      (pseudoChannel (s.die d).masks a, Config.dramRow (granuleIndex a).toNat)
  else []

/-- Every line of the blocks in use that has a stored sector in the row where a line begins (R163). -/
def State.rowLines (s : State) (d line : Nat) : List Nat :=
  match s.lineRows d line with
  | [] => []
  | r :: _ => (s.blocks.flatMap fun e => (List.range 32).map fun i => 32 * e.1 + i).filter fun l => l == line || (s.lineRows d l).contains r

/-- The pinned lines of the row where the first line given begins, with the others given, unpinned and written back (R163). -/
def State.unpinRow (s : State) (d : Nat) (lines : List Nat) : State :=
  (lines ++ (s.rowLines d (lines.headD 0)).filter fun l => !lines.contains l).foldl (fun u l => match FMap.find? u.llc l with
    | some v => if v.pin && (u.block (blockOfLine l)).home == d then
        State.writeBack { u with llc := FMap.put u.llc l { v with pin := false } } l true
      else u
    | none => u) s

/-- A line that is not captured, or no more: what waits for the write-back of a captured line goes on once its row has been unpinned (R154, R163). DESIGN
CHOICE, log entry 49. -/
def State.freeLine (s : State) (line : Nat) : State := if s.linePinned line then s.unpinRow (s.block (blockOfLine line)).home [line] else s

/-- The line written back and kept, clean (R154, R175). -/
def State.wbLine (s : State) (line : Nat) : State := (s.freeLine line).writeBack line true

/-- The slices' copies of an NC line in the L1s removed (R147, R154). -/
def State.dropNc (s : State) (line : Nat) : State :=
  { s with slices := s.slices.map fun e => (e.1, { e.2 with nc := FMap.erase e.2.nc line }) }

/-- The line written back and removed from every cache of the module (R154); of a line that the LLC does not hold compressed, the copies in the L1s. -/
def State.invLine (s : State) (r : RangeLine) (line : Nat) : State :=
  let s1 := if s.lineKept r then ((s.dropNc line).freeLine line).writeBack line false else s.dropNc line
  s1.invalidate [.mem line] none

/-- The line removed from the LLC without write-back, its stored code ZERO, and its block repacked (R189). -/
def State.zeroLine (s : State) (line : Nat) : State :=
  let b := blockOfLine line
  let v := s.block b
  let s1 := { s with llc := FMap.erase s.llc line }
  if v.bad then s1
  else (s1.setBlock b { v with codes := FMap.set 0 v.codes (lineInBlock line) (if v.uio then codeRaw else codeZero) }).repack b

/-- Bytes of a line, as zeros. -/
def zeroBytes (a n : Nat) : List (Nat × Byte) := (List.range n).map fun i => (a + i, 0)

/-! ### Step 6 of R204: CWB, CINV and CDISC, and the codes of CZERO -/

/-- The maintenance of a range (R154, R189, R193). For CZERO and CDISC the zeros have been written before; here the whole lines become ZERO
lines. CWB and CINV translate only now (R140). -/
def State.maintain (s0 : State) (c : Nat) (o : RangeOp) (base len : W64) : State :=
  let s := if o == .wb || o == .inv then s0.touch c ((s0.rangePages c base len).map fun e => BitVec.ofNat 64 e.1.1) else s0
  let all := (s.rangeLines c base len).filter fun r => r.leaf.cc != .io && !isFabric r.npa
  let ls := (s.rangeLines c base len).filter s.lineKept
  match o with
  | .wb => (ls.filter fun r => r.leaf.cc != .io).foldl (fun t r => (t.copies r.leaf.rep r.npa).foldl (fun u a => u.wbLine (lineOf a)) t) s
  | .inv => all.foldl (fun t r => (t.copies r.leaf.rep r.npa).foldl (fun u a => u.invLine r (lineOf a)) t) s
  | .disc | .zero => ls.foldl (fun t r =>
      (t.copies r.leaf.rep r.npa).foldl (fun u a =>
        if r.whole then (if (u.lineWords (lineOf a)).all (fun w => w == 0) then u.zeroLine (lineOf a) else u)
        else if o == .disc then u.wbLine (lineOf a) else u) t) s
  | .pin | .unpin => s

/-! ### Pinning (R184, R192) -/

def State.pinBlock (s : State) (b : Nat) : State :=
  if (s.block b).bad then s else s.setBlock b { s.block b with pinned := true }

/-- A block unpinned, unless it belongs to a gp page, and repacked. -/
def State.unpinBlock (s : State) (b : Nat) : State :=
  let v := s.block b
  if v.pinned && !v.gp && !v.bad then (s.setBlock b { v with pinned := false }).repack b else s

def State.pinRange (s : State) (c : Nat) (o : RangeOp) (base len : W64) : State :=
  match o with
  | .pin => (s.rangeBlocks c base len).foldl (fun t b => t.pinBlock b.1) s
  | .unpin => (s.rangeBlocks c base len).foldl (fun t b => t.unpinBlock b.1) s
  | .zero | .wb | .inv | .disc => s

end Sys2Proof.Machine
end

