-- ==== Sys2Proof/Machine/Commit.lean ====
section
/-! DEFINITION. The commit of a chunk (R179, R180, R199 to R211): its effects on a trial memory, its charge, its commit point, step 6,
the escalation counts, and rollback. -/

namespace Sys2Proof.Machine

/-! ### A slice's held effects -/

/-- The effects that a slice holds: those of the chunk in commit, which are not yet visible, and those of the open chunk (R206). -/
def Slice.heldAll (sl : Slice) : List HeldItem := sl.post ++ (sl.prev.map (·.held)).getD [] ++ sl.chunk.held

/-- A context register as the slice reads it: its own held CSRW, or the value given (R47). -/
def Slice.ownCsr (sl : Slice) (n : Nat) (v : W64) : W64 :=
  sl.heldAll.foldl (fun x it => match it.eff with
    | .csr m w => if m = n then w else x
    | _ => x) v

/-- A held matrix command. -/
def HeldItem.isMatrix (it : HeldItem) : Bool :=
  match it.eff with
  | .matrix _ => true
  | _ => false

/-- Whether a team's queue of 256 has room for some held matrix commands (R259). DEDUCED, log entry 14. -/
def State.queueRoom (s : State) (t : Nat) (held : List HeldItem) : Bool :=
  decide ((s.team t).queue.length + (held.filter HeldItem.isMatrix).length ≤ 256)

/-! ### A slice's place -/

/-- The core as fabricated on which a team is, and its number on its die (R43). -/
def State.coreNum (s : State) (t : Nat) : Nat :=
  match s.teamCore t with
  | some c => (s.core c).num.getD 0xFF
  | none => 0xFF

def State.tslot (s : State) (t : Nat) : Nat := ((s.team t).slot).getD 0xFFFFFFFF

/-- A record of a slice (R336). -/
def State.sliceRec (s : State) (t k : Nat) (pc : W64) (cause : Nat) (addr : W64) (info : W32) : LogRec :=
  { pc := pc, addr := addr, info := info, slice := k, core := s.coreNum t, die := s.teamDie t, tslot := s.tslot t, cause := cause,
    src := 1 }

/-! ### Escalation (R210, R211) -/

/-- The change of level that is due, if any. -/
def Slice.due (sl : Slice) : Option Nat :=
  match sl.level with
  | 0 => if 4 ≤ sl.rb then some 1 else none
  | 1 => if 64 ≤ sl.cm then some 0 else if 8 ≤ sl.rb then some 2 else none
  | _ => if 64 ≤ sl.cm then some 0 else none

/-- The change of level that is due, made: it sets rb and cm to 0. -/
def Slice.relevel (sl : Slice) : Slice :=
  { sl with level := sl.due.getD sl.level, rb := if sl.due.isSome then 0 else sl.rb, cm := if sl.due.isSome then 0 else sl.cm }

/-- The counts of a commit (R210, R213). -/
def Slice.countCommit (sl : Slice) : Slice :=
  { sl.relevel with rb := 0, cm := sl.relevel.cm + 1, commits := sl.commits + 1 }

/-- A slice back at its checkpoint, its chunk's held effects and its parked instruction discarded (R20, R151, R207). -/
def Slice.atCheckpoint (c : Ctx) (sl : Slice) : Slice :=
  { sl with regs := sl.chunk.ckpt, chunk := Chunk.begin c sl.chunk.ckpt, hit := false, tell := none, park := none, mark := none }

/-- The open chunk discarded with the chunk in commit before its commit point, if there is one, which stands in its place (R206, R209). -/
def Slice.fallBack (sl : Slice) : Slice :=
  match sl.prev with
  | some p => { sl with chunk := p, prev := none, prevHit := false }
  | none => sl

/-- The chunk as it is when its slice stands at the checkpoint again, with no instruction issued: lachk and fpxen stay those of its
start (R47, R200: a rollback does not end a chunk). DEDUCED, log entry 13. -/
def Slice.rewind (sl : Slice) : Slice :=
  { sl with regs := sl.chunk.ckpt, hit := false, tell := none, park := none, mark := none,
            chunk := { sl.chunk with instrs := 0, held := [], wlines := [], rlines := [], code := [], ended := false } }

/-- A slice once its open chunk, or the chunk in commit with it, has rolled back (R205, R210, R213). A chunk of level 1 that is still in commit, before step 2,
when its slice has come to level 2 rolls back as R205 says, and counts. DESIGN CHOICE, log entry 12. -/
def Slice.rolledBack (sl : Slice) : Slice :=
  let v := if sl.prevHit then sl.fallBack else sl
  { v.rewind.relevel with rb := v.rewind.relevel.rb + 1, cm := 0, rollbacks := sl.rollbacks + 1 }

/-- A rollback of a slice to its checkpoint (R20, R205, R210, R213, R338). -/
def State.rollbackSlice (s : State) (t k : Nat) : State :=
  let s1 := s.modSlice t k Slice.rolledBack
  match s.teamCore t with
  | some c => s1.modCore c fun v => { v with rollbacks := v.rollbacks + 1 }
  | none => s1

/-! ### The trial (R201, R204 steps 3 and 4) -/

/-- What a held effect writes where: its instruction's address and place in the chunk, the virtual address, the block (R180). -/
structure Mark where
  pc  : W64
  num : Nat
  va  : Nat
  blk : Nat
  deriving DecidableEq, Repr

/-- A chunk's memory effects as they are made: memory, the bytes written by NPA, those of them that replace what was there (R167: a reduction merges),
which instruction wrote which address of which block, the flags of its reductions, the blocks that an RSVPIN names. -/
structure Trial where
  mem   : Memory
  ws    : List (Nat × Byte)
  cover : List (Nat × Byte)
  marks : List Mark
  fl    : Flags
  pins  : List Nat
  deriving DecidableEq, Repr

/-- Which effects a trial makes: those on DEV and SYS pages, those on NC pages, and of CZERO those on whole lines. -/
structure Sorts where
  dev   : Bool
  nc    : Bool
  whole : Bool

/-- Bytes written at every replica (R216). -/
def Trial.put (s : State) (tr : Trial) (it : HeldItem) (merge : Bool) (bs : List StoreByte) : Trial :=
  let ws := bs.flatMap fun b => (s.copies b.rep b.npa).map fun a => (a, b.val)
  { tr with mem := ws.foldl (fun m w => if s.discards w.1 then m else Memory.write m w.1 w.2) tr.mem,
            ws := tr.ws ++ ws, cover := if merge then tr.cover else tr.cover ++ ws,
            marks := tr.marks ++ bs.flatMap fun b => (s.copies b.rep b.npa).map fun a => { pc := it.pc, num := it.num, va := b.va, blk := blockOf a } }

/-- Consecutive bytes as stores, from a virtual address and an NPA. -/
def storeRun (rep : Bool) (va npa : Nat) : List Byte → List StoreByte
  | [] => []
  | b :: bs => { va := va, npa := npa, rep := rep, val := b } :: storeRun rep (va + 1) (npa + 1) bs

/-- One lane of a held RED: a read-modify-write at the home (R227, R228). -/
def Trial.redLane (s : State) (o : AtomOp) (wide : Bool) (m : BitVec 16) (it : HeldItem) (tr : Trial) (l : RedLane) : Trial :=
  let n := if wide then 8 else 4
  let r := atomApply o (8 * n) m (leNat (Memory.readBytes tr.mem l.npa n)) (l.val.toNat % 2 ^ (8 * n)) 0
  { tr.put s it true (storeRun l.rep l.va l.npa (leBytes n r.1)) with fl := tr.fl ||| r.2 }

/-- The bytes of some lines of a range that lie in it, as zeros; those of NC pages, or the others. -/
def State.rangeZeros (s : State) (c : Nat) (base len : W64) (pick : RangeLine → Bool) : List StoreByte :=
  ((s.rangeLines c base len).filter pick).flatMap fun r =>
    ((List.range 128).filter fun i => decide (base.toNat ≤ r.va + i) && decide (r.va + i < base.toNat + len.toNat)).map fun i =>
      { va := r.va + i, npa := r.npa + i, rep := r.leaf.rep, val := 0 }

/-- The lines that a CZERO zeroes in a trial. -/
def Sorts.zeroes (o : Sorts) (r : RangeLine) : Bool := (if r.leaf.cc == .nc then o.nc else o.dev) && (o.whole || !r.whole)

/-- One held effect on a trial of some sorts, in program order: a CZERO among the chunk's stores (R201). DESIGN CHOICE, log entry 62. -/
def Trial.effect (o : Sorts) (s : State) (c : Nat) (tr : Trial) (it : HeldItem) : Trial :=
  match it.eff with
  | .store nc bs _ => if (if nc then o.nc else o.dev) then tr.put s it false bs else tr
  | .signal bs _ => if o.dev then tr.put s it false bs else tr
  | .red f wide m ls _ => if o.dev then ls.foldl (Trial.redLane s f wide m it) tr else tr
  | .range .zero base len _ => tr.put s it false (s.rangeZeros c base len o.zeroes)
  | .range .pin base len _ =>
    let bs := (s.rangeBlocks c base len).filter fun b => !(s.block b.1).pinned
    { tr with pins := tr.pins ++ bs.map (·.1), marks := tr.marks ++ bs.map fun b => { pc := it.pc, num := it.num, va := b.2, blk := b.1 } }
  | .range _ _ _ _ | .tstore _ | .redt _ _ _ _ | .gate _ _ | .chan _ _ _ | .matrix _ | .engine _ _ | .launchN _ _ | .launchT _ _
  | .graph _ _ | .csr _ _ => tr

/-- A trial with no effect. -/
def Trial.start (s : State) : Trial := { mem := s.mem, ws := [], cover := [], marks := [], fl := 0, pins := [] }

def State.trial (s : State) (o : Sorts) (c : Nat) (held : List HeldItem) : Trial := held.foldl (Trial.effect o s c) (Trial.start s)

/-- The zeros of a chunk's CDISCs, after its stores (R154). -/
def State.discarded (s : State) (c : Nat) (held : List HeldItem) : Trial :=
  held.foldl (fun tr it => match it.eff with
    | .range .disc base len _ => tr.put s it false (s.rangeZeros c base len (·.whole))
    | _ => tr) (Trial.start s)

/-- What is made at the commit point: all but the NC stores and the zeros of NC pages. -/
def atPoint : Sorts := { dev := true, nc := false, whole := true }
/-- What step 6 makes of it. -/
def atSix : Sorts := { dev := false, nc := true, whole := true }
/-- All of a chunk's effects. -/
def allSorts : Sorts := { dev := true, nc := true, whole := true }
/-- All but what CZERO does to whole lines, whose credit comes after the chunk's stores and never lowers its charge (R179). -/
def charged : Sorts := { dev := true, nc := true, whole := false }

/-- The codes that a trial's lines take. -/
def State.trialCodes (s : State) (tr : Trial) : List (Nat × Nat) := newCodes s { s with mem := tr.mem } tr.ws tr.cover

/-- The codes of a chunk's lines for its charge: of each the larger of that with all the chunk's effects and that without the lines that CZERO has made
zero (R179). -/
def State.chargeCodes (s : State) (full keep : Trial) : List (Nat × Nat) :=
  let ks := s.trialCodes keep
  (s.trialCodes full).map fun e =>
    let k := match ks.find? fun x => x.1 == e.1 with
      | some x => x.2
      | none => s.lineCode e.1
    if codeSectors e.2 < codeSectors k then (e.1, k) else e

/-! ### The charge (R179, R180) -/

/-- Why a commit fails: 0 RESERVE or 1 POOL, the granules, the instruction and the address that the frame names, and the dies
whose pools are short. -/
structure CapFail where
  kind : Nat
  g    : Nat
  pc   : W64
  addr : W64
  dies : List Nat
  deriving DecidableEq, Repr

/-- need[b] of every block of a commit. -/
def State.needs (s : State) (chg : List (Nat × Nat)) (pins : List Nat) : List (Nat × Nat) :=
  ((blocksOf (chg.map (·.1)) ++ pins).dedup).map fun b => (b, s.need chg pins b)

def sumNat (xs : List Nat) : Nat := xs.foldl (· + ·) 0

/-- The blocks whose pools are short (R179). -/
def State.shortBlocks (s : State) (ns : List (Nat × Nat)) : List Nat :=
  (ns.filter fun e => decide (0 < e.2) &&
    decide (s.freeFor e.1 < sumNat ((ns.filter fun x => s.poolId x.1 == s.poolId e.1).map (·.2)))).map (·.1)

/-- The first instruction in program order that changes a line of a block that needs granules, and the lowest address that it writes in such a block (R180). -/
def faultMark (marks : List Mark) (ns : List (Nat × Nat)) : W64 × W64 :=
  let hits := marks.filter fun m => ns.any fun e => e.1 == m.blk && decide (0 < e.2)
  match hits with
  | [] => (0, 0)
  | m :: _ => (m.pc, BitVec.ofNat 64 ((hits.filter fun x => x.num == m.num).foldl (fun a x => min a x.va) m.va))

/-- Growth of device-owned blocks, which charges no context (R17, R183). -/
def State.growOwnerless (s : State) (chg : List (Nat × Nat)) : State :=
  s.growAlways (chg.filter fun e => (s.block (blockOfLine e.1)).owner.isNone)

/-- charge_commit: the granules attached, or the failure (R179). -/
def State.charge (s0 : State) (c : Nat) (chg : List (Nat × Nat)) (pins : List Nat) (marks : List Mark) : Except CapFail State :=
  let s := s0.growOwnerless chg
  let ns := (s.needs chg pins).filter fun e => (s.block e.1).owner.isSome
  let g := sumNat (ns.map (·.2))
  let m := faultMark marks ns
  if g = 0 then .ok s
  else if (s.ctx c).reserve < g then .error { kind := 0, g := g, pc := m.1, addr := m.2, dies := [] }
  else if !(s.shortBlocks ns).isEmpty then
    .error { kind := 1, g := g, pc := m.1, addr := m.2, dies := (((s.shortBlocks ns).filter fun b => (s.expanderOf b).isNone).map fun b => (s.block b).home).dedup }
  else .ok (ns.foldl (fun t e => let r := t.draw e.1 e.2; r.2.attach e.1 r.1) s)

/-! ### The commit point (R201, R204 step 5) -/

/-- The d bits of the leaves that a chunk's effects go through (R140). -/
def HeldItem.leaves (it : HeldItem) : List Nat :=
  match it.eff with
  | .store _ _ ls | .red _ _ _ _ ls | .signal _ ls => ls
  | .tstore _ | .redt _ _ _ _ | .gate _ _ | .chan _ _ _ | .range _ _ _ _ | .matrix _ | .engine _ _ | .launchN _ _ | .launchT _ _
  | .graph _ _ | .csr _ _ => []

/-- The leaves of the pages that a CZERO or CDISC writes (R140). -/
def State.rangeLeaves (s : State) (c : Nat) (it : HeldItem) : List Nat :=
  match it.eff with
  | .range .zero base len _ | .range .disc base len _ => ((s.rangeLines c base len).map fun r => r.leaf.addr).dedup
  | _ => []

/-- The instruction that first wrote a line, and the line's virtual address (a page's addresses agree in their low 16 bits). -/
def lineMark (marks : List Mark) (l : Nat) : W64 × W64 :=
  match marks.find? fun m => m.blk == blockOfLine l && m.va / 128 % 32 == l % 32 with
  | some m => (m.pc, BitVec.ofNat 64 (m.va / 128 * 128))
  | none => (0, 0)

/-- Records of a trial's writes to poisoned lines and blocks (R167, R174, R176). DEDUCED, log entry 29. -/
def State.poisonRecords (s : State) (t k c : Nat) (tr : Trial) : State :=
  (linesOf tr.ws).foldl (fun u l =>
    let m := lineMark tr.marks l
    if !s.accounted l then u
    else if (s.block (blockOfLine l)).bad then u.appendLog c (u.sliceRec t k m.1 0x0015 m.2 0)
    else if codePoisoned (s.lineCode l) && !coversLine tr.cover l then u.appendLog c (u.sliceRec t k m.1 0x0014 m.2 0)
    else u) s

/-- A trial made: its records, its bytes, its lines in the LLC. The copies that others hold of its lines are invalidated where they are tracked (R147, R205). -/
def State.makeTrial (s : State) (t k c : Nat) (tr : Trial) (tracked : Bool) : State :=
  let chg := newCodes s (s.applyBytes tr.ws) tr.ws tr.cover
  let me := some (sliceKey t k)
  let s1 := (s.applyBytes tr.ws).poisonRecords t k c tr
  let s2 := if tracked then s1.invalidate ((linesOf tr.ws).map .mem) me else s1
  chg.foldl (fun u e => u.setLine me e) s2

/-- A CSRW at its commit (R46, R47). -/
def State.writeCsr (s : State) (c n : Nat) (v : W64) : State :=
  s.modCtx c fun x =>
    if n = 0x010 then { x with tvec := v }
    else if n = 0x012 then { x with lachk := v.getLsbD 0 }
    else if n = 0x013 then { x with fpxen := v.setWidth 6 }
    else x

/-- An update of a channel, with its record of an underflow (R239, R240). A channel of a team that does not hold it is an underflow. -/
def State.chanEffect (s : State) (t k c : Nat) (pc : W64) (owner ch : Nat) (o : ChanOp) : State :=
  match (s.team owner).chans[ch]? with
  | none => s.appendLog c (s.sliceRec t k pc 0x0013 0 (BitVec.ofNat 32 ch))
  | some v =>
    let r := v.update o
    if r.2 then s.appendLog c (s.sliceRec t k pc 0x0013 0 (BitVec.ofNat 32 ch))
    else (s.modTeam owner fun x => { x with chans := x.chans.set ch r.1 }).invalidate [.chan owner ch] (some (sliceKey t k))

/-- An update of a gate, with its record of an over-arrival (R235). -/
def State.gateEffect (s : State) (t k c : Nat) (pc : W64) (off : Nat) (o : GateOp) : State :=
  let r := ((s.team t).gate off).update o
  let s1 := (s.modTeam t fun x => x.setGate off r.1).invalidate [.team t (off / 128)] (some (sliceKey t k))
  if r.2 then s1.appendLog c (s1.sliceRec t k pc 0x0012 (BitVec.ofNat 64 off) 0) else s1

/-- One lane of a held REDT (R227, R231): the team, and the flags. -/
def redtLane (o : AtomOp) (wide : Bool) (m : BitVec 16) (tm : Team × Flags) (l : RedLane) : Team × Flags :=
  let n := if wide then 8 else 4
  let r := atomApply o (8 * n) m (leNat (tm.1.readBytes l.npa n)) (l.val.toNat % 2 ^ (8 * n)) 0
  (tm.1.putBytes l.npa (leBytes n r.1), tm.2 ||| r.2)

/-- A matrix command released into the team's queue (R259). -/
def State.releaseMatrix (s : State) (t k : Nat) (o : MatOp) : State :=
  s.modTeam t fun x =>
    { x with queue := x.queue ++ [{ num := x.released + 1, slice := k, core := s.coreNum t, op := o, steps := 0, wrapped := false,
                                    drained := false, flags := 0, bad := none, asked := [], gone := [] }],
             released := x.released + 1 }

/-- An engine command forks its thread (R212, R277). -/
def State.forkEngine (s : State) (t k ticket : Nat) (o : EngOp) : State :=
  let tm := s.team t
  let e : Engine := { Engine.blank with ctx := tm.ctx, team := some t, slice := k, die := s.teamDie t, core := s.coreNum t,
                                        ticket := ticket, done := false }
  let e1 := match o with
    | .copy b g ch va desc slot => { e with kind := .copy, bind := b, gate := g, chan := ch, va := va, desc := desc, slot := slot }
    | .allred desc va => { e with kind := .allred, desc := desc, va := va }
    | .repsync base len => { e with kind := .repsync, base := base, len := len }
  let s1 := { s with engines := FMap.put s.engines (nextKey s.engines) e1 }
  (s1.modTeam t fun x => { x with issued := x.issued + 1 }).invalidate [.issued t] (some (sliceKey t k))

/-- One held effect at the commit point, other than bytes of global memory; with the flags that it raises. -/
def State.heldEffect (t k c : Nat) (su : State × Flags) (it : HeldItem) : State × Flags :=
  let s := su.1
  match it.eff with
  | .store _ _ _ | .red _ _ _ _ _ => su
  | .tstore bs =>
    ((s.modTeam t fun x => bs.foldl (fun y b => { y with tmem := FMap.set 0 y.tmem b.1 b.2 }) x).invalidate
      ((bs.map fun b => .team t (b.1 / 128)).dedup) (some (sliceKey t k)), su.2)
  | .redt o wide m ls =>
    let r := ls.foldl (redtLane o wide m) (s.team t, 0)
    ((s.modTeam t fun _ => r.1).invalidate ((ls.map fun l => .team t (l.npa / 128)).dedup) (some (sliceKey t k)), su.2 ||| r.2)
  | .gate off o => (s.gateEffect t k c it.pc off o, su.2)
  | .chan owner ch o => (s.chanEffect t k c it.pc owner ch o, su.2)
  | .range o base len _ => (s.pinRange c o base len, su.2)
  | .matrix o => (s.releaseMatrix t k o, su.2)
  | .engine ticket o => (s.forkEngine t k ticket o, su.2)
  | .launchN a bs => (s.admitLaunch c a bs .slice, su.2)
  | .launchT a bs => (s.addTail (s.team t).launch a bs, su.2)
  | .graph a bs => (s.graphStart c a bs .slice, su.2)
  | .signal _ _ => (s.notifyAll, su.2)
  | .csr n v => (s.writeCsr c n v, su.2)

/-! ### Step 6 of R204 -/

/-- What step 6 has to do for a held effect. -/
def HeldItem.late (it : HeldItem) : Bool :=
  match it.eff with
  | .store nc _ _ => nc
  | .range o _ _ _ => o == .zero || o == .wb || o == .inv || o == .disc
  | _ => false

/-- Step 6: NC stores and the zeros of NC pages in program order, written through to the home LLC (R147); then the range forms (R154, R204). -/
def State.stepSix (s : State) (t k c : Nat) (post : List HeldItem) : State :=
  let tr := s.trial atSix c post
  let s1 := if tr.ws.isEmpty then s else (s.growAlways (s.trialCodes tr)).makeTrial t k c tr false
  post.foldl (fun u it => match it.eff with
    | .range o base len _ => u.maintain c o base len
    | _ => u) s1

/-! ### The whole commit -/

/-- Steps 2 to 5 of R204 for a chunk's held effects: the state at its commit point, with the flags that its reductions raise. -/
def State.perform (s : State) (t k : Nat) (held : List HeldItem) : Except CapFail (State × Flags) :=
  let c := (s.team t).ctx
  let full := s.trial allSorts c held
  match s.charge c (s.chargeCodes full (s.trial charged c held)) full.pins full.marks with
  | .error f => .error f
  | .ok s1 =>
    let s2 := ((held.flatMap HeldItem.leaves) ++ held.flatMap (s.rangeLeaves c)).foldl State.setD s1
    let tr := s.trial atPoint c held
    let s3 := (s2.makeTrial t k c tr true).makeTrial t k c (s.discarded c held) true
    .ok (held.foldl (State.heldEffect t k c) (s3, tr.fl))

/-- The commit of the open chunk, no earlier one being in commit: with step 6 made at once or left in the slice's `post` (`now` = false). The slice's registers
stay as they are, its flags with those that its reductions raise; every instruction has completed (R39, R41: its promise goes on); and its next chunk begins. -/
def State.commitChunk (s : State) (t k : Nat) (now : Bool) : Except CapFail State :=
  let held := (s.slice t k).chunk.held
  let c := (s.team t).ctx
  match s.perform t k held with
  | .error f => .error f
  | .ok r =>
    let post := held.filter HeldItem.late
    let s6 := if now then r.1.stepSix t k c post else r.1
    .ok (s6.modSlice t k fun v =>
      let regs := (v.regs.raise r.2).complete
      { v.countCommit with regs := regs, chunk := Chunk.begin (s6.ctx c) regs, hit := false, post := if now then [] else post, nc := [] })

/-- A slice whose chunk in commit has reached its commit point: that chunk's instructions have completed (R39), and its reductions' flags are in %fpx. -/
def Slice.passed (fl : Flags) (post : List HeldItem) (v : Slice) : Slice :=
  let young (r : Regs) : Regs :=
    let own := (r.wins.filter fun w => w.old && !w.complete).foldl (fun f w => f ||| w.own.getD 0) fl
    let q := r.raise own
    { q with wins := q.wins.map fun w => { w with complete := w.complete || w.old } }
  { v.countCommit with regs := young v.regs, chunk := { v.chunk with ckpt := young v.chunk.ckpt }, prev := none, prevHit := false, post := post, nc := [] }

/-- The commit of the chunk before the open one (R206), up to its commit point. -/
def State.commitPrev (s : State) (t k : Nat) : Except CapFail State :=
  match (s.slice t k).prev with
  | none => .ok s
  | some p =>
    match s.perform t k p.held with
    | .error f => .error f
    | .ok r => .ok (r.1.modSlice t k (Slice.passed r.2 (p.held.filter HeldItem.late)))

/-- Step 6 of the commit that has passed its commit point; the slice's NC lines are dropped with it (R147). -/
def State.finishPost (s : State) (t k : Nat) : State :=
  if (s.slice t k).post.isEmpty then s
  else (s.stepSix t k (s.team t).ctx (s.slice t k).post).modSlice t k fun v => { v with post := [], nc := [] }

/-- The commits of a context's slices that are past their commit points complete (R204 step 6): before a leaf entry changes, for none may write through a
translation that is no longer in force (R141). -/
def State.finishPosts (s : State) (c : Nat) : State :=
  ((FMap.keys s.slices).filter fun x => (s.team (x / 256)).ctx == c).foldl (fun u x => u.finishPost (x / 256) (x % 256)) s

/-- Every commit of the slice before the open chunk completes (R203 step 1). -/
def State.settlePrev (s : State) (t k : Nat) : Except CapFail State :=
  match (s.finishPost t k).commitPrev t k with
  | .error f => .error f
  | .ok s1 => .ok (s1.finishPost t k)

/-- The open chunk ends and its commit starts; the next one opens (R206). It obeys the context's lachk and fpxen, or the slice's own held values (R47). -/
def Slice.shift (c : Ctx) (sl : Slice) : Slice :=
  let r := { sl.regs with wins := sl.regs.wins.map fun w => { w with old := true } }
  let lachk := ((sl.ownCsr 0x012 (if c.lachk then 1 else 0)).getLsbD 0)
  let fpxen := (sl.ownCsr 0x013 (c.fpxen.setWidth 64)).setWidth 6
  { sl with regs := r, prev := some { sl.chunk with ended := true }, chunk := { Chunk.begin c r with lachk := lachk, fpxen := fpxen } }

end Sys2Proof.Machine
end

