-- ==== Sys2Proof/Machine/Image.lean ====
section
/-! DEFINITION. Team images (R324): the bytes that one holds, and the granules that its lines occupy in device-owned blocks of its die (R18, R183). The
items themselves stay in State; an image's layout is the model's. DESIGN CHOICE, log entry 60. -/

namespace Sys2Proof.Machine

/-- The matrix operation of a command as bytes. -/
def MatOp.bytes : MatOp → List Byte
  | .loop c => leBytes 1 1 ++ leBytes 1 c.tile ++ leBytes 8 c.fa.toNat ++ leBytes 8 c.fb.toNat ++ leBytes 1 (if c.ka then 1 else 0) ++
      c.params.flatMap (fun x => leBytes 8 x.toNat) ++ c.desc
  | .drain t ps d => leBytes 1 2 ++ leBytes 1 t ++ ps.flatMap (fun x => leBytes 8 x.toNat) ++ d
  | .zero t => leBytes 1 3 ++ leBytes 1 t
  | .write t r c ls => leBytes 1 4 ++ leBytes 1 t ++ leBytes 1 r ++ leBytes 1 c ++ ls.flatMap fun x => leBytes 1 x.1 ++ leBytes 4 x.2.toNat
  | .scale o i g => leBytes 1 5 ++ leBytes 4 o ++ leBytes 4 i ++ leBytes 4 g

/-- done: the largest t such that every ticket up to t has completed (R277). -/
def doneFrom (ended : List Nat) : Nat → Nat → Nat
  | 0, t => t
  | fuel + 1, t => if ended.contains (t + 1) then doneFrom ended fuel (t + 1) else t
def Team.doneCount (v : Team) : Nat := doneFrom v.ended v.ended.length 0

/-- A kept park (R148, R324): its masks, and whether the slice has completed the instruction; the addresses of the lanes left are those that its registers give. -/
def Park.image (p : Park) : List Byte := leBytes 1 (1 + 2 * p.done.toNat) ++ leBytes 1 (p.mask.toNat + 16 * p.all.toNat) ++ leBytes 1 p.far.toNat

/-- A slice's part of an image, from an offset: 16 bytes a vector register, 8 a scalar, 64 for the rest, with its gang's wait at a REGANG. -/
def Slice.image (sl : Slice) (wait : Option Nat) (r : LaunchRec) (off : Nat) : List (Nat × Byte) :=
  sl.regs.v.flatMap (fun e => byteRun (off + 4 * e.1) (leBytes 4 e.2.toNat)) ++
  sl.regs.s.flatMap (fun e => byteRun (off + 16 * r.vregs + 8 * e.1) (leBytes 8 e.2.toNat)) ++
  byteRun (off + 16 * r.vregs + 8 * r.sregs)
    ((List.range 8).flatMap (fun p => leBytes 1 (FMap.get 0 sl.regs.p p).toNat) ++ leBytes 8 sl.regs.pc.toNat ++ leBytes 2 sl.regs.mode.toNat ++
     leBytes 1 sl.regs.fpx.toNat ++ leBytes 1 sl.regs.delivered.toNat ++ leBytes 1 (if sl.handler then 1 else 0) ++ leBytes 1 sl.level ++
     leBytes 1 sl.rb ++ leBytes 1 sl.cm ++ leBytes 8 sl.rollbacks ++ leBytes 8 sl.commits ++
     (match sl.park with
      | some p => p.image
      | none => List.replicate 3 0) ++
     (match wait with
      | some n => leBytes 1 1 ++ leBytes 4 n
      | none => List.replicate 5 0))

/-- A channel's part: 26 bytes, so that 32 channels leave room for the barrier and the engine counters. -/
def Chan.image (c : Chan) : List Byte :=
  leBytes 4 (c.base + 2 ^ 22 * c.lsz) ++ leBytes 2 c.count ++ leBytes 2 c.free ++ leBytes 2 c.filled ++ leBytes 4 c.acq.toNat ++ leBytes 4 c.pub.toNat ++
  leBytes 4 c.take.toNat ++ leBytes 4 c.rel.toNat

/-- The bytes of a team's image that are not zero. DESIGN CHOICE, log entry 60. -/
def State.image (s : State) (t : Nat) : List (Nat × Byte) :=
  let v := s.team t
  let r := (s.launch v.launch).params
  let part := 16 * r.vregs + 8 * r.sregs + 64
  let mem := v.slices * part
  let chans := mem + r.tmem
  let tiles := chans + 1024
  let scale := tiles + 131072 * r.acc
  let store := scale + 65536 * r.acc
  let queue := store + r.bstore
  ((List.range v.slices).flatMap (fun k => (s.slice t k).image ((s.gangs.find? fun g => g.team == t && g.ks.contains k).bind (·.wait)) r (k * part)) ++
   v.tmem.map (fun e => (mem + e.1, e.2)) ++
   byteRun chans (v.chans.flatMap Chan.image) ++
   byteRun (chans + 832) (leBytes 2 v.arrivals ++ leBytes 2 v.target ++ leBytes 8 v.issued ++ leBytes 8 v.doneCount) ++
   v.acc.flatMap (fun e => byteRun (tiles + 4 * e.1) (leBytes 4 e.2.toNat)) ++
   v.scale.flatMap (fun e => byteRun (scale + 2 * e.1) (leBytes 2 e.2.toNat)) ++
   v.bstore.map (fun e => (store + e.1 / 65536 * (r.bstore / 256) + e.1 % 65536, e.2)) ++
   ((List.range v.queue.length).zip v.queue).flatMap (fun e => byteRun (queue + 256 * e.1) (leBytes 8 e.2.steps ++ e.2.op.bytes))).filter fun b => b.2 != 0

/-- The sectors of an image's line. -/
def imageLine (bs : List (Nat × Byte)) (line : Nat) : Nat :=
  codeSectors (encodeLine (bytesWords ((List.range 128).map fun i => ((List.find? (fun (b : Nat × Byte) => b.1 == 128 * line + i) bs).map (·.2)).getD 0)))

/-- The granules that an image's blocks of 32 lines take (R172). -/
def imageGranules (bs : List (Nat × Byte)) : Nat :=
  let lines := (bs.map fun b => b.1 / 128).dedup
  ((lines.map (· / 32)).dedup.map fun b => granulesFor (((lines.filter fun l => l / 32 == b).map (imageLine bs)).foldl (· + ·) 0)).foldl (· + ·) 0

/-- Granules of a die for device-owned blocks, which charge no context: from its pool, its antes recalled, then the service processor's stock (R183). -/
def State.drawOn (s : State) (d n : Nat) : List Nat × State :=
  let v := s.die d
  let p := v.pool.take n
  let a := takeAntes v.antes (n - p.1.length)
  let t := v.stock.take (n - p.1.length - a.1.length)
  let o := ownerBits none
  (p.1 ++ a.1 ++ t.1, s.modDie d fun x =>
    { x with pool := p.2, antes := a.2, stock := t.2, loans := FMap.set 0 x.loans o (FMap.get 0 x.loans o + t.1.length) })

/-- A team's image written: its granules drawn. -/
def State.writeImage (s : State) (t : Nat) : State :=
  let r := s.drawOn (s.teamDie t) (imageGranules (s.image t))
  r.2.modTeam t fun v => { v with image := r.1 }

/-- A team's image read back, or dropped: its granules freed. -/
def State.freeImage (s : State) (t : Nat) : State :=
  ((s.team t).image.foldl (fun u g => u.modDie (s.teamDie t) fun v => v.giveBack (ownerBits none) g) s).modTeam t fun v => { v with image := [] }

end Sys2Proof.Machine
end

