-- ==== Sys2Proof/Machine/Ops.lean ====
section
/-! DEFINITION. The operations that instructions share: taking a trap (R325 to R329) and a context fault (R334), delivering flags
(R83), the commit before a closer (R203), the issue of a gang instruction (R61, R101), and the parting of gangs (R97). -/

namespace Sys2Proof.Machine

abbrev Result := Host.Outcome State Fault Refusal

/-! ### Gangs (R97) -/

/-- A slice that has completed the instruction at which its gang is parked, and waits for the others (R151). -/
def Slice.finished (sl : Slice) : Bool :=
  match sl.park with
  | some p => p.done
  | none => false

/-- Where a slice stands for R97: its next PC (a sleeper goes on after its closer; one that waits for the rest of its gang is still at the parked
instruction, R151) and its MODE. -/
def Slice.stand (sl : Slice) : Nat × Nat :=
  ((match sl.status with
    | .asleep _ => sl.regs.pc + 4
    | .run | .exited => if sl.finished then sl.regs.pc - 4 else sl.regs.pc).toNat, sl.regs.mode.toNat)

/-- A slice put with those that stand where it does, or at the end. -/
def addStand (x : Nat × Nat) (k : Nat) : List ((Nat × Nat) × List Nat) → List ((Nat × Nat) × List Nat)
  | [] => [(x, [k])]
  | (y, ks) :: r => if x = y then (y, ks ++ [k]) :: r else (y, ks) :: addStand x k r

/-- Slices put together by where they stand. -/
def State.byStand (s : State) (t : Nat) (ks : List Nat) : List (List Nat) :=
  (ks.foldl (fun g k => addStand (s.slice t k).stand k g) []).map (·.2)

/-- The parts of a gang: by where its slices stand, those that leave it (`out`, by a trap or a rollback) apart from the others; exited slices belong to none. -/
def State.parts (s : State) (t : Nat) (ks out : List Nat) : List (List Nat) :=
  let live := ks.filter fun k => (s.slice t k).status != .exited
  s.byStand t (live.filter fun k => !out.contains k) ++ s.byStand t (live.filter fun k => out.contains k)

/-- A gang parts (R97): each part inherits the ageing count; slices that leave it leave a wait at a REGANG too. -/
def State.regroup (s : State) (t : Nat) (ks out : List Nat) : State :=
  { s with gangs := s.gangs.flatMap fun g =>
      if g.team = t ∧ g.ks = ks then
        (s.parts t ks out).map fun p => { g with ks := p, wait := if p.any fun k => out.contains k then none else g.wait }
      else [g] }

/-- The gang of a slice. -/
def State.gangOf (s : State) (t k : Nat) : Option Gang := s.gangs.find? fun g => g.team == t && g.ks.contains k

/-- The gang of a slice as the one acted on, for an event of the slice. -/
def State.atGang (s : State) (t k : Nat) : State :=
  { s with cur := { team := t, ks := match s.gangOf t k with
    | some g => g.ks
    | none => [k] } }

/-- The slices of a gang that have entered their handler since a state. -/
def State.trapped (s u : State) (g : Gang) : List Nat := g.ks.filter fun k => (u.slice g.team k).handler && !(s.slice g.team k).handler

/-- Slices that have entered their handler since a state, in any gang, leave it (R97, R329). DEDUCED, log entry 11. -/
def State.partTrapped (s u : State) : State :=
  (u.gangs.filter fun g => !(s.trapped u g).isEmpty).foldl (fun v g => v.regroup g.team g.ks (s.trapped u g)) u

/-- Every gang parts whose slices have come to stand at different places since a state (R97). -/
def State.partAll (s u : State) : State := u.gangs.foldl (fun v g => v.regroup g.team g.ks (s.trapped u g)) u

/-! ### Traps (R325 to R329) -/

/-- A trap as an instruction meets it: its resume and cause PC are the instruction's (R325). -/
structure Trap where
  cause : Nat
  sub   : Nat
  addr  : W64
  info  : W32
  deriving DecidableEq, Repr

/-- A trap with what its frame holds beside the registers (R328). -/
structure Frame where
  cause : Nat
  sub   : Nat
  pc    : W64
  cpc   : W64
  addr  : W64
  word  : W32
  info  : W32
  deriving DecidableEq, Repr

/-- The gang lane in byte 101: that of info, for the causes whose info is one (R325). -/
def Frame.lane (f : Frame) : Nat :=
  if f.cause = 3 ∨ f.cause = 4 ∨ f.cause = 5 ∨ f.cause = 7 ∨ f.cause = 8 then f.info.toNat % 32 else 0

/-- The 128 bytes of a frame (R328). -/
def Frame.bytes (f : Frame) (r : Regs) : List Byte :=
  ((List.range 8).flatMap fun i => leBytes 8 (r.getS i).toNat) ++ leBytes 8 f.pc.toNat ++ leBytes 8 f.cpc.toNat ++
  leBytes 8 f.addr.toNat ++ leBytes 4 f.word.toNat ++ leBytes 4 f.info.toNat ++ leBytes 2 r.mode.toNat ++
  leBytes 1 ((r.getP 0).toNat + 16 * (r.getP 1).toNat) ++ leBytes 1 f.cause ++ leBytes 1 f.sub ++ leBytes 1 f.lane ++
  List.replicate 26 0

/-- The address of a slice's frame (R327). -/
def State.frameAddr (s : State) (t k : Nat) : W64 :=
  (s.ctx (s.team t).ctx).trapbase + BitVec.ofNat 64 (128 * (256 * ((s.team t).slot).getD 0 + k))

/-- Steps 3 to 5 of R329: the frame, and the handler with the registers as they stand. A frame on a page without translation is lost (DESIGN CHOICE, log entry
60), and promises end where a handler begins (DESIGN CHOICE, log entry 18). -/
def State.enterFrame (s : State) (t k : Nat) (f : Frame) : State :=
  let c := (s.team t).ctx
  let a := s.frameAddr t k
  let s1 := ((s.vaWrite c a (f.bytes (s.slice t k).regs)).lossRecord c a (s.sliceRec t k f.cpc 0 0 0)).modCtx c fun v => { v with traps := v.traps + 1 }
  s1.modSlice t k fun v =>
    let r := { ((v.regs.setS 0 a).setMode 0x000A).setPc (s1.ctx c).tvec with wins := [] }
    { v with regs := r, handler := true, hit := false, chunk := Chunk.begin (s1.ctx c) r, park := none, mark := none, status := .run }

/-! ### The flags that a commit delivers (R83) -/

/-- The bits of a set of flags, lowest first. -/
def flagBits (f : Flags) : List Nat := (List.range 6).filter fun i => f.getLsbD i

/-- The flags not yet delivered, each with its record, delivered: for the instruction at `pc`. -/
def State.recordFlags (s : State) (t k : Nat) (pc : W64) : State × Flags :=
  let new := (s.slice t k).regs.fpx &&& ~~~ (s.slice t k).regs.delivered
  (((flagBits new).foldl (fun u i => u.appendLog (s.team t).ctx (u.sliceRec t k pc (i + 1) 0 0)) s).modSlice t k fun v =>
    let r := { v.regs with delivered := v.regs.delivered ||| new }
    { v with regs := r, chunk := { v.chunk with ckpt := r } }, new)

/-- A CMIT whose flags wait to be delivered, no commit of its slice being under way any more: the flags that trap there (step 7 of R204). -/
def Slice.told (sl : Slice) : Option Flags := if sl.chunk.ended || sl.prev.isSome || !sl.post.isEmpty then none else sl.tell

/-- The frame of the floating-point trap at a delivery point (R83). -/
def fpFrame (new en : Flags) (pc resume : W64) : Frame :=
  { cause := 10, sub := 0, pc := resume, cpc := pc, addr := 0, word := 0, info := (new &&& en).setWidth 32 }

/-- The commit of a slice past its commit point completes as its team stops: step 6, and the delivery of a CMIT's flags (R204, R209). Where the handler that they
ask for cannot be entered, the context has faulted already. -/
def State.completeLast (s : State) (t k : Nat) : State :=
  let s1 := s.finishPost t k
  match (s1.slice t k).told with
  | none => s1
  | some en =>
    let pc := (s1.slice t k).regs.pc
    let r := (s1.modSlice t k fun v => { v with tell := none }).recordFlags t k (pc - 4)
    if r.2 &&& en = 0 ∨ (s1.slice t k).handler ∨ (s1.ctx (s1.team t).ctx).tvec = 0 then r.1 else r.1.enterFrame t k (fpFrame r.2 en (pc - 4) pc)

/-! ### Swap-out and context faults (R153, R209, R323, R334) -/

/-- Whether a parked instruction has performed a lane at another agent, which nothing may repeat (R148). -/
def Slice.wentFar (sl : Slice) : Bool :=
  match sl.park with
  | some p => p.far != 0 || p.done
  | none => false

/-- The slices of a team stop: commits past their commit point complete; open chunks, and chunks in commit before it, are discarded, waits
abandoned, a BAR's arrival withdrawn; the pages that parked gangs awaited are recorded (R153, R209, R233). A load that waits with lanes already performed
at another agent keeps its park, as a closer under way (R148, R324). A gang whose slices wait at a REGANG with
nothing issued since their checkpoints waits on (R324). -/
def State.halt (s : State) (t : Nat) : State :=
  let tm := s.team t
  let ks := List.range tm.slices
  let c := tm.ctx
  let s1 := ks.foldl (fun u k => u.completeLast t k) s
  let pages := (ks.flatMap fun k => match (s.slice t k).park with
    | some p => p.pages.filter fun g => s.awaits (s.teamDie t) c g
    | none => []).dedup
  let bars := (ks.filter fun k => (s.slice t k).status == .asleep .bar).length
  let moved := ks.filter fun k => (s.slice t k).prev.isSome || (s.slice t k).chunk.instrs != 0
  let s2 := ks.foldl (fun u k => u.modSlice t k fun v =>
    match v.status with
    | .exited => v
    | .run | .asleep _ => if v.wentFar then v else { v.fallBack.rewind with status := .run }) s1
  let s3 := s2.modTeam t fun v => { v with awaited := pages, arrivals := v.arrivals - bars }
  (s3.gangs.filter fun g => g.team == t).foldl (fun u g => u.regroup t g.ks (if g.wait.isSome then g.ks.filter moved.contains else [])) s3

/-- Swap-out of a team, its image written (R323, R324, R338). -/
def State.swapOut (s : State) (t : Nat) : State :=
  match (s.team t).place with
  | .resident _ _ _ _ =>
    (((s.halt t).writeImage t).modTeam t fun v => { v with place := .swapped, floor := false }).modDie (s.teamDie t) fun v =>
      { v with swapOuts := v.swapOuts + 1 }
  | .ready | .swapped | .retired => s

/-- Whether a team has nothing released left: no matrix command, no engine command. DEDUCED, log entry 43. -/
def Team.spent (v : Team) : Bool := v.queue.isEmpty && v.ended.length == v.issued

/-- A team of a context that faults is pre-empted; while matrix or engine commands that it has released run to completion it keeps
its core, where its slices issue nothing (R334). -/
def State.haltTeam (s : State) (t : Nat) : State :=
  match (s.team t).place with
  | .resident _ _ _ _ => if (s.team t).spent then s.swapOut t else s.halt t
  | .ready | .swapped | .retired => s

/-- A context fault (R334): admission stops, every team is pre-empted and none placed again, one record, one driver event. -/
def State.contextFault (s : State) (c code : Nat) (r : LogRec) : State :=
  let s1 := s.modCtx c fun v => { v with stopped := true, halted := true }
  let s2 := ((FMap.keys s1.teams).filter fun t => (s1.team t).ctx == c).foldl (fun u t => u.haltTeam t) s1
  let s3 := s2.appendLog c r
  { s3 with out := s3.out ++ [.driver c code] }

/-! ### Entering a handler (R329) -/

/-- Steps 2 to 5 of R329: the handler is entered, or the context faults. -/
def State.enterHandler (s : State) (t k : Nat) (f : Frame) : State :=
  let c := (s.team t).ctx
  let sl := s.slice t k
  if sl.handler ∨ (s.ctx c).tvec = 0 then
    s.contextFault c 1 { s.sliceRec t k f.cpc 0x0025 f.addr
      (BitVec.ofNat 32 (1 + 256 * f.cause + 65536 * f.sub + if sl.handler then 2 ^ 24 else 0)) with src := 4 }
  else s.enterFrame t k f

/-- A capacity fault: the slice at its checkpoint, the failing chunk without effect (R180, R207). -/
def State.capacityFault (s : State) (t k : Nat) (f : CapFail) : State :=
  let c := (s.team t).ctx
  let s1 := s.poolFailed c f.g f.dies
  let s2 := (s1.modCtx c fun v => { v with capFaults := v.capFaults + 1 }).modSlice t k fun v => v.fallBack.atCheckpoint (s.ctx c)
  s2.enterHandler t k { cause := 6, sub := f.kind, pc := (s2.slice t k).regs.pc, cpc := f.pc, addr := f.addr, word := 0,
                        info := BitVec.ofNat 32 f.g }

/-- What the commit of an open chunk before a closer or a trap leaves: it committed, or the slice has left by a capacity fault or a
rollback. -/
inductive Pre
  | ok (s : State)
  | left (s : State)

/-- The commits of the chunk in commit and of the open chunk, if it holds an instruction (R203 step 1, R215). A chunk that an invalidation has hit rolls back
instead. DESIGN CHOICE, log entry 12. -/
def State.preCommit (s : State) (t k : Nat) : Pre :=
  if (s.slice t k).prevHit then .left (s.rollbackSlice t k)
  else match s.settlePrev t k with
    | .error f => .left (s.capacityFault t k f)
    | .ok s1 =>
      let sl := s1.slice t k
      if sl.hit then .left (s1.rollbackSlice t k)
      else if sl.chunk.instrs = 0 then .ok s1
      else match s1.commitChunk t k true with
        | .ok s2 => .ok s2
        | .error f => .left (s1.capacityFault t k f)

/-- A trap other than a capacity fault (R215, R329). -/
def State.takeTrap (s : State) (t k : Nat) (f : Frame) : State :=
  match s.preCommit t k with
  | .ok s1 => s1.enterHandler t k f
  | .left s1 => s1

/-! ### Delivery of flags (R83) -/

/-- ctx.lachk and ctx.fpxen as the slice obeys them (R47). -/
def Slice.lachk (sl : Slice) : Bool := (sl.ownCsr 0x012 (if sl.chunk.lachk then 1 else 0)).getLsbD 0
def Slice.fpxen (sl : Slice) : BitVec 6 := (sl.ownCsr 0x013 (sl.chunk.fpxen.setWidth 64)).setWidth 6

/-- A delivery point of the instruction at `pc`: a record for each new flag, and the trap of cause 10 if one is enabled, with the
given resume PC. -/
def State.deliver (s : State) (t k : Nat) (en : BitVec 6) (pc resume : W64) : State :=
  let r := s.recordFlags t k pc
  if r.2 &&& en = 0 then r.1 else r.1.enterHandler t k (fpFrame r.2 en pc resume)

/-- The delivery that ends the commit of a CMIT's chunk, once no commit of the slice is under way (step 7 of R204). -/
def State.tellCommit (s : State) (t k : Nat) : State :=
  match (s.slice t k).told with
  | some en =>
    let pc := (s.slice t k).regs.pc
    (s.modSlice t k fun v => { v with tell := none }).deliver t k en (pc - 4) pc
  | none => s

/-- The commits of a team's slices past their commit points complete, their flags delivered: before the team is swapped out (R204, R209). -/
def State.completeTeam (s : State) (t : Nat) : State :=
  (List.range (s.team t).slices).foldl (fun u k => if (u.ctx (u.team t).ctx).halted then u else (u.finishPost t k).tellCommit t k) s

/-- Whether the slice would take the floating-point trap at a delivery point now. -/
def Slice.delivers (sl : Slice) : Bool := sl.regs.fpx &&& ~~~ sl.regs.delivered &&& sl.fpxen != 0

/-- The commit of a closer's own chunk, a delivery point; it is never rolled back (R203). -/
def State.closeOwn (s : State) (t k : Nat) (pc resume : W64) : State :=
  let en := (s.slice t k).fpxen
  match s.commitChunk t k true with
  | .ok s1 => s1.deliver t k en pc resume
  | .error f => s.capacityFault t k f

/-! ### Broken lookahead promises (R40) -/

/-- A register's whole content: a scalar in the low 64 bits, a vector register's lanes from lane 0, a predicate in the low 4 bits. -/
def Regs.whole (r : Regs) : Reg → BitVec 128
  | .s n => (r.getS n).setWidth 128
  | .v n => (r.getV n 3 ++ r.getV n 2 ++ r.getV n 1 ++ r.getV n 0 : BitVec 128)
  | .p n => (r.getP n).setWidth 128

def Regs.putWhole (r : Regs) (x : Reg) (v : BitVec 128) : Regs :=
  match x with
  | .s n => r.setS n (v.setWidth 64)
  | .v n => eachLane [0, 1, 2, 3] (fun q l => q.setV n l (v.extractLsb' (32 * l) 32)) r
  | .p n => r.setP n (v.setWidth 4)

/-- `a` in the chosen lanes and `b` in the others; a scalar goes whole by lane 0. -/
def mixWhole (x : Reg) (m : Lanes) (a b : BitVec 128) : BitVec 128 :=
  match x with
  | .s _ => if m.getLsbD 0 then a else b
  | .v _ =>
    let f (l : Nat) : W32 := if m.getLsbD l then a.extractLsb' (32 * l) 32 else b.extractLsb' (32 * l) 32
    (f 3 ++ f 2 ++ f 1 ++ f 0 : BitVec 128)
  | .p _ => (((a.setWidth 4 : Lanes) &&& m) ||| ((b.setWidth 4 : Lanes) &&& ~~~ m)).setWidth 128

/-- The registers read too early, with what they held before: those that open windows, whose instructions have not completed, wrote and the instruction reads. -/
def Regs.earlyReads (r : Regs) (reads : List Reg) : List (Reg × BitVec 128) :=
  r.wins.flatMap fun w => if w.complete then [] else w.wrote.filter fun e => reads.contains e.1

/-- The registers as the instruction may read them: each register read too early in its old or its new form, lane by lane. DESIGN CHOICE, log entry 18. -/
def Regs.expose (r : Regs) (reads : List Reg) (base : Nat) : Regs :=
  ((r.earlyReads reads).foldl (fun (q : Regs × Nat) e =>
    (q.1.putWhole e.1 (mixWhole e.1 (Config.lanes q.2) e.2 (q.1.whole e.1)), q.2 + 1)) (r, base)).1

/-- The registers after the instruction: what was exposed and not written is as it was. -/
def Regs.conceal (pre post : Regs) (reads writes : List Reg) (done : Lanes) : Regs :=
  (pre.earlyReads reads).foldl (fun q e =>
    if writes.contains e.1 then
      match e.1 with
      | .s _ => q
      | .v _ | .p _ => q.putWhole e.1 (mixWhole e.1 done (q.whole e.1) (pre.whole e.1))
    else q.putWhole e.1 (pre.whole e.1)) post

/-- An SWR, which of the special registers can write %fpx alone. -/
def writesFpx : Instr → Bool
  | .swr _ _ => true
  | _ => false

/-- The windows after an instruction of a gang, from the registers before it, as it read them and after it, those open nearer their end: one more for it if it
carries a promise (R39, R40). Of the flags, those that it raises itself are kept apart; an SWR ends what earlier instructions have to do with %fpx. -/
def Regs.nextWins (pre seen post : Regs) (i : Instr) (ks : List Nat) (num : Nat) (reads writes : List Reg) : List Window :=
  let apart := lookaheadOf i != 0 && !touchesMemory i
  let ws : List Window := post.wins.map fun w =>
    { w with left := w.left - 1, lost := w.lost ++ writes.filter (w.wrote.map (·.1)).contains,
             own := if writesFpx i then none else w.own,
             rest := if writesFpx i then post.fpx else if apart then pre.plain else w.rest }
  let ended := (ws.filter fun w => w.left == 0 && !w.complete).foldl (fun f w => f ||| w.own.getD 0) 0
  ((ws.filter fun w => w.left != 0).map fun w => { w with rest := w.rest ||| ended }) ++
  (if lookaheadOf i = 0 then []
   else [{ instr := i, pc := pre.pc, mode := pre.mode, ks := ks, wrote := writes.map fun x => (x, pre.whole x), read := reads.map fun x => (x, seen.whole x),
           lost := [], num := num, old := false, complete := false, own := some (if apart then post.plain &&& ~~~pre.plain else 0),
           rest := (if apart then pre.plain else post.plain) ||| ended, left := lookaheadOf i }])

/-! ### The issue of a gang instruction -/

/-- What an instruction did with a slice: it completed; it completed as a closer, whose own chunk has to commit; it completed as a CMIT, which ends its chunk; the
slice has left by a trap or a rollback; it stays at the instruction; the effect has ended the instruction itself. -/
inductive Did | plain | closer | cmit | gone | stay | ended
  deriving DecidableEq, Repr

/-- The word of an instruction, for the frame. -/
def instrWord (i : Instr) : W32 :=
  match i with
  | .extensionEmulation w => w
  | .illegalInstruction w _ => w
  | _ => BitVec.ofNat 32 ((encode i).getD 0)

/-- A trap of an instruction at a slice's PC. -/
def State.trapAt (s : State) (t k : Nat) (i : Instr) (x : Trap) : State :=
  let pc := (s.slice t k).regs.pc
  s.takeTrap t k { cause := x.cause, sub := x.sub, pc := pc, cpc := pc, addr := x.addr, word := instrWord i, info := x.info }

/-- A slice with its registers as they are, `v` holding them as an instruction may read them and `st` being the state before it. -/
def State.trueRegs (st v : State) (t k : Nat) : State :=
  v.modSlice t k fun sl => { sl with regs := { (st.slice t k).regs with fpx := sl.regs.fpx, wins := sl.regs.wins } }

/-- A trap of an instruction, likewise. -/
def State.trapIn (st v : State) (t k : Nat) (i : Instr) (x : Trap) : State := (st.trueRegs v t k).trapAt t k i x

/-- The commit before a closer, likewise: every earlier instruction has completed after it (R39). -/
def State.preIn (st v : State) (t k : Nat) : Pre :=
  match (st.trueRegs v t k).preCommit t k with
  | .ok w => .ok (w.modSlice t k fun sl => { sl with regs := sl.regs.complete })
  | .left w => .left w

def State.params (s : State) (t : Nat) : LaunchRec := (s.launch (s.team t).launch).params

/-- A context fault has halted the team's context since a state: its slices issue nothing more (R334). -/
def State.haltedSince (s u : State) (t : Nat) : Bool := (u.ctx (u.team t).ctx).halted && !(s.ctx (s.team t).ctx).halted

/-- The trap that R61 gives an instruction in a slice, if any. -/
def State.refusal (s : State) (i : Instr) (t k : Nat) : Option (Nat × Nat) :=
  let sl := s.slice t k
  (operandsOf i sl.regs (s.params t).slots).refuse (s.params t) sl.lachk sl.regs

/-- The slices that R61 lets execute, after the others have taken their traps. -/
def State.admitted (s : State) (i : Instr) (t : Nat) (ks : List Nat) : State × List Nat :=
  let u := ks.foldl (fun u k => match s.refusal i t k with
    | some x => if s.haltedSince u t then u else u.trapAt t k i { cause := x.1, sub := x.2, addr := 0, info := 0 }
    | none => u) s
  (u, if s.haltedSince u t then [] else ks.filter fun k => (s.refusal i t k).isNone)

/-- The registers that an instruction reads and writes in a slice. -/
def State.reads (s : State) (i : Instr) (t k : Nat) : List Reg :=
  (operandsOf i (s.slice t k).regs (s.params t).slots).reads (s.slice t k).regs.mode
def State.writes (s : State) (i : Instr) (t k : Nat) : List Reg := (operandsOf i (s.slice t k).regs (s.params t).slots).writes

/-- Where the free values of a slice's broken promises are drawn from. -/
def State.drawBase (s : State) (k : Nat) : Nat := s.draws + 2 ^ 18 + 1024 * k

/-- A slice's registers as an instruction may read them: a closer issues when every earlier instruction has completed (R39). -/
def State.seen (s : State) (i : Instr) (t k : Nat) : Regs :=
  let r := (s.slice t k).regs
  if r.wins.isEmpty || closes i then r else r.expose (s.reads i t k) (s.drawBase k)

def State.exposeSlice (s : State) (i : Instr) (t : Nat) (u : State) (k : Nat) : State :=
  if (s.slice t k).regs.wins.isEmpty || closes i then u else u.modSlice t k fun v => { v with regs := s.seen i t k }

/-- A slice's registers once the instruction has been performed, from the slice before it. -/
def State.settleRegs (s : State) (i : Instr) (t k : Nat) (v : Slice) : Regs :=
  let pre := (s.slice t k).regs
  let done : Lanes := pre.active &&& ~~~ (match v.park with
    | some p => p.mask
    | none => 0)
  let p := if pre.wins.isEmpty then (v.regs, []) else (pre.conceal v.regs (s.reads i t k) (s.writes i t k) done, v.regs.wins)
  { p.1 with wins := pre.nextWins (s.seen i t k) { v.regs with wins := p.2 } i s.cur.ks v.chunk.instrs (s.reads i t k) (s.writes i t k) }

/-- A slice once an instruction has completed in it. -/
def State.settled (s : State) (i : Instr) (t k : Nat) (v : Slice) : Slice :=
  { v with regs := s.settleRegs i t k v, park := none, mark := none, chunk := { v.chunk with instrs := v.chunk.instrs + 1 } }

/-- The commit of a chunk that has ended by an instruction at level 2, after that of one before it; step 6 may follow later. -/
def State.commitNow (s : State) (t k : Nat) : State :=
  match s.settlePrev t k with
  | .error f => s.capacityFault t k f
  | .ok s1 => match s1.commitChunk t k false with
    | .ok s2 => s2
    | .error f => s1.capacityFault t k f

/-- The chunk's end after an instruction, by its limits (R200); at level 2 it commits at once. -/
def State.endChunk (s : State) (i : Instr) (t k : Nat) : State :=
  let sl := s.slice t k
  match sl.level with
  | 0 => if 256 ≤ sl.chunk.instrs then s.modSlice t k fun v => { v with chunk := { v.chunk with ended := true } } else s
  | 1 => if 16 ≤ sl.chunk.instrs then s.modSlice t k fun v => { v with chunk := { v.chunk with ended := true } } else s
  | _ => if touchesMemory i && !sl.hit && !sl.prevHit then s.commitNow t k else s

/-- A held reduction, whose flags its commit may raise. -/
def HeldItem.reduces (it : HeldItem) : Bool :=
  match it.eff with
  | .red _ _ _ _ _ | .redt _ _ _ _ => true
  | _ => false

/-- The end of a CMIT in a slice (R200, R214): a chunk without effects commits at once; another waits for its commit, and its slice with it, where
flags may have to be delivered (R83). DESIGN CHOICE, log entry 12. -/
def State.endCmit (s : State) (t k : Nat) (pc resume : W64) : State :=
  let sl := s.slice t k
  if sl.heldAll.isEmpty && sl.prev.isNone && !sl.hit then s.closeOwn t k pc resume
  else s.modSlice t k fun v =>
    { v with chunk := { v.chunk with ended := true },
             tell := if v.regs.fpx &&& ~~~v.regs.delivered != 0 || v.heldAll.any HeldItem.reduces then some v.fpxen else none }

/-- The end of an instruction in a slice: `s` is the state before it, `u` the state after its effect. -/
def State.finishSlice (s : State) (i : Instr) (t : Nat) (u : State) (d : Nat × Did) : State :=
  let k := d.1
  match d.2 with
  | .plain => (u.modSlice t k (s.settled i t k)).endChunk i t k
  | .closer =>
    (u.modSlice t k fun v => let w := s.settled i t k v; { w with regs := w.regs.complete }).closeOwn t k
      (s.slice t k).regs.pc (u.slice t k).regs.pc
  | .cmit => (u.modSlice t k (s.settled i t k)).endCmit t k (s.slice t k).regs.pc (u.slice t k).regs.pc
  | .stay => u.modSlice t k fun v =>
    let r := { s.settleRegs i t k v with wins := v.regs.wins }
    match v.status with
    | .asleep _ => { v with regs := r, chunk := { v.chunk with ckpt := r } }
    | .run | .exited => { v with regs := r }
  | .gone | .ended => u

/-- The end of an instruction in its slices, one after another, until one of them halts its context: the others stand where they did (R334). -/
def State.finishAll (s : State) (i : Instr) (t : Nat) (x : State × List (Nat × Did)) : State :=
  x.2.foldl (fun u d => if s.haltedSince u t then u else s.finishSlice i t u d) x.1

/-- What step 6 has to do late is still to be done by a slice's open chunk, which an instruction has committed. -/
def State.commitsLate (s u : State) (t k : Nat) : Bool :=
  let sl := s.slice t k
  decide (sl.level < 2) && sl.prev.isNone && sl.post.isEmpty && sl.chunk.held.any HeldItem.late && (u.slice t k).commits != sl.commits

/-- The chunks of some slices up to their commit points; none where one of them fails. -/
def State.toPoint (s : State) (t : Nat) : List Nat → Option State
  | [] => some s
  | k :: ks => match s.commitChunk t k false with
    | .ok u => u.toPoint t ks
    | .error _ => none

/-- Some slices' commits, which an instruction has made, have released more matrix commands than the team's queue holds: commands that they held, or at level 2 the
instruction's own. -/
def State.overfills (s u : State) (t : Nat) (ks : List Nat) : Bool :=
  (ks.any fun k => ((s.slice t k).heldAll.any HeldItem.isMatrix || ((s.slice t k).level == 2 && (u.team t).released != (s.team t).released)) &&
    (u.slice t k).commits != (s.slice t k).commits) &&
  decide (256 < (u.team t).queue.length)

/-- The instruction waits: the chunks that it would commit have ended, and commit as the queue drains (R203, R259). DEDUCED, log entry 14. -/
def State.waitRoom (s : State) (t : Nat) (ks : List Nat) : State :=
  ks.foldl (fun v k => v.modSlice t k fun sl =>
    if sl.heldAll.any HeldItem.isMatrix && sl.chunk.instrs != 0 then { sl with chunk := { sl.chunk with ended := true } } else sl)
    { s with cur := { s.cur with waits := true } }

/-- A closer or a trap ends the chunks before it, whose step 6 it waits for (R203, R215). Others may act between their commit points and step 6 (note (b) of
R220): then `u`, in which the instruction has been performed, gives way to the state at the commit points. Likewise a commit waits, whole, until the matrix
queue has room for its commands (R259). DESIGN CHOICE, log entry 12. -/
def State.orLater (s u : State) (t : Nat) (ks : List Nat) : State :=
  let late := ks.filter (s.commitsLate u t)
  if s.overfills u t ks then s.waitRoom t ks
  else if late.isEmpty then u
  else match (if Config.coin s.draws then s.toPoint t late else none) with
    | some v => { v.drawn with cur := { s.cur with waits := true } }
    | none => u.drawn

/-- A gang instruction: the checks of R61 slice by slice, the effect on the slices that pass them, the end of the instruction in
each, and the parting of the gang. `body` takes the state before the instruction, the state with its registers as they may be
read, the team and the slices. -/
def issue (i : Instr) (body : State → State → Nat → List Nat → State × List (Nat × Did)) (s : State) : Result :=
  let t := s.cur.team
  let a := s.admitted i t s.cur.ks
  let u := a.2.foldl (s.exposeSlice i t) a.1
  let b := body s u t a.2
  let f := s.finishAll i t b
  let gone := s.cur.ks.filter fun k => (f.slice t k).handler && !(s.slice t k).handler
  let v := s.partTrapped (f.regroup t s.cur.ks gone)
  .next (s.orLater { v with draws := if s.cur.ks.all fun k => (s.slice t k).regs.wins.isEmpty then f.draws else s.draws + 2 ^ 19 } t s.cur.ks)

/-- A PC that moves to the next instruction. -/
def Regs.adv (r : Regs) : Regs := r.setPc (r.pc + 4)

/-- The registers of a slice replaced. -/
def State.setRegs (s : State) (t k : Nat) (r : Regs) : State := s.modSlice t k fun v => { v with regs := r }

/-- A per-slice effect: slice after slice, in ascending order, until one of them halts its context. -/
def eachSlice (f : State → Nat → Nat → State × Did) (u : State) (t : Nat) (ks : List Nat) : State × List (Nat × Did) :=
  ks.foldl (fun (a : State × List (Nat × Did)) k =>
    if u.haltedSince a.1 t then (a.1, a.2 ++ [(k, .gone)]) else ((f a.1 t k).1, a.2 ++ [(k, (f a.1 t k).2)])) (u, [])

/-- Every one of some slices takes a trap. -/
def eachTrap (st : State) (i : Instr) (x : Trap) (u : State) (t : Nat) (ks : List Nat) : State × List (Nat × Did) :=
  eachSlice (fun v t k => (st.trapIn v t k i x, .gone)) u t ks

/-- An instruction on the registers of each slice alone: from the state before it, the team, the slice and its registers, the
registers after it, or a trap. -/
def issueRegs (i : Instr) (f : State → Nat → Nat → Regs → Except Trap Regs) (s : State) : Result :=
  issue i (fun st u t ks => eachSlice (fun v t k =>
    match f st t k (u.slice t k).regs with
    | .ok r => (v.setRegs t k r, .plain)
    | .error x => (st.trapIn v t k i x, .gone)) u t ks) s

/-- An instruction on a slice's registers that goes on to the next. -/
def regOp (i : Instr) (f : Regs → Regs) (s : State) : Result := issueRegs i (fun _ _ _ r => .ok (f r).adv) s

/-! ### Closers (R203) -/

/-- A closer in each slice: the open chunk commits; the closer performs; its own chunk commits. -/
def issueCloser (i : Instr) (f : State → Nat → Nat → State × Did) (s : State) : Result :=
  issue i (fun st u t ks => eachSlice (fun v t k =>
    match st.preIn v t k with
    | .ok v1 => f v1 t k
    | .left v1 => (v1, .gone)) u t ks) s

/-- The chunk ends before an instruction, and the next one opens: after the commit of the one before it (R200, R206). -/
def State.endBefore (st v : State) (t k : Nat) : Pre :=
  if (v.slice t k).hit || (v.slice t k).prevHit then .left (v.rollbackSlice t k)
  else match (st.trueRegs v t k).settlePrev t k with
    | .error f => .left (v.capacityFault t k f)
    | .ok w => .ok (w.modSlice t k fun sl =>
      let n := sl.shift (w.ctx (w.team t).ctx)
      { n with regs := { (v.slice t k).regs with fpx := n.regs.fpx, wins := n.regs.wins } })

/-- Room for an instruction's lines in the chunk: else the chunk ends before it (R200). -/
def State.room (st v : State) (t k : Nat) (wl rl : List LineId) : Pre :=
  let ch := (v.slice t k).chunk
  if (ch.wlines ++ wl).dedup.length ≤ 64 ∧ (readLines (ch.rlines ++ rl)).length ≤ 256 then .ok v else st.endBefore v t k

/-- A slice at level 2 commits its memory instruction before the next slice of its gang performs it: it holds its lines until then, and cannot
roll back (R211). `st` is the state before the instruction. DESIGN CHOICE, log entry 12. -/
def State.atOnce (st : State) (i : Instr) (t k : Nat) (x : State × Did) : State × Did :=
  if x.2 = .plain ∧ (x.1.slice t k).level = 2 then (st.finishSlice i t x.1 (k, .plain), .ended) else x

/-- An effect held, with the lines that it writes and the lines that its instruction reads (R199, R201, R202). -/
def Slice.hold (sl : Slice) (es : List Held) (wl rl : List LineId) : Slice :=
  { sl with chunk := { sl.chunk with held := sl.chunk.held ++ es.map fun e => { pc := sl.regs.pc, num := sl.chunk.instrs, eff := e },
                                     wlines := (sl.chunk.wlines ++ wl).dedup, rlines := (sl.chunk.rlines ++ rl).dedup } }

/-- A held effect of a slice instruction without memory operands: it enters the held set and the slice goes on. -/
def State.holdAndGo (st v : State) (t k : Nat) (es : List Held) (wl rl : List LineId) : State × Did :=
  match st.room v t k wl rl with
  | .ok w => (w.modSlice t k fun sl => let h := sl.hold es wl rl; { h with regs := h.regs.adv }, .plain)
  | .left w => (w, .gone)

end Sys2Proof.Machine
end

