-- ==== Sys2Proof/Machine/VectorInt.lean ====
section
/-! DEFINITION. Vector integer arithmetic, comparison, selection, predicates and the bit instructions
(R101 to R108, R115, R132). Elements are independent; only active lanes are written; flags go to the slice's %fpx. -/

namespace Sys2Proof.Machine

/-! ### Elements and lanes -/

/-- How an element's result is made: the width, whether the type is signed, MODE.sat, and the elements of vd, va and vb as bits. -/
abbrev ElemOp := Nat → Bool → Bool → Nat → Nat → Nat → Nat × Flags

/-- An element operation over the elements of a lane, from the low end. -/
def elemMap (f : ElemOp) (w : Nat) (sg sat : Bool) : List Nat → List Nat → List Nat → List (Nat × Flags)
  | d :: ds, a :: as, b :: bs => f w sg sat d a b :: elemMap f w sg sat ds as bs
  | _, _, _ => []

/-- Flags of several elements together. -/
def unionFlags (xs : List (Nat × Flags)) : Flags := xs.foldl (fun a x => a ||| x.2) 0

/-- One lane of an integer instruction: the elements of MODE.type of vd, va and vb, read before any write (R104). -/
def intLane (f : ElemOp) (r : Regs) (d a b l : Nat) : List (Nat × Flags) :=
  let t := modeType r.mode
  elemMap f (typeWidth t) (typeSigned t) (modeSat r.mode) (elements (typeWidth t) (laneBits t) (laneOperand t r d l))
    (elements (typeWidth t) (laneBits t) (laneOperand t r a l)) (elements (typeWidth t) (laneBits t) (laneOperand t r b l))

/-- An integer instruction in every active lane. -/
def intLanes (f : ElemOp) (d a b : Nat) (r : Regs) : Regs :=
  eachLane (laneList r.active) (fun q l =>
    (laneResult (modeType r.mode) q d l (joinElements (typeWidth (modeType r.mode)) ((intLane f r d a b l).map (·.1)))).raise
      (unionFlags (intLane f r d a b l))) r

/-- An element operation that raises no flag and ignores MODE.sat. -/
def exactElem (g : Nat → Bool → Nat → Nat → Nat) : ElemOp := fun w sg _ _ a b => (g w sg a b, 0)

/-- An element operation through an exact integer and int_result (R77, R104). -/
def sumElem (g : Int → Int → Int → Int) : ElemOp := fun w sg sat d a b =>
  intResult w sg sat (g (intOfBits w sg d) (intOfBits w sg a) (intOfBits w sg b))

/-! ### Element operations (R104, R132) -/

/-- The high half of the exact product. -/
def mulhElem : ElemOp := exactElem fun w sg a b =>
  ((intOfBits w sg a * intOfBits w sg b / (2 ^ w : Int)) % (2 ^ w : Int)).toNat
def minElem : ElemOp := exactElem fun w sg a b => if intOfBits w sg a < intOfBits w sg b then a else b
def maxElem : ElemOp := exactElem fun w sg a b => if intOfBits w sg a > intOfBits w sg b then a else b
def shlElem : ElemOp := exactElem fun w _ a b => if b ≥ w then 0 else a * 2 ^ b % 2 ^ w
def shrElem : ElemOp := exactElem fun w sg a b =>
  if b ≥ w then (if intOfBits w sg a < 0 then 2 ^ w - 1 else 0)
  else ((intOfBits w sg a / (2 ^ b : Int)) % (2 ^ w : Int)).toNat
/-- Set bits of the low `w` bits. -/
def popCount : Nat → Nat → Nat
  | 0, _ => 0
  | w + 1, x => x % 2 + popCount w (x / 2)
/-- Leading zero bits of the low `w` bits. -/
def leadingZeros : Nat → Nat → Nat
  | 0, _ => 0
  | w + 1, x => if x / 2 ^ w % 2 = 1 then 0 else 1 + leadingZeros w x
/-- The low `w` bits in reverse order. -/
def reverseBits : Nat → Nat → Nat
  | 0, _ => 0
  | w + 1, x => x % 2 * 2 ^ w + reverseBits w (x / 2)
def popcElem : ElemOp := exactElem fun w _ a _ => popCount w a
def clzElem : ElemOp := exactElem fun w _ a _ => leadingZeros w a
def brevElem : ElemOp := exactElem fun w _ a _ => reverseBits w a

/-- The absolute value; unsigned elements stay. -/
def absInt (_ a _ : Int) : Int := a.natAbs

/-- An instruction of the integer group or of the bit instructions. -/
def intOp (i : Instr) (f : ElemOp) (d a b : Nat) (s : State) : Result := regOp i (intLanes f d a b) s

/-! ### The bitwise forms, VSEL, VCMP -/

/-- Each active lane's whole operand of the type, the register or the pair (R104, R106). -/
def wholeLanes (f : Nat → Nat → Nat → Nat → Nat) (d a b : Nat) (r : Regs) : Regs :=
  eachLane (laneList r.active) (fun q l =>
    laneResult (modeType r.mode) q d l
      (f l (laneBits (modeType r.mode)) (laneOperand (modeType r.mode) r a l) (laneOperand (modeType r.mode) r b l))) r

/-- A predicate from a test of each lane, written in the active lanes (R107, R111). -/
def testLanes (f : Nat → Bool) : Lanes := (List.range 4).foldl (fun m l => if f l then m ||| (1#4 <<< l) else m) 0

/-- The relations of VCMP on exact values (R107). -/
def cmpHolds (c : CmpCond) (x y : Int) : Bool :=
  match c with
  | .eq => x == y
  | .ne => x != y
  | .lt => decide (x < y)
  | .le => decide (x ≤ y)

/-- Whether a relation holds for every element of a lane. -/
def cmpLane (c : CmpCond) (r : Regs) (a b l : Nat) : Bool :=
  let t := modeType r.mode
  let f (n : Nat) := (elements (typeWidth t) (laneBits t) (laneOperand t r n l)).map (intOfBits (typeWidth t) (typeSigned t))
  (List.zipWith (cmpHolds c) (f a) (f b)).all id

/-- `f` on the registers in each active lane, single registers. -/
def singleLanes (f : Nat → W32) (d : Nat) (r : Regs) : Regs := eachLane (laneList r.active) (fun q l => q.setV d l (f l)) r

/-! ### Meanings: the integer group -/

def execVadd (d a b : Nat) (s : State) : Result := intOp (.vadd d a b) (sumElem fun _ a b => a + b) d a b s
def execVsub (d a b : Nat) (s : State) : Result := intOp (.vsub d a b) (sumElem fun _ a b => a - b) d a b s
def execVmul (d a b : Nat) (s : State) : Result := intOp (.vmul d a b) (sumElem fun _ a b => a * b) d a b s
def execVmulh (d a b : Nat) (s : State) : Result := intOp (.vmulh d a b) (mulhElem) d a b s
def execVmad (d a b : Nat) (s : State) : Result := intOp (.vmad d a b) (sumElem fun d a b => d + a * b) d a b s
def execVmin (d a b : Nat) (s : State) : Result := intOp (.vmin d a b) (minElem) d a b s
def execVmax (d a b : Nat) (s : State) : Result := intOp (.vmax d a b) (maxElem) d a b s
def execVshl (d a b : Nat) (s : State) : Result := intOp (.vshl d a b) (shlElem) d a b s
def execVshr (d a b : Nat) (s : State) : Result := intOp (.vshr d a b) (shrElem) d a b s
def execVabs (d a : Nat) (s : State) : Result := intOp (.vabs d a) (sumElem absInt) d a a s
def execVneg (d a : Nat) (s : State) : Result := intOp (.vneg d a) (sumElem fun _ a _ => -a) d a a s
def execVand (d x y : Nat) (s : State) : Result := regOp (.vand d x y) (wholeLanes (fun _ _ a b => a &&& b) d x y) s
def execVor (d x y : Nat) (s : State) : Result := regOp (.vor d x y) (wholeLanes (fun _ _ a b => a ||| b) d x y) s
def execVxor (d x y : Nat) (s : State) : Result := regOp (.vxor d x y) (wholeLanes (fun _ _ a b => a ^^^ b) d x y) s
def execVnot (d x : Nat) (s : State) : Result := regOp (.vnot d x) (wholeLanes (fun _ n a _ => 2 ^ n - 1 - a) d x x) s
/-- VSEL (R106): the selecting predicate is read apart from the guard. -/
def execVsel (d x y p : Nat) (s : State) : Result :=
  regOp (.vsel d x y p) (fun r => wholeLanes (fun l _ a b => if (r.getP p).getLsbD l then a else b) d x y r) s
/-- VCMP (R107). -/
def execVcmp (c : CmpCond) (p a b : Nat) (s : State) : Result :=
  regOp (.vcmp c p a b) (fun r => r.mergeP p (testLanes (cmpLane c r a b))) s
/-- VADDI (R108). -/
def execVaddi (d a : Nat) (i : BitVec 11) (s : State) : Result := intOp (.vaddi d a i) (sumElem fun _ x _ => x + i.toInt) d a a s
/-- VMOVI (R108): one register, whatever the type. -/
def execVmovi (d : Nat) (i : BitVec 18) (s : State) : Result := regOp (.vmovi d i) (singleLanes (fun _ => i.signExtend 32) d) s

/-! ### Meanings: predicates (R115) -/

def execPand (d a b : Nat) (s : State) : Result := regOp (.pand d a b) (fun r => r.mergeP d (r.getP a &&& r.getP b)) s
def execPor (d a b : Nat) (s : State) : Result := regOp (.por d a b) (fun r => r.mergeP d (r.getP a ||| r.getP b)) s
def execPxor (d a b : Nat) (s : State) : Result := regOp (.pxor d a b) (fun r => r.mergeP d (r.getP a ^^^ r.getP b)) s
def execPnot (d a : Nat) (s : State) : Result := regOp (.pnot d a) (fun r => r.mergeP d (~~~ r.getP a)) s
/-- PSET: lane l takes bit l of the scalar. -/
def execPset (d x : Nat) (s : State) : Result := regOp (.pset d x) (fun r => r.mergeP d ((r.getS x).setWidth 4)) s

/-! ### Meanings: the bit instructions (R132) -/

def execVpopc (d a l : Nat) (s : State) : Result := intOp (.vpopc d a l) popcElem d a a s
def execVclz (d a l : Nat) (s : State) : Result := intOp (.vclz d a l) clzElem d a a s
def execVbrev (d a l : Nat) (s : State) : Result := intOp (.vbrev d a l) brevElem d a a s

end Sys2Proof.Machine
end

