-- ==== Sys2Proof/Machine/VectorFloat.lean ====
section
/-! DEFINITION. Vector floating-point arithmetic, comparison and the special functions (R109 to R114, R131). Values are exact until
encode_value rounds them once. -/

namespace Sys2Proof.Machine

/-- How an element's result is made: the format, MODE's rounding, sat and ftz, and the flushed codes of vd, va and vb. -/
abbrev FloatOp := Fmt → Rnd → Bool → Bool → Nat → Nat → Nat → Nat × Flags

/-- The format of a type that the float group accepts (R102). -/
def floatFmt (t : Nat) : Fmt :=
  match t with
  | 8 => .f16
  | 9 => .bf16
  | _ => .f32

/-- A float operation as an element operation: sources through flush_source (R84, R109). -/
def floatElem (f : FloatOp) (m : BitVec 16) : ElemOp := fun _ _ _ d a b =>
  let fm := floatFmt (modeType m)
  f fm (modeRnd m) (modeSat m) (modeFtz m) (fm.flush (modeFtz m) d) (fm.flush (modeFtz m) a) (fm.flush (modeFtz m) b)

def floatOp (i : Instr) (f : FloatOp) (d a b : Nat) (s : State) : Result :=
  regOp i (fun r => intLanes (floatElem f r.mode) d a b r) s

/-! ### Arithmetic (R109) -/

def isRdn (r : Rnd) : Bool := r == .rdn

def addFloat : FloatOp := fun f r sat ftz _ a b => f.encode r sat ftz (Ex.add (isRdn r) (f.decode a) (f.decode b))
def subFloat : FloatOp := fun f r sat ftz _ a b => f.encode r sat ftz (Ex.add (isRdn r) (f.decode a) (f.decode b).neg)
def mulFloat : FloatOp := fun f r sat ftz _ a b => f.encode r sat ftz (Ex.mul (f.decode a) (f.decode b))
/-- One rounding of the exact product and sum. -/
def fmaFloat : FloatOp := fun f r sat ftz d a b =>
  f.encode r sat ftz (Ex.add (isRdn r) (f.decode d) (Ex.mul (f.decode a) (f.decode b)))
def absFloat : FloatOp := fun f _ _ _ _ a _ => (if (f.decode a).isNan then f.nanCode else a % f.signBit, 0)
def negFloat : FloatOp := fun f _ _ _ _ a _ =>
  (if (f.decode a).isNan then f.nanCode else if a < f.signBit then a + f.signBit else a - f.signBit, 0)

/-! ### Minimum, maximum and comparison (R110, R111) -/

/-- A signalling NaN. -/
def Ex.signals : Ex → Bool
  | .nan i => i
  | .inf _ | .fin _ _ _ => false

/-- x below y, with −0 below +0. -/
def Ex.below (x y : Ex) : Bool := x.lt y || (x.isZero && y.isZero && x.isNeg && !y.isNeg)

/-- VFMIN and VFMAX (R110): one of the sources, or the canonical NaN. -/
def pickFloat (max : Bool) : FloatOp := fun f _ _ _ _ a b =>
  let x := f.decode a
  let y := f.decode b
  let fl := flagIf (x.signals || y.signals) fInvalid
  if x.isNan && y.isNan then (f.nanCode, fl)
  else if x.isNan then (b, fl)
  else if y.isNan then (a, fl)
  else if max then (if x.below y then b else a, fl)
  else (if y.below x then b else a, fl)

/-- The relation and flags of VFCMP on one element (R111). -/
def fcmpElem (c : FcmpCond) (x y : Ex) : Bool × Flags :=
  if x.isNan || y.isNan then
    (c == .ne || c == .un, flagIf (x.signals || y.signals || c == .lt || c == .le) fInvalid)
  else
    (match c with
      | .eq => x.eq y
      | .ne => !x.eq y
      | .lt => x.lt y
      | .le => !y.lt x
      | .un => false, 0)

/-- VFCMP on one lane: whether the relation holds for every element, and the flags. -/
def fcmpLane (c : FcmpCond) (r : Regs) (a b l : Nat) : Bool × Flags :=
  let t := modeType r.mode
  let f (n : Nat) := (elements (typeWidth t) 32 (r.getV n l).toNat).map fun e =>
    (floatFmt t).decode ((floatFmt t).flush (modeFtz r.mode) e)
  let rs := List.zipWith (fcmpElem c) (f a) (f b)
  (rs.all (·.1), rs.foldl (fun u x => u ||| x.2) 0)

/-- Flags of the active lanes together. -/
def laneFlags (r : Regs) (f : Nat → Flags) : Flags := (laneList r.active).foldl (fun u l => u ||| f l) 0

/-! ### Special functions (R112 to R114, R131) -/

/-- An absolute bound of 2^-n, and 2^-40 of it more for what the fixed point drops. -/
def bound2 (n : Nat) : Ex := .fin false (2 ^ 40 + 1) (2 ^ (n + 40))

/-- Sine or cosine of ± p / q (R113): on each interval between two extremes it rises or falls; |x| up to 2^12 has a bound in ulps, and beyond it an absolute
one. In the interval that holds ±2^12, what lies beyond is on its side of the value there. -/
def wavePlace (f : Fmt) (y : Bool → Nat → Nat → Ex) (branch : Bool → Nat → Nat → Int) (rises : Bool) (cut : Int → Int → Int) (least most x : Int)
    (n : Bool) (p q : Nat) : Int :=
  let b := branch n p q
  let here (n : Bool) (p q : Nat) : Ex := if p ≤ 2 ^ 12 * q ∧ branch n p q = b then y n p q else .nan false
  let near (w : Int) := placesSteady f (if f == .f32 then 2 else 1) rises (Ex.apply here) w least most
  let w :=
    if p ≤ 2 ^ 12 * q then near x (y n p q)
    else
      let far := placesNear f (y n p q) (bound2 (if f == .f32 then 20 else 9))
      if b = branch n (2 ^ 12) 1 then
        let e := near (f.placeNearest (.fin n (2 ^ 12) 1)) (y n (2 ^ 12) 1)
        if rises != n then far (max least e.1) most else far least (min most e.2)
      else far least most
  curvePlace w rises (cut b) x

/-- A special function of a flushed code (R112 to R114). Where R113 bounds the value without giving it, it is a code within the bound, and the function
rises and falls as the exact one does. -/
def specialFloat (fn : Special) : FloatOp := fun f r sat ftz _ a _ =>
  let enc := f.encode .rne sat ftz
  let x := f.decode a
  let nan : Nat × Flags := (f.nanCode, fInvalid)
  let inf (n : Bool) (fl : Flags) : Nat × Flags := ((enc (.inf n)).1, fl)
  let single := f == .f32
  let x0 := f.placeOf a
  let cut := Config.special fn.num (f.width + if f == .bf16 then 1 else 0)
  let ulps (y : Ex) := f.ulpsOf (if single then 2 else 1) y
  let infp : Int := f.maxCode + 1
  let one : Ex := .fin false 1 1
  let onep := f.placeNearest one
  let rise (y : Ex) (least most : Int) := codeAt f sat ftz y (curvePlace (placesNear f y (ulps y) least most) true (cut 0) x0)
  let fall (n : Bool) (g : Ex → Ex) :=
    codeAt f sat ftz (g x) (curvePlace (placesSteady f 1 false g x0 (-infp) infp (g x)) false (cut (if n then 1 else 0)) x0)
  let climb (g : Bool → Nat → Nat → Ex) (least most : Int) :=
    let h := Ex.apply fun n p q => if p = 0 then .nan false else (g n p q).beside
    codeAt f sat ftz (h x) (curvePlace (placesSteady f (if single then 2 else 1) true h x0 least most (h x)) true (cut 0) x0)
  let side (n : Bool) (g : Bool → Nat → Nat → Ex) := if n then climb g (-onep) 0 else climb g 0 onep
  match fn, x with
  | _, .nan i => (f.nanCode, flagIf i fInvalid)
  | .rcp, .inf n => (f.signed n 0, 0)
  | .rcp, .fin n p q => if p = 0 then inf n fDivZero else if single then fall n rcpEx else enc (.fin n q p)
  | .rsq, .inf n => if n then nan else (0, 0)
  | .rsq, .fin n p q =>
    if p = 0 then inf n fDivZero else if n then nan else if single then fall false rsqEx else enc (sqrtEx q p)
  | .sqrt, .inf n => if n then nan else inf false 0
  | .sqrt, .fin n p q => if p = 0 then (a, 0) else if n then nan else f.encode r sat ftz (sqrtEx p q)
  | .exp2, .inf n => if n then (0, 0) else inf false 0
  | .exp2, .fin n p q =>
    let whole (e : Int) : Ex := scale2 false 1 1 (max (-1024) (min e 1024))
    let e : Int := if n then -((p + q - 1) / q : Nat) else (p / q : Nat)
    let placeOf (e : Int) : Int := if e < f.bias + 1 then f.placeNearest (whole e) else infp
    if p % q = 0 then enc (whole e) else rise (exp2Ex (fxOf n p q 300)).beside (placeOf e) (placeOf (e + 1))
  | .log2, .inf n => if n then nan else inf false 0
  | .log2, .fin n p q =>
    if p = 0 then inf true fDivZero else if n then nan
    else match powerOfTwo p q with
      | some e => enc (Ex.ofInt e)
      | none =>
        let y := (log2Ex p q).beside
        let e := log2Floor p q
        let bound := if p < 2 * q ∧ q < 2 * p then bound2 (if single then 22 else 10) else ulps y
        codeAt f sat ftz y (curvePlace (placesNear f y bound (f.placeNearest (Ex.ofInt e)) (f.placeNearest (Ex.ofInt (e + 1)))) true (cut 0) x0)
  | .sin, .inf _ => nan
  | .sin, .fin n p q =>
    if p = 0 then (f.signed n 0, 0)
    else
      let b := sinBranch n p q
      codeAt f sat ftz (sinEx n p q).beside (wavePlace f (fun n p q => (sinEx n p q).beside) sinBranch (b % 2 == 0) cut
        (if b = 0 ∧ n = false then 0 else -infp) (if b = 0 ∧ n = true then 0 else infp) x0 n p q)
  | .cos, .inf _ => nan
  | .cos, .fin n p q =>
    if p = 0 then enc one
    else
      let b := cosBranch n p q
      codeAt f sat ftz (cosEx n p q).beside (wavePlace f (fun n p q => (cosEx n p q).beside) cosBranch (b % 2 != 0) cut
        (-infp) (if b = 0 ∨ b = -1 then onep else infp) x0 n p q)
  | .tanh, .inf n => enc (.fin n 1 1)
  | .tanh, .fin n p _ => if p = 0 then (f.signed n 0, 0) else side n tanhEx
  | .erf, .inf n => enc (.fin n 1 1)
  | .erf, .fin n p _ => if p = 0 then (f.signed n 0, 0) else side n erfEx
  | .sigm, .inf n => if n then (0, 0) else enc one
  | .sigm, .fin n p _ =>
    let half := f.placeNearest (.fin false 1 2)
    if p = 0 then enc (.fin false 1 2)
    else if n then climb sigmEx 0 half else climb sigmEx half onep

def specialOp (i : Instr) (fn : Special) (d a : Nat) (s : State) : Result :=
  regOp i (fun r => intLanes (floatElem (specialFloat fn) r.mode) d a a r) s

/-! ### Meanings -/

def execVfadd (d a b : Nat) (s : State) : Result := floatOp (.vfadd d a b) addFloat d a b s
def execVfsub (d a b : Nat) (s : State) : Result := floatOp (.vfsub d a b) subFloat d a b s
def execVfmul (d a b : Nat) (s : State) : Result := floatOp (.vfmul d a b) mulFloat d a b s
def execVfma (d a b : Nat) (s : State) : Result := floatOp (.vfma d a b) fmaFloat d a b s
def execVfmin (d a b : Nat) (s : State) : Result := floatOp (.vfmin d a b) (pickFloat false) d a b s
def execVfmax (d a b : Nat) (s : State) : Result := floatOp (.vfmax d a b) (pickFloat true) d a b s
def execVfabs (d a : Nat) (s : State) : Result := floatOp (.vfabs d a) absFloat d a a s
def execVfneg (d a : Nat) (s : State) : Result := floatOp (.vfneg d a) negFloat d a a s
/-- VFCMP (R111). -/
def execVfcmp (c : FcmpCond) (p a b : Nat) (s : State) : Result :=
  regOp (.vfcmp c p a b) (fun r =>
    (r.mergeP p (testLanes fun l => (fcmpLane c r a b l).1)).raise (laneFlags r fun l => (fcmpLane c r a b l).2)) s
def execVrcp (d a l : Nat) (s : State) : Result := specialOp (.vrcp d a l) .rcp d a s
def execVrsq (d a l : Nat) (s : State) : Result := specialOp (.vrsq d a l) .rsq d a s
def execVsqrt (d a l : Nat) (s : State) : Result := specialOp (.vsqrt d a l) .sqrt d a s
def execVexp2 (d a l : Nat) (s : State) : Result := specialOp (.vexp2 d a l) .exp2 d a s
def execVlog2 (d a l : Nat) (s : State) : Result := specialOp (.vlog2 d a l) .log2 d a s
def execVsin (d a l : Nat) (s : State) : Result := specialOp (.vsin d a l) .sin d a s
def execVcos (d a l : Nat) (s : State) : Result := specialOp (.vcos d a l) .cos d a s
def execVtanh (d a l : Nat) (s : State) : Result := specialOp (.vtanh d a l) .tanh d a s
def execVerf (d a l : Nat) (s : State) : Result := specialOp (.verf d a l) .erf d a s
def execVsigm (d a l : Nat) (s : State) : Result := specialOp (.vsigm d a l) .sigm d a s

end Sys2Proof.Machine
end

