-- ==== Sys2Proof/Machine/VectorConv.lean ====
section
/-! DEFINITION. Conversion, block quantisation and the pack group (R116 to R121). -/

namespace Sys2Proof.Machine

/-- What a type code holds: an integer of a width, signed or not, or a floating-point format (R35). The 4-bit family has no type
code of its own and VCVT refuses it (R116). -/
inductive ElemType
  | int (w : Nat) (sg : Bool)
  | float (f : Fmt)
  deriving DecidableEq, Repr

def elemType (t : Nat) : ElemType :=
  match fmtOfCode t .int with
  | some f => .float f
  | none => .int (typeWidth t) (typeSigned t)

/-- The bits that an element takes in a register: a 6-bit code takes a byte (R70). -/
def ElemType.bits : ElemType → Nat
  | .int w _ => w
  | .float f => if f.width ≤ 8 then 8 else f.width

/-- One element through VCVT (R117). -/
def cvtElem (src dst : ElemType) (m : BitVec 16) (x : Nat) : Nat × Flags :=
  match src, dst with
  | .int ws sg, .int w sd => intResult w sd (modeSat m) (intOfBits ws sg x)
  | .int ws sg, .float f => f.encode (modeRnd m) (modeSat m) (modeFtz m) (Ex.ofInt (intOfBits ws sg x))
  | .float f, .int w sd => intOfEx w sd (modeRnd m) (f.decode (f.flush (modeFtz m) x))
  | .float f, .float g => g.encode (modeRnd m) (modeSat m) (modeFtz m) (f.decode (f.flush (modeFtz m) x))

/-- The elements of a group of registers in a lane, in order (R116). -/
def groupElements (r : Regs) (w n first l : Nat) : List Nat :=
  if w = 64 then [(r.getPair first l).toNat] else (group n first).flatMap fun k => elements w 32 (r.getV k l).toNat

/-- Elements put into a group of registers of a lane, as many in each as it holds. -/
def putElements (r : Regs) (w n first l : Nat) (xs : List Nat) : Regs :=
  if w = 64 then r.setPair first l (BitVec.ofNat 64 (xs.headD 0))
  else (List.range n).foldl (fun q k =>
    q.setV (first + k) l (BitVec.ofNat 32 (joinElements w ((xs.drop (k * (32 / w))).take (32 / w))))) r

/-- VCVT in every active lane: all sources are read before any destination is written (R116, R117). -/
def cvtLanes (d a : Nat) (st dt : Nat) (r : Regs) : Regs :=
  let src := elemType st
  let dst := elemType dt
  let ns := cvtGroup (perReg st) (perReg dt)
  let nd := cvtGroup (perReg dt) (perReg st)
  eachLane (laneList r.active) (fun q l =>
    let rs := (groupElements r src.bits ns a l).map (cvtElem src dst r.mode)
    (putElements q dst.bits nd d l (rs.map (·.1))).raise (unionFlags rs)) r

/-- The format slots of a team's launch (R75). -/
def State.slots (s : State) (t : Nat) : List (BitVec 64) := (s.launch (s.team t).launch).params.slots

def execVcvt (d a k : Nat) (u : BitVec 4) (l : Nat) (s : State) : Result :=
  issueRegs (.vcvt d a k u l) (fun st t _ r =>
    let slot := (st.slots t).getD k 0
    .ok (cvtLanes d a (cvtType u.toNat slot) (cvtType (modeType r.mode) slot) r).adv) s

/-! ### The gang (R13, R122) -/

/-- The position of a slice in its gang, from 0: its gang lanes are 4 × it + lane (R13). -/
def posOf (k : Nat) : List Nat → Nat
  | [] => 0
  | x :: xs => if x = k then 0 else 1 + posOf k xs

/-- The registers of the slice that holds a gang lane, if it is present; the issuing slice's own lanes as it reads them now, and others'
after the instructions that write them (R123). A slice that takes
a trap at the instruction is present for it, with the registers and MODE from before its trap. DESIGN CHOICE, log entry 64. -/
def State.gangRegs (s : State) (k : Nat) (own : Regs) (j : Nat) : Option Regs :=
  match s.cur.ks[j / 4]? with
  | some x => if x = k then some own else some (s.slice s.cur.team x).regs
  | none => none

/-- A slice's own lanes for what a gang forms once for all its slices: as the slice reads them now, if it is the whole gang; else each is read from
another slice too, after the instructions that write it (R123, R128). DESIGN CHOICE, log entry 18. -/
def State.ownSeen (s : State) (k : Nat) (own : Regs) : Regs := if s.cur.ks.length = 1 then own else (s.slice s.cur.team k).regs

/-- v[n] at a gang lane; the fill where the lane is absent (R122). -/
def State.gangRead (s : State) (k : Nat) (own : Regs) (n j : Nat) (fill : W32) : W32 :=
  match s.gangRegs k own j with
  | some r => r.getV n (j % 4)
  | none => fill

/-- Whether a gang lane is present and active (R36). -/
def State.gangActive (s : State) (k : Nat) (own : Regs) (j : Nat) : Bool :=
  match s.gangRegs k own j with
  | some r => r.active.getLsbD (j % 4)
  | none => false

/-! ### VQNT and VDQNT (R118, R119) -/

/-- The block of a slot: its format with its own 4-bit type. -/
def slotBlockFmt (slot : BitVec 64) : Fmt := (fmtOfCode (slotFmtCode slot) (Q4.ofBits (slotQtype slot))).getD .e4m3

/-- Element 0 of v[a] in a gang lane; absent and inactive lanes give +0 (R118). -/
def State.quantSource (s : State) (k : Nat) (own : Regs) (a j : Nat) : Ex :=
  if s.gangActive k own j then
    let f := floatFmt (modeType own.mode)
    f.decode (f.flush (modeFtz own.mode) ((s.gangRead k own a j 0).toNat % 2 ^ f.width))
  else .fin false 0 1

/-- VQNT (R118): a flag of an element's conversion goes to the slice that holds its lane; a flag of the block to every slice. -/
def execVqnt (d a k l : Nat) (s : State) : Result :=
  issueRegs (.vqnt d a k l) (fun st t x r =>
    let slot := (st.slots t).getD k 0
    let q := quantiseBlock ((List.range 32).map (st.quantSource x (st.ownSeen x r) a)) (slotBlockFmt slot) (modeRnd r.mode)
    let base := 4 * posOf x st.cur.ks
    .ok ((eachLane (laneList r.active) (fun p j =>
      ((p.setV d j (BitVec.ofNat 32 (q.1.getD (base + j) (0, 0)).1)).setV (d + 1) j (q.2.1.setWidth 32)).raise
        (q.1.getD (base + j) (0, 0)).2) r).raise q.2.2).adv) s

/-- VDQNT on one lane: the product of code, scale and tensor scale, rounded once. -/
def dequantLane (slot : BitVec 64) (r : Regs) (a b l : Nat) : Nat × Flags :=
  let e : BitVec 16 := (r.getV (a + 1) l).setWidth 16
  let c := (r.getV a l).toNat % 2 ^ slotWidth slot
  let x := Fmt.f32.decode (Fmt.f32.flush (modeFtz r.mode) (r.getV b l).toNat)
  (floatFmt (modeType r.mode)).encode (modeRnd r.mode) (modeSat r.mode) (modeFtz r.mode)
    (Ex.mul (Ex.mul (slotDecode slot e c) (scaleValue slot e)) x)

def execVdqnt (d a b k : Nat) (s : State) : Result :=
  issueRegs (.vdqnt d a b k) (fun st t _ r =>
    let slot := (st.slots t).getD k 0
    .ok (eachLane (laneList r.active) (fun q l =>
      (q.setV d l (BitVec.ofNat 32 (dequantLane slot r a b l).1)).raise (dequantLane slot r a b l).2) r).adv) s

/-! ### The pack group (R120, R121) -/

/-- The elements at even positions. -/
def evenElements : List Nat → List Nat
  | x :: _ :: xs => x :: evenElements xs
  | [x] => [x]
  | [] => []

/-- The elements of a register's lane; of the 6-bit types bits [5:0] of each byte (R70). -/
def typeElements (t x : Nat) : List Nat :=
  (elements (typeWidth t) 32 x).map fun e => if t = 0xD ∨ t = 0xE then e % 64 else e

/-- VPACK on one lane (R120). -/
def packLane (r : Regs) (a b l : Nat) : W32 :=
  let t := modeType r.mode
  BitVec.ofNat 32 (joinElements (typeWidth t) (evenElements (typeElements t (r.getV a l).toNat) ++ evenElements (typeElements t (r.getV b l).toNat)))

def unpackLane (h : Half) (r : Regs) (a l : Nat) : W32 :=
  let t := modeType r.mode
  let w := typeWidth t
  let n := 32 / w / 2
  let xs := elements w 32 (r.getV a l).toNat
  let ys := match h with
    | .lo => xs.take n
    | .hi => xs.drop n
  BitVec.ofNat 32 (joinElements (2 * w) (ys.map fun x => (intOfBits w (typeSigned t) x % (2 ^ (2 * w) : Int)).toNat))

/-- The class of a code (R121); nothing is flushed. e4m3 has one NaN a sign, and it is quiet. -/
def classOf (f : Fmt) (c : Nat) : Nat :=
  let neg := decide (c % 2 ^ f.width ≥ f.signBit)
  let a := c % f.signBit
  let m := a % 2 ^ f.frac
  if f.hasInf && a == f.infCode then (if neg then 0 else 7)
  else if f.hasInf && decide (a > f.infCode) then (if m / 2 ^ (f.frac - 1) = 1 then 9 else 8)
  else if f == .e4m3 && a == 0x7F then 9
  else if a = 0 then (if neg then 3 else 4)
  else if a < 2 ^ f.frac then (if neg then 2 else 5)
  else if neg then 1 else 6

def classLane (r : Regs) (a l : Nat) : W32 :=
  let t := modeType r.mode
  let w := typeWidth t
  match fmtOfCode t .int with
  | some f => BitVec.ofNat 32 (joinElements w ((elements w 32 (r.getV a l).toNat).map (classOf f)))
  | none => 0

def execVpack (d a b : Nat) (s : State) : Result := regOp (.vpack d a b) (fun r => singleLanes (packLane r a b) d r) s
def execVunpk (h : Half) (d a : Nat) (s : State) : Result := regOp (.vunpk h d a) (fun r => singleLanes (unpackLane h r a) d r) s
def execVclass (d a : Nat) (s : State) : Result := regOp (.vclass d a) (fun r => singleLanes (classLane r a) d r) s

end Sys2Proof.Machine
end

