-- ==== Sys2Proof/Machine/CrossLane.lean ====
section
/-! DEFINITION. The cross-lane instructions (R122 to R130): sources are read across the current gang, and only active lanes of a
slice are written. -/

namespace Sys2Proof.Machine

/-- Writes v[d] in each active lane of slice k from the gang lane that `f` names; none, or an absent lane, gives the fill, the
receiving lane's own v[d] (R122). -/
def crossLanes (st : State) (k d : Nat) (f : Nat → Option (Nat × Nat)) (r : Regs) : Regs :=
  eachLane (laneList r.active) (fun q l =>
    q.setV d l (match f (4 * posOf k st.cur.ks + l) with
      | some (n, j) => st.gangRead k r n j (r.getV d l)
      | none => r.getV d l)) r

def crossOp (i : Instr) (d : Nat) (f : Nat → Option (Nat × Nat)) (s : State) : Result :=
  issueRegs i (fun st _ k r => .ok (crossLanes st k d f r).adv) s

/-- VPERM (R124): the index is the low five bits of the lane's own v[b]. -/
def execVperm (d a b : Nat) (s : State) : Result :=
  issueRegs (.vperm d a b) (fun st _ k r =>
    .ok (crossLanes st k d (fun g => some (a, (r.getV b (g % 4)).toNat % 32)) r).adv) s

/-- One byte of VBPERM: the kept byte, or a byte of the table in the slice's four lanes of v[b] (R125). -/
def bpermByte (r : Regs) (b : Nat) (old x : Nat) : Nat :=
  if x / 16 % 16 = 15 then old else (r.getV b (x % 16 / 4)).toNat / 256 ^ (x % 4) % 256

def bpermLane (r : Regs) (d a b l : Nat) : W32 :=
  BitVec.ofNat 32 (joinElements 8 (List.zipWith (bpermByte r b) (elements 8 32 (r.getV d l).toNat) (elements 8 32 (r.getV a l).toNat)))

def execVbperm (d a b : Nat) (s : State) : Result := regOp (.vbperm d a b) (fun r => singleLanes (bpermLane r d a b) d r) s

/-- VSLIDE (R127). -/
def execVslide (d a b n : Nat) (s : State) : Result :=
  crossOp (.vslide d a b n) d (fun g => if n ≤ g then some (a, g - n) else some (b, 32 + g - n)) s

/-- VSHFL (R126). -/
def execVshfl (k : ShflKind) (d a m : Nat) (s : State) : Result :=
  crossOp (.vshfl k d a m) d (fun g =>
    match k with
    | .xor => some (a, g ^^^ m)
    | .up => if m ≤ g then some (a, g - m) else none
    | .down => if g + m ≤ 31 then some (a, g + m) else none) s

def execVbcast (d a m : Nat) (s : State) : Result := crossOp (.vbcast d a m) d (fun _ => some (a, m)) s

/-! ### Reduction and scan (R128, R129) -/

/-- One step of an f32 reduction on codes: rounded addition, or the rule of R110. -/
def redFloat (o : RedOp) (m : BitVec 16) (x y : Nat) : Nat × Flags :=
  match o with
  | .sum => addFloat .f32 (modeRnd m) (modeSat m) (modeFtz m) 0 x y
  | .min => pickFloat false .f32 (modeRnd m) (modeSat m) (modeFtz m) 0 x y
  | .max => pickFloat true .f32 (modeRnd m) (modeSat m) (modeFtz m) 0 x y

/-- One level of the tree: adjacent results combined; a node with one child passes it on. -/
def treeLevel (f : Nat → Nat → Nat × Flags) : List (Option (Nat × Flags)) → List (Option (Nat × Flags))
  | x :: y :: r =>
    (match x, y with
      | some (a, u), some (b, v) => some ((f a b).1, u ||| v ||| (f a b).2)
      | some a, none => some a
      | none, some b => some b
      | none, none => none) :: treeLevel f r
  | [x] => [x]
  | [] => []

/-- The active gang lanes' values, lane 0 first. -/
def gangValues (st : State) (k : Nat) (r : Regs) (a : Nat) : List (Option Nat) :=
  (List.range 32).map fun j => if st.gangActive k r j then some (st.gangRead k r a j 0).toNat else none

/-- An f32 value as VRED and VSCAN read it. -/
def redSource (m : BitVec 16) (x : Nat) : Nat := Fmt.f32.flush (modeFtz m) x

/-- VRED's value and flags (R128). -/
def redValue (o : RedOp) (m : BitVec 16) (vs : List (Option Nat)) : W64 × Flags :=
  let t := modeType m
  if t = 10 then
    let leaves := vs.map (Option.map fun x => (redSource m x, (0 : Flags)))
    let f := redFloat o m
    match treeLevel f (treeLevel f (treeLevel f (treeLevel f (treeLevel f leaves)))) with
    | some (x, fl) :: _ => (BitVec.ofNat 64 (x % 2 ^ 32), fl)
    | _ => (0, 0)
  else
    let sg := typeSigned t
    let xs := (vs.filterMap id).map (intOfBits 32 sg)
    let q := match o, xs with
      | _, [] => (0, 0)
      | .sum, xs => intResult 32 sg (modeSat m) (xs.foldl (· + ·) 0)
      | .min, x :: xs => (((xs.foldl min x) % (2 ^ 32 : Int)).toNat, 0)
      | .max, x :: xs => (((xs.foldl max x) % (2 ^ 32 : Int)).toNat, 0)
    let v := BitVec.ofNat 32 q.1
    (if sg then v.signExtend 64 else v.setWidth 64, q.2)

def execVred (o : RedOp) (d a : Nat) (s : State) : Result :=
  issueRegs (.vred o d a) (fun st _ k r =>
    let v := redValue o r.mode (gangValues st k (st.ownSeen k r) a)
    .ok ((r.setS d v.1).raise v.2).adv) s

/-- VSCAN's outputs by gang lane: code and flags of each active lane (R129). -/
def scanValues (o : RedOp) (m : BitVec 16) : Option Int → Option Nat → List (Option Nat) → List (Option (Nat × Flags))
  | _, _, [] => []
  | ai, af, none :: vs => none :: scanValues o m ai af vs
  | ai, af, some x :: vs =>
    let t := modeType m
    if t = 10 then
      let y := redSource m x
      let r := match af with
        | some c => redFloat o m c y
        | none => (y, 0)
      some r :: scanValues o m ai (some r.1) vs
    else
      let y := intOfBits 32 (typeSigned t) x
      let acc := match ai, o with
        | none, _ => y
        | some c, .sum => c + y
        | some c, .min => min c y
        | some c, .max => max c y
      let r := match o with
        | .sum => intResult 32 (typeSigned t) (modeSat m) acc
        | .min | .max => ((acc % (2 ^ 32 : Int)).toNat, 0)
      some r :: scanValues o m (some acc) af vs

def execVscan (o : RedOp) (d a : Nat) (s : State) : Result :=
  issueRegs (.vscan o d a) (fun st _ k r =>
    let vs := scanValues o r.mode none none (gangValues st k r a)
    let base := 4 * posOf k st.cur.ks
    .ok (eachLane (laneList r.active) (fun q l =>
      match vs.getD (base + l) none with
      | some (v, fl) => (q.setV d l (BitVec.ofNat 32 v)).raise fl
      | none => q) r).adv) s

/-- The mask of VBALLOT and VCOUNT: bit g for an active gang lane with p[p] = 1 (R130). -/
def ballot (st : State) (k : Nat) (r : Regs) (p : Nat) : Nat :=
  (List.range 32).foldl (fun m j =>
    match st.gangRegs k r j with
    | some x => if x.active.getLsbD (j % 4) && (x.getP p).getLsbD (j % 4) then m + 2 ^ j else m
    | none => m) 0

def execVballot (d p : Nat) (s : State) : Result :=
  issueRegs (.vballot d p) (fun st _ k r => .ok (r.setS d (BitVec.ofNat 64 (ballot st k (st.ownSeen k r) p))).adv) s

def execVcount (d p : Nat) (s : State) : Result :=
  issueRegs (.vcount d p) (fun st _ k r => .ok (r.setS d (BitVec.ofNat 64 (popCount 32 (ballot st k (st.ownSeen k r) p)))).adv) s

end Sys2Proof.Machine
end

