-- ==== Sys2Proof/Machine/Waking.lean ====
section
/-! DEFINITION. Sleeping in a closer and waking from it (R203, R209), and the team barrier (R233). -/

namespace Sys2Proof.Machine

/-- A slice goes to sleep in the closer at its PC: it holds no chunk and keeps its registers (R203). -/
def State.sleep (s : State) (t k : Nat) (z : Sleep) : State × Did :=
  (s.modSlice t k fun v => { v with status := .asleep z, park := none, chunk := Chunk.begin (s.ctx (s.team t).ctx) v.regs }, .stay)

/-- A sleeper's closer completes: its registers are written, the slice goes on, its own chunk commits (R203). -/
def State.wake (s : State) (t k : Nat) (f : Regs → Regs) : State :=
  let pc := (s.slice t k).regs.pc
  (s.modSlice t k fun v =>
    let r := (f v.regs).adv
    { v with status := .run, park := none, regs := r.complete.aged,
             chunk := { v.chunk with instrs := 1 } }).closeOwn t k pc (pc + 4)

/-- The slices of a team that have not exited (R233). -/
def State.live (s : State) (t : Nat) : List Nat :=
  (List.range (s.team t).slices).filter fun k => (s.slice t k).status != .exited

/-- The arrivals that the open phase needs (R233). -/
def State.barNeed (s : State) (t : Nat) : Nat :=
  let n := (s.live t).length
  let g := (s.team t).target
  if g = 0 ∨ n < g then n else g

/-- BAR_RELEASE (R233): a phase whose arrivals suffice ends, every sleeping arrival is released, and the next BAR opens a new phase. -/
def State.barCheck (s : State) (t : Nat) : State :=
  let a := (s.team t).arrivals
  if a = 0 ∨ a < s.barNeed t then s
  else
    let ks := (s.live t).filter fun k => (s.slice t k).status == .asleep .bar
    ks.foldl (fun u k => if s.haltedSince u t then u else u.wake t k id) (s.modTeam t fun v => { v with arrivals := 0 })

end Sys2Proof.Machine
end

