-- ==== Sys2Proof/Machine/Control.lean ====
section
/-! DEFINITION. Special registers and lane moves (R43 to R45, R91 to R93), branches, calls and jumps (R94 to R96), REGANG and EXIT
(R98, R99), MODE and MODER (R37, R100). -/

namespace Sys2Proof.Machine

/-! ### Special registers (R43, R45, R91) -/

/-- The value of a special register but %clk, in the gang that issues the SRD. -/
def specialValue (s : State) (t k : Nat) (r : Regs) (n : Nat) : W64 :=
  let tm := s.team t
  let p := s.params t
  match n with
  | 0x000 => BitVec.ofNat 64 k
  | 0x001 => BitVec.ofNat 64 tm.slices
  | 0x002 => BitVec.ofNat 64 s.cur.ks.length
  | 0x003 => BitVec.ofNat 64 tm.x
  | 0x004 => BitVec.ofNat 64 tm.y
  | 0x005 => BitVec.ofNat 64 tm.z
  | 0x006 => BitVec.ofNat 64 tm.stage
  | 0x007 => BitVec.ofNat 64 p.nx
  | 0x008 => BitVec.ofNat 64 p.ny
  | 0x009 => BitVec.ofNat 64 p.nz
  | 0x00A => BitVec.ofNat 64 p.stages
  | 0x00B => p.args
  | 0x00C => BitVec.ofNat 64 (s.coreNum t)
  | 0x00D => BitVec.ofNat 64 (s.teamDie t)
  | 0x00E => BitVec.ofNat 64 tm.ctx
  | 0x010 => r.fpx.setWidth 64
  | _ => 0

/-- The core's cycle counter has gone on, since the quarter's last reading by a clock at least, by a number of clocks that the model does not
know (R85, R91). DESIGN CHOICE, log entry 27. -/
def State.clockOn (s : State) : State :=
  match (s.team s.cur.team).place with
  | .resident c qs _ _ =>
    let q := qs.getD (s.cur.ks.headD 0 / 8) 0
    let v := max (s.core c).clk (FMap.get 0 (s.core c).clkRead q + 1) + (Config.word s.draws).toNat % 2 ^ 32
    s.drawn.modCore c fun x => { x with clk := v, clkRead := FMap.put x.clkRead q v }
  | .ready | .swapped | .retired => s

/-- %clk, in 64 bits. -/
def State.clockValue (s : State) (t : Nat) : W64 :=
  match s.teamCore t with
  | some c => BitVec.ofNat 64 (s.core c).clk
  | none => 0

/-- SRD: of %clk it is a closer (R91). -/
def execSrd (d n : Nat) (s : State) : Result :=
  if n = 0x00F then
    issueCloser (.srd d n) (fun u t k =>
      (u.modSlice t k fun v => { v with regs := (v.regs.setS d (u.clockValue t)).adv }, .closer)) s.clockOn
  else issueRegs (.srd d n) (fun st t k r => .ok (r.setS d (specialValue st t k r n)).adv) s

/-- SWR: %fpx is the one that is written; the delivered mask is narrowed with it (R45, R82, R83). -/
def execSwr (a n : Nat) (s : State) : Result :=
  regOp (.swr a n) (fun r =>
    let f : BitVec 6 := (r.getS a).setWidth 6
    { r with fpx := f, delivered := r.delivered &&& f }) s

/-! ### Lane moves (R92, R93) -/

def execSmovv (d x : Nat) (s : State) : Result := regOp (.smovv d x) (fun r => singleLanes (fun _ => (r.getS x).setWidth 32) d r) s
/-- %lane. -/
def execSmovvLane (d : Nat) (s : State) : Result := regOp (.smovvLane d) (singleLanes (fun l => BitVec.ofNat 32 l) d) s
/-- %tlane. -/
def execSmovvTlane (d : Nat) (s : State) : Result :=
  issueRegs (.smovvTlane d) (fun _ _ k r => .ok (singleLanes (fun l => BitVec.ofNat 32 (4 * k + l)) d r).adv) s
/-- VRDL is not guarded. -/
def execVrdl (d a l : Nat) (s : State) : Result := regOp (.vrdl d a l) (fun r => r.setS d ((r.getV a l).setWidth 64)) s

/-! ### Branches (R94, R95) -/

/-- A branch's target: the address after it, plus four times the displacement. -/
def branchTarget (pc : W64) {n : Nat} (i : BitVec n) : W64 := pc + 4 + i.signExtend 64 * 4

/-- A branch by a condition on the slice's own registers. -/
def branchOp (i : Instr) {n : Nat} (d : BitVec n) (taken : Regs → Bool) (s : State) : Result :=
  issueRegs i (fun _ _ _ r => .ok (r.setPc (if taken r then branchTarget r.pc d else r.pc + 4))) s

def condHolds (c : BrCond) (x : W64) : Bool :=
  match c with
  | .z => x == 0
  | .nz => x != 0
  | .lz => x.slt 0
  | .gez => !x.slt 0

def execBr (d : BitVec 22) (s : State) : Result := branchOp (.br d) d (fun _ => true) s
def execBrCc (c : BrCond) (a : Nat) (d : BitVec 13) (s : State) : Result := branchOp (.brCc c a d) d (fun r => condHolds c (r.getS a)) s
/-- With no active lane BANY is not taken, BALL and BNONE are. -/
def execBany (p : Nat) (d : BitVec 22) (s : State) : Result := branchOp (.bany p d) d (fun r => r.getP p &&& r.active != 0) s
def execBall (p : Nat) (d : BitVec 22) (s : State) : Result := branchOp (.ball p d) d (fun r => r.getP p &&& r.active == r.active) s
def execBnone (p : Nat) (d : BitVec 22) (s : State) : Result := branchOp (.bnone p d) d (fun r => r.getP p &&& r.active == 0) s
def execCall (d : BitVec 22) (s : State) : Result :=
  issueRegs (.call d) (fun _ _ _ r => .ok ((r.setS 63 (r.pc + 4)).setPc (branchTarget r.pc d))) s
def execNop (s : State) : Result := regOp .nop id s

/-- A jump to a register's address: misaligned, it traps and the PC stays (R27, R95). The target, not a lane, is at fault: info is
the slice's lowest gang lane (R325). -/
def jumpOp (i : Instr) (n : Nat) (s : State) : Result :=
  issueRegs i (fun st _ k r =>
    let a := r.getS n
    if a.toNat % 4 ≠ 0 then .error { cause := 3, sub := 0, addr := a, info := BitVec.ofNat 32 (4 * posOf k st.cur.ks) }
    else .ok (r.setPc a)) s

def execRet (s : State) : Result := jumpOp .ret 63 s
def execJmpr (a : Nat) (s : State) : Result := jumpOp (.jmpr a) a s

/-! ### MODE (R37, R100) -/

def execMode (m : BitVec 16) (s : State) : Result := regOp (.mode m) (fun r => r.setMode m) s
def execModer (a : Nat) (s : State) : Result := regOp (.moder a) (fun r => r.setMode ((r.getS a).setWidth 16)) s

/-! ### REGANG (R99) -/

/-- The live slices of a home gang (R97, R99). -/
def State.homeLive (s : State) (t home : Nat) : List Nat := (s.live t).filter fun k => k / 8 == home

/-- The gangs of a home gang that wait at a REGANG. -/
def State.waiters (s : State) (t home : Nat) (pc : W64) : List Gang :=
  s.gangs.filter fun g => g.team == t && g.wait.isSome && (match g.ks with
    | k :: _ => k / 8 == home && (s.slice t k).regs.pc == pc
    | [] => false)

/-- The live slices of a home gang that wait at a REGANG; one that an invalidation has hit has not arrived. -/
def State.arrived (s : State) (t home : Nat) (pc : W64) : List Nat :=
  (s.homeLive t home).filter fun k => !(s.slice t k).hit && !(s.slice t k).prevHit && (s.waiters t home pc).any fun g => g.ks.contains k

/-- Every live slice of a home gang waits at a REGANG. -/
def State.allWait (s : State) (t home : Nat) (pc : W64) : Bool := s.arrived t home pc == s.homeLive t home

/-- Slices with one MODE put together, in the order given. -/
def byMode (s : State) (t : Nat) (ks : List Nat) : List (List Nat) :=
  (ks.foldl (fun g k => addStand ((s.slice t k).regs.mode.toNat, 0) k g) []).map (·.2)

/-- A slice past its REGANG, which a chunk that has ended since may hold already: the next one then begins after it. -/
def Slice.rejoin (v : Slice) : Slice :=
  { v with regs := v.regs.adv, chunk := if v.chunk.instrs = 0 then { v.chunk with ckpt := v.chunk.ckpt.adv } else v.chunk }

/-- What is left of a gang that waits: the slices that an invalidation has hit, which leave the wait. -/
def Gang.without (g : Gang) (ks : List Nat) : List Gang :=
  let r := g.ks.filter fun k => !ks.contains k
  if r.isEmpty then [] else [{ g with ks := r, wait := none }]

/-- REGANG_JOIN (R99): the waiting slices go on, in one gang for each MODE. -/
def State.regangJoin (s : State) (t home : Nat) (pc : W64) : State :=
  let ws := s.waiters t home pc
  let ks := s.arrived t home pc
  let s1 := ks.foldl (fun u k => u.modSlice t k Slice.rejoin) s
  { s1 with gangs := (s1.gangs.filter fun g => !ws.contains g) ++ ws.flatMap (·.without ks) ++
              (byMode s1 t ks).map fun p => { team := t, ks := p, age := 0, wait := none } }

/-- REGANG: a gang that holds every live slice of its home gang goes on; another waits, and the last to arrive ends the wait. -/
def execRegang (s : State) : Result :=
  let t := s.cur.team
  let home := s.cur.ks.headD 0 / 8
  let pc := (s.slice t (s.cur.ks.headD 0)).regs.pc
  if s.cur.ks == s.homeLive t home then regOp .regang id s
  else
    match issueRegs .regang (fun _ _ _ r => .ok r) s with
    | .next u =>
      let v := { u with gangs := u.gangs.map fun (g : Gang) =>
        if g.team = t ∧ g.ks.all (fun k => s.cur.ks.contains k && (u.slice t k).regs.pc == pc && (u.slice t k).handler == (s.slice t k).handler)
        then { g with wait := some 0 } else g }
      .next (if v.allWait t home pc then v.regangJoin t home pc else v)
    | r => r

/-! ### EXIT (R98) -/

/-- EXIT in one slice: the open chunk commits as a CMIT's does; a capacity fault or an enabled flag leaves the slice alive. -/
def State.exitSlice (s : State) (t k : Nat) : State × Did :=
  if (s.slice t k).hit || (s.slice t k).prevHit then (s.rollbackSlice t k, .gone)
  else match s.settlePrev t k with
  | .error f => (s.capacityFault t k f, .gone)
  | .ok s0 =>
  let sl := s0.slice t k
  if sl.hit then (s0.rollbackSlice t k, .gone)
  else match s0.commitChunk t k true with
    | .error f => (s0.capacityFault t k f, .gone)
    | .ok s1 =>
      let stops := sl.delivers || ({ s1.slice t k with chunk := sl.chunk } : Slice).delivers
      let s2 := s1.deliver t k sl.fpxen sl.regs.pc sl.regs.pc
      if stops then (s2, .gone)
      else ((s2.modSlice t k fun v => { v with status := .exited, handler := false }).barCheck t, .gone)

def execExit (s : State) : Result := issue .exit (fun _ u t ks => eachSlice State.exitSlice u t ks) s

end Sys2Proof.Machine
end

