-- ==== Sys2Proof/Machine/Access.lean ====
section
/-! DEFINITION. Accesses of a slice to memory: the checks of R150, page faults and parking (R151, R152), what a load returns within
its chunk (R143, R147, R216). -/

namespace Sys2Proof.Machine

/-- The lowest gang lane of a slice, in the gang acted on. -/
def State.firstLane (s : State) (k : Nat) : Nat := 4 * posOf k s.cur.ks

/-! ### The checks of R150 -/

/-- What an access needs: its bytes, the permissions, its kind in the fault queue (R339), the classes that it may not touch
(R146), whether it returns data; whether host memory or another module's memory is barred as a class, whether a failed
expander's pages pass, and whether it reads the lead replica of a replicated page (R228). -/
structure Want where
  n    : Nat
  r    : Bool
  w    : Bool
  kind : Nat
  bars : Cc → Bool
  data : Bool
  noHost : Bool := false
  noRemote : Bool := false
  deadOk : Bool := false
  lead : Bool := false

/-- The outcome of a lane: a trap with its row, no translation (of a 64 KiB page; whether the walk met a malformed entry, and whether
the fault has still to be posted), or a leaf and the NPA. Rows 6 and 7 are expander failure and poison: both follow rows 1 to 5. -/
inductive Fate
  | trap (row : Nat) (x : Trap)
  | missing (page : Nat) (malformed new : Bool)
  | ok (l : Leaf) (npa : Nat)

/-- Where a load of a page reads a byte on a die: the die's replica of a replicated page (R216). -/
def State.loadAddr (s : State) (die : Nat) (l : Leaf) (npa : Nat) : Nat := if l.rep then s.replicaOn npa die else npa

/-- A line that was dirty in its LLC when its expander failed, and is POISON there since (R351). -/
def State.lostDirty (s : State) (npa : Nat) : Bool :=
  s.expanderDown npa && (match FMap.find? s.llc (lineOf npa) with
    | some l => l.dirty && codePoisoned l.code
    | none => false)

/-- The check of one address. `coin` picks whether another module's memory is reachable (R353). DEDUCED, log entry 10. -/
def State.fate (s : State) (c die : Nat) (w : Want) (coin : Nat) (va : W64) : Fate :=
  if va.toNat % w.n ≠ 0 then .trap 1 { cause := 3, sub := 0, addr := va, info := 0 }
  else if !canonical va then .trap 2 { cause := 4, sub := 2, addr := va, info := 0 }
  else match s.walk c va with
    | .none m => .missing (pageOf va) m true
    | .leaf l =>
      let a := l.npa va
      let src := if w.lead then a else s.loadAddr die l a
      let poison : Fate := .trap 7 { cause := 8, sub := 0, addr := BitVec.ofNat 64 (va.toNat / 128 * 128), info := 0 }
      if l.ff then .trap 4 { cause := 5, sub := 0, addr := va, info := 0 }
      else if w.bars l.cc || (isFabric a && (w.noRemote || l.cc != .dev)) || (w.noHost && s.isHost a) then .trap 5 { cause := 4, sub := 0, addr := va, info := 0 }
      else if (w.r && !l.r) || (w.w && !l.w) then .trap 5 { cause := 4, sub := 1, addr := va, info := 0 }
      else if w.data && s.lostDirty src then poison
      else if (!w.deadOk && s.expanderDown a) || (isFabric a && Config.coin coin) then .trap 6 { cause := 7, sub := 0, addr := va, info := 0 }
      else if w.data && s.poisoned src then poison
      else .ok l a

/-- One access of an instruction: the slice, its lane (0 for a slice instruction), the gang lane, the address. -/
structure Acc where
  k  : Nat
  l  : Nat
  gl : Nat
  va : W64

/-- The accesses of a lane instruction: those of the active lanes, or those that a parked instruction has left. -/
def State.laneAccs (s : State) (t : Nat) (ks : List Nat) (addr : Regs → Nat → W64) : List Acc :=
  ks.flatMap fun k =>
    let sl := s.slice t k
    let gl := 4 * posOf k s.cur.ks
    match sl.park with
    | some p => (p.vas.filter fun e => p.mask.getLsbD e.1).map fun e => { k := k, l := e.1, gl := gl + e.1, va := e.2 }
    | none => (laneList sl.regs.active).map fun l => { k := k, l := l, gl := gl + l, va := addr sl.regs l }

/-- The check of an access of a slice: one whose page still awaits its answer stays as it is (R151). -/
def State.fateOf (s : State) (t : Nat) (w : Want) (x : Acc) : Fate :=
  let c := (s.team t).ctx
  let d := s.teamDie t
  match (s.slice t x.k).park with
  | some p => if p.pages.contains (pageOf x.va) && s.awaits d c (pageOf x.va) then .missing (pageOf x.va) false false
    else s.fate c d w (s.draws + x.gl) x.va
  | none => s.fate c d w (s.draws + x.gl) x.va

/-- The lower of two traps by row and, in a row, by gang lane. -/
def lowerTrap (b : Option (Nat × Nat × Trap)) (e : Acc × Fate) : Option (Nat × Nat × Trap) :=
  match e.2 with
  | .trap row x => match b with
    | some (r, g, _) => if row < r ∨ (row = r ∧ e.1.gl < g) then some (row, e.1.gl, x) else b
    | none => some (row, e.1.gl, x)
  | .missing _ _ _ | .ok _ _ => b

/-- The trap that an instruction takes: that of the lowest row, at its lowest gang lane (R150). -/
def worst (fs : List (Acc × Fate)) : Option Trap := (fs.foldl lowerTrap none).map fun b => { b.2.2 with info := BitVec.ofNat 32 b.2.1 }

/-- The accesses that may be made, with their leaves and addresses. -/
def oksOf (fs : List (Acc × Fate)) : List (Acc × Leaf × Nat) :=
  fs.filterMap fun e => match e.2 with
    | .ok l a => some (e.1, l, a)
    | .trap _ _ | .missing _ _ _ => none

/-- The accesses without a translation. -/
def missesOf (fs : List (Acc × Fate)) : List (Acc × Nat × Bool × Bool) :=
  fs.filterMap fun e => match e.2 with
    | .missing p m n => some (e.1, p, m, n)
    | .trap _ _ | .ok _ _ => none

/-- The pages, once each, with the count of accesses and whether a walk met a malformed entry. -/
def pageCounts : List (Nat × Bool) → List (Nat × Nat × Bool)
  | [] => []
  | (p, m) :: r =>
    let q := pageCounts r
    if q.any fun e => e.1 == p then q.map fun e => if e.1 = p then (p, e.2.1 + 1, e.2.2 || m) else e else (p, 1, m) :: q

/-- The page faults of a gang's instruction, one for each page (R152, R339). -/
def State.postMisses (s : State) (t kind : Nat) (ms : List (Nat × Bool)) : State :=
  (pageCounts ms).foldl (fun u p => u.postFault (u.teamDie t)
    { seq := 0, merged := 0, core := u.coreNum t, tslot := ((u.team t).slot).getD 0xFFFF, mtx := false, eng := false, mal := p.2.2,
      kind := kind, lanes := p.2.1, ctx := (u.team t).ctx, page := p.1 }) s

/-- Performed at another agent: an IO page, or another module's memory. Such an access is a closer (R148, R354). -/
def isRemote (l : Leaf) (npa : Nat) : Bool := l.cc == .io || isFabric npa

/-- The slices, of those given, one of whose accesses is performed at another agent. -/
def remoteSlices (fs : List (Acc × Fate)) (ks : List Nat) : List Nat :=
  ks.filter fun k => (oksOf fs).any fun o => o.1.k == k && isRemote o.2.1 o.2.2

/-- The line that a read enters in a signature: DEV and SYS memory of the module (R202). -/
def readLine (s : State) (die : Nat) (l : Leaf) (npa : Nat) : List LineId :=
  if l.cc == .nc || isRemote l npa then [] else [.mem (lineOf (s.loadAddr die l npa))]

/-- The line that a held store writes. -/
def writeLine (l : Leaf) (npa : Nat) : List LineId := if isRemote l npa then [] else [.mem (lineOf npa)]

/-- A line of a page without a translation, for the limits of R200: counted as one of its own. DEDUCED, log entry 25. -/
def missingLine (va : W64) : LineId := .mem (2 ^ 60 + va.toNat / 128)

/-! ### What a load returns -/

/-- Where a store's byte lands on a die. -/
def State.landsOn (s : State) (die : Nat) (x : StoreByte) : Nat := if x.rep then s.replicaOn x.npa die else x.npa

/-- The value that a slice's own held stores give a byte, the latest first (R143): stores are matched by where they land. DEDUCED, log entry 15. -/
def heldByte (lands : StoreByte → Nat) (held : List HeldItem) (a : Nat) : Option Byte :=
  held.foldl (fun b it => match it.eff with
    | .store _ bs _ | .signal bs _ => bs.foldl (fun c x => if lands x = a then some x.val else c) b
    | _ => b) none

def overlay (lands : StoreByte → Nat) (held : List HeldItem) : Nat → List Byte → List Byte
  | _, [] => []
  | a, b :: bs => (heldByte lands held a).getD b :: overlay lands held (a + 1) bs

/-- The bytes that the slice's chunks before the open one are still to write, the latest last: the NC stores whose step 6 is to come, and every effect of the
chunk in commit, its reductions as they would be made now among them: another's write to their lines rolls the open chunk back (R206). -/
def State.pastBytes (s : State) (t k : Nat) : List (Nat × Byte) :=
  let c := (s.team t).ctx
  let sl := s.slice t k
  (s.trial atSix c sl.post).ws ++ (match sl.prev with
    | some p => (s.trial allSorts c p.held).ws ++ (s.discarded c p.held).ws
    | none => [])

/-- Consecutive bytes with those at some addresses replaced, each by the latest. -/
def replaceBytes (ws : List (Nat × Byte)) : Nat → List Byte → List Byte
  | _, [] => []
  | a, b :: bs => ws.foldl (fun x w => if w.1 = a then w.2 else x) b :: replaceBytes ws (a + 1) bs

/-- A transaction that leaves the module. -/
def remoteOut (npa : Nat) (write : Bool) (bs : List Byte) : Out :=
  if isFabric npa then .remote npa write bs else .io npa write bs

/-- A load performed at another agent: a free value, one transaction (R148, R353). DESIGN CHOICE, log entry 26. -/
def State.remoteLoad (s : State) (npa n : Nat) : State × List Byte :=
  let bs := s.freeBytes n
  ({ s with draws := s.draws + n, out := s.out ++ [remoteOut npa false bs] }, bs)

/-- The bytes of an NC load: those of the slice's L1 copy of the line if it has one and the line is still there, else those of the
home LLC, which then is the slice's copy (R147). DESIGN CHOICE, log entry 16. -/
def State.ncLoad (s : State) (t k a n : Nat) : State × List Byte :=
  let cut (ln : List Byte) : List Byte := (ln.drop (a % 128)).take n
  match FMap.find? (s.slice t k).nc (lineOf a) with
  | some ln =>
    if Config.coin s.draws then (s.drawn, cut ln)
    else (s.drawn.modSlice t k fun v => { v with nc := FMap.put v.nc (lineOf a) (s.readBytes (lineOf a * 128) 128) }, s.readBytes a n)
  | none => (s.modSlice t k fun v => { v with nc := FMap.put v.nc (lineOf a) (s.readBytes (lineOf a * 128) 128) }, s.readBytes a n)

/-- The bytes that a load of a slice returns, from an access that passed its checks: its own held stores' (R143), those of its earlier chunks still to be
written (R206), or memory's. -/
def State.load (s : State) (t k : Nat) (l : Leaf) (npa n : Nat) : State × List Byte :=
  if isRemote l npa then s.remoteLoad npa n
  else
    let d := s.teamDie t
    let a := s.loadAddr d l npa
    let r := if l.cc == .nc then s.ncLoad t k a n else (s, s.readBytes a n)
    (r.1, overlay (s.landsOn d) (s.slice t k).chunk.held a (replaceBytes (s.pastBytes t k) a r.2))

/-! ### Lane instructions: all lanes of a gang together -/

/-- Slices one after another by a commit that may take them away: the state and the slices left. -/
def preEach (st : State) (t : Nat) (u : State) (ks : List Nat) : State × List Nat :=
  ks.foldl (fun (a : State × List Nat) k => if u.haltedSince a.1 t then (a.1, []) else match st.preIn a.1 t k with
    | .ok v => (v, a.2)
    | .left v => (v, a.2.filter fun j => j != k)) (u, ks)

/-- The checks of a lane instruction (R150), after the commits of the slices that it closes: those with a lane at another agent, or
all. It answers the state, the slices left and their accesses; or the state in which every one of them has taken the trap. -/
def State.gangCheck (st u : State) (t : Nat) (ks : List Nat) (i : Instr) (w : Want) (addr : Regs → Nat → W64) (all : Bool) :
    Except State (State × List Nat × List (Acc × Fate)) :=
  let c := (u.team t).ctx
  let look (v : State) (js : List Nat) := (v.laneAccs t js addr).map fun x => (x, v.fateOf t w x)
  let u1 := u.touch c ((u.laneAccs t ks addr).map (·.va))
  let fs := look u1 ks
  let p := preEach st t u1 (if all then ks else if (worst fs).isSome then [] else remoteSlices fs ks)
  let js := ks.filter fun k => p.2.contains k || !(all || ((worst fs).isNone && (remoteSlices fs ks).contains k))
  let gs := look p.1 js
  if u.haltedSince p.1 t then .error p.1
  else match worst gs with
  | some x => .error (eachTrap st i x p.1 t js).1
  | none => .ok (p.1, js, gs)

/-- The accesses of one slice. -/
def ofSlice (k : Nat) (xs : List (Acc × Leaf × Nat)) : List (Acc × Leaf × Nat) := xs.filter fun o => o.1.k == k

/-- A slice parks at a lane instruction, with the lanes left, and those that it has performed at another agent (R151). -/
def Slice.parkLanes (sl : Slice) (i : Instr) (left far : Lanes) (vas : List (Nat × W64)) (pages : List Nat) (buf : List Buffered) (rset : List LineId) :
    Slice :=
  match sl.park with
  | some p => { sl with park := some { p with mask := left, far := p.far ||| far, pages := pages, buf := p.buf ++ buf, rset := p.rset ++ rset } }
  | none => { sl with park := some { instr := some i, mask := left, all := sl.regs.active, far := far, vas := vas, pages := pages, buf := buf, rset := rset } }

def maskOfLanes (ls : List Nat) : Lanes := ls.foldl (fun m l => m ||| (1#4 <<< l)) 0

/-! ### Slice instructions: each slice alone -/

/-- A slice's check by itself: its accesses all made, or the trap, or the missing pages. -/
inductive Alone
  | go (oks : List (Acc × Leaf × Nat))
  | trap (x : Trap)
  | wait (ms : List (Acc × Nat × Bool × Bool))

def aloneOf (fs : List (Acc × Fate)) : Alone :=
  match worst fs with
  | some x => .trap x
  | none => if (missesOf fs).isEmpty then .go (oksOf fs) else .wait (missesOf fs)

/-- A slice parks at a slice instruction: its mask is 0xF, or 0 where it awaits no page itself (R151). -/
def Slice.parkWhole (sl : Slice) (i : Instr) (pages : List Nat) : Slice :=
  { sl with park := some { instr := some i, mask := if pages.isEmpty then 0 else 0xF, all := 0xF, far := 0, vas := [], pages := pages, buf := [], rset := [] } }

/-- The pages of misses, each once. -/
def missPages (ms : List (Acc × Nat × Bool × Bool)) : List Nat := (ms.map fun m => m.2.1).dedup

/-- A slice's own checks of some addresses, each with what it needs. -/
def State.aloneCheck (s : State) (t k : Nat) (xs : List (W64 × Want)) : Alone :=
  let gl := 4 * posOf k s.cur.ks
  aloneOf (xs.map fun x => ({ k := k, l := 0, gl := gl, va := x.1 }, s.fateOf t x.2 { k := k, l := 0, gl := gl, va := x.1 }))

/-- One slice of a slice instruction: the commit of its chunk where the instruction closes it (all slices, or those with an access at another agent), and the
checks of its accesses. -/
def checkSlice (i : Instr) (closes : Bool) (look : State → Nat → Nat → List (W64 × Want)) (st v : State) (t k : Nat) :
    Except State (State × List (Acc × Leaf × Nat) × List (Acc × Nat × Bool × Bool)) :=
  let v0 := v.touch (v.team t).ctx ((look v t k).map (·.1))
  let remote := match v0.aloneCheck t k (look v0 t k) with
    | .go oks => oks.any fun o => isRemote o.2.1 o.2.2
    | .trap _ | .wait _ => false
  match (if closes || remote then st.preIn v0 t k else .ok v0) with
  | .left w => .error w
  | .ok w => match w.aloneCheck t k (look w t k) with
    | .trap x => .error (st.trapIn w t k i x)
    | .wait ms => .ok (w, [], ms)
    | .go oks => .ok (w, oks, [])

/-- A slice whose load at another agent has been made while its gang is parked has completed the instruction, and waits for the others (R151). -/
def State.parkDone (u v : State) (t k : Nat) (i : Instr) : State :=
  v.modSlice t k fun sl =>
    if sl.handler = (u.slice t k).handler ∧ sl.rollbacks = (u.slice t k).rollbacks ∧ sl.regs.pc = (u.slice t k).regs.pc + 4 then
      { sl with park := (sl.parkWhole i []).park.map fun p => { p with done := true } }
    else sl

/-- A slice's copies of the NC lines that a load which waits for its gang reads (R147). -/
def State.fillNc (s : State) (t k : Nat) (oks : List (Acc × Leaf × Nat)) : State :=
  oks.foldl (fun w x => if x.2.1.cc == .nc && !isRemote x.2.1 x.2.2 then (w.ncLoad t k (w.loadAddr (w.teamDie t) x.2.1 x.2.2) 1).1 else w) s

/-- A slice instruction over checked accesses: `look` names a slice's accesses, `kind` is its fault kind, `act` performs it. Where a slice misses a page, the
gang parks whole: the faults are posted together, a load of another agent's is made at once, and every other slice performs its own when no page is missing any
more (R97, R151). DEDUCED, log entry 25. -/
def sliceAccess (i : Instr) (kind : Nat) (closes : Bool) (look : State → Nat → Nat → List (W64 × Want))
    (act : State → State → Nat → Nat → List (Acc × Leaf × Nat) → State × Did) (st u : State) (t : Nat) (ks : List Nat) :
    State × List (Nat × Did) :=
  let misses := ks.any fun k => match (u.slice t k).finished, u.aloneCheck t k (look u t k) with
    | false, .wait _ => true
    | _, _ => false
  let r := ks.foldl (fun (a : State × List (Nat × Did) × List (Nat × Bool)) k =>
    let put (v : State) (d : Did) := (v, a.2.1 ++ [(k, d)], a.2.2)
    if u.haltedSince a.1 t then put a.1 .gone
    else if (a.1.slice t k).finished then
      if misses then put a.1 .ended else put (a.1.modSlice t k fun sl => { sl with park := none }) .ended
    else match checkSlice i closes look st a.1 t k with
      | .error v => put v .gone
      | .ok (v, oks, ms) =>
        if !ms.isEmpty then
          (v.modSlice t k fun sl => sl.parkWhole i (missPages ms), a.2.1 ++ [(k, .stay)], a.2.2 ++ (ms.filter fun m => m.2.2.2).map fun m => (m.2.1, m.2.2.1))
        else if !misses then let x := act st v t k oks; put x.1 x.2
        else if kind = 0 ∧ oks.any fun o => isRemote o.2.1 o.2.2 then put (v.parkDone (act st v t k oks).1 t k i) .ended
        else put ((v.fillNc t k oks).modSlice t k fun sl => sl.parkWhole i []) .stay) (u, [], [])
  (r.1.postMisses t kind r.2.2, r.2.1)

end Sys2Proof.Machine
end

