-- ==== Sys2Proof/Machine/MemOps.lean ====
section
/-! DEFINITION. Loads and stores of virtual and of team memory (R143 to R148, R150, R151, R157), PREF (R145), and RDNPA (R155). -/

namespace Sys2Proof.Machine

/-! ### Wants -/

def wantLoad (n : Nat) : Want := { n := n, r := true, w := false, kind := 0, bars := fun _ => false, data := true }
def wantStore (n : Nat) : Want := { n := n, r := false, w := true, kind := 1, bars := fun _ => false, data := false }

/-- Bytes of an access of a lane: 4, or 8 for `.d`. -/
def dblBytes (dbl : Bool) : Nat := if dbl then 8 else 4

/-- The address of a lane of format M (R143). -/
def laneAddr (b x : Nat) (r : Regs) (l : Nat) : W64 := r.getS b + (r.getV x l).signExtend 64

/-- The base of format MS, with the access unit (R144). -/
def msBase (b u : Nat) (o : BitVec 10) (r : Regs) : W64 := r.getS b + o.signExtend 64 * BitVec.ofNat 64 u

/-- The address of lane l of VLDC and VSTC. -/
def blockAddr (b u : Nat) (o : BitVec 10) (r : Regs) (l : Nat) : W64 := msBase b u o r + BitVec.ofNat 64 (u * l)

/-- A lane of vt, or of the pair, written or read. -/
def putLane (t : Nat) (dbl : Bool) (r : Regs) (l v : Nat) : Regs :=
  if dbl then r.setPair t l (BitVec.ofNat 64 v) else r.setV t l (BitVec.ofNat 32 v)
def getLane (t : Nat) (dbl : Bool) (r : Regs) (l : Nat) : Nat := if dbl then (r.getPair t l).toNat else (r.getV t l).toNat

/-! ### Loads of virtual memory by lanes -/

/-- The loads of a slice's lanes, in ascending order. -/
def State.loadLanes (s : State) (t k n : Nat) (put : Regs → Nat → Nat → Regs) (xs : List (Acc × Leaf × Nat)) : State :=
  xs.foldl (fun u x =>
    let r := u.load t k x.2.1 x.2.2 n
    r.1.modSlice t k fun v => { v with regs := put v.regs x.1.l (leNat r.2) }) s

/-- The accesses of a store that are buffered: not those at another agent, which are made once, when no lane is left (R151). -/
def earlyOks (xs : List (Acc × Leaf × Nat)) : List (Acc × Leaf × Nat) := xs.filter fun x => !isRemote x.2.1 x.2.2

/-- Lanes of a slice's accesses. -/
def accLanes (xs : List Acc) : List Nat := xs.map (·.l)

/-- The lines that a slice's loads enter in its read signature. -/
def State.loadLines (s : State) (t : Nat) (xs : List (Acc × Leaf × Nat)) : List LineId :=
  xs.flatMap fun x => readLine s (s.teamDie t) x.2.1 x.2.2

/-- A closer whose access is performed at another agent: its own chunk commits before the next slice of the gang performs it, so that nothing repeats
its transactions (R148, R203). `st` is the state before the instruction. -/
def State.closeNow (st : State) (i : Instr) (t k : Nat) (v : State) : State × Did := (st.finishSlice i t v (k, .closer), .ended)

/-- One slice of a load by lanes: its accesses made, its registers written and, when no lane of the gang is missing, the PC moved on. -/
def loadSlice (i : Instr) (n : Nat) (put : Regs → Nat → Nat → Regs) (st : State) (t : Nat) (fs : List (Acc × Fate)) (v : State) (k : Nat) : State × Did :=
  let own := missesOf (fs.filter fun f => f.1.k == k)
  let oks := ofSlice k (oksOf fs)
  let lines := v.loadLines t oks
  let fits := if (v.slice t k).park.isSome then .ok v else st.room v t k [] (lines ++ (own.map fun m => missingLine m.1.va).dedup)
  match fits with
  | .left w => (w, .gone)
  | .ok w =>
    if (missesOf fs).isEmpty then
      let z := (w.loadLanes t k n put oks).modSlice t k fun sl =>
        let h := sl.hold [] [] (lines ++ (sl.park.map (·.rset)).getD [])
        { h with regs := h.regs.adv }
      if (oks.any fun x => isRemote x.2.1 x.2.2) || (v.slice t k).wentFar then st.closeNow i t k z else (z, .plain)
    else
      let vas := (fs.filter fun f => f.1.k == k).map fun f => (f.1.l, f.1.va)
      let left := maskOfLanes (accLanes (own.map (·.1)))
      let far := maskOfLanes (accLanes ((oks.filter fun x => isRemote x.2.1 x.2.2).map (·.1)))
      ((w.loadLanes t k n put oks).modSlice t k fun sl => sl.parkLanes i left far vas (missPages own) [] lines, .stay)

/-- A lane instruction: all lanes of the gang are checked; then slice after slice is performed; the gang parks while some lanes do
not translate, and posts their faults (R150, R151). -/
def laneBody (i : Instr) (w : State → Nat → Want) (addr : Regs → Nat → W64)
    (act : State → Nat → List (Acc × Fate) → State → Nat → State × Did) (st u : State) (t : Nat) (ks : List Nat) : State × List (Nat × Did) :=
  match st.gangCheck u t ks i (w u t) addr false with
  | .error v => (v, ks.map fun k => (k, .gone))
  | .ok (v, js, fs) =>
    let r := eachSlice (fun v t k => act st t fs v k) v t js
    (r.1.postMisses t (w u t).kind (((missesOf fs).filter fun m => m.2.2.2).map fun m => (m.2.1, m.2.2.1)),
      (ks.filter fun k => !js.contains k).map (fun k => (k, Did.gone)) ++ r.2)

/-- A load by lanes: those that translate complete, the others wait (R150, R151). -/
def loadBody (i : Instr) (n : Nat) (addr : Regs → Nat → W64) (put : Regs → Nat → Nat → Regs) : State → State → Nat → List Nat → State × List (Nat × Did) :=
  laneBody i (fun _ _ => wantLoad n) addr (loadSlice i n put)

def execVld (t x b : Nat) (dbl : Bool) (l : Nat) (s : State) : Result :=
  issue (.vld t x b dbl l) (loadBody (.vld t x b dbl l) (dblBytes dbl) (laneAddr b x) (putLane t dbl)) s
def execVldc (t b : Nat) (dbl : Bool) (o : BitVec 10) (s : State) : Result :=
  issue (.vldc t b dbl o) (loadBody (.vldc t b dbl o) (dblBytes dbl) (blockAddr b (dblBytes dbl) o) (putLane t dbl)) s

/-! ### Stores by lanes, and what they hold -/

/-- The effects that buffered lanes hold: stores in lane order, those of NC pages apart from the others; reductions likewise by `red`. -/
def bufferedHeld (bs : List Buffered) (red : List RedLane → List Nat → Held) : List Held :=
  let xs := (List.range 4).flatMap fun l => bs.filter fun b => b.lane == l
  let leaves (ys : List Buffered) := (ys.map (·.leaf)).dedup
  let part (nc : Bool) : List Held :=
    let ys := xs.filter fun b => b.nc == nc && b.red.isNone
    if ys.isEmpty then [] else [.store nc (ys.flatMap (·.bytes)) (leaves ys)]
  let rs := xs.filter fun b => b.red.isSome
  part false ++ part true ++ (if rs.isEmpty then [] else [red (rs.filterMap (·.red)) (leaves rs)])

/-- Transactions of a slice's lanes at other agents, in ascending order, after the d bits of the leaves that they go through (R140). -/
def State.remoteStores (s : State) (xs : List (Acc × Leaf × Nat)) (bytes : Acc → List Byte) : State :=
  let u := xs.foldl (fun v x => v.setD x.2.1.addr) s
  { u with out := u.out ++ xs.map fun x => remoteOut x.2.2 true (bytes x.1) }

/-- The lines that buffered lanes write: the lanes are aligned, each in one line. -/
def bufferedLines (bs : List Buffered) : List LineId :=
  bs.flatMap fun b => ((b.bytes.take 1).map fun y => LineId.mem (lineOf y.npa)) ++ (b.red.toList.map fun y => LineId.mem (lineOf y.npa))

/-- One slice of a store by lanes: its lanes buffered and, when no lane of the gang is missing, held together, and the PC moved on. -/
def storeSlice (i : Instr) (bytes : Regs → Nat → List Byte) (buf : Regs → Acc → Leaf → Nat → Buffered) (red : Regs → List RedLane → List Nat → Held)
    (st : State) (t : Nat) (fs : List (Acc × Fate)) (v : State) (k : Nat) : State × Did :=
  let own := missesOf (fs.filter fun f => f.1.k == k)
  let oks := ofSlice k (oksOf fs)
  let lines := oks.flatMap fun x => writeLine x.2.1 x.2.2
  let fits := if (v.slice t k).park.isSome then .ok v else st.room v t k (lines ++ (own.map fun m => missingLine m.1.va).dedup) []
  match fits with
  | .left z => (z, .gone)
  | .ok z =>
    let regs := (z.slice t k).regs
    let far := oks.filter fun x => isRemote x.2.1 x.2.2
    let new := (earlyOks oks).map fun x => buf regs x.1 x.2.1 x.2.2
    if (missesOf fs).isEmpty then
      let z1 := z.modSlice t k fun sl =>
        let all := (sl.park.map (·.buf)).getD [] ++ new
        let h := sl.hold (bufferedHeld all (red regs)) (bufferedLines all) []
        { h with regs := h.regs.adv }
      if far.isEmpty then (z1, .plain)
      else
        let ok := match z1.commitChunk t k true with
          | .ok _ => true
          | .error _ => false
        st.closeNow i t k (if ok then z1.remoteStores far (fun x => bytes regs x.l) else z1)
    else
      let vas := (fs.filter fun f => f.1.k == k).map fun f => (f.1.l, f.1.va)
      (z.modSlice t k fun sl => sl.parkLanes i (maskOfLanes (accLanes (own.map (·.1) ++ far.map (·.1)))) 0 vas (missPages own) new [], .stay)

/-- A store or a reduction by lanes: the lanes that translate are buffered, and enter the held set together when none is left (R143,
R150, R151, R228). `bytes` is what a lane sends to another agent; `buf` what it buffers. -/
def storeBody (i : Instr) (w : State → Nat → Want) (addr : Regs → Nat → W64) (bytes : Regs → Nat → List Byte)
    (buf : Regs → Acc → Leaf → Nat → Buffered) (red : Regs → List RedLane → List Nat → Held) : State → State → Nat → List Nat → State × List (Nat × Did) :=
  laneBody i w addr (storeSlice i bytes buf red)

/-- What a lane of a store buffers. -/
def storeBuf (n : Nat) (val : Regs → Nat → Nat) (r : Regs) (x : Acc) (l : Leaf) (npa : Nat) : Buffered :=
  { lane := x.l, nc := l.cc == .nc, bytes := storeRun l.rep x.va.toNat npa (leBytes n (val r x.l)), red := none, leaf := l.addr }

/-- A store by lanes. -/
def storeLanes (i : Instr) (n : Nat) (addr : Regs → Nat → W64) (val : Regs → Nat → Nat) : State → State → Nat → List Nat → State × List (Nat × Did) :=
  storeBody i (fun _ _ => wantStore n) addr (fun r l => leBytes n (val r l)) (storeBuf n val) (fun _ _ ls => .store false [] ls)

def execVst (t x b : Nat) (dbl : Bool) (l : Nat) (s : State) : Result :=
  issue (.vst t x b dbl l) (storeLanes (.vst t x b dbl l) (dblBytes dbl) (laneAddr b x) (getLane t dbl)) s
def execVstc (t b : Nat) (dbl : Bool) (o : BitVec 10) (s : State) : Result :=
  issue (.vstc t b dbl o) (storeLanes (.vstc t b dbl o) (dblBytes dbl) (blockAddr b (dblBytes dbl) o) (getLane t dbl)) s

/-! ### SLD and SST -/

def widthBytes : Width → Nat
  | .b => 1
  | .h => 2
  | .w => 4
  | .d => 8

/-- SLD in one slice, its access checked. -/
def sldAct (i : Instr) (d n : Nat) (st v : State) (t k : Nat) (oks : List (Acc × Leaf × Nat)) : State × Did :=
  match st.room v t k [] (v.loadLines t oks) with
  | .left w => (w, .gone)
  | .ok w =>
    let lines := w.loadLines t oks
    let z := (w.loadLanes t k n (fun r _ x => r.setS d (BitVec.ofNat 64 x)) oks).modSlice t k fun sl =>
      let h := sl.hold [] [] lines
      { h with regs := h.regs.adv }
    if oks.any fun x => isRemote x.2.1 x.2.2 then st.closeNow i t k z else (z, .plain)

def execSld (d b : Nat) (sz : Width) (o : BitVec 10) (s : State) : Result :=
  let n := widthBytes sz
  issue (.sld d b sz o) (sliceAccess (.sld d b sz o) 0 false (fun v t k => [(msBase b n o (v.slice t k).regs, wantLoad n)]) (sldAct (.sld d b sz o) d n)) s

/-- SST in one slice, its access checked. -/
def sstAct (i : Instr) (d n : Nat) (st v : State) (t k : Nat) (oks : List (Acc × Leaf × Nat)) : State × Did :=
  let regs := (v.slice t k).regs
  let bs := leBytes n (regs.getS d).toNat
  if oks.any fun x => isRemote x.2.1 x.2.2 then
    st.closeNow i t k ((v.remoteStores oks fun _ => bs).modSlice t k fun sl => { sl with regs := sl.regs.adv })
  else st.holdAndGo v t k (bufferedHeld (oks.map fun x => storeBuf n (fun r _ => (r.getS d).toNat) regs x.1 x.2.1 x.2.2) (fun _ ls => .store false [] ls))
    (oks.flatMap fun x => writeLine x.2.1 x.2.2) []

def execSst (d b : Nat) (sz : Width) (o : BitVec 10) (s : State) : Result :=
  let n := widthBytes sz
  issue (.sst d b sz o) (sliceAccess (.sst d b sz o) 1 false (fun v t k => [(msBase b n o (v.slice t k).regs, wantStore n)]) (sstAct (.sst d b sz o) d n)) s

/-! ### Team memory (R135, R143, R157) -/

/-- The check of a team-memory access: rows 1 and 2 of R150. -/
def teamFate (size n : Nat) (x : Acc) : Fate :=
  if x.va.toNat % n ≠ 0 then .trap 1 { cause := 3, sub := 0, addr := x.va, info := 0 }
  else if size < x.va.toNat + n then .trap 2 { cause := 4, sub := 3, addr := x.va, info := 0 }
  else .ok { addr := 0, lvl := 0, bits := 0 } x.va.toNat

/-- A team with the effects on its team memory that a slice holds. -/
def Team.withHeld (held : List HeldItem) (v : Team) : Team :=
  held.foldl (fun x it => match it.eff with
    | .tstore bs => { x with tmem := bs.foldl (fun m b => FMap.set 0 m b.1 b.2) x.tmem }
    | .redt o wide m ls => (ls.foldl (redtLane o wide m) (x, 0)).1
    | .gate off o => x.setGate off ((x.gate off).update o).1
    | _ => x) v

/-- A byte of team memory as a load of a slice sees it: its own held store's value, or team memory with the effects of the chunk in commit (R143, R157,
R206). -/
def State.teamByte (s : State) (t k off : Nat) : Byte :=
  ((s.slice t k).chunk.held.foldl (fun (b : Option Byte) it => match it.eff with
    | .tstore bs => bs.foldl (fun c x => if x.1 = off then some x.2 else c) b
    | _ => b) none).getD (FMap.get 0 ((s.team t).withHeld (((s.slice t k).prev.map (·.held)).getD [])).tmem off)

def State.teamLoad (s : State) (t k off n : Nat) : Nat := leNat ((List.range n).map fun i => s.teamByte t k (off + i))

/-- A team-memory instruction by lanes: all lanes of the gang are checked together; each slice's lanes are performed by `act`, with
the lines that it writes and reads. -/
def teamBody (i : Instr) (n : Nat) (addr : Regs → Nat → W64) (wr rd : Bool) (act : State → Nat → Nat → List Acc → State) (st u : State)
    (t : Nat) (ks : List Nat) : State × List (Nat × Did) :=
  let xs := u.laneAccs t ks addr
  match worst (xs.map fun x => (x, teamFate (st.params t).tmem n x)) with
  | some x => eachTrap st i x u t ks
  | none => eachSlice (fun v t k =>
      let own := xs.filter fun x => x.k == k
      let lines := (own.map fun x => LineId.team t (x.va.toNat / 128)).dedup
      let wl := if wr then lines else []
      let rl := if rd then lines else []
      match st.room v t k wl rl with
      | .left w => (w, .gone)
      | .ok w => st.atOnce i t k ((act w t k own).modSlice t k fun sl => let h := sl.hold [] wl rl; { h with regs := h.regs.adv }, .plain)) u t ks

def execTld (t x b : Nat) (dbl : Bool) (l : Nat) (s : State) : Result :=
  issue (.tld t x b dbl l) (teamBody (.tld t x b dbl l) (dblBytes dbl) (laneAddr b x) false true fun w tm k xs =>
    xs.foldl (fun v a => v.modSlice tm k fun sl => { sl with regs := putLane t dbl sl.regs a.l (w.teamLoad tm k a.va.toNat (dblBytes dbl)) }) w) s

def execTst (t x b : Nat) (dbl : Bool) (l : Nat) (s : State) : Result :=
  issue (.tst t x b dbl l) (teamBody (.tst t x b dbl l) (dblBytes dbl) (laneAddr b x) true false fun w tm k xs =>
    if xs.isEmpty then w
    else w.modSlice tm k fun sl =>
      sl.hold [.tstore (xs.flatMap fun a => byteRun a.va.toNat (leBytes (dblBytes dbl) (getLane t dbl sl.regs a.l)))] [] []) s

/-! ### PREF and RDNPA -/

/-- PREF: which lines a cache holds is not architectural, so the hint has no effect (R145, R365). -/
def execPref (b : Nat) (o : BitVec 10) (s : State) : Result := regOp (.pref b o) id s

/-- RDNPA's report (R155). -/
def rdnpaValue (s : State) (c : Nat) (va : W64) : Nat :=
  if !canonical va then 2 ^ 63 + 2 * 2 ^ 61
  else match s.walk c va with
    | .none m => 2 ^ 63 + (if m then 3 * 2 ^ 61 else 0)
    | .leaf l =>
      (if l.ff then 2 ^ 61 else 0) + (l.bits.extractLsb' 7 2).toNat * 2 ^ 59 + l.ns.toNat * 2 ^ 58 + l.rep.toNat * 2 ^ 57 +
      l.lvl * 2 ^ 55 + l.r.toNat * 2 ^ 54 + l.w.toNat * 2 ^ 53 + l.x.toNat * 2 ^ 52 + l.home * 2 ^ 48 + l.npa va

def execRdnpa (d a : Nat) (s : State) : Result :=
  issueRegs (.rdnpa d a) (fun st t _ r => .ok (r.setS d (BitVec.ofNat 64 (rdnpaValue st (st.team t).ctx (r.getS a)))).adv) s

end Sys2Proof.Machine
end

