-- ==== Sys2Proof/Machine/Atomics.lean ====
section
/-! DEFINITION. Atomics and reductions (R225 to R231). -/

namespace Sys2Proof.Machine

/-- The classes that an atomic may not touch (R146, R229). -/
def atomBars (o : AtomOp) (dbl returns : Bool) (m : BitVec 16) (c : Cc) : Bool :=
  match c with
  | .dev => false
  | .sys => o == .fadd && modeType m == 8
  | .nc => true
  | .io => !(returns && dbl && (o == .exch || o == .cas))

/-- What ATOM or RED needs, under the gang's MODE. -/
def wantAtom (o : AtomOp) (dbl returns : Bool) (s : State) (t : Nat) : Want :=
  { n := dblBytes dbl, r := returns, w := true, kind := 2,
    bars := atomBars o dbl returns ((s.slice t (s.cur.ks.headD 0)).regs.mode), data := returns, lead := true }

/-- The new value of a cas (R227). -/
def casValue (t : Nat) (dbl : Bool) (r : Regs) (l : Nat) : Nat := if dbl then getLane (t + 2) true r l else getLane (t + 1) false r l

/-- One lane of ATOM, its access checked: at another agent one transaction, at a line of the module a read-modify-write, at the lead replica (R216), held in
the closer's own chunk; the old value is written. -/
def atomLane (o : AtomOp) (t : Nat) (dbl : Bool) (tm k : Nat) (s : State) (x : Acc × Leaf × Nat) : State :=
  let n := dblBytes dbl
  let r := (s.slice tm k).regs
  let v := getLane t dbl r x.1.l
  let y := if o == .cas then casValue t dbl r x.1.l else 0
  if isRemote x.2.1 x.2.2 then
    let bs := s.freeBytes n
    let s1 := s.setD x.2.1.addr
    let u := { s1 with draws := s1.draws + n, out := s1.out ++ [remoteOut x.2.2 true (leBytes n v ++ (if o == AtomOp.cas then leBytes n y else []))] }
    u.modSlice tm k fun sl =>
      { sl with regs := (putLane t dbl sl.regs x.1.l (leNat bs)).raise (atomApply o (8 * n) r.mode (leNat bs) v y).2 }
  else
    let old := leNat (overlay (·.npa) (s.slice tm k).heldAll x.2.2 (s.readBytes x.2.2 n))
    let m := atomApply o (8 * n) r.mode old v y
    s.modSlice tm k fun sl =>
      let h := sl.hold [.store false (storeRun x.2.1.rep x.1.va.toNat x.2.2 (leBytes n m.1)) [x.2.1.addr]] [.mem (lineOf x.2.2)] []
      { h with regs := (putLane t dbl h.regs x.1.l old).raise m.2 }

/-- ATOM: a closer for every slice. No lane is performed until all lanes of the gang translate; then slice by slice its lanes
are performed in ascending order and its own chunk commits (R228). A failed charge leaves no register of the slice written. -/
def atomBody (i : Instr) (o : AtomOp) (t x b : Nat) (dbl : Bool) (st u : State) (tm : Nat) (ks : List Nat) : State × List (Nat × Did) :=
  match st.gangCheck u tm ks i (wantAtom o dbl true u tm) (laneAddr b x) true with
  | .error v => (v, ks.map fun k => (k, .gone))
  | .ok (v, js, fs) =>
    let ms := missesOf fs
    let out := (ks.filter fun k => !js.contains k).map fun k => (k, Did.gone)
    if ms.isEmpty then
      let r := eachSlice (fun w tm k =>
        let z := (ofSlice k (oksOf fs)).foldl (atomLane o t dbl tm k) w
        let z1 := z.modSlice tm k fun sl => { sl with regs := sl.regs.adv }
        match z1.commitChunk tm k true with
        | .ok _ => (st.finishSlice i tm z1 (k, .closer), .ended)
        | .error f => ((w.modSlice tm k fun sl => { sl with regs := (st.slice tm k).regs }).capacityFault tm k
            { f with pc := (st.slice tm k).regs.pc }, .gone)) v tm js
      (r.1, out ++ r.2)
    else
      let r := eachSlice (fun w tm k =>
        let own := fs.filter fun f => f.1.k == k
        (w.modSlice tm k fun sl => sl.parkLanes i sl.regs.active 0 (own.map fun f => (f.1.l, f.1.va)) (missPages (missesOf own)) [] [], .stay)) v tm js
      (r.1.postMisses tm 2 ((ms.filter fun m => m.2.2.2).map fun m => (m.2.1, m.2.2.1)), out ++ r.2)

def execAtom (o : AtomOp) (t x b : Nat) (dbl : Bool) (s : State) : Result :=
  issue (.atom o t x b dbl) (atomBody (.atom o t x b dbl) o t x b dbl) s

/-- What a lane of RED buffers. -/
def redBuf (t : Nat) (dbl : Bool) (r : Regs) (x : Acc) (l : Leaf) (npa : Nat) : Buffered :=
  { lane := x.l, nc := false, bytes := [], leaf := l.addr,
    red := some { va := x.va.toNat, npa := npa, rep := l.rep, val := BitVec.ofNat 64 (getLane t dbl r x.l) } }

/-- RED: held like a store; a closer where a lane lies at another module (R354). -/
def execRed (o : AtomOp) (t x b : Nat) (dbl : Bool) (s : State) : Result :=
  issue (.red o t x b dbl) (storeBody (.red o t x b dbl) (wantAtom o dbl false) (laneAddr b x)
    (fun r l => leBytes (dblBytes dbl) (getLane t dbl r l)) (redBuf t dbl) (fun r ls leaves => .red o dbl r.mode ls leaves)) s

/-- One lane of ATOMT: from the word as the slice sees it, with its own held reductions, which come before it in program order; the old value written, the new one held (R231). -/
def atomtLane (o : AtomOp) (t : Nat) (dbl : Bool) (tm k : Nat) (s : State) (a : Acc) : State :=
  let n := dblBytes dbl
  let r := (s.slice tm k).regs
  let old := leNat (((s.team tm).withHeld (s.slice tm k).heldAll).readBytes a.va.toNat n)
  let m := atomApply o (8 * n) r.mode old (getLane t dbl r a.l) (if o == AtomOp.cas then casValue t dbl r a.l else 0)
  s.modSlice tm k fun sl =>
    let h := sl.hold [.tstore (byteRun a.va.toNat (leBytes n m.1))] [] []
    { h with regs := (putLane t dbl h.regs a.l old).raise m.2 }

def execAtomt (o : AtomOp) (t x b : Nat) (dbl : Bool) (s : State) : Result :=
  issue (.atomt o t x b dbl) (teamBody (.atomt o t x b dbl) (dblBytes dbl) (laneAddr b x) true true fun w tm k xs =>
    xs.foldl (atomtLane o t dbl tm k) w) s

def execRedt (o : AtomOp) (t x b : Nat) (dbl : Bool) (s : State) : Result :=
  issue (.redt o t x b dbl) (teamBody (.redt o t x b dbl) (dblBytes dbl) (laneAddr b x) true false fun w tm k xs =>
    if xs.isEmpty then w
    else w.modSlice tm k fun sl => sl.hold [.redt o dbl sl.regs.mode
      (xs.map fun a => { va := a.va.toNat, npa := a.va.toNat, rep := false, val := BitVec.ofNat 64 (getLane t dbl sl.regs a.l) })] [] []) s

end Sys2Proof.Machine
end

