-- ==== Sys2Proof/Machine/Sync.lean ====
section
/-! DEFINITION. WAIT (R232), BAR (R233), gates (R234, R235), channels (R237 to R240), and the events that wake their sleepers. -/

namespace Sys2Proof.Machine

/-! ### WAIT -/

/-- A condition on the word m against a value (R56, R301). -/
def condOn (c : WaitCond) (m b : W64) : Bool :=
  match c with
  | .eq => m == b
  | .ne => m != b
  | .lt => m.slt b
  | .ge => !m.slt b
  | .ltN => m.ult b
  | .geN => !m.ult b

/-- What WAIT needs of its word: 8 bytes of a readable DEV or SYS page. -/
def wantWait : Want :=
  { n := 8, r := true, w := false, kind := 0, bars := fun c => c == .nc || c == .io, data := true }

/-- The word of a WAIT, its access checked. -/
def State.waitWord (s : State) (t : Nat) (oks : List (Acc × Leaf × Nat)) : State × W64 :=
  match oks with
  | [] => (s, 0)
  | x :: _ =>
    if isFabric x.2.2 then ((s.remoteLoad x.2.2 8).1, BitVec.ofNat 64 (leNat (s.remoteLoad x.2.2 8).2))
    else (s, s.readWord64 (s.loadAddr (s.teamDie t) x.2.1 x.2.2))

def waitAct (c : WaitCond) (a b : Nat) (_ v : State) (t k : Nat) (oks : List (Acc × Leaf × Nat)) : State × Did :=
  let m := v.waitWord t oks
  if condOn c m.2 ((v.slice t k).regs.getS b) then (m.1.modSlice t k fun sl => { sl with regs := sl.regs.adv }, .closer)
  else m.1.sleep t k (.wait (.wait c a b))

def execWait (c : WaitCond) (a b : Nat) (s : State) : Result :=
  issue (.wait c a b) (sliceAccess (.wait c a b) 0 true (fun v t k => [((v.slice t k).regs.getS a, wantWait)]) (waitAct c a b)) s

/-- Whether a team is resident. -/
def State.resident (s : State) (t : Nat) : Bool := (s.teamCore t).isSome

/-- An event that changes slices outside their issue: gangs part whose slices then stand at different places, or that a slice leaves by a trap (R97, R329). -/
def event (f : State → State) (s : State) : Result := .next (s.partAll (f s))

/-- WAIT_WAKE: a sleeping WAIT reads its word again: it goes on, sleeps on, traps, or, parked at it, awaits its word's page (R232). -/
def State.waitAgain (s0 : State) (t k : Nat) : State :=
  match (s0.slice t k).status with
  | .asleep (.wait (.wait c a b)) =>
    if !s0.resident t then s0
    else
      let s := s0.touch (s0.team t).ctx [(s0.slice t k).regs.getS a]
      let sl := s.slice t k
      match s.aloneCheck t k [(sl.regs.getS a, wantWait)] with
      | .trap x => (s.modSlice t k fun v => { v with status := .run }).trapAt t k (.wait c a b) x
      | .wait ms => (s.modSlice t k fun v => v.parkWhole (.wait c a b) (missPages ms)).postMisses t 0 ((ms.filter fun m => m.2.2.2).map fun m => (m.2.1, m.2.2.1))
      | .go oks =>
        let m := s.waitWord t oks
        if condOn c m.2 (sl.regs.getS b) then m.1.wake t k id else m.1.modSlice t k fun v => { v with park := none }
  | _ => s0

def execWaitWake (t k : Nat) (s : State) : Result := event (fun u => (u.atGang t k).waitAgain t k) s

/-! ### BAR -/

/-- One arrival at the barrier (R233). -/
def State.arrive (s : State) (t k n : Nat) : State :=
  let tm := s.team t
  let s1 := if tm.arrivals = 0 then s.modTeam t fun v => { v with target := n }
    else if n = tm.target then s
    else s.appendLog tm.ctx (s.sliceRec t k (s.slice t k).regs.pc 0x0011 0 (BitVec.ofNat 32 n))
  ((s1.modTeam t fun v => { v with arrivals := v.arrivals + 1 }).sleep t k .bar).1

/-- BAR: each slice arrives and sleeps; an arrival that completes the phase releases them all. -/
def execBar (n : Nat) (s : State) : Result :=
  issue (.bar n) (fun st u t ks => eachSlice (fun v t k =>
    match st.preIn v t k with
    | .ok w => ((w.arrive t k n).barCheck t, .ended)
    | .left w => (w, .gone)) u t ks) s

/-! ### Gates -/

/-- The check of a gate's offset (R235). -/
def gateFault (size : Nat) (off : W64) (gl : Nat) : Option Trap :=
  if off.toNat % 16 ≠ 0 then some { cause := 3, sub := 0, addr := off, info := BitVec.ofNat 32 gl }
  else if size < off.toNat + 16 then some { cause := 4, sub := 3, addr := off, info := BitVec.ofNat 32 gl }
  else none

/-- A held update of the gate that s[a] names. -/
def gateOp (i : Instr) (a : Nat) (o : Regs → GateOp) (s : State) : Result :=
  issue i (fun st u t ks => eachSlice (fun v t k =>
    let r := (v.slice t k).regs
    let off := r.getS a
    match gateFault (st.params t).tmem off (st.firstLane k) with
    | some x => (st.trapIn v t k i x, .gone)
    | none => st.holdAndGo v t k [.gate off.toNat (o r)] [.team t (off.toNat / 128)] []) u t ks) s

def execGinit (a b : Nat) (s : State) : Result := gateOp (.ginit a b) a (fun r => .init ((r.getS b).setWidth 16)) s
def execGexpect (a b : Nat) (s : State) : Result := gateOp (.gexpect a b) a (fun r => .expect ((r.getS b).setWidth 32)) s
def execGarrive (a : Nat) (s : State) : Result := gateOp (.garrive a) a (fun _ => .arrive) s

/-- What GWAIT writes: the error of the latest closed round, in every lane. -/
def gwaitRegs (p : Nat) (g : Gate) (r : Regs) : Regs := r.setP p (if g.err then 0xF else 0)

def execGwait (p a b : Nat) (s : State) : Result :=
  issue (.gwait p a b) (fun st u t ks => eachSlice (fun v t k =>
    match st.preIn v t k with
    | .left w => (w, .gone)
    | .ok w =>
      let r := (w.slice t k).regs
      match gateFault (st.params t).tmem (r.getS a) (st.firstLane k) with
      | some x => (st.trapIn w t k (.gwait p a b) x, .gone)
      | none =>
        let g := (w.team t).gate (r.getS a).toNat
        if g.passed ((r.getS b).setWidth 16) then (w.modSlice t k fun sl => { sl with regs := (gwaitRegs p g sl.regs).adv }, .closer)
        else w.sleep t k (.gate (.gwait p a b))) u t ks) s

/-- GWAIT_WAKE (R235). -/
def State.gateAgain (s : State) (t k : Nat) : State :=
  match (s.slice t k).status with
  | .asleep (.gate (.gwait p a b)) =>
    let r := (s.slice t k).regs
    let g := (s.team t).gate (r.getS a).toNat
    if s.resident t && g.passed ((r.getS b).setWidth 16) then s.wake t k (gwaitRegs p g) else s
  | _ => s

def execGwaitWake (t k : Nat) (s : State) : Result := event (fun u => u.gateAgain t k) s

/-! ### Channels -/

/-- The team that a downstream handle names: the same coordinate, the next stage (R238). -/
def State.downstream (s : State) (t : Nat) : Option Nat :=
  let v := s.team t
  (List.find? (fun (e : Nat × Team) => e.2.launch == v.launch && e.2.x == v.x && e.2.y == v.y && e.2.z == v.z && e.2.stage == v.stage + 1)
    s.teams).map (·.1)

/-- The owner and the number of the channel that a handle names, by its layout alone; none: the permission trap, cause channel (R238). -/
def State.handleOf (s : State) (t : Nat) (h : W64) : Option (Nat × Nat) :=
  let n := h.toNat % 32
  let owner := if h.getLsbD 5 then (if (s.team t).stage + 1 < (s.params t).stages then s.downstream t else none) else some t
  match owner with
  | none => none
  | some o => if 64 ≤ h.toNat ∨ (s.params t).chan ≤ n then none else some (o, n)

/-- The same for a channel instruction: a retired owner takes the trap as well (R239). -/
def State.handle (s : State) (t : Nat) (h : W64) : Option (Nat × Nat) :=
  (s.handleOf t h).filter fun x => (s.team x.1).place != .retired

def channelTrap (gl : Nat) : Trap := { cause := 4, sub := 5, addr := 0, info := BitVec.ofNat 32 gl }

/-- A channel as its instructions find it: none while its team has not started (R239). -/
def State.chan (s : State) (o n : Nat) : Option Chan := if (s.team o).started then (s.team o).chans[n]? else none

/-- A channel as a slice sees it, with its own held updates (R240). -/
def State.chanSeen (s : State) (t k o n : Nat) : Option Chan :=
  (s.chan o n).map fun c => (s.slice t k).heldAll.foldl (fun v it => match it.eff with
    | .chan o' n' op => if o' = o ∧ n' = n then (v.update op).1 else v
    | _ => v) c

/-- An acquire or take performed at once. -/
def State.takeSlot (s : State) (t k o n : Nat) (op : ChanOp) (c : Chan) : State :=
  (s.modTeam o fun x => { x with chans := x.chans.set n (c.update op).1 }).invalidate [.chan o n] (some (sliceKey t k))

/-- A blocking acquire or take in one slice. -/
def chanBlock (i : Instr) (d a : Nat) (op : ChanOp) (s : State) : Result :=
  issue i (fun st u t ks => eachSlice (fun v t k =>
    match st.preIn v t k with
    | .left w => (w, .gone)
    | .ok w =>
      match w.handle t ((w.slice t k).regs.getS a) with
      | none => (st.trapIn w t k i (channelTrap (st.firstLane k)), .gone)
      | some (o, n) =>
        match w.chan o n with
        | some c =>
          if c.ready op && w.resident o then
            ((w.takeSlot t k o n op c).modSlice t k fun sl => { sl with regs := (sl.regs.setS d (BitVec.ofNat 64 (c.slot op))).adv }, .closer)
          else w.sleep t k (.chan i)
        | none => w.sleep t k (.chan i)) u t ks) s

def execChacq (d a : Nat) (s : State) : Result := chanBlock (.chacq d a) d a .acq s
def execChtake (d a : Nat) (s : State) : Result := chanBlock (.chtake d a) d a .take s

/-- A non-blocking acquire or take: the counter as the slice sees it; the update held. -/
def chanTry (i : Instr) (d a : Nat) (op : ChanOp) (s : State) : Result :=
  issue i (fun st u t ks => eachSlice (fun v t k =>
    match v.handle t ((v.slice t k).regs.getS a) with
    | none => (st.trapIn v t k i (channelTrap (st.firstLane k)), .gone)
    | some (o, n) =>
      match st.room v t k [] [.chan o n] with
      | .left w => (w, .gone)
      | .ok w =>
        match w.chanSeen t k o n with
        | some c =>
          if c.ready op then
            st.atOnce i t k (w.modSlice t k fun sl =>
              let h := sl.hold [.chan o n op] [] [.chan o n]
              { h with regs := (h.regs.setS d (BitVec.ofNat 64 (c.slot op))).adv }, .plain)
          else (w.modSlice t k fun sl => let h := sl.hold [] [] [.chan o n]; { h with regs := (h.regs.setS d ones64).adv }, .plain)
        | none => (w.modSlice t k fun sl => let h := sl.hold [] [] [.chan o n]; { h with regs := (h.regs.setS d ones64).adv }, .plain)) u t ks) s

def execChacqNb (d a : Nat) (s : State) : Result := chanTry (.chacqNb d a) d a .acq s
def execChtakeNb (d a : Nat) (s : State) : Result := chanTry (.chtakeNb d a) d a .take s

/-- A held publish or free. -/
def chanRelease (i : Instr) (a : Nat) (op : ChanOp) (s : State) : Result :=
  issue i (fun st u t ks => eachSlice (fun v t k =>
    match v.handle t ((v.slice t k).regs.getS a) with
    | none => (st.trapIn v t k i (channelTrap (st.firstLane k)), .gone)
    | some (o, n) => st.holdAndGo v t k [.chan o n op] [] []) u t ks) s

def execChpub (a : Nat) (s : State) : Result := chanRelease (.chpub a) a .pub s
def execChfree (a : Nat) (s : State) : Result := chanRelease (.chfree a) a .free s

/-- The channel register and the counter of a blocking form. -/
def blockingForm : Instr → Option (Nat × Nat × ChanOp)
  | .chacq d a => some (d, a, .acq)
  | .chtake d a => some (d, a, .take)
  | _ => none

/-- CHANNEL_WAKE: a sleeping CHACQ or CHTAKE finds its counter above 0, or its owner retired (R239, R240). -/
def State.chanAgain (s : State) (t k : Nat) : State :=
  match (s.slice t k).status with
  | .asleep (.chan i) =>
    match blockingForm i with
    | none => s
    | some (d, a, op) =>
      if !s.resident t then s
      else match s.handle t ((s.slice t k).regs.getS a) with
        | none => (s.modSlice t k fun v => { v with status := .run }).trapAt t k i (channelTrap (s.firstLane k))
        | some (o, n) =>
          match s.chan o n with
          | some c =>
            if c.ready op && s.resident o then (s.takeSlot t k o n op c).wake t k fun r => r.setS d (BitVec.ofNat 64 (c.slot op)) else s
          | none => s
  | _ => s

def execChannelWake (t k : Nat) (s : State) : Result := event (fun u => (u.atGang t k).chanAgain t k) s

end Sys2Proof.Machine
end

