-- ==== Sys2Proof/Machine/Threads.lean ====
section
/-! DEFINITION. Accesses of threads that run beside the slices, engine threads and matrix drains: pages, reads, writes, the spill buffer
(R183, R212, R269, R286). -/

namespace Sys2Proof.Machine

/-- Whose access it is, for the fault queue and the error log: the context, the die whose queue and spill buffer it uses, the core and
the team slot, whether it is a matrix drain's, the slice that issued the command. -/
structure Who where
  ctx   : Nat
  die   : Nat
  core  : Nat
  tslot : Option Nat
  mtx   : Bool
  slice : Nat
  deriving DecidableEq, Repr

/-- A record of a thread (R336): origin 2. -/
def Who.record (w : Who) (cause : Nat) (addr : W64) (info : W32) : LogRec :=
  { pc := 0, addr := addr, info := info, slice := w.slice, core := w.core % 256, die := w.die, tslot := w.tslot.getD 0xFFFFFFFF,
    cause := cause, src := 2 }

/-- What a thread finds of a page: no translation; nothing it may do there; a leaf and the NPA. `gone` lists the pages whose
faults were answered as unresolvable. -/
inductive ThreadPage
  | missing (page : Nat) (malformed : Bool)
  | bad
  | ok (l : Leaf) (npa : Nat)

def State.threadPage (s : State) (w : Who) (gone : List Nat) (write : Bool) (va : W64) : ThreadPage :=
  if !canonical va then .bad
  else match s.walk w.ctx va with
    | .none m => if gone.contains (pageOf va) then .bad else .missing (pageOf va) m
    | .leaf l =>
      let a := l.npa va
      if l.ff || l.cc == .io || !(if write then l.w else l.r) || (s.expanderDown a && (write || !s.lostDirty (s.loadAddr w.die l a))) || (isFabric a && (l.cc != .dev || Config.coin s.draws))
      then .bad else .ok l a

/-- The fault of a thread, posted unless the thread's own fault for the page still awaits its answer. -/
def State.threadPost (s : State) (w : Who) (asked : List Nat) (kind page : Nat) (malformed : Bool) : State :=
  if asked.contains page && s.awaits w.die w.ctx page then s
  else s.postFault w.die
    { seq := 0, merged := 0, core := if w.core < 16 then w.core else 0xFFFF, tslot := w.tslot.getD 0xFFFF, mtx := w.mtx, eng := !w.mtx,
      mal := malformed, kind := kind, lanes := 1, ctx := w.ctx, page := page }

/-- What a read of up to 32 bytes of one aligned sector gives. -/
inductive ThreadRead
  | wait (s : State) (page : Nat)
  | bad (s : State) (poison : Bool)
  | ok (s : State) (bytes : List Byte)

def State.threadRead (s : State) (w : Who) (asked gone : List Nat) (va : W64) (n : Nat) : ThreadRead :=
  let s1 := s.touch w.ctx [va]
  match s.threadPage w gone false va with
  | .missing p m => .wait (s1.threadPost w asked 0 p m) p
  | .bad => .bad s1 false
  | .ok l a =>
    if isFabric a then .ok (s1.remoteLoad a n).1 (s1.remoteLoad a n).2
    else
      let b := s.loadAddr w.die l a
      if s.poisoned b then .bad s1 true else .ok s1 (s1.readBytes b n)

/-- A byte with some of its bits replaced. -/
def maskByte (old mask val : Byte) : Byte := (old &&& ~~~ mask) ||| (val &&& mask)

/-- What a write within one aligned sector comes to: the page is missing; it fails; the growth cannot be charged (with the dies
whose pools are short and the granules it needs); it is performed. -/
inductive ThreadWrite
  | missing (page : Nat) (malformed : Bool)
  | bad
  | short (g : Nat) (dies : List Nat)
  | ok (s : State)

/-- The records of a thread's write to a poisoned line or block (R174, R176). -/
def State.threadRecords (s : State) (w : Who) (va : Nat) (ws : List (Nat × Byte)) : State :=
  (linesOf ws).foldl (fun u l =>
    if !s.accounted l then u
    else if (s.block (blockOfLine l)).bad then u.appendLog w.ctx (w.record 0x0015 (BitVec.ofNat 64 (va / 128 * 128)) 0)
    else if codePoisoned (s.lineCode l) && !coversLine ws l then u.appendLog w.ctx (w.record 0x0014 (BitVec.ofNat 64 (va / 128 * 128)) 0)
    else u) s

/-- The walk of a thread's write within a page: the a bit of its leaf, whatever becomes of it (R140). -/
def State.reach (s : State) (w : Who) (bs : List (Nat × Byte × Byte)) : State := s.touch w.ctx ((bs.take 1).map fun b => BitVec.ofNat 64 b.1)

/-- One write of a thread, atomic, at every replica, charged when it is performed (R183, R212, R216). -/
def State.threadWrite (s : State) (w : Who) (gone : List Nat) (bs : List (Nat × Byte × Byte)) : ThreadWrite :=
  match bs with
  | [] => .ok s
  | (va, _, _) :: _ =>
    match s.threadPage w gone true (BitVec.ofNat 64 va) with
    | .missing p m => .missing p m
    | .bad => .bad
    | .ok l a =>
      let s0 := s.touch w.ctx [BitVec.ofNat 64 va]
      if isFabric a then .ok { s0.setD l.addr with out := s0.out ++ [.remote a true (bs.map (·.2.2))] }
      else
        let ws := bs.flatMap fun b => (s.copies l.rep (a + (b.1 - va))).map fun p => (p, maskByte (s.readByte p) b.2.1 b.2.2)
        let s1 := s0.applyBytes ws
        let chg := newCodes s0 s1 ws ws
        match s0.charge w.ctx chg [] [] with
        | .error f => .short f.g f.dies
        | .ok s2 =>
          let s3 := (s2.setD l.addr).applyBytes ws
          let s4 := (s3.threadRecords w va ws).invalidate ((linesOf ws).map .mem) none
          .ok (chg.foldl (fun u e => u.setLine none e) s4)

/-- A spill buffer's capacity: 64 MiB in entries of 64 bytes (R286). -/
def spillMax : Nat := 2 ^ 20

/-- A write that goes to the spill buffer, or waits for room there (R183, R286). `kind`: a store's. -/
inductive Spilled
  | full (s : State)
  | held (s : State)

def State.spillWrite (s : State) (w : Who) (asked : List Nat) (e : Spill) (r : ThreadWrite) : Spilled :=
  if spillMax ≤ (s.die w.die).spill.length then .full s
  else
    let s1 := s.modDie w.die fun d => { d with spill := d.spill ++ [e] }
    match r with
    | .missing p m => .held (s1.threadPost w asked 1 p m)
    | .short g ds => .held (s1.poolFailed w.ctx g ds)
    | .bad | .ok _ => .held s1

/-! ### Who a thread is -/

def State.engineWho (s : State) (e : Engine) : Who :=
  { ctx := e.ctx, die := e.die, core := if e.team.isSome then e.core else 0xFFFF,
    tslot := match e.team with
      | some t => (s.team t).slot
      | none => none,
    mtx := false, slice := if e.team.isSome then e.slice else 0xFFFF }

def State.matrixWho (s : State) (t : Nat) (m : MatCmd) : Who :=
  { ctx := (s.team t).ctx, die := s.teamDie t, core := m.core, tslot := (s.team t).slot, mtx := true, slice := m.slice }

end Sys2Proof.Machine
end

