-- ==== Sys2Proof/Machine/Matrix.lean ====
section
/-! DEFINITION. Matrix instructions and the sequencer (R252 to R274). -/

namespace Sys2Proof.Machine

/-! ### Runs (R254) -/

/-- Bytes of a run of n elements in a slot's format. -/
def runBytes (slot : BitVec 64) (n : Nat) : Nat := if slotPack slot then n else n * slotWidth slot / 8

/-- The codes of a run, by packed position. -/
def runCodes (slot : BitVec 64) (n : Nat) (bs : List Byte) : List Nat :=
  let w := slotWidth slot
  let x := leNat bs
  (List.range n).map fun i => if slotPack slot then x / 2 ^ (8 * i) % 2 ^ w else x / 2 ^ (w * i) % 2 ^ w

/-! ### Parameters (R263) -/

/-- A field of a parameter register as a signed number of n bits. -/
def sField (x : W64) (lo n : Nat) : Int := intOfBits n true (x.toNat / 2 ^ lo)
def uField (x : W64) (lo n : Nat) : Nat := x.toNat / 2 ^ lo % 2 ^ n

/-- The eight registers of a parameter block. -/
def blockRegs (d : Nat) (r : Regs) : List W64 := (List.range 8).map fun i => r.getS (d + i)

def pReg (p : List W64) (i : Nat) : W64 := p.getD i 0

def pAbase (p : List W64) : Nat := uField (pReg p 0) 0 22
def pPitch (p : List W64) : Nat := uField (pReg p 1) 32 32
def pAinc (p : List W64) : Int := sField (pReg p 1) 0 32
def pBinc (p : List W64) : Int := sField (pReg p 2) 32 32
def pBbase (p : List W64) : Nat := uField (pReg p 2) 0 32
def pScBinc (p : List W64) : Int := sField (pReg p 3) 49 15
def pScAinc (p : List W64) : Int := sField (pReg p 3) 34 15
def pScB (p : List W64) : Nat := uField (pReg p 3) 17 17
def pScA (p : List W64) : Nat := uField (pReg p 3) 0 17
def pDe (p : List W64) : Bool := (pReg p 4).getLsbD 33
def pZf (p : List W64) : Bool := (pReg p 4).getLsbD 32
def pCount (p : List W64) : Nat := uField (pReg p 4) 0 32
def pTsA (p : List W64) : Nat := uField (pReg p 5) 0 32
def pTsB (p : List W64) : Nat := uField (pReg p 5) 32 32
def pDst (p : List W64) : W64 := pReg p 6
def pDesc (p : List W64) : W64 := pReg p 7

/-- Entries of a launch's scale-memory region, and bytes of a share of its B-store (R252). -/
def LaunchRec.scaleEntries (r : LaunchRec) : Nat := 32768 * r.acc
def LaunchRec.share (r : LaunchRec) : Nat := r.bstore / 256

/-- The bytes of team memory that A spans at a step base: rows of 32 elements, or with ka 32 rows of 128 (R256). -/
def aSpan (slot : BitVec 64) (ka : Bool) (pitch : Nat) : Nat :=
  if ka then 31 * pitch + runBytes slot 128 else 127 * pitch + runBytes slot 32

/-- A trap on a parameter: the address names the value at fault. DEDUCED, log entry 23. -/
def paramTrap (cause sub : Nat) (a : Int) (gl : Nat) : Trap :=
  { cause := cause, sub := sub, addr := BitVec.ofInt 64 a, info := BitVec.ofNat 32 gl }

/-- The checks 2 to 4 of R265. Those of step 4 are made in its order for K-step 0, then for the last. DESIGN CHOICE, log entry 70. -/
def loopFault (r : LaunchRec) (sa sb : BitVec 64) (ka : Bool) (p : List W64) (gl : Nat) : Option Trap :=
  let odd := ([(pAbase p : Int), pPitch p, pAinc p, pBbase p, pBinc p]).find? fun x => x % 4 != 0
  if (pReg p 0).toNat / 2 ^ 22 ≠ 0 ∨ (pReg p 4).toNat / 2 ^ 34 ≠ 0 ∨ pCount p = 0 then some (paramTrap 4 6 0 gl)
  else match odd with
    | some x => some (paramTrap 3 0 x gl)
    | none =>
      ([0, (pCount p : Int) - 1]).findSome? fun j =>
        let a := (pAbase p : Int) + j * pAinc p
        let b := (pBbase p : Int) + j * pBinc p
        let ia := (slotScbase sa : Int) + pScA p + j * pScAinc p
        let ib := (slotScbase sb : Int) + pScB p + j * pScBinc p
        let out (i : Int) (n : Nat) : Bool := decide (i < 0) || decide ((r.scaleEntries : Int) < i + n)
        if a < 0 ∨ (r.tmem : Int) < a + aSpan sa ka (pPitch p) then some (paramTrap 4 3 a gl)
        else if b < 0 ∨ (r.share : Int) < b + runBytes sb 32 then some (paramTrap 4 7 b gl)
        else if slotScales sa && out ia 128 then some (paramTrap 4 7 ia gl)
        else if slotScales sb && out ib 256 then some (paramTrap 4 7 ib gl)
        else none

/-! ### Drain descriptors (R267) -/

def dCtl (d : List Byte) : Nat := field d 40 8
def dCols (d : List Byte) : Nat := bitsOf (dCtl d) 40 32 + 1
def dRows (d : List Byte) : Nat := bitsOf (dCtl d) 23 16 + 1
def dBit (d : List Byte) (i : Nat) : Bool := (dCtl d).testBit i
def dIacc (d : List Byte) : Bool := dBit d 15
def dDrop (d : List Byte) : Bool := dBit d 14
def dRtm (d : List Byte) : Bool := dBit d 13
def dRes (d : List Byte) : Bool := dBit d 12
def dRfmt (d : List Byte) : Nat := bitsOf (dCtl d) 11 8
def dDtm (d : List Byte) : Bool := dBit d 7
def dSat (d : List Byte) : Bool := dBit d 6
def dRnd (d : List Byte) : Rnd := Rnd.ofBits (bitsOf (dCtl d) 5 4)
def dOfmt (d : List Byte) : Nat := bitsOf (dCtl d) 3 0
def dRaddr (d : List Byte) : W64 := field64 d 0
def dKey (d : List Byte) : W64 := field64 d 8
def dOpitch (d : List Byte) : Nat := field d 16 4
def dRpitch (d : List Byte) : Nat := field d 20 4
def dThresh (d : List Byte) : Nat := field d 24 4
def dInvkeep (d : List Byte) : Nat := field d 28 4
def dRow0 (d : List Byte) : Nat := field d 32 4
def dCol0 (d : List Byte) : Nat := field d 36 4

/-- The output format of a code: none for i32. -/
def drainFmt (c : Nat) : Option Fmt :=
  match c with
  | 0x8 => some .f16
  | 0x9 => some .bf16
  | 0xA => some .f32
  | 0xB => some .e4m3
  | 0xC => some .e5m2
  | _ => none

/-- Bytes of an element of a format code. -/
def fmtBytes (c : Nat) : Nat :=
  match drainFmt c with
  | some f => f.width / 8
  | none => 4

/-- A range of rows, by first byte, pitch, rows and bytes of a row: one past its last byte. -/
def rowsEnd (base : W64) (pitch rows bytes : Nat) : Nat := base.toNat + (rows - 1) * pitch + bytes

/-- The checks 2 to 4 of R269 at issue, on a descriptor at `va`. The fields of rfmt, rpitch and raddr are checked whatever res is, as R269 lists them;
a residual's range where the drain has a residual. DEDUCED, log entry 66. -/
def drainFault (tmem : Nat) (p : List W64) (va : W64) (d : List Byte) (gl : Nat) : Option Trap :=
  let eo := fmtBytes (dOfmt d)
  let er := fmtBytes (dRfmt d)
  let oEnd := rowsEnd (pDst p) (dOpitch d) (dRows d) (dCols d * eo)
  let rEnd := rowsEnd (dRaddr d) (dRpitch d) (dRows d) (dCols d * er)
  if (d.drop 48).any (fun b => b != 0) || dCtl d / 2 ^ 41 != 0 || bitsOf (dCtl d) 31 24 != 0 || decide (256 < dCols d) ||
      decide (128 < dRows d) || !(dOfmt d == 2 || (drainFmt (dOfmt d)).isSome) ||
      !(dRfmt d == 8 || dRfmt d == 9 || dRfmt d == 10) ||
      (dOfmt d == 2 && (!dIacc d || dRes d || dDrop d)) || dOpitch d % eo != 0 || (pDst p).toNat % eo != 0 ||
      dRpitch d % er != 0 || (dRaddr d).toNat % er != 0 then
    some { cause := 4, sub := 6, addr := va, info := BitVec.ofNat 32 gl }
  else if dDtm d && decide (tmem < oEnd) then some { cause := 4, sub := 3, addr := pDst p, info := BitVec.ofNat 32 gl }
  else if dRes d && dRtm d && decide (tmem < rEnd) then some { cause := 4, sub := 3, addr := dRaddr d, info := BitVec.ofNat 32 gl }
  else if !dDtm d && (decide (2 ^ 64 < oEnd) || !canonical (pDst p) || !canonical (BitVec.ofNat 64 (oEnd - 1))) then
    some { cause := 4, sub := 2, addr := pDst p, info := BitVec.ofNat 32 gl }
  else if dRes d && !dRtm d && (decide (2 ^ 64 < rEnd) || !canonical (dRaddr d) || !canonical (BitVec.ofNat 64 (rEnd - 1))) then
    some { cause := 4, sub := 2, addr := dRaddr d, info := BitVec.ofNat 32 gl }
  else none

/-- What a descriptor's load needs: its alignment, a readable DEV or SYS page of this module (R267, R269, R278). DEDUCED, log entry 24. -/
def wantDesc (n : Nat) (bars : Cc → Bool) : Want :=
  { n := n, r := true, w := false, kind := 0, bars := bars, data := true, noRemote := true }

/-- The bytes of a descriptor, its access checked, as the slice sees them. -/
def State.descBytes (s : State) (t k n : Nat) (oks : List (Acc × Leaf × Nat)) : State × List Byte :=
  match oks with
  | [] => (s, [])
  | x :: _ => s.load t k x.2.1 x.2.2 n

/-! ### The commands at issue -/

/-- MLOOP and MDRAIN: the checks of R265 and R269, then one command held. `loop` gives MLOOP's slots and ka. -/
def matrixIssue (i : Instr) (d : Nat) (loop : Option (BitVec 64 × BitVec 64 × Bool)) (cmd : List W64 → List Byte → MatOp) (s : State) : Result :=
  let early (st : State) (t k : Nat) (p : List W64) : Option Trap :=
    match loop with
    | some (sa, sb, ka) => loopFault (st.params t) sa sb ka p (st.firstLane k)
    | none => none
  let drains (p : List W64) : Bool := loop.isNone || pDe p
  issue i (sliceAccess i 0 false
    (fun v t k =>
      let p := blockRegs d (v.slice t k).regs
      if (early v t k p).isSome || !drains p then [] else [(pDesc p, wantDesc 64 fun c => c == .nc || c == .io)])
    (fun st v t k oks =>
      let p := blockRegs d (v.slice t k).regs
      match early v t k p with
      | some x => (st.trapIn v t k i x, .gone)
      | none =>
        if drains p then
          let r := v.descBytes t k 64 oks
          match drainFault (v.params t).tmem p (pDesc p) r.2 (v.firstLane k) with
          | some x => (st.trapIn r.1 t k i x, .gone)
          | none => st.holdAndGo r.1 t k [.matrix (cmd p r.2)] [] (v.loadLines t oks)
        else st.holdAndGo v t k [.matrix (cmd p [])] [] [])) s

def execMloop (d fa fb t : Nat) (ka : Bool) (l : Nat) (s : State) : Result :=
  let sl := (s.params s.cur.team).slots
  matrixIssue (.mloop d fa fb t ka l) d (some (sl.getD fa 0, sl.getD fb 0, ka))
    (fun p desc => .loop { tile := t, fa := sl.getD fa 0, fb := sl.getD fb 0, ka := ka, params := p, desc := desc }) s

def execMdrain (d t : Nat) (s : State) : Result := matrixIssue (.mdrain d t) d none (fun p desc => .drain t p desc) s

/-- A command that each slice holds. -/
def holdMatrix (i : Instr) (op : Regs → MatOp) (s : State) : Result :=
  issue i (fun st u t ks => eachSlice (fun v t k => st.holdAndGo v t k [.matrix (op (v.slice t k).regs)] [] []) u t ks) s

def execMzero (t : Nat) (s : State) : Result := holdMatrix (.mzero t) (fun _ => .zero t) s

/-- The row and the group of four columns that MRD and MWR address (R274). -/
def tileRow (x : W64) : Nat := x.toNat % 128
def tileCol (x : W64) : Nat := 4 * (x.toNat / 256 % 64)

def execMwr (d a t l : Nat) (s : State) : Result :=
  holdMatrix (.mwr d a t l) (fun r =>
    .write t (tileRow (r.getS a)) (tileCol (r.getS a)) ((laneList r.active).map fun j => (j, r.getV d j))) s

/-- The checks of MSCL (R272). -/
def sclFault (r : LaunchRec) (off idx : W64) (count gl : Nat) : Option Trap :=
  if off.toNat % 4 ≠ 0 then some { cause := 3, sub := 0, addr := off, info := BitVec.ofNat 32 gl }
  else if r.tmem < off.toNat + 64 * count then some { cause := 4, sub := 3, addr := off, info := BitVec.ofNat 32 gl }
  else if r.scaleEntries < idx.toNat + 32 * count then some { cause := 4, sub := 7, addr := idx, info := BitVec.ofNat 32 gl }
  else none

/-- MSCL; its field n is the count less 1. -/
def execMscl (a b n : Nat) (s : State) : Result :=
  issue (.mscl a b n) (fun st u t ks => eachSlice (fun v t k =>
    let r := (v.slice t k).regs
    match sclFault (v.params t) (r.getS a) (r.getS b) (n + 1) (v.firstLane k) with
    | some x => (st.trapIn v t k (.mscl a b n) x, .gone)
    | none => st.holdAndGo v t k [.matrix (.scale (r.getS a).toNat (r.getS b).toNat (n + 1))] [] []) u t ks) s

/-! ### Reads and joins -/

/-- The tile that a command names; MSCL names none. -/
def MatOp.tile : MatOp → Option Nat
  | .loop c => some c.tile
  | .drain t _ _ => some t
  | .zero t => some t
  | .write t _ _ _ => some t
  | .scale _ _ _ => none

/-- Commands up to a number of release, of a tile or of all, that have not completed. -/
def Team.pending (t : Team) (upto : Nat) (tile : Option Nat) : Bool :=
  t.queue.any fun m => decide (m.num ≤ upto) && (tile.isNone || m.op.tile == tile)

/-- An element of a tile (R258). -/
def tileKey (t m n : Nat) : Nat := 32768 * t + 256 * m + n
def Team.element (v : Team) (t m n : Nat) : W32 := FMap.get 0 v.acc (tileKey t m n)

/-- MRD: it waits for the commands of its tile that were released before it issued (R274). -/
def execMrd (d a t l : Nat) (s : State) : Result :=
  issue (.mrd d a t l) (fun _ u tm ks => eachSlice (fun v tm k =>
    let upto := ((v.slice tm k).mark.map (·.2)).getD (v.team tm).released
    if (v.team tm).pending upto (some t) then (v.modSlice tm k fun sl => { sl with mark := some (t, upto) }, .stay)
    else
      let r := (v.slice tm k).regs
      let w := singleLanes (fun j => (v.team tm).element t (tileRow (r.getS a)) (tileCol (r.getS a) + j)) d r
      (v.modSlice tm k fun sl => { sl with regs := w.adv }, .plain)) u tm ks) s

/-- The conditions of a slice's joined drains, and the team without them (R273). -/
def State.joinConds (s : State) (t k : Nat) : State × Flags :=
  (s.modTeam t fun v => { v with conds := FMap.set 0 v.conds k 0 }, FMap.get 0 (s.team t).conds k)

def execMwait (s : State) : Result :=
  issueCloser .mwait (fun v t k =>
    let upto := (v.team t).released
    if (v.team t).pending upto none then v.sleep t k (.mwait upto)
    else
      let r := v.joinConds t k
      (r.1.modSlice t k fun sl => { sl with regs := (sl.regs.raise r.2).adv }, .closer)) s

/-- MWAIT_WAKE (R273). -/
def State.mwaitAgain (s : State) (t k : Nat) : State :=
  match (s.slice t k).status with
  | .asleep (.mwait n) =>
    if s.resident t && !(s.team t).pending n none then
      let r := s.joinConds t k
      r.1.wake t k fun x => x.raise r.2
    else s
  | _ => s

def execMwaitWake (t k : Nat) (s : State) : Result := event (fun u => u.mwaitAgain t k) s

/-! ### The sequencer (R259 to R261) -/

/-- A drain that waits for a residual page holds back every later command (R269). -/
def State.drainWaits (s : State) (t : Nat) (m : MatCmd) : Bool := !m.drained && m.asked.any fun p => s.awaits (s.teamDie t) (s.team t).ctx p

/-- Whether the i-th command of a team's queue may run: no command ahead of it names its tile, is an MSCL or waits for a residual
page, and it is no MSCL behind another. -/
def State.mayRun (s : State) (t i : Nat) : Bool :=
  s.resident t &&
  match (s.team t).queue[i]? with
  | none => false
  | some m => ((s.team t).queue.take i).all fun x =>
      x.op.tile.isSome && m.op.tile.isSome && x.op.tile != m.op.tile && !s.drainWaits t x

/-- Whether a team has a loop that may do a K-step. -/
def State.loopReady (s : State) (t : Nat) : Bool :=
  (List.range (s.team t).queue.length).any fun i => s.mayRun t i && (match (s.team t).queue[i]? with
    | some m => (match m.op with
      | .loop c => decide (m.steps < pCount c.params)
      | .drain _ _ _ | .zero _ | .write _ _ _ _ | .scale _ _ _ => false)
    | none => false)

/-- Whether it is a team's turn on its core's array: each team with a loop ready does one K-step, then the next turn begins (R259). -/
def State.turnOf (s : State) (t : Nat) : Bool :=
  match s.teamCore t with
  | some c => !(s.core c).stepped.contains t ||
      (FMap.keys s.teams).all fun u => s.teamCore u != some c || !s.loopReady u || (s.core c).stepped.contains u
  | none => false

/-- A team's K-step in its turn; one that has had its K-step in the present turn begins the next. -/
def State.takeTurn (s : State) (t : Nat) : State :=
  match s.teamCore t with
  | some c => s.modCore c fun v => { v with stepped := if v.stepped.contains t then [t] else v.stepped ++ [t] }
  | none => s

/-- A command of a queue changed, by its number. -/
def State.modCmd (s : State) (t num : Nat) (f : MatCmd → MatCmd) : State :=
  s.modTeam t fun v => { v with queue := v.queue.map fun m => if m.num = num then f m else m }

def flagList (f : BitVec 6) : List Nat := (List.range 6).filter fun i => f.getLsbD i

/-- A command completes: its records, its conditions, its place (R81, R259, R269, R273). -/
def State.matrixDone (s : State) (t : Nat) (m : MatCmd) : State :=
  let w := s.matrixWho t m
  let tile := BitVec.ofNat 32 (m.op.tile.getD 0)
  let s1 := if m.wrapped then s.appendLog w.ctx (w.record 0x0010 0 tile) else s
  let s2 := match m.bad with
    | some a => s1.appendLog w.ctx (w.record 0x0016 (BitVec.ofNat 64 a) tile)
    | none => s1
  s2.modTeam t fun v =>
    { v with queue := v.queue.filter fun x => x.num != m.num,
             conds := FMap.set 0 v.conds m.slice (FMap.get 0 v.conds m.slice ||| m.flags) }

/-- A tile's elements replaced, row by row. -/
def Team.setTile (v : Team) (t : Nat) (xs : List W32) : Team :=
  let lo := 32768 * t
  let new := ((List.range 32768).zip xs).filterMap fun e => if e.2 = 0 then none else some (lo + e.1, e.2)
  { v with acc := (v.acc.filter fun e => decide (e.1 < lo)) ++ new ++ v.acc.filter fun e => decide (lo + 32768 ≤ e.1) }

/-! ### K-steps (R255 to R257, R264) -/

/-- The scale entry of an operand's row or column (R257). -/
def Team.entry (v : Team) (slot : BitVec 64) (base : Nat) (j inc : Int) (i : Nat) : BitVec 16 :=
  if slotScales slot then FMap.get 0 v.scale ((slotScbase slot : Int) + base + j * inc + i).toNat
  else BitVec.ofNat 16 (slotQtype slot * 256 + 0x38)

/-- Row m of A at a step base. -/
def Team.aRow (v : Team) (slot : BitVec 64) (ka : Bool) (base pitch m : Nat) : List Nat :=
  if ka then (List.range 32).map fun k => (runCodes slot 128 (v.readBytes (base + k * pitch) (runBytes slot 128))).getD m 0
  else runCodes slot 32 (v.readBytes (base + m * pitch) (runBytes slot 32))

/-- Column n of B at a share offset. -/
def Team.bColumn (v : Team) (slot : BitVec 64) (off n : Nat) : List Nat :=
  runCodes slot 32 ((List.range (runBytes slot 32)).map fun i => FMap.get 0 v.bstore (65536 * n + off + i))

/-- K-step j of a loop: the tile's elements in order, and whether an int32 sum wrapped. -/
def Team.kStep (v : Team) (c : LoopCmd) (j : Nat) : List (W32 × Bool) :=
  let p := c.params
  let ab := ((pAbase p : Int) + j * pAinc p).toNat
  let bo := ((pBbase p : Int) + j * pBinc p).toNat
  let rows := (List.range 128).map fun m => (v.aRow c.fa c.ka ab (pPitch p) m, v.entry c.fa (pScA p) j (pScAinc p) m)
  let cols := (List.range 256).map fun n => (v.bColumn c.fb bo n, v.entry c.fb (pScB p) j (pScBinc p) n)
  ((List.range 128).zip rows).flatMap fun r => ((List.range 256).zip cols).map fun q =>
    kblockAccumulate (if j = 0 ∧ pZf p then 0 else v.element c.tile r.1 q.1) (r.2.1.zip q.2.1) c.fa c.fb r.2.2 q.2.2

/-- K_STEP: one K-step of a loop, the loop's end if it is the last and no drain follows. -/
def State.stepLoop (s : State) (t i : Nat) : State :=
  match (s.team t).queue[i]? with
  | some m =>
    match m.op with
    | .loop c =>
      if s.mayRun t i && decide (m.steps < pCount c.params) && s.turnOf t then
        let xs := (s.team t).kStep c m.steps
        let m1 := { m with steps := m.steps + 1, wrapped := m.wrapped || xs.any (·.2) }
        let s1 := ((s.takeTurn t).modTeam t fun v => v.setTile c.tile (xs.map (·.1))).modCmd t m.num fun _ => m1
        if m1.steps = pCount c.params ∧ !pDe c.params then s1.matrixDone t m1 else s1
      else s
    | .drain _ _ _ | .zero _ | .write _ _ _ _ | .scale _ _ _ => s
  | none => s

def execKStep (t i : Nat) (s : State) : Result := event (fun u => u.stepLoop t i) s

/-! ### Drains (R268, R269) -/

/-- The dice of R268. -/
def dice (r c : Nat) (key : W64) : Nat :=
  let x0 : W64 := BitVec.ofNat 64 (r * 2 ^ 32 + c) ^^^ key
  let x1 := (x0 ^^^ (x0 >>> 32)) * 0xB7E1A3C94D2F6E85
  let x2 := (x1 ^^^ (x1 >>> 29)) * 0x8F3C5D27A1E9B463
  (x2 ^^^ (x2 >>> 32)).toNat % 2 ^ 32

/-- A rounding to f32 in the drain. -/
def drainRound (x : Ex) : Nat × Flags := Fmt.f32.encode .rne false false x

/-- One element of the output (R268): the tile's bits, the residual's code, the element's place; the code and the conditions. -/
def drainElement (p : List W64) (d : List Byte) (x : W32) (res : Nat) (m n : Nat) : Nat × Flags :=
  match drainFmt (dOfmt d) with
  | none => (x.toNat, 0)
  | some f =>
    let v := if dIacc d then Ex.ofInt x.toInt else Fmt.f32.decode x.toNat
    let a := drainRound (Ex.mul (Ex.mul v (Fmt.f32.decode (pTsA p))) (Fmt.f32.decode (pTsB p)))
    let b := if dRes d then
        match drainFmt (dRfmt d) with
        | some rf => drainRound (Ex.add false (Fmt.f32.decode a.1) (rf.decode res))
        | none => (a.1, 0)
      else (a.1, 0)
    let c : Nat × Flags := if dDrop d then
        if dice ((dRow0 d + m) % 2 ^ 32) ((dCol0 d + n) % 2 ^ 32) (dKey d) < dThresh d then
          drainRound (Ex.mul (Fmt.f32.decode b.1) (Fmt.f32.decode (dInvkeep d)))
        else (0, 0)
      else (b.1, 0)
    let o := f.encode (dRnd d) (dSat d) false (Fmt.f32.decode c.1)
    (o.1, (a.2 ||| b.2 ||| c.2 ||| o.2) &&& 0x05)

/-- The first byte of each 64 KiB page that the rows of a range touch. -/
def rowPages (base : W64) (pitch rows bytes : Nat) : List W64 :=
  (List.range rows).flatMap fun m => pagesFrom (base + BitVec.ofNat 64 (m * pitch)) bytes

/-- The parameters, the descriptor and the tile of a command that is ready to drain. -/
def MatCmd.drainOf (m : MatCmd) : Option (Nat × List W64 × List Byte) :=
  if m.drained then none
  else match m.op with
    | .loop c => if m.steps = pCount c.params ∧ pDe c.params then some (c.tile, c.params, c.desc) else none
    | .drain t p d => some (t, p, d)
    | .zero _ | .write _ _ _ _ | .scale _ _ _ => none

/-- A byte of a residual: none in a poisoned line. -/
def State.residualByte (s : State) (t : Nat) (w : Who) (d : List Byte) (off : Nat) : Option Byte :=
  let a := dRaddr d + BitVec.ofNat 64 off
  if dRtm d then some (FMap.get 0 (s.team t).tmem a.toNat)
  else match s.threadPage w [] false a with
    | .ok l npa =>
      if isFabric npa then some (Config.byte (s.draws + off))
      else
        let b := s.loadAddr w.die l npa
        if s.poisoned b then none else some (s.readByte b)
    | .missing _ _ | .bad => none

/-- The residual of element (m, n): none where it lies in a poisoned line. -/
def State.residual (s : State) (t : Nat) (w : Who) (d : List Byte) (m n : Nat) : Option Nat :=
  if dRes d then
    let er := fmtBytes (dRfmt d)
    let bs := (List.range er).map fun i => s.residualByte t w d (m * dRpitch d + n * er + i)
    if bs.any Option.isNone then none else some (leNat (bs.filterMap id))
  else some 0

/-- The first poisoned line of a residual. -/
def State.residualPoison (s : State) (t : Nat) (w : Who) (d : List Byte) : Option Nat :=
  if dRes d then
    ((List.range (dRows d)).flatMap fun m => (List.range (dCols d)).map fun n => (m, n)).findSome? fun e =>
      let off := e.1 * dRpitch d + e.2 * fmtBytes (dRfmt d)
      ((List.range (fmtBytes (dRfmt d))).find? fun i => (s.residualByte t w d (off + i)).isNone).map fun i =>
        (dRaddr d + BitVec.ofNat 64 (off + i)).toNat / 128 * 128
  else none

/-- Bytes at consecutive addresses put into aligned sectors of 32, in order. -/
def sectorsOf : List (Nat × Byte × Byte) → List (List (Nat × Byte × Byte))
  | [] => []
  | b :: bs =>
    match sectorsOf bs with
    | (c :: cs) :: r => if c.1 / 32 = b.1 / 32 then (b :: c :: cs) :: r else [b] :: (c :: cs) :: r
    | r => [b] :: r

/-- One write of a drain: performed, spilled, failed, or waiting for room in the spill buffer (none). -/
def State.drainWrite (t : Nat) (m : MatCmd) (w : Who) (a : Option (State × Option Nat)) (bs : List (Nat × Byte × Byte)) :
    Option (State × Option Nat) :=
  match a with
  | none => none
  | some (s, bad) =>
    match s.threadWrite w m.gone bs with
    | .ok u => some (u, bad)
    | .bad => some (s, bad.or ((bs.head?).map (·.1)))
    | r => match s.spillWrite w m.asked { ctx := w.ctx, engine := none, team := some t, cmd := m.num, bytes := bs } r with
      | .full _ => none
      | .held u => some (u, bad)

/-- Whether a command has writes in the spill buffer. -/
def State.spilledFor (s : State) (t num die : Nat) : Bool :=
  (s.die die).spill.any fun e => e.team == some t && e.engine.isNone && e.cmd == num

/-- The output of a drain, in rows: each element with its address; none where the residual is poisoned. -/
def State.drainRow (s : State) (t tile : Nat) (w : Who) (p : List W64) (d : List Byte) (m : Nat) : List (Option (Nat × Nat × Flags)) :=
  (List.range (dCols d)).map fun n =>
    (s.residual t w d m n).map fun r =>
      let e := drainElement p d ((s.team t).element tile m n) r m n
      ((pDst p + BitVec.ofNat 64 (m * dOpitch d + n * fmtBytes (dOfmt d))).toNat, e.1, e.2)

/-- DRAIN: a tile drained whole (R268, R269). It waits for a missing residual page, and for room in the spill buffer. Of refused pages, the
first of the output is taken before the first of the residual. DESIGN CHOICE, log entries 31 and 70. -/
def State.drainTile (s : State) (t i : Nat) : State :=
  match (s.team t).queue[i]? with
  | none => s
  | some m =>
    match m.drainOf with
    | none => s
    | some (tile, p, d) =>
      if !s.mayRun t i then s
      else
        let w := s.matrixWho t m
        let eo := fmtBytes (dOfmt d)
        let outs := if dDtm d then [] else rowPages (pDst p) (dOpitch d) (dRows d) (dCols d * eo)
        let ress := if dRes d && !dRtm d then rowPages (dRaddr d) (dRpitch d) (dRows d) (dCols d * fmtBytes (dRfmt d)) else []
        let isBad (write : Bool) (a : W64) : Bool := match s.threadPage w m.gone write a with
          | .bad => true
          | .missing _ _ | .ok _ _ => false
        match ((outs.filter (isBad true)) ++ ress.filter (isBad false)).head? with
        | some a => (s.touch w.ctx (outs ++ ress)).matrixDone t { m with bad := some a.toNat }
        | none =>
          let misses := ress.filterMap fun a => match s.threadPage w m.gone false a with
            | .missing q mal => some (q, mal)
            | .bad | .ok _ _ => none
          let s1 := s.touch w.ctx (outs ++ ress)
          if !misses.isEmpty then
            (misses.foldl (fun u q => u.threadPost w m.asked 0 q.1 q.2) s1).modCmd t m.num fun x =>
              { x with asked := (x.asked ++ misses.map (·.1)).dedup }
          else
            let rows := (List.range (dRows d)).map fun r => (s.drainRow t tile w p d r).filterMap id
            let fl := rows.foldl (fun f r => r.foldl (fun g e => g ||| e.2.2) f) (0 : Flags)
            let bytes := rows.map fun r => r.flatMap fun e => byteRun e.1 (leBytes eo e.2.1)
            let late := outs.filterMap fun a => match s.threadPage w m.gone true a with
              | .missing q mal => some (q, mal)
              | .bad | .ok _ _ => none
            let m1 := { m with flags := m.flags ||| fl, bad := s.residualPoison t w d, drained := true, asked := (m.asked ++ late.map (·.1)).dedup }
            if dDtm d then
              let bs := bytes.flatMap id
              ((s1.modTeam t fun v => bs.foldl (fun y b => { y with tmem := FMap.set 0 y.tmem b.1 b.2 }) v).invalidate
                ((bs.map fun b => LineId.team t (b.1 / 128)).dedup) none).matrixDone t m1
            else
              let ws := bytes.flatMap fun r => sectorsOf (r.map fun b => (b.1, (0xFF : Byte), b.2))
              match ws.foldl (State.drainWrite t m1 w) (some (late.foldl (fun u q => u.threadPost w m.asked 1 q.1 q.2) s1, m1.bad)) with
              | none => s
              | some (u, bad) =>
                let m2 := { m1 with bad := bad }
                if u.spilledFor t m.num w.die then u.modCmd t m.num fun _ => m2 else u.matrixDone t m2

def execDrain (t i : Nat) (s : State) : Result := event (fun u => u.drainTile t i) s

/-! ### MZERO, MWR, MSCL performed -/

/-- MATRIX_COMMAND_PERFORM. -/
def State.performCmd (s : State) (t i : Nat) : State :=
  match (s.team t).queue[i]? with
  | none => s
  | some m =>
    if !s.mayRun t i then s
    else match m.op with
      | .zero n => (s.modTeam t fun v => v.setTile n []).matrixDone t m
      | .write n r c ls =>
        (s.modTeam t fun v => ls.foldl (fun y e => { y with acc := FMap.set 0 y.acc (tileKey n r (c + e.1)) e.2 }) v).matrixDone t m
      | .scale off idx g =>
        (s.modTeam t fun v => (List.range (32 * g)).foldl (fun y e =>
          { y with scale := FMap.set 0 y.scale (idx + e) (BitVec.ofNat 16 (leNat (v.readBytes (off + 2 * e) 2))) }) v).matrixDone t m
      | .loop _ | .drain _ _ _ => s

def execMatrixCommandPerform (t i : Nat) (s : State) : Result := event (fun u => u.performCmd t i) s

end Sys2Proof.Machine
end

