-- ==== Sys2Proof/Machine/Scalar.lean ====
section
/-! DEFINITION. Scalar arithmetic (R88 to R90). All operands are 64 bits wide, MODE is ignored, nothing is guarded. -/

namespace Sys2Proof.Machine

/-! ### Values (R88) -/

/-- High half of the signed product. -/
def mulHigh (a b : W64) : W64 := BitVec.ofInt 64 (a.toInt * b.toInt / 2 ^ 64)
/-- High half of the unsigned product. -/
def mulHighN (a b : W64) : W64 := BitVec.ofNat 64 (a.toNat * b.toNat / 2 ^ 64)
/-- Signed quotient, towards zero; all ones for a zero divisor; the most negative number by −1 stays. -/
def divS (a b : W64) : W64 := if b = 0 then ones64 else BitVec.ofInt 64 (a.toInt.tdiv b.toInt)
def divN (a b : W64) : W64 := if b = 0 then ones64 else BitVec.ofNat 64 (a.toNat / b.toNat)
/-- Signed remainder, with the sign of `a`; `a` for a zero divisor. -/
def remS (a b : W64) : W64 := if b = 0 then a else BitVec.ofInt 64 (a.toInt - b.toInt * a.toInt.tdiv b.toInt)
def remN (a b : W64) : W64 := if b = 0 then a else BitVec.ofNat 64 (a.toNat - b.toNat * (a.toNat / b.toNat))
/-- The shift count: the low six bits. -/
def shiftCount (b : W64) : Nat := b.toNat % 64
def boolW (c : Bool) : W64 := if c then 1 else 0
def sext13 (i : BitVec 13) : W64 := i.signExtend 64
/-- SLUI (R90). -/
def luiValue (i : BitVec 19) : W64 := ((i ++ (0 : BitVec 13) : BitVec 32)).signExtend 64

/-- A form with two sources (R88). -/
def scalarOp (i : Instr) (d a b : Nat) (f : W64 → W64 → W64) (s : State) : Result :=
  regOp i (fun r => r.setS d (f (r.getS a) (r.getS b))) s

/-- A form with one source (R89). -/
def immOp (i : Instr) (d a : Nat) (f : W64 → W64) (s : State) : Result := regOp i (fun r => r.setS d (f (r.getS a))) s

/-! ### Meanings -/

def execSadd (d a b : Nat) (s : State) : Result := scalarOp (.sadd d a b) d a b (fun x y => x + y) s
def execSsub (d a b : Nat) (s : State) : Result := scalarOp (.ssub d a b) d a b (fun x y => x - y) s
def execSmul (d a b : Nat) (s : State) : Result := scalarOp (.smul d a b) d a b (fun x y => x * y) s
def execSmulh (d a b : Nat) (s : State) : Result := scalarOp (.smulh d a b) d a b (fun x y => mulHigh x y) s
def execSmulhN (d a b : Nat) (s : State) : Result := scalarOp (.smulhN d a b) d a b (fun x y => mulHighN x y) s
def execSdiv (d a b : Nat) (s : State) : Result := scalarOp (.sdiv d a b) d a b (fun x y => divS x y) s
def execSdivN (d a b : Nat) (s : State) : Result := scalarOp (.sdivN d a b) d a b (fun x y => divN x y) s
def execSrem (d a b : Nat) (s : State) : Result := scalarOp (.srem d a b) d a b (fun x y => remS x y) s
def execSremN (d a b : Nat) (s : State) : Result := scalarOp (.sremN d a b) d a b (fun x y => remN x y) s
def execSand (d a b : Nat) (s : State) : Result := scalarOp (.sand d a b) d a b (fun x y => x &&& y) s
def execSor (d a b : Nat) (s : State) : Result := scalarOp (.sor d a b) d a b (fun x y => x ||| y) s
def execSxor (d a b : Nat) (s : State) : Result := scalarOp (.sxor d a b) d a b (fun x y => x ^^^ y) s
def execSshl (d a b : Nat) (s : State) : Result := scalarOp (.sshl d a b) d a b (fun x y => x <<< shiftCount y) s
def execSshr (d a b : Nat) (s : State) : Result := scalarOp (.sshr d a b) d a b (fun x y => x >>> shiftCount y) s
def execSsra (d a b : Nat) (s : State) : Result := scalarOp (.ssra d a b) d a b (fun x y => x.sshiftRight (shiftCount y)) s
def execSmin (d a b : Nat) (s : State) : Result := scalarOp (.smin d a b) d a b (fun x y => if x.slt y then x else y) s
def execSminN (d a b : Nat) (s : State) : Result := scalarOp (.sminN d a b) d a b (fun x y => if x.ult y then x else y) s
def execSmax (d a b : Nat) (s : State) : Result := scalarOp (.smax d a b) d a b (fun x y => if y.slt x then x else y) s
def execSmaxN (d a b : Nat) (s : State) : Result := scalarOp (.smaxN d a b) d a b (fun x y => if y.ult x then x else y) s
def execSslt (d a b : Nat) (s : State) : Result := scalarOp (.sslt d a b) d a b (fun x y => boolW (x.slt y)) s
def execSsltn (d a b : Nat) (s : State) : Result := scalarOp (.ssltn d a b) d a b (fun x y => boolW (x.ult y)) s
/-- SSEL: the old destination is the condition. -/
def execSsel (d a b : Nat) (s : State) : Result :=
  regOp (.ssel d a b) (fun r => r.setS d (if r.getS d != 0 then r.getS a else r.getS b)) s
def execSaddi (d a : Nat) (i : BitVec 13) (s : State) : Result := immOp (.saddi d a i) d a (fun x => x + sext13 i) s
def execSandi (d a : Nat) (i : BitVec 13) (s : State) : Result := immOp (.sandi d a i) d a (fun x => x &&& sext13 i) s
def execSori (d a : Nat) (i : BitVec 13) (s : State) : Result := immOp (.sori d a i) d a (fun x => x ||| sext13 i) s
def execSxori (d a : Nat) (i : BitVec 13) (s : State) : Result := immOp (.sxori d a i) d a (fun x => x ^^^ sext13 i) s
def execSshli (d a : Nat) (n : BitVec 6) (s : State) : Result := immOp (.sshli d a n) d a (fun x => x <<< n.toNat) s
def execSlui (d : Nat) (i : BitVec 19) (s : State) : Result := regOp (.slui d i) (fun r => r.setS d (luiValue i)) s

end Sys2Proof.Machine
end

