-- ==== Sys2Proof/Machine/Capacity.lean ====
section
/-! DEFINITION. CWB, CINV and CDISC (R154); the capacity instructions (R185 to R197); CMIT and SPECRD (R213, R214). -/

namespace Sys2Proof.Machine

/-! ### Ranges (R154, R190) -/

/-- Whether a range wraps, has an end that is not canonical, or, where it is limited, is longer than 16 MiB. -/
def rangeBad (limited : Bool) (base len : W64) : Bool :=
  decide (2 ^ 64 < base.toNat + len.toNat) || !canonical base || !canonical (base + len - 1) || (limited && decide (2 ^ 24 < len.toNat))

/-- The permission trap, cause range. DEDUCED, log entry 23. -/
def rangeTrap (base : W64) (gl : Nat) : Trap := { cause := 4, sub := 4, addr := base, info := BitVec.ofNat 32 gl }

/-- A slice goes on with no effect but its PC. -/
def State.pass (s : State) (t k : Nat) : State × Did := (s.modSlice t k fun sl => { sl with regs := sl.regs.adv }, .plain)

/-- A range operation held, as one written line of its own in the chunk that takes it (R190, R199). -/
def holdRange (o : RangeOp) (st v : State) (t k : Nat) (base len : W64) : State × Did :=
  match st.room v t k [.range (v.slice t k).chunk.held.length] [] with
  | .left w => (w, .gone)
  | .ok w =>
    let n := (w.slice t k).chunk.held.length
    (w.modSlice t k fun sl => let h := sl.hold [.range o base len n] [.range n] []; { h with regs := h.regs.adv }, .plain)

/-- A range instruction in each slice, once its range is found good: a length of 0 does nothing. -/
def eachRange (i : Instr) (a b : Nat) (limited : Bool) (act : State → State → Nat → Nat → W64 → W64 → State × Did) (s : State) : Result :=
  issue i (fun st u t ks => eachSlice (fun v t k =>
    let base := (v.slice t k).regs.getS a
    let len := (v.slice t k).regs.getS b
    if len = 0 then v.pass t k
    else if rangeBad limited base len then (st.trapIn v t k i (rangeTrap base (st.firstLane k)), .gone)
    else act st v t k base len) u t ks) s

def execCwb (a b : Nat) (s : State) : Result := eachRange (.cwb a b) a b false (holdRange .wb) s
def execCinv (a b : Nat) (s : State) : Result := eachRange (.cinv a b) a b false (holdRange .inv) s

/-- The translated pages of a range: for each 64 KiB piece its first byte and its leaf. -/
def State.rangeLeavesAt (s : State) (c : Nat) (base len : W64) : List (W64 × Leaf) :=
  (s.rangePages c base len).map fun e => (BitVec.ofNat 64 e.1.1, e.2)

/-- The first page of a range, in ascending order and passing over forfeited ones, that a class or the w bit forbids. DEDUCED, log entry 23. -/
def pageTrap (ps : List (W64 × Leaf)) (classOk : Leaf → W64 → Bool) (gl : Nat) : Option Trap :=
  (ps.find? fun p => !p.2.ff && (!classOk p.2 p.1 || !p.2.w)).map fun p =>
    { cause := 4, sub := if classOk p.2 p.1 then 1 else 0, addr := p.1, info := BitVec.ofNat 32 gl }

/-- The first page of a range, passing over forfeited ones, that lies in an expander that has failed: its trap (R351). -/
def State.downTrap (s : State) (ps : List (W64 × Leaf)) (gl : Nat) : Option Trap :=
  (ps.find? fun p => !p.2.ff && s.expanderDown (p.2.npa p.1)).map fun p => { cause := 7, sub := 0, addr := p.1, info := BitVec.ofNat 32 gl }

/-- CDISC: every translated page that is not forfeited needs w and class DEV or SYS (R154), and an expander that has not failed (R351). -/
def execCdisc (a b : Nat) (s : State) : Result :=
  eachRange (.cdisc a b) a b false (fun st v t k base len =>
    let ps := v.rangeLeavesAt (v.team t).ctx base len
    match (pageTrap ps (fun l va => (l.cc == .dev || l.cc == .sys) && !isFabric (l.npa va)) (st.firstLane k)).or (v.downTrap ps (st.firstLane k)) with
    | some x => (st.trapIn v t k (.cdisc a b) x, .gone)
    | none => holdRange .disc st (v.touch (v.team t).ctx (ps.map (·.1))) t k base len) s

/-- What the pages of RSVPIN, RSVUNPIN and CZERO need (R192, R193). DEDUCED, log entry 24. `noHost` refuses a page of host memory with cause class, an NC one
(R346) like a SYS one: that "in device or expander memory" binds all the classes is the model's choice. DESIGN CHOICE, log entry 62. -/
def wantRange (bars : Cc → Bool) (noHost : Bool) : Want :=
  { n := 1, r := false, w := true, kind := 4, bars := bars, data := false, noHost := noHost, noRemote := true }

/-- RSVPIN, RSVUNPIN and CZERO: every page of the range is checked at issue; a missing page parks the slice (R190). -/
def checkedRange (i : Instr) (a b : Nat) (w : Want) (o : RangeOp) (s : State) : Result :=
  issue i (fun st u t ks =>
    let bad (v : State) (k : Nat) : Bool :=
      (v.slice t k).regs.getS b != 0 && rangeBad true ((v.slice t k).regs.getS a) ((v.slice t k).regs.getS b)
    let out := eachSlice (fun v t k => (st.trapIn v t k i (rangeTrap ((v.slice t k).regs.getS a) (st.firstLane k)), .gone)) u t (ks.filter (bad u))
    if u.haltedSince out.1 t then (out.1, ks.map fun k => (k, .gone)) else
    let r := sliceAccess i 4 false
      (fun v t k =>
        (rangePieces ((v.slice t k).regs.getS a).toNat ((v.slice t k).regs.getS b).toNat).map fun p => (BitVec.ofNat 64 p.1, w))
      (fun st v t k _ =>
        if (v.slice t k).regs.getS b = 0 then v.pass t k
        else holdRange o st v t k ((v.slice t k).regs.getS a) ((v.slice t k).regs.getS b)) st out.1 t (ks.filter fun k => !bad u k)
    (r.1, out.2 ++ r.2)) s

def execRsvpin (a b : Nat) (s : State) : Result := checkedRange (.rsvpin a b) a b (wantRange (fun c => c == .io) true) .pin s
def execRsvunpin (a b : Nat) (s : State) : Result := checkedRange (.rsvunpin a b) a b (wantRange (fun c => c == .io) true) .unpin s
def execCzero (a b : Nat) (s : State) : Result := checkedRange (.czero a b) a b (wantRange (fun c => c == .io) false) .zero s

/-! ### FORFEIT (R195) -/

/-- A range of memory made blank. -/
def Memory.clear (m : Memory) (lo n : Nat) : Memory := m.filter fun c => !(decide (lo ≤ c.1) && decide (c.1 < lo + n))

/-- A block given up: its cached copies gone without write-back, its granules returned; how many it had. A poisoned block stays. -/
def State.forfeitBlock (s : State) (b : Nat) : State × Nat :=
  let v := s.block b
  let s1 := { s with llc := s.llc.filter fun e => blockOfLine e.1 != b,
                     slices := s.slices.map fun e => (e.1, { e.2 with nc := e.2.nc.filter fun x => blockOfLine x.1 != b }) }
  if v.bad then (s1, 0)
  else
    let s2 := { s1.setBlock b { v with codes := [], count := 0, ptrs := [], pinned := false } with mem := s1.mem.clear (b * 4096) 4096 }
    (v.ptrs.foldl (fun u g => u.release b g) s2, v.count)

/-- The blocks of a page, every replica. -/
def State.pageBlocks (s : State) (l : Leaf) : List Nat :=
  (List.range (l.pages * 16)).flatMap fun i => (s.copies l.rep (l.frame + 4096 * i)).map blockOf

/-- The parked instruction's read set and buffered stores lie in some blocks. -/
def Park.inBlocks (p : Park) (blocks : List Nat) : Bool :=
  p.rset.any (fun x => match x with
    | .mem l => blocks.contains (blockOfLine l)
    | .team _ _ | .mailbox _ | .issued _ | .done _ | .chan _ _ | .log _ | .range _ => false) ||
  p.buf.any fun b => b.bytes.any (fun y => blocks.contains (blockOf y.npa)) || b.red.any fun y => blocks.contains (blockOf y.npa)

/-- Whether a chunk holds a translation through a page, given by its blocks and its addresses: it has read or holds writes to the
page's lines, holds a range over its addresses, or has fetched from it. -/
def Chunk.holdsPage (ch : Chunk) (blocks : List Nat) (va n : Nat) : Bool :=
  (ch.rlines ++ ch.wlines).any (fun x => match x with
    | .mem l => blocks.contains (blockOfLine l)
    | .team _ _ | .mailbox _ | .issued _ | .done _ | .chan _ _ | .log _ | .range _ => false) ||
  ch.held.any (fun it => match it.eff with
    | .range _ base len _ => decide (base.toNat < va + n) && decide (va < base.toNat + len.toNat)
    | _ => false) ||
  ch.code.any fun p => decide (va % 2 ^ 57 ≤ p * 65536) && decide (p * 65536 < va % 2 ^ 57 + n)

/-- Whether a slice has copies of a page's lines from NC loads: its chunks since its last commit have made them (R147). -/
def Slice.ncHolds (sl : Slice) (blocks : List Nat) : Bool := sl.nc.any fun e => blocks.contains (blockOfLine e.1)

/-- What a shootdown does to a slice: the chunk in commit, and the open chunk, roll back where they hold a translation through the page; at level 2, which
cannot roll back (R211), and where lanes have been performed at another agent, the parked instruction alone is performed anew. -/
def Slice.shot (blocks : List Nat) (va n : Nat) (sl : Slice) : Slice :=
  let nc := sl.ncHolds blocks
  let v := match sl.prev with
    | some p => if p.holdsPage blocks va n || nc then { sl with prevHit := true } else sl
    | none => sl
  let parked := match sl.park with
    | some p => p.inBlocks blocks
    | none => false
  if decide (sl.level < 2) && !sl.wentFar && (sl.chunk.holdsPage blocks va n || parked || nc) then { v with hit := true }
  else { v with park := v.park.map fun p => if p.inBlocks blocks then p.anew else p }

/-- A shootdown: every open chunk of the context that holds a translation through the page rolls back (R141). -/
def State.shootdown (s : State) (c : Nat) (blocks : List Nat) (va n : Nat) (skip : Nat) : State :=
  { s with slices := s.slices.map fun e => if e.1 != skip && (s.team (e.1 / 256)).ctx == c then (e.1, e.2.shot blocks va n) else e }

/-- A page given up, its leaf marked forfeited; the granules freed. -/
def State.forfeitPage (s0 : State) (t k : Nat) (va : W64) (l : Leaf) : State × Nat :=
  let s := s0.finishPosts (s0.team t).ctx
  let bs := s.pageBlocks l
  let r := bs.foldl (fun (a : State × Nat) b => let x := a.1.forfeitBlock b; (x.1, a.2 + x.2)) (s, 0)
  let s1 := r.1.tableWrite [(l.addr + 1, ((r.1.readWord64 l.addr) ||| 0x800).extractLsb' 8 8)]
  (s1.shootdown (s.team t).ctx bs (va.toNat / 2 ^ levelShift l.lvl * 2 ^ levelShift l.lvl) (2 ^ levelShift l.lvl) (sliceKey t k), r.2)

/-- The accounting of freed granules against an open request (R187). -/
def State.forfeitAccount (s : State) (t k c f : Nat) : State :=
  let q := min f (s.ctx c).mailbox.owed.toNat
  let s1 := s.modCtx c fun x =>
    { x with quota := x.quota - q, occupied := x.occupied - f, mailbox := { x.mailbox with owed := x.mailbox.owed - BitVec.ofNat 32 q } }
  if q = 0 then s1 else s1.invalidate [.mailbox c] (some (sliceKey t k))

/-- A page that the range does not wholly hold. -/
def pageOut (base len : W64) (p : W64 × Leaf) : Bool :=
  let size := 2 ^ levelShift p.2.lvl
  let lo := p.1.toNat / size * size
  decide (lo < base.toNat) || decide (base.toNat + len.toNat < lo + size)

/-- FORFEIT in one slice whose chunk has committed (R187, R195). With a length of 0 it gives up nothing: it stays a closer, and the count that it writes is 0.
DESIGN CHOICE, log entry 62. -/
def forfeitSlice (i : Instr) (d a b : Nat) (st v : State) (t k : Nat) : State × Did :=
  let base := (v.slice t k).regs.getS a
  let len := (v.slice t k).regs.getS b
  let c := (v.team t).ctx
  let done (u : State) (f : Nat) : State × Did :=
    (u.modSlice t k fun sl => { sl with regs := (sl.regs.setS d (BitVec.ofNat 64 f)).adv }, .closer)
  if len = 0 then done v 0
  else if base.toNat % 65536 ≠ 0 ∨ len.toNat % 65536 ≠ 0 ∨ rangeBad true base len then
    (st.trapIn v t k i (rangeTrap base (v.firstLane k)), .gone)
  else
    let ps := v.rangeLeavesAt c base len
    if ps.any (pageOut base len) then (st.trapIn v t k i (rangeTrap base (v.firstLane k)), .gone)
    else
      match pageTrap ps (fun l va => l.cc == .dev && !isFabric (l.npa va)) (v.firstLane k) with
      | some x => (st.trapIn v t k i x, .gone)
      | none =>
        let v1 := v.touch c (ps.map (·.1))
        let pages := (ps.filter fun p => !p.2.ff).foldl (fun (acc : List (W64 × Leaf)) p =>
          if acc.any fun q => q.2.addr == p.2.addr then acc else acc ++ [p]) []
        let r := pages.foldl (fun (x : State × Nat) p => let y := x.1.forfeitPage t k p.1 p.2; (y.1, x.2 + y.2)) (v1, 0)
        done (r.1.forfeitAccount t k c r.2) r.2

def execForfeit (d a b : Nat) (s : State) : Result :=
  issue (.forfeit d a b) (fun st u t ks => eachSlice (fun v t k =>
    match st.preIn v t k with
    | .ok w => forfeitSlice (.forfeit d a b) d a b st w t k
    | .left w => (w, .gone)) u t ks) s

/-! ### Readings and the balloon -/

/-- The granules of a context's pinned blocks. -/
def State.pinnedGranules (s : State) (c : Nat) : Nat :=
  (s.blocks.filter fun e => e.2.pinned && e.2.owner == some c).foldl (fun n e => n + e.2.count) 0

/-- A reading of the reserve or of stored sizes issues only when every earlier commit of its slices has completed, step 6 with it (R206, R247). -/
def afterCommits (f : State → Result) (s : State) : Result :=
  if s.cur.ks.any fun k => (s.slice s.cur.team k).prev.isSome || !(s.slice s.cur.team k).post.isEmpty then
    .next { s with cur := { s.cur with waits := true } }
  else f s

/-- RSVRD (R191). -/
def execRsvrd (d : Nat) (s : State) : Result :=
  afterCommits (issueRegs (.rsvrd d) fun st t _ r =>
    let c := (st.team t).ctx
    .ok (r.setS d (BitVec.ofNat 32 (st.pinnedGranules c) ++ BitVec.ofInt 32 (st.ctx c).reserve : BitVec 64)).adv) s

/-- BALRD (R196). -/
def execBalrd (d : Nat) (s : State) : Result :=
  issue (.balrd d) (fun st u t ks => eachSlice (fun v t k =>
    let c := (v.team t).ctx
    match st.room v t k [] [.mailbox c] with
    | .left w => (w, .gone)
    | .ok w =>
      let m := (w.ctx c).mailbox
      (w.modSlice t k fun sl =>
        let h := sl.hold [] [] [.mailbox c]
        { h with regs := (((h.regs.setS d m.id).setS (d + 1) (m.wanted.setWidth 64)).setS (d + 2)
            ((m.owed.setWidth 64 <<< 32) ||| BitVec.ofNat 64 m.urgency)).adv }, .plain)) u t ks) s

/-- BALACK: an answer to the open request closes it (R186, R197). -/
def execBalack (a b : Nat) (s : State) : Result :=
  issueCloser (.balack a b) (fun v t k =>
    let c := (v.team t).ctx
    let m := (v.ctx c).mailbox
    let r := (v.slice t k).regs
    let v1 := if m.id ≠ 0 ∧ r.getS a = m.id then
        (v.modCtx c fun x =>
          { x with mailbox := { m with id := 0, wanted := 0, owed := 0, answered := m.id, given := (r.getS b).setWidth 32 } }).invalidate
          [.mailbox c] (some (sliceKey t k))
      else v
    (v1.modSlice t k fun sl => { sl with regs := sl.regs.adv }, .closer)) s

/-! ### CSIZE (R194) -/

/-- What CSIZE needs of its page; an NC page of host memory is refused as a SYS one is. DESIGN CHOICE, log entry 62. -/
def wantSize (blk : Bool) : Want :=
  { n := 1, r := true, w := false, kind := 0, bars := fun c => c == .io, data := !blk, noHost := true, noRemote := true }

/-- CSIZE.l: the stored size and code, and those of the present content. -/
def lineReport (s : State) (line : Nat) : Nat :=
  let b := s.block (blockOfLine line)
  let code := s.lineCode line
  let dirty := match FMap.find? s.llc line with
    | some l => l.dirty
    | none => false
  b.storedSize (lineInBlock line) * 4096 + FMap.get 0 b.codes (lineInBlock line) * 256 +
  (if dirty then codeSectors code else b.storedSize (lineInBlock line)) * 16 + code

/-- CSIZE.b. -/
def blockReport (s : State) (b : Nat) : Nat :=
  let v := s.block b
  if v.bad then 0x8000
  else v.rep.toNat * 2 ^ 14 + v.uio.toNat * 2 ^ 13 + v.pinned.toNat * 2 ^ 12 + v.count * 256 + s.claim b

def execCsize (blk : Bool) (d a : Nat) (s : State) : Result :=
  afterCommits (issue (.csize blk d a) (sliceAccess (.csize blk d a) 0 false (fun v t k => [((v.slice t k).regs.getS a, wantSize blk)])
    (fun st v t k oks =>
      match oks with
      | [] => v.pass t k
      | x :: _ =>
        let line := lineOf (v.loadAddr (v.teamDie t) x.2.1 x.2.2)
        let lines := if blk then (List.range 32).map fun i => LineId.mem (blockOfLine line * 32 + i) else [.mem line]
        match st.room v t k [] lines with
        | .left w => (w, .gone)
        | .ok w =>
          let n := if blk then blockReport w (blockOfLine line) else lineReport w line
          (w.modSlice t k fun sl =>
            let h := sl.hold [] [] lines
            { h with regs := (h.regs.setS d (BitVec.ofNat 64 n)).adv }, .plain)))) s

/-! ### CMIT and SPECRD -/

/-- CMIT: the chunk, the CMIT its last instruction, ends and commits, and its flags are delivered (R204, R214). -/
def execCmit (s : State) : Result :=
  issue .cmit (fun _ u t ks => eachSlice (fun v t k => ((v.pass t k).1, .cmit)) u t ks) s

/-- SPECRD's readings (R213). -/
def specValue (sl : Slice) (n : Nat) : W64 :=
  match n with
  | 0 => BitVec.ofNat 64 (min sl.cm 65535 * 65536 + min sl.rb 255 * 256 + sl.level)
  | 1 => BitVec.ofNat 64 sl.rollbacks
  | 2 => BitVec.ofNat 64 sl.commits
  | _ => BitVec.ofNat 64 ((readLines sl.chunk.rlines).length * 2 ^ 32 + sl.chunk.wlines.length * 2 ^ 16 + sl.chunk.instrs)

def execSpecrd (d n : Nat) (s : State) : Result :=
  issueRegs (.specrd d n) (fun st t k r => .ok (r.setS d (specValue (st.slice t k) n)).adv) s

end Sys2Proof.Machine
end

