-- ==== Sys2Proof/Machine/Engines.lean ====
section
/-! DEFINITION. Engine commands and their threads: COPY, CWAIT, CSEQ, CSPILL, ALLRED, REPSYNC (R276 to R293). -/

namespace Sys2Proof.Machine

/-! ### Copy descriptors (R279, R280) -/

def cCtl (d : List Byte) : Nat := field d 16 8
def cBits (d : List Byte) (hi lo : Nat) : Nat := bitsOf (cCtl d) hi lo
def cSrc (d : List Byte) : W64 := field64 d 0
def cDst (d : List Byte) : W64 := field64 d 8
def cBounds (d : List Byte) : W64 := field64 d 24
def cNdim (d : List Byte) : Nat := cBits d 3 0 + 1
def cConv (d : List Byte) : Nat := cBits d 17 16
def cEsz (d : List Byte) : Nat := cBits d 19 18
def cSfmt (d : List Byte) : Nat := cBits d 23 20
def cDfmt (d : List Byte) : Nat := cBits d 27 24
def cSlot (d : List Byte) : Nat := cBits d 30 28
def cSat (d : List Byte) : Bool := cBits d 31 31 == 1
def cRnd (d : List Byte) : Rnd := Rnd.ofBits (cBits d 33 32)
def cTe (d : List Byte) : Bool := cBits d 34 34 == 1
def cT0 (d : List Byte) : Nat := cBits d 38 35
def cT1 (d : List Byte) : Nat := cBits d 42 39
def cFe (d : List Byte) : Bool := cBits d 43 43 == 1
def cCores (d : List Byte) : Nat := cBits d 63 48
def cSkind (d : List Byte) : Bool := cBits d 15 15 == 1
def cDkind (d : List Byte) : Nat := cBits d 14 12

/-- The 56 bits of dimension k, from 1. -/
def cDim (d : List Byte) (k : Nat) : Nat := field d (27 + 7 * k) 7
def cSize (d : List Byte) (k : Nat) : Nat := if k = 0 then field d 32 2 + 1 else cDim d k % 65536 + 1
/-- Strides in bytes; dimension 0 is contiguous. -/
def cSstride (d : List Byte) (k : Nat) : Int := if k = 0 then 0 else intOfBits 20 true (cDim d k / 2 ^ 16) * 2 ^ cBits d 7 4
def cDstride (d : List Byte) (k : Nat) : Int := if k = 0 then 0 else intOfBits 20 true (cDim d k / 2 ^ 36) * 2 ^ cBits d 11 8

/-- The exchange of the transposed dimensions. -/
def cSwap (d : List Byte) (k : Nat) : Nat :=
  if cTe d then (if k = cT0 d then cT1 d else if k = cT1 d then cT0 d else k) else k

/-- The extent of destination dimension k. -/
def cDsize (d : List Byte) (k : Nat) : Nat := cSize d (cSwap d k)

/-- Bits of an element of a format code of the sfmt list. -/
def fmtWidth (c : Nat) : Nat :=
  match fmtOfCode c .int with
  | some f => f.width
  | none => 8

/-- Bits of an element in the source, and in the destination, and from one destination element to the next. -/
def cSw (d : List Byte) : Nat := if cConv d = 0 then 8 * 2 ^ cEsz d else fmtWidth (cSfmt d)
def cDw (d : List Byte) (slot : BitVec 64) : Nat :=
  if cConv d = 0 then 8 * 2 ^ cEsz d else if cConv d = 1 then fmtWidth (cDfmt d) else slotWidth slot
def cDp (d : List Byte) (slot : BitVec 64) : Nat := if cConv d = 2 ∧ slotPack slot then 8 else cDw d slot

/-- Bytes of a run of dimension 0, in the source and in the destination. -/
def cSrun (d : List Byte) : Nat := (cSize d 0 * cSw d + 7) / 8
def cDrun (d : List Byte) (slot : BitVec 64) : Nat := (cDsize d 0 * cDp d slot + 7) / 8

/-- The dimensions from 1 up. -/
def cDims (d : List Byte) : List Nat := (List.range (cNdim d)).drop 1

def prodNat (xs : List Nat) : Nat := xs.foldl (· * ·) 1

/-- Destination runs; quantised blocks. -/
def cRuns (d : List Byte) : Nat := prodNat ((cDims d).map (cDsize d))
def cBlocks (d : List Byte) : Nat := cRuns d * (cSize d 0 / 32)

/-- The scale destination of conv = 2 (R284): its kind, and its address, offset or index. Of a global address bits [63:57] are as bit 56, which makes it canonical.
DESIGN CHOICE, log entry 70. -/
def cScKind (d : List Byte) : Nat := (cBounds d).toNat / 2 ^ 62
def cScBase (d : List Byte) : W64 := ((cBounds d).setWidth 57).signExtend 64

/-! ### Checks at issue (R285) -/

/-- The lowest and the highest offset that some strides reach. -/
def strideLow (dims : List Nat) (st : Nat → Int) (sz : Nat → Nat) : Int := dims.foldl (fun a k => a + min 0 (st k * ((sz k : Int) - 1))) 0
def strideHigh (dims : List Nat) (st : Nat → Int) (sz : Nat → Nat) : Int := dims.foldl (fun a k => a + max 0 (st k * ((sz k : Int) - 1))) 0

/-- A range of bytes, from its base: the first offset and one past the last. -/
def srcSpan (d : List Byte) : Int × Int :=
  (strideLow (cDims d) (cSstride d) (cSize d), strideHigh (cDims d) (cSstride d) (cSize d) + cSrun d)
def dstSpan (d : List Byte) (slot : BitVec 64) : Int × Int :=
  (strideLow (cDims d) (cDstride d) (cDsize d), strideHigh (cDims d) (cDstride d) (cDsize d) + cDrun d slot)

/-- A range leaves a region of `n` bytes. -/
def outOf (n base : Nat) (sp : Int × Int) : Bool := decide ((base : Int) + sp.1 < 0) || decide ((n : Int) < base + sp.2)

/-- A global range has an end that is not canonical. -/
def notCanonical (base : W64) (sp : Int × Int) : Bool :=
  outOf (2 ^ 64) base.toNat sp || !canonical (BitVec.ofInt 64 (base.toNat + sp.1)) || !canonical (BitVec.ofInt 64 (base.toNat + sp.2 - 1))

/-- A format of the sfmt list. -/
def copyFmt (c : Nat) : Bool := decide (8 ≤ c) && decide (c ≤ 14)

/-- The format that conv = 2 quantises to. -/
def slotFmt (slot : BitVec 64) : Fmt := (fmtOfCode (slotFmtCode slot) (Q4.ofBits (slotQtype slot))).getD .e4m3

/-- Whether COPY accepts a slot for conv = 2 (R284). -/
def copySlotOk (slot : BitVec 64) : Bool := slotAccepted slot && slotScales slot && decide (11 ≤ slotFmtCode slot)

/-- A broken limit of R279 to R284, in a descriptor of a team at `x` with its launch's record; `chan`: bound to a channel. DEDUCED, log entry 32. -/
def copyFieldsBad (r : LaunchRec) (x : Nat) (chan : Bool) (d : List Byte) : Bool :=
  let n := cNdim d
  cBits d 47 44 != 0 || (d.drop 125).any (fun b => b != 0) || decide (14 < n) || cConv d == 3 || decide (4 < cDkind d) ||
  (!cFe d && cConv d != 2 && cBounds d != 0) || (cConv d == 2 && (bitsOf (cBounds d).toNat 61 57 != 0 || cScKind d == 3)) ||
  ((List.range 14).drop n).any (fun k => cDim d k != 0) ||
  (cTe d && !(decide (cT0 d < cT1 d) && decide (cT1 d < n))) ||
  (cConv d == 1 && (!copyFmt (cSfmt d) || !copyFmt (cDfmt d) ||
    ((cSw d == 6 || fmtWidth (cDfmt d) == 6) && (cSize d 0 % 4 != 0 || (cTe d && cT0 d == 0))))) ||
  (cConv d == 2 && (!(cSfmt d == 8 || cSfmt d == 9 || cSfmt d == 10) || cTe d || cFe d || cSize d 0 % 32 != 0)) ||
  (cCores d != 0 && (cDkind d == 0 || cDkind d == 4)) ||
  (cDkind d == 2 && (decide (n < 2) || cDstride d 1 != 0 || (cDst d).toNat / 2 ^ 40 != 0 ||
    decide (256 < bitsOf (cDst d).toNat 39 32 + cDsize d 1))) ||
  (cDkind d == 3 && (cConv d != 0 || cEsz d != 1)) ||
  (List.range 16).any (fun i => (cCores d).testBit i && decide (r.nx ≤ x / 16 * 16 + i)) ||
  ((cDkind d == 4) != chan)

/-- The ranges of R285 step 5; `size`: the size of the channel's slot. DEDUCED, log entry 32. -/
def copyRangeTrap (r : LaunchRec) (size : Nat) (slot : BitVec 64) (d : List Byte) (gl : Nat) : Option Trap :=
  let trap (sub : Nat) (a : W64) : Option Trap := some { cause := 4, sub := sub, addr := a, info := BitVec.ofNat 32 gl }
  let src := srcSpan d
  let dst := dstSpan d slot
  let quant := cConv d == 2
  let n := cBlocks d
  let sc : Int × Int := (0, 2 * n)
  if cSkind d && outOf r.tmem (cSrc d).toNat src then trap 3 (cSrc d)
  else if cDkind d == 1 && outOf r.tmem (cDst d).toNat dst then trap 3 (cDst d)
  else if quant && cScKind d == 1 && outOf r.tmem (bitsOf (cBounds d).toNat 56 0) sc then trap 3 (cBounds d)
  else if cDkind d == 2 && outOf r.share ((cDst d).toNat % 2 ^ 32) dst then trap 7 (cDst d)
  else if cDkind d == 3 && outOf (2 * r.scaleEntries) (2 * (cDst d).toNat) dst then trap 7 (cDst d)
  else if cDkind d == 4 && outOf size (cDst d).toNat dst then trap 7 (cDst d)
  else if quant && cScKind d == 2 && outOf (2 * r.scaleEntries) (2 * bitsOf (cBounds d).toNat 56 0) sc then trap 7 (cBounds d)
  else if !cSkind d && notCanonical (cSrc d) src then trap 2 (cSrc d)
  else if cDkind d == 0 && notCanonical (cDst d) dst then trap 2 (cDst d)
  else if quant && cScKind d == 0 && notCanonical (cScBase d) sc then trap 2 (cBounds d)
  else none

/-- The size of a slot of a channel: every team of a launch configures its channels from one table (R237). -/
def State.slotSize (s : State) (t n : Nat) : Nat :=
  match (s.team t).chans[n]? with
  | some c => 128 * 2 ^ c.lsz
  | none => 0

/-- Steps 2 to 5 of R285, on a descriptor at `va`, with the register that names the binding; a channel whose owner has retired passes (R239, R287). -/
def State.copyTrap (s : State) (t : Nat) (f : Binding) (h va : W64) (d : List Byte) (gl : Nat) : Option Trap :=
  let r := s.params t
  let slot := r.slots.getD (cSlot d) 0
  if cConv d == 2 && !copySlotOk slot then some { cause := 1, sub := 5, addr := 0, info := 0 }
  else if copyFieldsBad r (s.team t).x (f == .channel) d then some { cause := 4, sub := 8, addr := va, info := BitVec.ofNat 32 gl }
  else
    let bind := match f with
      | .none => none
      | .gate => gateFault r.tmem h gl
      | .channel => if (s.handleOf t h).isNone then some (channelTrap gl) else none
    match bind with
    | some x => some x
    | none => copyRangeTrap r (match s.handleOf t h with
      | some (_, n) => s.slotSize t n
      | none => 0) slot d gl

/-! ### The commands at issue (R276, R277) -/

def Held.isEngine : Held → Bool
  | .engine _ _ => true
  | .store _ _ _ | .tstore _ | .red _ _ _ _ _ | .redt _ _ _ _ | .gate _ _ | .chan _ _ _ | .range _ _ _ _ | .matrix _ | .launchN _ _
  | .launchT _ _ | .graph _ _ | .signal _ _ | .csr _ _ => false

/-- The ticket of the slice's next engine command, the team's count as the slice sees it, its chunk in commit included (R277). -/
def State.ticket (s : State) (t k : Nat) : Nat := (s.team t).issued + 1 + ((s.slice t k).heldAll.filter fun x => x.eff.isEngine).length

/-- An engine command held, its ticket written, with the lines that its descriptor load read; the count of issued commands enters the signature
as well, and counts as no read line (R202, R276). -/
def State.holdEngine (st v : State) (i : Instr) (t k d : Nat) (rl : List LineId) (o : EngOp) : State × Did :=
  match st.room v t k [] (.issued t :: rl) with
  | .left w => (w, .gone)
  | .ok w =>
    let n := w.ticket t k
    st.atOnce i t k (w.modSlice t k fun sl =>
      let h := sl.hold [.engine n o] [] (.issued t :: rl)
      { h with regs := (h.regs.setS d (BitVec.ofNat 64 n)).adv }, .plain)

def execCopy (f : Binding) (d a b : Nat) (s : State) : Result :=
  issue (.copy f d a b) (sliceAccess (.copy f d a b) 0 false
    (fun v t k => [((v.slice t k).regs.getS a, wantDesc 128 fun c => c == .io)])
    (fun st v t k oks =>
      let r := v.descBytes t k 128 oks
      let va := (v.slice t k).regs.getS a
      let h := (v.slice t k).regs.getS b
      match r.1.copyTrap t f h va r.2 (st.firstLane k) with
      | some x => (st.trapIn r.1 t k (.copy f d a b) x, .gone)
      | none => st.holdEngine r.1 (.copy f d a b) t k d (v.loadLines t oks)
          (.copy f (if f == .gate then h.toNat else 0) (if f == .channel then r.1.handleOf t h else none) va r.2
            ((r.1.params t).slots.getD (cSlot r.2) 0)))) s

/-! ### ALLRED and REPSYNC at issue (R292, R293) -/

def aSrc (d : List Byte) : W64 := field64 d 0
def aDst (d : List Byte) : W64 := field64 d 8
def aSeq (d : List Byte) : W64 := field64 d 16
def aGroup (d : List Byte) : Nat := field d 24 4
def aRank (d : List Byte) : Nat := field d 28 4
def aCount (d : List Byte) : Nat := field d 32 4
def aType (d : List Byte) : Nat := field d 36 1 % 16
def aOp (d : List Byte) : Nat := field d 36 1 / 16 % 4
def aRnd (d : List Byte) : Rnd := Rnd.ofBits (field d 36 1 / 64)
def aSat (d : List Byte) : Bool := field d 37 1 % 2 == 1
def aWidth (d : List Byte) : Nat := if aType d = 8 ∨ aType d = 9 then 2 else 4
def aBytes (d : List Byte) : Nat := aCount d * aWidth d

/-- Steps 3 and 5 of R285 for ALLRED (R292). -/
def State.allredTrap (s : State) (va : W64) (d : List Byte) (gl : Nat) : Option Trap :=
  let trap (sub : Nat) (a : W64) : Option Trap := some { cause := 4, sub := sub, addr := a, info := BitVec.ofNat 32 gl }
  let ranks := match FMap.find? s.groups (aGroup d) with
    | some g => g.members.length
    | none => 0
  if (d.drop 38).any (fun b => b != 0) || decide (1 < field d 37 1) || aOp d == 3 || !([2, 6, 8, 9, 10].contains (aType d)) ||
      aCount d == 0 || decide (8192 < aBytes d) || decide (ranks ≤ aRank d) then trap 8 va
  else if notCanonical (aSrc d) (0, aBytes d) then trap 2 (aSrc d)
  else if notCanonical (aDst d) (0, aBytes d) then trap 2 (aDst d)
  else none

def execAllred (d a : Nat) (s : State) : Result :=
  issue (.allred d a) (sliceAccess (.allred d a) 0 false
    (fun v t k => [((v.slice t k).regs.getS a, wantDesc 64 fun c => c == .io)])
    (fun st v t k oks =>
      let r := v.descBytes t k 64 oks
      let va := (v.slice t k).regs.getS a
      match r.1.allredTrap va r.2 (st.firstLane k) with
      | some x => (st.trapIn r.1 t k (.allred d a) x, .gone)
      | none => st.holdEngine r.1 (.allred d a) t k d (v.loadLines t oks) (.allred r.2 va))) s

/-- The first page of a REPSYNC's range, in ascending order, that is forfeited, or replicated and not writable. -/
def repsyncTrap (ps : List (W64 × Leaf)) (gl : Nat) : Option Trap :=
  (ps.find? fun p => p.2.ff || (p.2.rep && !p.2.w)).map fun p =>
    if p.2.ff then { cause := 5, sub := 0, addr := p.1, info := BitVec.ofNat 32 gl }
    else { cause := 4, sub := 1, addr := p.1, info := BitVec.ofNat 32 gl }

/-- A range that wraps or has an end that is not canonical; one of length 0 has its base as its end. -/
def repRangeBad (base len : W64) : Bool :=
  decide (2 ^ 64 < base.toNat + len.toNat) || !canonical base || (len != 0 && !canonical (base + len - 1))

def execRepsync (d a b : Nat) (s : State) : Result :=
  issue (.repsync d a b) (fun st u t ks => eachSlice (fun v t k =>
    let base := (v.slice t k).regs.getS a
    let len := (v.slice t k).regs.getS b
    let ps := v.rangeLeavesAt (v.team t).ctx base len
    if repRangeBad base len then (st.trapIn v t k (.repsync d a b) (rangeTrap base (st.firstLane k)), .gone)
    else match repsyncTrap ps (st.firstLane k) with
      | some x => (st.trapIn v t k (.repsync d a b) x, .gone)
      | none => st.holdEngine (v.touch (v.team t).ctx (ps.map (·.1))) (.repsync d a b) t k d [] (.repsync base len)) u t ks) s

/-! ### Joining and observing (R289 to R291) -/

def execCwait (a : Nat) (s : State) : Result :=
  issueCloser (.cwait a) (fun v t k =>
    let upto := min ((v.slice t k).regs.getS a).toNat (v.team t).issued
    if upto ≤ (v.team t).doneCount then (v.modSlice t k fun sl => { sl with regs := sl.regs.adv }, .closer)
    else v.sleep t k (.cwait upto)) s

/-- CWAIT_WAKE. -/
def State.cwaitAgain (s : State) (t k : Nat) : State :=
  match (s.slice t k).status with
  | .asleep (.cwait n) => if s.resident t && decide (n ≤ (s.team t).doneCount) then s.wake t k id else s
  | _ => s

def execCwaitWake (t k : Nat) (s : State) : Result := event (fun u => u.cwaitAgain t k) s

/-- A read of a counter, with the line that it enters. -/
def readCounter (i : Instr) (d : Nat) (rl : Nat → List LineId) (f : State → Nat → W64) (s : State) : Result :=
  issue i (fun st u t ks => eachSlice (fun v t k =>
    match st.room v t k [] (rl t) with
    | .left w => (w, .gone)
    | .ok w => (w.modSlice t k fun sl =>
        let h := sl.hold [] [] (rl t)
        { h with regs := (h.regs.setS d (f w t)).adv }, .plain)) u t ks) s

def execCseq (d : Nat) (s : State) : Result :=
  readCounter (.cseq d) d (fun t => [.done t]) (fun v t => BitVec.ofNat 64 (v.team t).doneCount) s

/-- The bytes that spilled writes occupy on a team's die: of its context, and in all where its context may see them. -/
def State.spillWord (s : State) (t : Nat) : W64 :=
  let c := (s.team t).ctx
  let q := (s.die (s.teamDie t)).spill
  BitVec.ofNat 64 (64 * (q.filter fun e => e.ctx == c).length % 2 ^ 32 + (if (s.ctx c).shared then 64 * q.length % 2 ^ 32 * 2 ^ 32 else 0))

def execCspill (d : Nat) (s : State) : Result := readCounter (.cspill d) d (fun _ => []) State.spillWord s

/-! ### The index space of a copy (R281) -/

/-- The digits of a number in mixed radix, the first radix fastest. -/
def digitsOf : List Nat → Nat → List Nat
  | [], _ => []
  | n :: ns, x => x % n :: digitsOf ns (x / n)

/-- Destination indices of a run: j[1], j[2], …. -/
def runIndex (d : List Byte) (r : Nat) : List Nat := digitsOf ((cDims d).map (cDsize d)) r

/-- The index vector i of destination element j[0] of a run. -/
def elementIndex (d : List Byte) (r j0 : Nat) : List Nat :=
  let j := j0 :: runIndex d r
  (List.range (cNdim d)).map fun k => j.getD (cSwap d k) 0

def offsetOf (st : Nat → Int) (is : List Nat) : Int := ((List.range is.length).zip is).foldl (fun a e => a + st e.1 * e.2) 0

/-- Whether a filled copy writes a zero there. -/
def cFilled (d : List Byte) (i : List Nat) : Bool :=
  let b (n : Nat) : Nat := bitsOf (cBounds d).toNat (16 * n + 15) (16 * n)
  let i0 := i.getD 0 0
  let i1 := i.getD 1 0
  cFe d && !(decide (b 0 ≤ i0) && decide (i0 ≤ b 1) && (cNdim d == 1 || (decide (b 2 ≤ i1) && decide (i1 ≤ b 3))))

/-- Where a source element lies: its first byte, its first bit there, how many bytes it touches. -/
def srcPlace (d : List Byte) (i : List Nat) : Nat × Nat × Nat :=
  let bit := i.getD 0 0 * cSw d
  let a := (cSrc d).toNat + offsetOf (cSstride d) i + (bit / 8 : Nat)
  ((a % (2 ^ 64 : Int)).toNat, bit % 8, (bit % 8 + cSw d + 7) / 8)

/-- The sectors of some elements' sources, each once. -/
def srcSectors (d : List Byte) (is : List (List Nat)) : List Nat :=
  ((is.filter fun i => !cFilled d i).flatMap fun i =>
    let p := srcPlace d i
    (List.range p.2.2).map fun n => (p.1 + n) % 2 ^ 64 / 32).dedup

/-! ### Units of writing: a run's bytes in one sector; a scale entry's (R281 to R284) -/

/-- What a unit writes to. -/
inductive Space | global | team | bstore | scale
  deriving DecidableEq, Repr

def spaceOf : Nat → Space
  | 0 => .global
  | 2 => .bstore
  | 3 => .scale
  | _ => .team

/-- Sectors that a run may touch. -/
def runSectors (d : List Byte) (slot : BitVec 64) : Nat := cDrun d slot / 32 + 2

/-- A COPY's units: its runs' sectors, then, quantising, two for each block's scale entry. -/
def dataUnits (d : List Byte) (slot : BitVec 64) : Nat := cRuns d * runSectors d slot
def unitCount (d : List Byte) (slot : BitVec 64) : Nat := dataUnits d slot + if cConv d = 2 then 2 * cBlocks d else 0

/-- The elements of a block. -/
def blockIndex (d : List Byte) (n : Nat) : List (List Nat) :=
  let per := cSize d 0 / 32
  (List.range 32).map fun x => elementIndex d (n / per) (32 * (n % per) + x)

/-- The first byte of a run: a virtual address, an offset (of a channel's slot from its start), 65536 × bank + share offset, or twice an
entry's index. -/
def runBase (d : List Byte) (r : Nat) : Nat :=
  let j := 0 :: runIndex d r
  let o := offsetOf (cDstride d) j
  match spaceOf (cDkind d) with
  | .global | .team => (((cDst d).toNat + o) % (2 ^ 64 : Int)).toNat
  | .bstore => 65536 * (bitsOf (cDst d).toNat 39 32 + j.getD 1 0) + (((cDst d).toNat % 2 ^ 32 : Nat) + o).toNat
  | .scale => 2 * ((cDst d).toNat + o / 2).toNat

/-- The part of a run that a unit writes: from a byte of the run up to another. -/
def unitSpan (d : List Byte) (slot : BitVec 64) (u : Nat) : Nat × Nat :=
  let a := runBase d (u / runSectors d slot)
  let q := a / 32 + u % runSectors d slot
  (max a (32 * q) - a, min (a + cDrun d slot) (32 * q + 32) - a)

/-- The elements of a run that a unit's bytes hold, by j[0]. -/
def unitElements (d : List Byte) (slot : BitVec 64) (u : Nat) : List Nat :=
  let sp := unitSpan d slot u
  if sp.2 ≤ sp.1 then []
  else
    let e0 := 8 * sp.1 / cDp d slot
    let e1 := min (cDsize d 0 - 1) ((8 * sp.2 - 1) / cDp d slot)
    (List.range (e1 + 1 - e0)).map (e0 + ·)

/-- The unit that holds the first bit of an element of a run, which reads it for every unit that it reaches into (R281: an element is read once). -/
def homeUnit (d : List Byte) (slot : BitVec 64) (r j : Nat) : Nat :=
  r * runSectors d slot + ((runBase d r + j * cDp d slot / 8) / 32 - runBase d r / 32)

/-- The read keys that a unit needs: a block's number when quantising, else the units that read its elements. -/
def unitKeys (d : List Byte) (slot : BitVec 64) (u : Nat) : List Nat :=
  if cConv d ≠ 2 then ((unitElements d slot u).map (homeUnit d slot (u / runSectors d slot))).dedup
  else if u < dataUnits d slot then
    ((unitElements d slot u).map fun j => u / runSectors d slot * (cSize d 0 / 32) + j / 32).dedup
  else [(u - dataUnits d slot) / 2]

/-- The sectors of a read key. -/
def keySectors (d : List Byte) (slot : BitVec 64) (rk : Nat) : List Nat :=
  if cConv d = 2 then srcSectors d (blockIndex d rk)
  else srcSectors d (((unitElements d slot rk).filter fun j => homeUnit d slot (rk / runSectors d slot) j == rk).map
    (elementIndex d (rk / runSectors d slot)))

/-- Whether every read of a unit has been made. -/
def Engine.hasRead (e : Engine) (u : Nat) : Bool :=
  (unitKeys e.desc e.slot u).all fun rk => (List.range (keySectors e.desc e.slot rk).length).all fun q =>
    (FMap.find? e.got (128 * rk + q)).isSome

/-- A source element's code, from what has been read: none where it could not be read. -/
def Engine.sourceCode (e : Engine) (rk : Nat) (secs : List Nat) (i : List Nat) : Option Nat :=
  let p := srcPlace e.desc i
  let bs := (List.range p.2.2).map fun n =>
    let a := (p.1 + n) % 2 ^ 64
    match FMap.find? e.got (128 * rk + secs.idxOf (a / 32)) with
    | some b => b[a % 32]?
    | none => none
  if cFilled e.desc i then some 0
  else if bs.any Option.isNone then none
  else some (leNat (bs.filterMap id) / 2 ^ p.2.1 % 2 ^ cSw e.desc)

/-- A conversion of conv = 1 (R284). -/
def convertCode (d : List Byte) (x : Nat) : Nat :=
  match fmtOfCode (cSfmt d) .int, fmtOfCode (cDfmt d) .int with
  | some f, some g => (g.encode (cRnd d) (cSat d) false (f.decode x)).1
  | _, _ => x

/-- A block quantised: its codes and its scale entry (R80, R284); none where a source element could not be read. -/
def Engine.quantised (e : Engine) (n : Nat) : Option (List Nat × BitVec 16) :=
  let secs := keySectors e.desc e.slot n
  let xs := (blockIndex e.desc n).map (e.sourceCode n secs)
  match fmtOfCode (cSfmt e.desc) .int with
  | none => none
  | some f =>
    if xs.any Option.isNone then none
    else
      let q := quantiseBlock ((xs.filterMap id).map f.decode) (slotFmt e.slot) (cRnd e.desc)
      some (q.1.map (·.1), q.2.1)

/-- The elements of a unit with their codes. -/
def Engine.unitCodes (e : Engine) (u : Nat) : List (Nat × Option Nat) :=
  let d := e.desc
  let run := u / runSectors d e.slot
  if cConv d = 2 then
    let bs := (unitKeys d e.slot u).map fun n => (n, e.quantised n)
    (unitElements d e.slot u).map fun j =>
      (j, match List.find? (fun (x : Nat × Option (List Nat × BitVec 16)) => x.1 == run * (cSize d 0 / 32) + j / 32) bs with
        | some (_, some q) => q.1[j % 32]?
        | _ => none)
  else
    (unitElements d e.slot u).map fun j =>
      let rk := homeUnit d e.slot run j
      let x := e.sourceCode rk (keySectors d e.slot rk) (elementIndex d run j)
      (j, if cConv d = 1 ∧ !cFilled d (elementIndex d run j) then x.map (convertCode d) else x)

/-- Codes packed into bytes `lo` to `hi` of a run, each with the mask of the bits that it writes. -/
def packCodes (base dp lo hi : Nat) (cs : List (Nat × Option Nat)) : List (Nat × Byte × Byte) :=
  let e0 := (cs.head?.map (·.1)).getD 0
  let sum (f : Nat → Nat) : Nat := cs.foldl (fun x c => match c.2 with
    | some v => x + f v * 2 ^ (dp * (c.1 - e0))
    | none => x) 0
  let m := sum fun _ => 2 ^ dp - 1
  let v := sum id
  ((List.range (hi - lo)).map fun i =>
    let sh := 8 * (lo + i) - dp * e0
    ((base + lo + i) % 2 ^ 64, BitVec.ofNat 8 (m / 2 ^ sh), BitVec.ofNat 8 (v / 2 ^ sh))).filter fun b => b.2.1 != 0

/-- The first byte of a block's scale entry: a virtual address, an offset, or twice an entry's index (R284). -/
def scaleBase (d : List Byte) (b : Nat) : Nat :=
  match cScKind d with
  | 0 => ((cScBase d) + BitVec.ofNat 64 (2 * b)).toNat
  | 1 => bitsOf (cBounds d).toNat 56 0 + 2 * b
  | _ => 2 * (bitsOf (cBounds d).toNat 56 0 + b)

/-- Where a unit writes and what: its space, and its bytes. -/
def Engine.unitBytes (e : Engine) (u : Nat) : Space × List (Nat × Byte × Byte) :=
  let d := e.desc
  let n := dataUnits d e.slot
  if u < n then
    let sp := unitSpan d e.slot u
    (spaceOf (cDkind d), packCodes (runBase d (u / runSectors d e.slot)) (cDp d e.slot) sp.1 sp.2 (e.unitCodes u))
  else
    let b := (u - n) / 2
    let bytes := match e.quantised b with
      | some q => (byteRun (scaleBase d b) (leBytes 2 q.2.toNat)).map fun x => (x.1, (0xFF : Byte), x.2)
      | none => []
    ((match cScKind d with
      | 0 => Space.global
      | 1 => .team
      | _ => .scale), (sectorsOf bytes).getD ((u - n) % 2) [])

/-- Whether a unit writes anything, and to which space. -/
def unitSpace (d : List Byte) (slot : BitVec 64) (u : Nat) : Space :=
  if u < dataUnits d slot then spaceOf (cDkind d)
  else match cScKind d with
    | 0 => .global
    | 1 => .team
    | _ => .scale

/-- The team of a launch, stage and row at an x coordinate. -/
def State.teamAtX (s : State) (t x : Nat) : Option Nat :=
  let v := s.team t
  (List.find? (fun (e : Nat × Team) => e.2.launch == v.launch && e.2.stage == v.stage && e.2.y == v.y && e.2.z == v.z && e.2.x == x) s.teams).map (·.1)

/-- The teams that a copy's regions lie in (R283); of a channel, its owner. DEDUCED, log entry 33. -/
def State.copyTargets (s : State) (e : Engine) : List Nat :=
  match e.chan, e.team with
  | some (o, _), _ => [o]
  | none, some t =>
    if cCores e.desc = 0 then [t]
    else ((List.range 16).filter fun i => (cCores e.desc).testBit i).filterMap fun i => s.teamAtX t ((s.team t).x / 16 * 16 + i)
  | none, none => []

/-- The teams whose regions a unit is written to: the data of a bound copy goes to the channel's owner, its scale entries to the issuing team, which
cores = 0 names (R280, R282). -/
def State.unitOwners (s : State) (e : Engine) (u : Nat) : List Nat :=
  if e.chan.isSome ∧ dataUnits e.desc e.slot ≤ u then e.team.toList else s.copyTargets e

/-- How many targets a unit is written to. -/
def State.unitTargets (s : State) (e : Engine) (u : Nat) : Nat :=
  if unitSpace e.desc e.slot u = .global then 1 else (s.unitOwners e u).length

/-- Every byte that a copy would deliver. -/
def State.copyBytes (s : State) (e : Engine) : Nat :=
  cRuns e.desc * cDrun e.desc e.slot * s.unitTargets e 0 +
  if cConv e.desc = 2 then 2 * cBlocks e.desc * s.unitTargets e (dataUnits e.desc e.slot) else 0

/-! ### Accesses (R286 to R288) -/

/-- An engine meets its first failing address. -/
def State.engineFails (s : State) (e a : Nat) : State := s.modEngine e fun v => { v with failed := v.failed.or (some a) }

/-- A channel's counters changed by an engine. -/
def State.chanByEngine (s : State) (o n : Nat) (op : ChanOp) (c : Chan) : State :=
  (s.modTeam o fun x => { x with chans := x.chans.set n (c.update op).1 }).invalidate [.chan o n] none

/-- The slot of a bound channel, acquired as a blocking CHACQ does; a retired owner ends the copy (R239, R287). -/
def State.engineAcquire (s : State) (e o n : Nat) : State :=
  if (s.team o).place = .retired then
    (s.engineFails e (cDst (s.engine e).desc).toNat).modEngine e fun v => { v with void := true }
  else match s.chan o n with
    | some c =>
      if c.ready .acq && s.resident o then (s.chanByEngine o n .acq c).modEngine e fun v => { v with chSlot := some (c.slot .acq) } else s
    | none => s

/-- A sector kept by its number; an empty list where it could not be read. -/
def State.engineGot (s : State) (e key : Nat) (bs : List Byte) : State := s.modEngine e fun v => { v with got := FMap.put v.got key bs }

/-- One read of a sector of memory by a thread. -/
def State.engineRead (s : State) (e key sector : Nat) : State :=
  let v := s.engine e
  let va := BitVec.ofNat 64 (32 * sector)
  match s.threadRead (s.engineWho v) v.asked v.gone va 32 with
  | .wait u p => u.modEngine e fun x => { x with asked := (x.asked ++ [p]).dedup }
  | .bad u poison => (u.engineFails e (if poison then va.toNat / 128 * 128 else va.toNat)).engineGot e key []
  | .ok u bs => u.engineGot e key bs

/-- A COPY reads source sector `q` of a read key. -/
def State.copyRead (s : State) (e rk q : Nat) : State :=
  let v := s.engine e
  let limit := if cConv v.desc = 2 then cBlocks v.desc else dataUnits v.desc v.slot
  if limit ≤ rk ∨ (FMap.find? v.got (128 * rk + q)).isSome then s
  else match (keySectors v.desc v.slot rk)[q]? with
    | none => s
    | some sec =>
      if cSkind v.desc then
        match v.team with
        | some t => if s.resident t then s.engineGot e (128 * rk + q) ((s.team t).readBytes (32 * sec) 32) else s
        | none => s
      else s.engineRead e (128 * rk + q) sec

/-- Bytes put into a team's region. -/
def Team.putSpace (v : Team) (sp : Space) (bs : List (Nat × Byte × Byte)) : Team :=
  match sp with
  | .global => v
  | .team => bs.foldl (fun y b => { y with tmem := FMap.set 0 y.tmem b.1 (maskByte (FMap.get 0 y.tmem b.1) b.2.1 b.2.2) }) v
  | .bstore => bs.foldl (fun y b => { y with bstore := FMap.set 0 y.bstore b.1 (maskByte (FMap.get 0 y.bstore b.1) b.2.1 b.2.2) }) v
  | .scale => bs.foldl (fun y b =>
      let old := FMap.get 0 y.scale (b.1 / 2)
      let sh := 8 * (b.1 % 2)
      let mask : BitVec 16 := (BitVec.setWidth 16 b.2.1) <<< sh
      { y with scale := FMap.set 0 y.scale (b.1 / 2) ((old &&& ~~~ mask) ||| ((BitVec.setWidth 16 b.2.2 <<< sh) &&& mask)) }) v

/-- Bytes delivered: counted, and subtracted from the bound gate (R236). -/
def State.engineSent (s : State) (e n : Nat) : State :=
  let v := s.engine e
  let s1 := s.modEngine e fun x => { x with sent := x.sent + n }
  match v.bind, v.team with
  | .gate, some t =>
    (s1.modTeam t fun x => x.setGate v.gate ((x.gate v.gate).deliver n false)).invalidate [.team t (v.gate / 128)] none
  | _, _ => s1

def State.enginePerf (s : State) (e n : Nat) : State := s.modEngine e fun v => { v with perf := v.perf ++ [n] }

/-- A write to global memory, by its number: performed, spilled, failed, or waiting for room in the spill buffer. -/
def State.engineGlobal (s0 : State) (e n : Nat) (bs : List (Nat × Byte × Byte)) : State :=
  let v := s0.engine e
  let w := s0.engineWho v
  let s := s0.reach w bs
  match s.threadWrite w v.gone bs with
  | .ok u => (u.enginePerf e n).engineSent e bs.length
  | .bad => (s.engineFails e ((bs.head?.map (·.1)).getD 0)).enginePerf e n
  | r =>
    match s.spillWrite w v.asked { ctx := v.ctx, engine := some e, team := none, cmd := n, bytes := bs } r with
    | .full u => u
    | .held u => (u.enginePerf e n).modEngine e fun x => match r with
      | .missing p _ => { x with asked := (x.asked ++ [p]).dedup }
      | .bad | .short _ _ | .ok _ => x

/-- Whether a gate-bound copy's team is resident, so that its bytes may be subtracted. -/
def State.gateOpen (s : State) (v : Engine) : Bool :=
  match v.bind, v.team with
  | .gate, some t => s.resident t
  | _, _ => true

/-- A COPY's write of a unit to one of its targets. -/
def State.copyWrite (s : State) (e u tgt : Nat) : State :=
  let v := s.engine e
  let n := 16 * u + tgt
  let b := v.unitBytes u
  if unitCount v.desc v.slot ≤ u ∨ s.unitTargets v u ≤ tgt ∨ v.perf.contains n ∨ !v.hasRead u ∨ !s.gateOpen v then s
  else match b.2 with
    | [] => s.enginePerf e n
    | _ :: _ =>
      match b.1 with
        | .global => s.engineGlobal e n b.2
        | .team | .bstore | .scale =>
          match (s.unitOwners v u)[tgt]? with
          | none => s
          | some t =>
            if !s.resident t then s
            else
              let base := match v.chan, v.chSlot with
                | some (o, c), some sl => match (s.team o).chans[c]? with
                  | some ch => if u < dataUnits v.desc v.slot then ch.base + sl * (128 * 2 ^ ch.lsz) else 0
                  | none => 0
                | _, _ => 0
              let bs := b.2.map fun y => (y.1 + base, y.2)
              let s1 := (s.modTeam t fun y => y.putSpace b.1 bs).invalidate
                (if b.1 = .team then (bs.map fun y => LineId.team t (y.1 / 128)).dedup else []) none
              (s1.enginePerf e n).engineSent e bs.length

/-! ### ALLRED rounds (R292) -/

/-- A round ends in error for each member: a record, and nothing written (R292, R355). -/
def State.roundMismatch (s : State) (es : List (Nat × Engine)) : State :=
  es.foldl (fun (u : State) e =>
    (u.appendLog e.2.ctx ((u.engineWho e.2).record 0x0018 e.2.va (BitVec.ofNat 32 (aRank e.2.desc)))).modEngine e.1 fun v =>
      { v with void := true, failed := none }) s

/-- An ALLRED takes part: in its group's open round, or by opening one; with an earlier number it ends in error; with a later it waits. One whose group has
ended is in flight on it (R355). -/
def State.allredJoin (s : State) (e : Nat) : State :=
  let v := s.engine e
  let g := aGroup v.desc
  match FMap.find? s.groups g with
  | none => s.roundMismatch [(e, v)]
  | some x =>
    if aSeq v.desc < x.round then s.modEngine e fun y => { y with void := true }
    else if x.isOpen && aSeq v.desc != x.round then s
    else
      ({ s with groups := FMap.modify s.groups g fun y => { y with round := aSeq v.desc, isOpen := true } }).modEngine e fun y =>
        { y with joined := true }

/-- The sectors of a range of bytes, in order. -/
def rangeSectors (a n : Nat) : Nat := if n = 0 then 0 else (a % 32 + n - 1) / 32 + 1

/-- An ALLRED's read of the i-th sector of its contribution. -/
def State.allredRead (s : State) (e i : Nat) : State :=
  let v := s.engine e
  let a := (aSrc v.desc).toNat
  if rangeSectors a (aBytes v.desc) ≤ i ∨ (FMap.find? v.got i).isSome then s else s.engineRead e i (a / 32 + i)

/-- The key under which an ALLRED holds its round's result. -/
def resultKey : Nat := 2 ^ 20

/-- An ALLRED's write of the i-th sector of its result. -/
def State.allredWrite (s : State) (e i : Nat) : State :=
  let v := s.engine e
  match FMap.find? v.got resultKey with
  | none => s
  | some bs =>
    let secs := sectorsOf ((byteRun (aDst v.desc).toNat bs).map fun b => (b.1, (0xFF : Byte), b.2))
    match secs[i]? with
    | some (b :: r) => if v.perf.contains i then s else s.engineGlobal e i (b :: r)
    | _ => s

/-- The contribution of an ALLRED, all read: its elements. -/
def Engine.contribution (v : Engine) : List Nat :=
  let a := (aSrc v.desc).toNat
  let bs := (List.range (aBytes v.desc)).map fun i =>
    ((FMap.get [] v.got ((a + i) / 32 - a / 32))[(a + i) % 32]?).getD 0
  (List.range (aCount v.desc)).map fun i => leNat ((bs.drop (i * aWidth v.desc)).take (aWidth v.desc))

def Engine.contributed (v : Engine) : Bool :=
  (List.range (rangeSectors (aSrc v.desc).toNat (aBytes v.desc))).all fun i => (FMap.find? v.got i).isSome

/-- Two elements combined. DEDUCED, log entry 35. -/
def allredStep (d : List Byte) (x y : Nat) : Nat × Flags :=
  match fmtOfCode (aType d) .int with
  | some f =>
    (match aOp d with
      | 0 => (f.encode (aRnd d) (aSat d) false (Ex.add (isRdn (aRnd d)) (f.decode x) (f.decode y))).1
      | 1 => (pickFloat false f (aRnd d) (aSat d) false 0 x y).1
      | _ => (pickFloat true f (aRnd d) (aSat d) false 0 x y).1, 0)
  | none =>
    let sg := aType d == 2
    (match aOp d with
      | 0 => (intResult 32 sg (aSat d) (intOfBits 32 sg x + intOfBits 32 sg y)).1
      | 1 => if intOfBits 32 sg x < intOfBits 32 sg y then x else y
      | _ => if intOfBits 32 sg x > intOfBits 32 sg y then x else y, 0)

/-- The tree over up to 128 ranks (R128). -/
def allredTree (d : List Byte) (xs : List Nat) : Nat :=
  let f := treeLevel (allredStep d)
  match f (f (f (f (f (f (f (xs.map fun x => some (x, 0)))))))) with
  | some (x, _) :: _ => x
  | _ => 0

/-- The ALLREDs of a round of a group, joined and not yet combined. -/
def State.roundOf (s : State) (g : Nat) (seq : W64) : List (Nat × Engine) :=
  s.engines.filter fun e => e.2.kind == .allred && !e.2.done && !e.2.void && !e.2.stopped && e.2.joined && aGroup e.2.desc == g &&
    aSeq e.2.desc == seq && (FMap.find? e.2.got resultKey).isNone

/-- The ALLREDs in flight on a group: those that have not completed and hold no result (R355). -/
def State.inFlight (s : State) (g : Nat) : List (Nat × Engine) :=
  s.engines.filter fun e => e.2.kind == .allred && !e.2.done && !e.2.void && !e.2.stopped && aGroup e.2.desc == g &&
    (FMap.find? e.2.got resultKey).isNone

/-- A group's round ends; a later one may open. -/
def State.closeRound (s : State) (g : Nat) : State :=
  { s with groups := FMap.modify s.groups g fun x => { x with round := x.round + 1, isOpen := false } }

/-- ALLRED_ROUND: every rank has contributed, or one is repeated, which ends the round at once, so that a member which comes later with its number ends as one with an
earlier does (DESIGN CHOICE, log entry 70). What other modules contribute is free. DEDUCED, log entry 35. -/
def State.allredCombine (s : State) (g : Nat) (seq : W64) : State :=
  match FMap.find? s.groups g with
  | none => s
  | some x =>
    let es := s.roundOf g seq
    let ranks := es.map fun e => aRank e.2.desc
    let away := (x.members.filter fun m => m.module != s.module.domain && !ranks.contains m.rank).map (·.rank)
    let present := (List.range x.members.length).all fun r => ranks.contains r || away.contains r
    let twice := ranks.dedup.length != ranks.length
    match es with
    | [] => s
    | e0 :: _ =>
      if !x.isOpen || x.round != seq || !(es.all fun e => e.2.contributed) || !(present || twice) then s
      else
        let differ := es.any fun e => aCount e.2.desc != aCount e0.2.desc || aType e.2.desc != aType e0.2.desc || aOp e.2.desc != aOp e0.2.desc
        let far := !away.isEmpty
        if differ || twice || (far && Config.coin s.draws) then ((s.roundMismatch es).closeRound g).drawn
        else if (es.any fun e => e.2.failed.isSome) || (far && Config.coin (s.draws + 1)) then
          (es.foldl (fun (u : State) e => u.modEngine e.1 fun v => { v with void := true }) { s with draws := s.draws + 2 }).closeRound g
        else
          let pick := (es[(Config.word (s.draws + 2)).toNat % es.length]?.getD e0).2.desc
          let words := s.draws + 3
          let value (r i : Nat) : Nat := match List.find? (fun (e : Nat × Engine) => aRank e.2.desc == r) es with
            | some e => e.2.contribution.getD i 0
            | none => (Config.word (words + r * 8192 + i)).toNat % 2 ^ (8 * aWidth pick)
          let out := (List.range (aCount pick)).flatMap fun i =>
            leBytes (aWidth pick) (allredTree pick ((List.range x.members.length).map fun r => value r i))
          (es.foldl (fun (u : State) e => u.engineGot e.1 resultKey out) { s with draws := words + 2 ^ 20 }).closeRound g

def execAllredRound (g : Nat) (seq : W64) (s : State) : Result := event (fun u => u.allredCombine g seq) s

/-! ### REPSYNC (R293) -/

/-- The i-th sector of the blocks that a REPSYNC's range touches: its address, if its page is replicated. -/
def State.repSector (s : State) (v : Engine) (i : Nat) : Option (W64 × Leaf) :=
  let va := BitVec.ofNat 64 (v.base.toNat / 4096 * 4096 + 32 * i)
  match s.walk v.ctx va with
  | .leaf l => if l.rep then some (va, l) else none
  | .none _ => none

/-- The sectors of a REPSYNC's blocks. -/
def Engine.repCount (v : Engine) : Nat :=
  if v.len = 0 then 0 else 128 * ((v.base.toNat % 4096 + v.len.toNat - 1) / 4096 + 1)

/-- The bytes of a sector of the lead replica, which lies at `a`, written over every other replica; a poisoned line there takes the lead's whole line.
DEDUCED, log entry 36. -/
def State.repWrite (s : State) (w : Who) (va : W64) (l : Leaf) (bs : List Byte) : ThreadWrite :=
  let a := l.npa va
  let ws := ((s.replicasOf a).drop 1).flatMap fun p =>
    if s.poisoned p then byteRun (lineOf p * 128) (s.readBytes (lineOf a * 128) 128) else byteRun p bs
  let chg := newCodes s (s.applyBytes ws) ws ws
  match s.charge w.ctx chg [] [] with
  | .error f => .short f.g f.dies
  | .ok s1 =>
    let s2 := (((s1.setD l.addr).applyBytes ws).threadRecords w va.toNat ws).invalidate ((linesOf ws).map .mem) none
    .ok (chg.foldl (fun u x => u.setLine none x) s2)

/-- One sector of the lead replica written over every other; a poisoned lead line poisons them (R286); a page that may no longer be written, or a failed
expander, makes it fail (R286, R351). DEDUCED, log entry 36. -/
def State.repPass (s : State) (w : Who) (va : W64) (l : Leaf) : ThreadWrite :=
  let a := l.npa va
  if l.ff || !l.w || (s.replicasOf a).any s.expanderDown then .bad
  else if s.poisoned a then
    let others := (s.replicasOf a).drop 1
    .ok (((others.foldl (fun u p => if (u.block (blockOf p)).bad then u else u.setLine none (lineOf p, codePoison)) s).invalidate
      (others.map fun p => .mem (lineOf p)) none).setD l.addr)
  else s.repWrite w va l (s.readBytes a 32)

/-- One sector of a REPSYNC. A write whose growth cannot be charged goes to the spill buffer (R183). DEDUCED, log entry 36. -/
def State.repCopy (s : State) (e i : Nat) : State :=
  let v := s.engine e
  if v.repCount ≤ i ∨ v.perf.contains i then s
  else match s.repSector v i with
    | none => s
    | some (va, l) =>
      let s0 := s.touch v.ctx [va]
      let w := s.engineWho v
      match s0.repPass w va l with
      | .ok u => u.enginePerf e i
      | .bad => (s0.engineFails e va.toNat).enginePerf e i
      | r => match s0.spillWrite w v.asked
          { ctx := v.ctx, engine := some e, team := none, cmd := i, bytes := (byteRun va.toNat (s.readBytes (l.npa va) 32)).map fun b => (b.1, 0xFF, b.2) } r with
        | .full u => u
        | .held u => u.enginePerf e i

/-! ### Steps of a thread -/

/-- ENGINE_SECTOR_ACCESS: access `i` of a thread. A COPY's reads are even, 2 × (128 × key + sector); its writes odd,
2 × (16 × unit + target) + 1; an ALLRED's likewise by sector; a REPSYNC's are its sectors. -/
def State.engineAccess (s : State) (e i : Nat) : State :=
  let v := s.engine e
  if v.done || v.void || v.stopped then s
  else match v.kind with
    | .copy =>
      match v.chan, v.chSlot with
      | some (o, n), none => s.engineAcquire e o n
      | _, _ => if i % 2 = 0 then s.copyRead e (i / 2 / 128) (i / 2 % 128) else s.copyWrite e (i / 2 / 16) (i / 2 % 16)
    | .allred =>
      if !v.joined then s.allredJoin e
      else if i % 2 = 0 then s.allredRead e (i / 2) else s.allredWrite e (i / 2)
    | .repsync => s.repCopy e i

def execEngineSectorAccess (e i : Nat) (s : State) : Result := event (fun u => u.engineAccess e i) s

/-- The first byte that a unit may write, in its space. -/
def unitStart (d : List Byte) (slot : BitVec 64) (u : Nat) : Nat :=
  if u < dataUnits d slot then runBase d (u / runSectors d slot) + (unitSpan d slot u).1
  else scaleBase d ((u - dataUnits d slot) / 2)

/-- The writes of a thread, by number, each with the block of 512 bytes of its destination that it lies in: the target, the space, the block. -/
def State.engineBlocks (s : State) (v : Engine) : List (Nat × Nat × Space × Nat) :=
  match v.kind with
  | .copy => (List.range (unitCount v.desc v.slot)).flatMap fun u => (List.range (s.unitTargets v u)).map fun t =>
      (16 * u + t, t, unitSpace v.desc v.slot u, unitStart v.desc v.slot u / 512)
  | .allred => (List.range (rangeSectors (aDst v.desc).toNat (aBytes v.desc))).map fun i => (i, 0, .global, ((aDst v.desc).toNat / 32 + i) / 16)
  | .repsync => (List.range v.repCount).map fun i => (i, 0, .global, i / 16)

/-- One write of a thread, after the reads that it needs. -/
def State.engineFinish (s : State) (e n : Nat) : State :=
  let v := s.engine e
  match v.kind with
  | .copy => ((unitKeys v.desc v.slot (n / 16)).foldl (fun u rk =>
      (List.range (keySectors v.desc v.slot rk).length).foldl (fun u q => u.copyRead e rk q) u) s).copyWrite e (n / 16) (n % 16)
  | .allred => s.allredWrite e n
  | .repsync => s.repCopy e n

/-- A context reset stops a thread at the next boundary of 512 bytes of its destination: the blocks that its writes have begun are finished, as far as their
accesses can be made, and nothing after that (R288). DEDUCED, log entry 34. -/
def State.stopEngine (s : State) (e : Nat) : State :=
  let v := s.engine e
  let bs := s.engineBlocks v
  let begun := (bs.filter fun x => v.perf.contains x.1).map (·.2)
  let s1 := if v.void then s else ((bs.filter fun x => begun.contains x.2).map (·.1)).foldl (fun u n => u.engineFinish e n) s
  s1.modEngine e fun x => { x with stopped := true }

/-- Whether a thread's writes have all been made. -/
def State.engineWritten (s : State) (v : Engine) : Bool :=
  v.void ||
  match v.kind with
  | .copy => (List.range (unitCount v.desc v.slot)).all fun u => (List.range (s.unitTargets v u)).all fun t =>
      (decide (u < dataUnits v.desc v.slot) && (unitElements v.desc v.slot u).isEmpty) || v.perf.contains (16 * u + t)
  | .allred => (FMap.find? v.got resultKey).isSome &&
      (List.range (rangeSectors (aDst v.desc).toNat (aBytes v.desc))).all fun i => v.perf.contains i
  | .repsync => (List.range v.repCount).all fun i => v.perf.contains i || (s.repSector v i).isNone

/-- Whether some writes of a thread are in a spill buffer. -/
def State.engineSpilled (s : State) (e : Nat) : Bool := s.dies.any fun d => d.2.spill.any fun x => x.engine == some e

/-- The channel of a bound copy published, even with error (R241), as a CHPUB does: one for a slot that a slice has published already is an underflow (R240). -/
def State.enginePublish (s : State) (v : Engine) : State :=
  match v.chan, v.chSlot with
  | some (o, n), some _ => match (s.team o).chans[n]? with
    | some c =>
      if (c.update .pub).2 then s.appendLog v.ctx ((s.engineWho v).record 0x0013 0 (BitVec.ofNat 32 n)) else s.chanByEngine o n .pub c
    | none => s
  | _, _ => s

/-- Whether the owner of an acquired slot is resident, so that it may be published. -/
def State.slotOpen (s : State) (v : Engine) : Bool :=
  match v.chan, v.chSlot with
  | some (o, _), some _ => s.resident o
  | _, _ => true

/-- The bytes that a copy has not delivered, subtracted with the error (R236). -/
def State.engineSettle (s : State) (v : Engine) : State :=
  match v.bind, v.team with
  | .gate, some t =>
    if v.failed.isSome then
      (s.modTeam t fun x => x.setGate v.gate ((x.gate v.gate).deliver (s.copyBytes v - v.sent) true)).invalidate [.team t (v.gate / 128)] none
    else s
  | _, _ => s

/-- ENGINE_COMPLETE (R277): the record of an error, the gate, the slot, the ticket, and what it completes for. -/
def State.engineEnd (s : State) (e : Nat) : State :=
  let v := s.engine e
  if v.done || v.stopped || !s.engineWritten v || s.engineSpilled e || !s.gateOpen v || !s.slotOpen v then s
  else
    let s1 := match v.failed with
      | some a => s.appendLog v.ctx ((s.engineWho v).record 0x0017 (BitVec.ofNat 64 a) (BitVec.ofNat 32 v.ticket))
      | none => s
    let s2 := (s1.engineSettle v).enginePublish v
    let s3 := s2.modEngine e fun x => { x with done := true, got := [], perf := [] }
    match v.team with
    | some t => (s3.modTeam t fun x => { x with ended := x.ended ++ [v.ticket] }).invalidate [.done t] none
    | none => s3.originDone v.origin

def execEngineComplete (e : Nat) (s : State) : Result := event (fun u => u.engineEnd e) s

/-! ### The spill buffer -/

/-- A spilled write's bytes leave the buffer delivered. -/
def State.spillSent (s : State) (x : Spill) : State :=
  match x.engine with
  | some e => s.engineSent e x.bytes.length
  | none => s

/-- A spilled write fails. -/
def State.spillFails (s : State) (x : Spill) : State :=
  let a := (x.bytes.head?.map (·.1)).getD 0
  match x.engine, x.team with
  | some e, _ => s.engineFails e a
  | none, some t => s.modCmd t x.cmd fun m => { m with bad := m.bad.or (some a) }
  | none, none => s

/-- A drain whose last spilled write has left the buffer completes (R269). -/
def State.drainSettle (s : State) (d : Nat) (x : Spill) : State :=
  match x.engine, x.team with
  | none, some t =>
    match (s.team t).queue.find? fun m => m.num == x.cmd with
    | some m => if m.drained && !s.spilledFor t m.num d then s.matrixDone t m else s
    | none => s
  | _, _ => s

/-- Who made a spilled write, and the pages given up for it. -/
def State.spillWho (s : State) (d : Nat) (x : Spill) : Who × List Nat × List Nat :=
  let blank : Who := { ctx := x.ctx, die := d, core := 0xFFFF, tslot := none, mtx := true, slice := 0xFFFF }
  match x.engine, x.team with
  | some e, _ => (s.engineWho (s.engine e), (s.engine e).asked, (s.engine e).gone)
  | none, some t => match (s.team t).queue.find? fun m => m.num == x.cmd with
    | some m => (s.matrixWho t m, m.asked, m.gone)
    | none => (blank, [], [])
  | none, none => (blank, [], [])

/-- Whether a spilled write may go on: a gate-bound copy's, and a drain's, need no more than their memory, but a gate-bound copy's bytes
are subtracted only while its team is resident. -/
def State.spillOpen (s : State) (x : Spill) : Bool :=
  match x.engine with
  | some e => s.gateOpen (s.engine e)
  | none => true

/-- A spilled write made again: a REPSYNC's from the lead replica as it is now, which later multicasts may have changed with the others (R293), while its page is
still replicated. -/
def State.spillAgain (s : State) (w : Who) (gone : List Nat) (x : Spill) : ThreadWrite :=
  match x.engine with
  | some e =>
    if (s.engine e).kind = .repsync then
      match s.repSector (s.engine e) x.cmd with
      | some (va, l) => s.repPass w va l
      | none => .ok s
    else s.threadWrite w gone x.bytes
  | none => s.threadWrite w gone x.bytes

/-- SPILL_REPLAY: the i-th write of a die's buffer is made again. -/
def State.replaySpill (s0 : State) (d i : Nat) : State :=
  match (s0.die d).spill[i]? with
  | none => s0
  | some x =>
    let who := s0.spillWho d x
    let s := if s0.spillOpen x then s0.reach who.1 x.bytes else s0
    let out (u : State) : State := u.modDie d fun v => { v with spill := v.spill.eraseIdx i }
    if !s.spillOpen x then s
    else match s.spillAgain who.1 who.2.2 x with
      | .ok u => ((out u).spillSent x).drainSettle d x
      | .bad => ((out s).spillFails x).drainSettle d x
      | .missing p m => s.threadPost who.1 who.2.1 1 p m
      | .short _ _ => s

def execSpillReplay (die i : Nat) (s : State) : Result := event (fun u => u.replaySpill die i) s

end Sys2Proof.Machine
end

