-- ==== Sys2Proof/Machine/ChunkEvents.lean ====
section
/-! DEFINITION. Words that are no instruction (R57, R63, R325), and the events of a slice's chunks (R200, R204 to R211) and of a wait at a
REGANG (R99). -/

namespace Sys2Proof.Machine

/-! ### Words that are no instruction -/

/-- Every slice of the gang takes a trap of a word. -/
def eachTraps (i : Instr) (x : Trap) (s : State) : Result := issue i (fun st u t ks => eachTrap st i x u t ks) s

/-- An opcode reserved for extensions: cause 2, which software may emulate (R325). -/
def execExtensionEmulation (w : W32) (s : State) : Result := eachTraps (.extensionEmulation w) { cause := 2, sub := 0, addr := 0, info := 0 } s

/-- An illegal instruction, with its subcode (R57, R325). -/
def execIllegalInstruction (w : W32) (sub : Nat) (s : State) : Result :=
  eachTraps (.illegalInstruction w sub) { cause := 1, sub := sub, addr := 0, info := 0 } s

/-! ### Chunks -/

/-- The next step of a slice's commits: step 6 of one past its commit point; the chunk in commit up to its commit point; or the open chunk, which
has ended, likewise (R200, R204, R206). A commit waits for room in the matrix queue (R259). -/
def State.commitStep (s : State) (t k : Nat) : State :=
  let sl := s.slice t k
  if !sl.post.isEmpty then s.finishPost t k
  else match sl.prev with
    | some p =>
      if sl.prevHit || !s.queueRoom t p.held then s
      else match s.commitPrev t k with
        | .ok s1 => s1
        | .error f => s.capacityFault t k f
    | none =>
      if sl.hit || !sl.chunk.ended || !s.queueRoom t sl.chunk.held then s
      else match s.commitChunk t k false with
        | .ok s1 => s1
        | .error f => s.capacityFault t k f

/-- CHUNK_COMMIT. -/
def State.commitEvent (s : State) (t k : Nat) : State :=
  if !s.resident t || (s.slice t k).status != .run then s else (s.commitStep t k).tellCommit t k

def execChunkCommit (t k : Nat) (s : State) : Result := event (fun u => u.commitEvent t k) s

/-- ROLLBACK: every slice of the gang that an invalidation has hit goes back to its checkpoint (R205, R207). DEDUCED, log entry 13. -/
def State.rollbackEvent (s : State) (t k : Nat) : State :=
  match s.gangOf t k with
  | none => s
  | some g =>
    let hit := g.ks.filter fun i => (s.slice t i).hit || (s.slice t i).prevHit
    if hit.isEmpty || !s.resident t then s else (hit.foldl (fun u i => u.rollbackSlice t i) s).regroup t g.ks hit

def execRollback (t k : Nat) (s : State) : Result := event (fun u => u.rollbackEvent t k) s

/-- LEVEL_CHANGE: a change of escalation level that is due (R210, R211). -/
def execLevelChange (t k : Nat) (s : State) : Result := event (fun u => u.modSlice t k Slice.relevel) s

/-- REGANG_TIMEOUT: a waiter at a REGANG that has passed 1,024 opportunities goes on with those that are there (R99). -/
def State.regangDue (s : State) (t home : Nat) (pc : W64) : Bool :=
  s.gangs.any fun g => g.team == t && (match g.wait with
    | some n => decide (1024 ≤ n)
    | none => false) && g.ks.any fun k => k / 8 == home && (s.slice t k).regs.pc == pc

def execRegangTimeout (t home : Nat) (pc : W64) (s : State) : Result :=
  event (fun u => if u.regangDue t home pc then u.regangJoin t home pc else u) s

end Sys2Proof.Machine
end

