-- ==== Sys2Proof/Machine/Crypto.lean ====
section
/-! DEFINITION. SHA-384, and ECDSA on the 384-bit Brainpool prime curve of RFC 5639 in its untwisted form (R24, R359, R363). The spec names the
functions; their constants are those of the standards that define them. PRESUMED, log entry 59. -/

namespace Sys2Proof.Machine

/-! ### SHA-384 -/

def shaKeys : List W64 :=
  [0x428A2F98D728AE22, 0x7137449123EF65CD, 0xB5C0FBCFEC4D3B2F, 0xE9B5DBA58189DBBC, 0x3956C25BF348B538, 0x59F111F1B605D019, 0x923F82A4AF194F9B, 0xAB1C5ED5DA6D8118] ++
  [0xD807AA98A3030242, 0x12835B0145706FBE, 0x243185BE4EE4B28C, 0x550C7DC3D5FFB4E2, 0x72BE5D74F27B896F, 0x80DEB1FE3B1696B1, 0x9BDC06A725C71235, 0xC19BF174CF692694] ++
  [0xE49B69C19EF14AD2, 0xEFBE4786384F25E3, 0x0FC19DC68B8CD5B5, 0x240CA1CC77AC9C65, 0x2DE92C6F592B0275, 0x4A7484AA6EA6E483, 0x5CB0A9DCBD41FBD4, 0x76F988DA831153B5] ++
  [0x983E5152EE66DFAB, 0xA831C66D2DB43210, 0xB00327C898FB213F, 0xBF597FC7BEEF0EE4, 0xC6E00BF33DA88FC2, 0xD5A79147930AA725, 0x06CA6351E003826F, 0x142929670A0E6E70] ++
  [0x27B70A8546D22FFC, 0x2E1B21385C26C926, 0x4D2C6DFC5AC42AED, 0x53380D139D95B3DF, 0x650A73548BAF63DE, 0x766A0ABB3C77B2A8, 0x81C2C92E47EDAEE6, 0x92722C851482353B] ++
  [0xA2BFE8A14CF10364, 0xA81A664BBC423001, 0xC24B8B70D0F89791, 0xC76C51A30654BE30, 0xD192E819D6EF5218, 0xD69906245565A910, 0xF40E35855771202A, 0x106AA07032BBD1B8] ++
  [0x19A4C116B8D2D0C8, 0x1E376C085141AB53, 0x2748774CDF8EEB99, 0x34B0BCB5E19B48A8, 0x391C0CB3C5C95A63, 0x4ED8AA4AE3418ACB, 0x5B9CCA4F7763E373, 0x682E6FF3D6B2B8A3] ++
  [0x748F82EE5DEFB2FC, 0x78A5636F43172F60, 0x84C87814A1F0AB72, 0x8CC702081A6439EC, 0x90BEFFFA23631E28, 0xA4506CEBDE82BDE9, 0xBEF9A3F7B2C67915, 0xC67178F2E372532B] ++
  [0xCA273ECEEA26619C, 0xD186B8C721C0C207, 0xEADA7DD6CDE0EB1E, 0xF57D4F7FEE6ED178, 0x06F067AA72176FBA, 0x0A637DC5A2C898A6, 0x113F9804BEF90DAE, 0x1B710B35131C471B] ++
  [0x28DB77F523047D84, 0x32CAAB7B40C72493, 0x3C9EBE0A15C9BEBC, 0x431D67C49C100D4C, 0x4CC5D4BECB3E42B6, 0x597F299CFC657E2A, 0x5FCB6FAB3AD6FAEC, 0x6C44198C4A475817]
def shaStart : List W64 := [0xCBBB9D5DC1059ED8, 0x629A292A367CD507, 0x9159015A3070DD17, 0x152FECD8F70E5939, 0x67332667FFC00B31, 0x8EB44A8768581511, 0xDB0C2E0D64F98FA7, 0x47B5481DBEFA4FA4]

/-- One round: the eight working words, with a key and a word of the schedule added. -/
def shaRound (v : List W64) (k w : W64) : List W64 :=
  match v with
  | [a, b, c, d, e, f, g, h] =>
    let t1 := h + (e.rotateRight 14 ^^^ e.rotateRight 18 ^^^ e.rotateRight 41) + ((e &&& f) ^^^ (~~~e &&& g)) + k + w
    let t2 := (a.rotateRight 28 ^^^ a.rotateRight 34 ^^^ a.rotateRight 39) + ((a &&& b) ^^^ (a &&& c) ^^^ (b &&& c))
    [t1 + t2, a, b, c, d + t1, e, f, g]
  | _ => v

/-- The word of the schedule that follows sixteen others. -/
def shaNext (w : List W64) : W64 :=
  let x := w.getD 1 0
  let y := w.getD 14 0
  w.getD 0 0 + (x.rotateRight 1 ^^^ x.rotateRight 8 ^^^ x >>> 7) + w.getD 9 0 + (y.rotateRight 19 ^^^ y.rotateRight 61 ^^^ y >>> 6)

/-- The rounds of one block: `w` is the window of sixteen schedule words. -/
def shaRounds : List W64 → List W64 → List W64 → List W64
  | [], _, v => v
  | k :: ks, w, v => shaRounds ks (w.drop 1 ++ [shaNext w]) (shaRound v k (w.headD 0))

/-- A number's bytes, most significant first; and back. -/
def beBytes (k n : Nat) : List Byte := (leBytes k n).reverse
def beNat (bs : List Byte) : Nat := leNat bs.reverse

/-- The blocks of a padded message, of 128 bytes each. -/
def shaBlocks : Nat → List Byte → List W64 → List W64
  | 0, _, v => v
  | n + 1, bs, v =>
    let w := (List.range 16).map fun i => BitVec.ofNat 64 (beNat ((bs.drop (8 * i)).take 8))
    shaBlocks n (bs.drop 128) (List.zipWith (· + ·) v (shaRounds shaKeys w v))

/-- SHA-384 of a message: 48 bytes. PRESUMED, log entry 59. -/
def sha384 (m : List Byte) : List Byte :=
  let n := (m.length + 17 + 127) / 128
  let p := m ++ [0x80] ++ List.replicate (128 * n - m.length - 17) 0 ++ beBytes 16 (8 * m.length)
  ((shaBlocks n p shaStart).take 6).flatMap fun x => beBytes 8 x.toNat

/-! ### The curve y² = x³ + a x + b over the integers modulo p, with a base point of order n -/

def curveP : Nat := 0x8CB91E82A3386D280F5D6F7E50E641DF152F7109ED5456B412B1DA197FB71123ACD3A729901D1A71874700133107EC53
def curveA : Nat := 0x7BC382C63D8C150C3C72080ACE05AFA0C2BEA28E4FB22787139165EFBA91F90F8AA5814A503AD4EB04A8C7DD22CE2826
def curveB : Nat := 0x04A8C7DD22CE28268B39B55416F0447C2FB77DE107DCD2A62E880EA53EEB62D57CB4390295DBC9943AB78696FA504C11
def curveN : Nat := 0x8CB91E82A3386D280F5D6F7E50E641DF152F7109ED5456B31F166E6CAC0425A7CF3AB6AF6B7FC3103B883202E9046565
def curveX : Nat := 0x1D1C64F068CF45FFA2A63A81B7C13F6B8847A3E77EF14FE3DB7FCAFE0CBD10E8E826E03436D646AAEF87B2E247D4AF1E
def curveY : Nat := 0x8ABE1D7520F9C2A45CB1EB8E95CFD55262B70B29FEEC5864E19C054FF99129280E4646217791811142820341263C5315

/-- b^e modulo m, by the `k` low bits of e. -/
def powMod (m : Nat) : Nat → Nat → Nat → Nat
  | 0, _, _ => 1 % m
  | k + 1, b, e => (if e % 2 = 1 then b else 1) * powMod m k (b * b % m) (e / 2) % m
/-- The inverse modulo a prime of 384 bits. -/
def invMod (m x : Nat) : Nat := powMod m 384 (x % m) (m - 2)

/-- A point (x / z², y / z³); z = 0 for the point at infinity. -/
structure Jac where
  x : Nat
  y : Nat
  z : Nat
  deriving DecidableEq, Repr

def Jac.zero : Jac := { x := 1, y := 1, z := 0 }
def Jac.ofPoint (q : Nat × Nat) : Jac := { x := q.1, y := q.2, z := 1 }

def subMod (a b : Nat) : Nat := (a + (curveP - b % curveP)) % curveP

def Jac.dbl (q : Jac) : Jac :=
  if q.z = 0 ∨ q.y = 0 then Jac.zero
  else
    let yy := q.y * q.y % curveP
    let s := 4 * q.x * yy % curveP
    let zz := q.z * q.z % curveP
    let m := (3 * q.x * q.x + curveA * (zz * zz % curveP)) % curveP
    let x := subMod (m * m) (2 * s)
    { x := x, y := subMod (m * subMod s x) (8 * (yy * yy)), z := 2 * q.y * q.z % curveP }

def Jac.add (q r : Jac) : Jac :=
  if q.z = 0 then r
  else if r.z = 0 then q
  else
    let z1 := q.z * q.z % curveP
    let z2 := r.z * r.z % curveP
    let u1 := q.x * z2 % curveP
    let u2 := r.x * z1 % curveP
    let s1 := q.y * z2 % curveP * r.z % curveP
    let s2 := r.y * z1 % curveP * q.z % curveP
    if u1 = u2 then (if s1 = s2 then q.dbl else Jac.zero)
    else
      let h := subMod u2 u1
      let t := subMod s2 s1
      let hh := h * h % curveP
      let hhh := h * hh % curveP
      let v := u1 * hh % curveP
      let x := subMod (subMod (t * t) hhh) (2 * v)
      { x := x, y := subMod (t * subMod v x) (s1 * hhh), z := h * q.z % curveP * r.z % curveP }

/-- k times a point, by the `n` low bits of k. -/
def Jac.mul : Nat → Nat → Jac → Jac
  | 0, _, _ => Jac.zero
  | n + 1, k, q =>
    let r := Jac.mul n (k / 2) q.dbl
    if k % 2 = 1 then r.add q else r

/-- x and y of a point that is not at infinity. -/
def Jac.affine (q : Jac) : Nat × Nat :=
  let i := invMod curveP q.z
  (q.x * i % curveP * i % curveP, q.y * i % curveP * i % curveP * i % curveP)

def curveBase : Jac := Jac.ofPoint (curveX, curveY)
/-- The public half of a private key. -/
def publicKey (d : Nat) : Nat × Nat := (Jac.mul 384 d curveBase).affine

/-- Whether a signature, r and s of 48 bytes each, is valid over a digest under a public key. -/
def ecdsaValid (key : Nat × Nat) (digest sig : List Byte) : Bool :=
  let r := beNat (sig.take 48)
  let s := beNat ((sig.drop 48).take 48)
  if sig.length ≠ 96 ∨ r = 0 ∨ curveN ≤ r ∨ s = 0 ∨ curveN ≤ s ∨ curveP ≤ key.1 ∨ curveP ≤ key.2 ∨
      key.2 * key.2 % curveP ≠ (key.1 * key.1 * key.1 + curveA * key.1 + curveB) % curveP then false
  else
    let w := invMod curveN s
    let q := (Jac.mul 384 (beNat digest * w % curveN) curveBase).add (Jac.mul 384 (r * w % curveN) (Jac.ofPoint key))
    q.z != 0 && q.affine.1 % curveN == r

/-- The signature under a private key over a digest, with the nonce k. -/
def ecdsaSign (d k : Nat) (digest : List Byte) : List Byte :=
  let r := (Jac.mul 384 k curveBase).affine.1 % curveN
  beBytes 48 r ++ beBytes 48 (invMod curveN k * (beNat digest + r * d) % curveN)

/-- A private key, or a nonce, of a free number: between 1 and n − 1. -/
def keyOf (x : Nat) : Nat := x % (curveN - 1) + 1

end Sys2Proof.Machine
end

