-- ==== Sys2Proof/Machine/CommandProcessor.lean ====
section
/-! DEFINITION. The command processor: notify registers and host queues (R299 to R303), the nodes of running graphs (R311 to R313), and
accesses whose pages were answered as unresolvable (R366). -/

namespace Sys2Proof.Machine

/-- An access some of whose missing pages are answered as unresolvable is refused (R366). -/
def Access.without (gone : List Nat) : Access → Access
  | .missing ps => if ps.any fun p => gone.contains (pageOf p.1) then .refused else .missing ps
  | .ok => .ok
  | .refused => .refused

/-- An access waits for a page. -/
def Access.waitsFor (page : Nat) : Access → Bool
  | .missing ps => ps.any fun p => pageOf p.1 == page
  | .ok | .refused => false

/-! ### Packets (R301) -/

def pType (bs : List Byte) : Nat := field bs 0 1
def pAfter (bs : List Byte) : Bool := field bs 1 1 == 1
def pAddr (bs : List Byte) : W64 := field64 bs 8
def pValue (bs : List Byte) : W64 := field64 bs 16
def pCond (bs : List Byte) : Nat := field bs 24 1

/-- How many bytes a packet's action reads or writes. -/
def pReach (bs : List Byte) : Nat := if pType bs = 1 then 256 else if pType bs = 2 then 64 else 8

/-- Whether a packet's fields are as R301 lays them out, its address aligned and canonical (R302). DEDUCED, log entry 40. -/
def packetOk (bs : List Byte) : Bool :=
  let k := pType bs
  decide (1 ≤ k) && decide (k ≤ 4) && decide (field bs 1 1 < 2) && field bs 2 6 == 0 && (bs.drop 25).all (fun b => b == 0) &&
  (if k = 3 then decide (pCond bs ≤ 5) else pCond bs == 0) && (decide (3 ≤ k) || pValue bs == 0) &&
  (pAddr bs).toNat % (if k = 1 then 256 else if k = 2 then 64 else 8) == 0 && canonical (pAddr bs)

/-- A comparison by its code (R301). -/
def codeHolds (c : Nat) (m b : W64) : Bool :=
  match WaitCond.ofCode c with
  | some x => condOn x m b
  | none => false

/-! ### Queues (R299 to R302) -/

def HostQueue.blank : HostQueue := { ctx := 0, base := 0, exp := 4, rix := 0, read := 0, posted := 0, packets := [], waiting := none }
def State.queue (s : State) (q : Nat) : HostQueue := FMap.get HostQueue.blank s.queues q
def State.modQueue (s : State) (q : Nat) (f : HostQueue → HostQueue) : State := { s with queues := FMap.modify s.queues q f }

/-- Indices of a queue ahead of its read index, modulo 2^64. -/
def HostQueue.ahead (v : HostQueue) (i : Nat) : Nat := (i + 2 ^ 64 - v.read % 2 ^ 64) % 2 ^ 64

/-- A write to a notify register (R300, R303). -/
def State.writeNotify (s : State) (q : Nat) (x : W64) : State :=
  match FMap.find? s.queues q with
  | none => s
  | some v =>
    let s1 := if 2 ^ v.exp < v.ahead x.toNat then s.appendLog v.ctx (LogRec.plain 0x0020 3 0 (BitVec.ofNat 32 q))
      else if v.ahead v.posted < v.ahead x.toNat then s.modQueue q fun y => { y with posted := x.toNat }
      else s
    s1.notify v.ctx

def execNotifyRegisterWrite (q : Nat) (v : W64) (s : State) : Result := event (fun u => u.writeNotify q v) s

/-- The address of packet `i`. -/
def HostQueue.slotAddr (v : HostQueue) (i : Nat) : W64 := v.base + BitVec.ofNat 64 (64 * (i % 2 ^ v.exp))

/-- The accesses that reading the next packet takes: its 64 bytes, and the read-index word. -/
def State.headAccess (s : State) (v : HostQueue) : Access :=
  (s.cpAccess v.ctx (v.slotAddr v.read) 64 false).and
    (match s.cpAccess v.ctx v.rix 8 true with
     | .refused => .ok
     | a => a)

/-- The accesses that a packet's action takes. -/
def State.targetAccess (s : State) (c : Nat) (bs : List Byte) : Access :=
  match pType bs with
  | 1 => s.cpAccess c (pAddr bs) 256 false
  | 2 => s.cpAccess c (pAddr bs) 64 false
  | 3 => (s.cpAccess c (pAddr bs) 8 true).and (s.cpAccess c (pAddr bs) 8 false)
  | _ => s.cpAccess c (pAddr bs) 8 true

/-- The read-index word of a queue is written, or waits for its page (R300, R366). -/
def State.writeIndex (s : State) (q : Nat) : State :=
  let v := s.queue q
  match s.cpAccess v.ctx v.rix 8 true with
  | .ok => (s.modQueue q fun y => { y with owes := false }).vaWrite v.ctx v.rix (leBytes 8 v.read)
  | .missing ps => (s.modQueue q fun y => { y with owes := true }).cpPost v.ctx (6, q) 1 ps
  | .refused => (s.modQueue q fun y => { y with owes := false }).cpTouch v.ctx v.rix 8

/-- A packet passes: the read index moves on, and the read-index word is written (R300). -/
def State.pass1 (s : State) (q : Nat) (run : Option PacketRun) : State :=
  let v := s.queue q
  let n := (v.read + 1) % 2 ^ 64
  (s.modQueue q fun y => { y with read := n, packets := y.packets ++ run.toList }).writeIndex q

/-- The read-index words of a context's queues that wait for their pages. -/
def State.writeIndices (s : State) (c : Nat) : State :=
  (FMap.keys s.queues).foldl (fun u q => if (u.queue q).ctx == c && (u.queue q).owes then u.writeIndex q else u) s

/-- A refused packet: a record, and it completes at once (R302). -/
def State.refusePacket (s : State) (q : Nat) (va : W64) : State :=
  s.appendLog (s.queue q).ctx (LogRec.plain 0x0021 3 va (BitVec.ofNat 32 q))

/-- Whether something may be consumed: admission is not stopped, a packet is posted, no WAITSIG stands before it. -/
def State.queueOpen (s : State) (v : HostQueue) : Bool :=
  !(s.ctx v.ctx).stopped && v.ahead v.posted != 0 && !v.packets.any fun p => p.kind == 3

/-- The action of a packet whose accesses may be made (R302). -/
def State.actPacket (s : State) (q : Nat) (bs : List Byte) : State :=
  let v := s.queue q
  let run (k : Nat) : PacketRun := { idx := v.read, kind := k, addr := pAddr bs, value := pValue bs, cond := pCond bs }
  match pType bs with
  | 1 => ((s.cpReads v.ctx (pAddr bs) 256).pass1 q (some (run 1))).admitLaunch v.ctx (pAddr bs) (s.vaRun v.ctx (pAddr bs) 256) (.packet q v.read)
  | 2 => ((s.cpReads v.ctx (pAddr bs) 64).pass1 q (some (run 2))).graphStart v.ctx (pAddr bs) (s.vaRun v.ctx (pAddr bs) 64) (.packet q v.read)
  | 3 =>
    let u := s.cpReads v.ctx (pAddr bs) 8
    if codeHolds (pCond bs) (s.vaWord v.ctx (pAddr bs)) (pValue bs) then u.pass1 q none
    else (u.pass1 q (some (run 3))).modQueue q fun y => { y with waiting := some (s.ctx v.ctx).notified }
  | _ => s.pass1 q (some (run 4))

/-- A packet whose access is refused (R366). -/
def State.failPacket (s : State) (q : Nat) (bs : List Byte) : State :=
  let v := s.queue q
  match pType bs with
  | 1 => (s.pass1 q none).appendLog v.ctx (LogRec.plain 0x0022 3 (pAddr bs) 0)
  | 2 => (s.pass1 q none).appendLog v.ctx (LogRec.plain 0x0023 3 (pAddr bs) 0)
  | _ => (s.refusePacket q (v.slotAddr v.read)).pass1 q none

/-- The next packet of a queue is consumed, if it is of a type (`none`: of any) or is to be refused, and may start (R300, R302). -/
def State.consume (s : State) (gone : List Nat) (q : Nat) (type : Option Nat) : State :=
  let v := s.queue q
  if !s.queueOpen v then s
  else match (s.headAccess v).without gone with
    | .missing ps => (s.cpTouch v.ctx (v.slotAddr v.read) 64).cpPost v.ctx (0, q) 0 ps
    | .refused => ((s.cpTouch v.ctx (v.slotAddr v.read) 64).refusePacket q (v.slotAddr v.read)).pass1 q none
    | .ok =>
      let bs := s.vaRun v.ctx (v.slotAddr v.read) 64
      let u := s.cpReads v.ctx (v.slotAddr v.read) 64
      if !packetOk bs then (u.refusePacket q (v.slotAddr v.read)).pass1 q none
      else if pAfter bs && !v.packets.isEmpty then s
      else if !(type.isNone || type == some (pType bs)) then s
      else match (s.targetAccess v.ctx bs).without gone with
        | .missing ps => (s.cpTouch v.ctx (pAddr bs) (pReach bs)).cpPost v.ctx (0, q) (if pType bs = 4 then 1 else 0) ps
        | .refused => (u.cpTouch v.ctx (pAddr bs) (pReach bs)).failPacket q bs
        | .ok => u.actPacket q bs

/-- A SIGNAL packet that every earlier packet has completed before. -/
def HostQueue.signalReady (v : HostQueue) : Option PacketRun :=
  v.packets.find? fun p => p.kind == 4 && v.packets.all fun x => x.idx == p.idx || decide (v.ahead p.idx < v.ahead x.idx)

/-- The store of a SIGNAL packet (R302, R303, R366). -/
def State.signalNow (s : State) (gone : List Nat) (q : Nat) (p : PacketRun) : State :=
  let c := (s.queue q).ctx
  match (s.cpAccess c p.addr 8 true).without gone with
  | .missing ps => s.cpPost c (1, q) 1 ps
  | .refused => ((s.cpTouch c p.addr 8).refusePacket q ((s.queue q).slotAddr p.idx)).packetDone q p.idx
  | .ok => (s.writeSignal c p.addr p.value false).packetDone q p.idx

def execLaunchPacket (q : Nat) (s : State) : Result := event (fun u => u.consume [] q (some 1)) s
def execGraphPacket (q : Nat) (s : State) : Result := event (fun u => u.consume [] q (some 2)) s
def execWaitsigPacket (q : Nat) (s : State) : Result := event (fun u => u.consume [] q (some 3)) s
def execSignalPacket (q : Nat) (s : State) : Result :=
  event (fun u => match (u.queue q).signalReady with
    | some p => u.signalNow [] q p
    | none => u.consume [] q (some 4)) s

/-! ### Nodes (R311, R312) -/

def Node.blank : Node := Node.ofBytes []
def GraphRun.node (g : GraphRun) (n : Nat) : Node := g.nodes.getD n Node.blank
def State.setNode (s : State) (g n : Nat) (x : NodeState) : State := s.modGraph g fun v => { v with states := v.states.set n x }

/-- The word or record that a node reads or writes at its start, and whether its address may be used at all. -/
def State.nodeAccess (s : State) (c : Nat) (v : Node) : Access :=
  match v.kind with
  | 1 => if v.p0.toNat % 256 ≠ 0 then .refused else s.cpAccess c v.p0 256 false
  | 2 => if v.p0.toNat % 128 ≠ 0 then .refused else s.cpAccess c v.p0 128 false
  | 3 => s.cpAccess c v.p0 8 true
  | _ => s.cpAccess c v.p0 8 false

/-- The walks of a node's access (R140). -/
def State.nodeTouch (s : State) (c : Nat) (v : Node) : State :=
  let n := if v.kind = 1 then 256 else if v.kind = 2 then 128 else 8
  if v.p0.toNat % n ≠ 0 then s else s.cpTouch c v.p0 n

/-- A copy of a COPY node that cannot start: it completes at once, with error (R366). -/
def State.copyNodeFails (s : State) (c g n : Nat) (va : W64) : State :=
  (s.appendLog c ((s.engineWho { Engine.blank with ctx := c, core := 0xFFFF }).record 0x0017 va 0)).nodeDone g n false

/-- Whether a COPY node's descriptor may run with no binding, no multicast and no team. DEDUCED, log entry 41. -/
def copyNodeOk (d : List Byte) : Bool :=
  !copyFieldsBad LaunchRec.blank 0 false d && cDkind d == 0 && !cSkind d && cCores d == 0 && cConv d != 2 &&
  (copyRangeTrap LaunchRec.blank 0 0 d 0).isNone

/-- The reading of a LOOP's word after `k` iterations (R312). -/
def State.loopRead (s0 : State) (g n k : Nat) (v : GraphRun) : State :=
  let x := v.node n
  let s := s0.cpReads v.ctx x.p0 8
  if !codeHolds x.cond (s0.vaWord v.ctx x.p0) x.p1 then (s.modGraph g fun y => { y with entered := y.entered.set n false }).nodeDone g n false
  else if k = x.max then
    ((s.appendLog v.ctx (LogRec.plain 0x0019 3 v.header (BitVec.ofNat 32 n))).modGraph g fun y =>
      { y with entered := y.entered.set n false }).nodeDone g n false
  else
    s.modGraph g fun y =>
      let body (i : Nat) : Bool := inBody x i
      { y with counts := (List.range y.counts.length).map fun i => if body i then (y.node i).deps else y.counts.getD i 0,
               states := (List.range y.states.length).map fun i =>
                 if body i then .idle else if i = n then .running else y.states.getD i .idle,
               iters := (List.range y.iters.length).map fun i => if body i then 0 else if i = n then k else y.iters.getD i 0,
               entered := (List.range y.entered.length).map fun i => if body i then false else if i = n then true else y.entered.getD i false }

/-- A node acts, its access made (R311). -/
def State.actNode (s : State) (g n : Nat) (v : GraphRun) : State :=
  let x := v.node n
  match x.kind with
  | 1 => ((s.cpReads v.ctx x.p0 256).setNode g n .running).admitLaunch v.ctx x.p0 (s.vaRun v.ctx x.p0 256) (.node g n)
  | 2 =>
    let d := s.vaRun v.ctx x.p0 128
    if copyNodeOk d then
      let s1 := (s.cpReads v.ctx x.p0 128).setNode g n .running
      let e : Engine := { Engine.blank with ctx := v.ctx, die := 0, core := 0xFFFF, slice := 0xFFFF, desc := d, va := x.p0,
                                            origin := .node g n, done := false }
      { s1 with engines := FMap.put s1.engines (nextKey s1.engines) e }
    else (s.cpReads v.ctx x.p0 128).copyNodeFails v.ctx g n x.p0
  | 3 => (s.writeSignal v.ctx x.p0 x.p1 false).nodeDone g n false
  | 4 =>
    let u := s.cpReads v.ctx x.p0 8
    if codeHolds x.cond (s.vaWord v.ctx x.p0) x.p1 then u.nodeDone g n false
    else (u.setNode g n .running).modGraph g fun y => { y with seen := y.seen.set n (s.ctx v.ctx).notified }
  | 5 => (s.cpReads v.ctx x.p0 8).nodeDone g n (!codeHolds x.cond (s.vaWord v.ctx x.p0) x.p1)
  | _ => s.loopRead g n 0 v

/-- A node whose access is refused (R306, R366). -/
def State.failNode (s : State) (g n : Nat) (v : GraphRun) : State :=
  match (v.node n).kind with
  | 1 => s.refuseLaunch v.ctx (v.node n).p0 0 (.node g n)
  | 2 => s.copyNodeFails v.ctx g n (v.node n).p0
  | _ => s.graphRefuse g n

/-- A ready node of a kind starts, waits for its page, or is refused. -/
def State.startNode (s : State) (gone : List Nat) (g n kind : Nat) : State :=
  match s.graph g with
  | none => s
  | some v =>
    if (s.ctx v.ctx).stopped || !v.ready n || (v.node n).kind != kind then s
    else match (s.nodeAccess v.ctx (v.node n)).without gone with
      | .missing ps => (s.nodeTouch v.ctx (v.node n)).cpPost v.ctx (3, 65536 * g + n) (if kind = 3 then 1 else 0) ps
      | .refused => (s.nodeTouch v.ctx (v.node n)).failNode g n v
      | .ok => s.actNode g n v

def execKernelNode (g n : Nat) (s : State) : Result := event (fun u => u.startNode [] g n 1) s
def execCopyNode (g n : Nat) (s : State) : Result := event (fun u => u.startNode [] g n 2) s
def execSignalNode (g n : Nat) (s : State) : Result := event (fun u => u.startNode [] g n 3) s
def execWaitNode (g n : Nat) (s : State) : Result := event (fun u => u.startNode [] g n 4) s
def execCondNode (g n : Nat) (s : State) : Result := event (fun u => u.startNode [] g n 5) s
def execLoopNode (g n : Nat) (s : State) : Result := event (fun u => u.startNode [] g n 6) s

/-- An iteration of a LOOP ends, and its word is read again (R312); in a graph that has been refused the LOOP ends with it (R366). -/
def State.iterate (s : State) (gone : List Nat) (g n : Nat) : State :=
  match s.graph g with
  | none => s
  | some v =>
    if (s.ctx v.ctx).stopped || !v.running n || (v.node n).kind != 6 || !v.bodyStill n then s
    else if v.refused then (s.setNode g n .done).graphCheck g
    else match (s.nodeAccess v.ctx (v.node n)).without gone with
      | .missing ps => s.cpPost v.ctx (3, 65536 * g + n) 0 ps
      | .refused => (s.nodeTouch v.ctx (v.node n)).graphRefuse g n
      | .ok => s.loopRead g n (v.iters.getD n 0 + 1) v

def execLoopIteration (g n : Nat) (s : State) : Result := event (fun u => u.iterate [] g n) s

/-! ### Notifications (R303) -/

/-- A waiting WAITSIG reads its word again. -/
def State.rereadQueue (s : State) (gone : List Nat) (q : Nat) : State :=
  let v := s.queue q
  match v.waiting, v.packets.find? fun p => p.kind == 3 with
  | some seen, some p =>
    if (s.ctx v.ctx).notified ≤ seen then s
    else match (s.cpAccess v.ctx p.addr 8 false).without gone with
      | .missing ps => s.cpPost v.ctx (1, q) 0 ps
      | .refused => (((s.cpTouch v.ctx p.addr 8).refusePacket q (v.slotAddr p.idx)).packetDone q p.idx).modQueue q fun y => { y with waiting := none }
      | .ok =>
        let u := s.cpReads v.ctx p.addr 8
        if codeHolds p.cond (s.vaWord v.ctx p.addr) p.value then (u.packetDone q p.idx).modQueue q fun y => { y with waiting := none }
        else u.modQueue q fun y => { y with waiting := some (s.ctx v.ctx).notified }
  | _, _ => s

/-- A running WAIT node reads its word again. -/
def State.rereadNode (s : State) (gone : List Nat) (g n : Nat) : State :=
  match s.graph g with
  | none => s
  | some v =>
    if !v.running n || (v.node n).kind != 4 || decide ((s.ctx v.ctx).notified ≤ v.seen.getD n 0) then s
    else match (s.nodeAccess v.ctx (v.node n)).without gone with
      | .missing ps => s.cpPost v.ctx (3, 65536 * g + n) 0 ps
      | .refused => (s.nodeTouch v.ctx (v.node n)).graphRefuse g n
      | .ok =>
        let u := s.cpReads v.ctx (v.node n).p0 8
        if codeHolds (v.node n).cond (s.vaWord v.ctx (v.node n).p0) (v.node n).p1 then u.nodeDone g n false
        else u.modGraph g fun y => { y with seen := y.seen.set n (s.ctx v.ctx).notified }

/-- The queues and graph runs of a context. -/
def State.queuesOf (s : State) (c : Nat) : List Nat := (FMap.keys s.queues).filter fun q => (s.queue q).ctx == c
def State.graphsOf (s : State) (c : Nat) : List Nat := ((s.graphs.filter fun e => e.2.ctx == c && !e.2.done).map (·.1))

def State.nodesOf (s : State) (g : Nat) : List Nat :=
  match s.graph g with
  | some v => List.range v.nodes.length
  | none => []

/-- NOTIFIED_REREAD: every word that the context's WAITSIGs and WAIT nodes wait on. -/
def State.reread (s : State) (c : Nat) : State :=
  let s1 := (s.queuesOf c).foldl (fun u q => u.rereadQueue [] q) s
  (s1.graphsOf c).foldl (fun u g => (s1.nodesOf g).foldl (fun x n => x.rereadNode [] g n) u) s1

def execNotifiedReread (ctx : Nat) (s : State) : Result := event (fun u => u.reread ctx) s

/-! ### Pages answered as unresolvable (R366) -/

/-- Whether the next packet of a queue waits for a page. -/
def State.headWaits (s : State) (q page : Nat) : Bool :=
  let v := s.queue q
  s.queueOpen v &&
  (match s.headAccess v with
   | .ok =>
     let bs := s.vaRun v.ctx (v.slotAddr v.read) 64
     packetOk bs && !(pAfter bs && !v.packets.isEmpty) && (s.targetAccess v.ctx bs).waitsFor page
   | a => a.waitsFor page)

/-- What waits in a queue for a page is refused. -/
def State.queueGone (s : State) (page q : Nat) : State :=
  let s1 := if s.headWaits q page then s.consume [page] q none else s
  let s2 := match (s1.queue q).signalReady with
    | some p => if (s1.cpAccess (s1.queue q).ctx p.addr 8 true).waitsFor page then s1.signalNow [page] q p else s1
    | none => s1
  let s3 := match (s2.queue q).packets.find? fun p => p.kind == 3 with
    | some p => if (s2.cpAccess (s2.queue q).ctx p.addr 8 false).waitsFor page then s2.rereadQueue [page] q else s2
    | none => s2
  if (s3.cpAccess (s3.queue q).ctx (s3.queue q).rix 8 true).waitsFor page then s3.modQueue q fun y => { y with owes := false } else s3

/-- What waits in a node for a page is refused. -/
def State.nodeGone (s : State) (page g n : Nat) : State :=
  match s.graph g with
  | none => s
  | some v =>
    if !(s.nodeAccess v.ctx (v.node n)).waitsFor page then s
    else ((s.startNode [page] g n (v.node n).kind).iterate [page] g n).rereadNode [page] g n

/-- A completion signal that waits for a page is discarded, with a record. -/
def State.signalGone (s : State) (c page : Nat) (va name : W64) : State × Bool :=
  if va != 0 && (s.cpAccess c va 8 true).waitsFor page then ((s.cpTouch c va 8).appendLog c (LogRec.plain 0x0022 3 name 0), true) else (s, false)

def State.graphGone (s : State) (page g : Nat) : State :=
  match s.graph g with
  | none => s
  | some v => match v.start with
    | some (va, count) => if (s.nodesAccess v.ctx va count).waitsFor page then State.graphTry.refuse (s.nodesTouch v.ctx va count) g v else s
    | none =>
      if v.still then
        let r := s.signalGone v.ctx page v.signal v.header
        if r.2 then (r.1.modGraph g fun x => { x with signal := 0 }).graphCheck g else s
      else (s.nodesOf g).foldl (fun u n => u.nodeGone page g n) s

def State.launchGone (s : State) (page l : Nat) : State :=
  let v := s.launch l
  if v.done || decide (v.retired < v.params.teams) then s
  else
    let r := s.signalGone v.ctx page v.params.signal v.addr
    if r.2 then (r.1.modLaunch l fun x => { x with params := { x.params with signal := 0 } }).launchCheck l else s

/-- Everything that the command processor has waiting in a context for a page is refused. -/
def State.cpGone (s : State) (c page : Nat) : State :=
  let s1 := (s.queuesOf c).foldl (fun u q => u.queueGone page q) s
  let s2 := (s1.graphsOf c).foldl (fun u g => u.graphGone page g) s1
  ((FMap.keys s2.launches).filter fun l => (s2.launch l).ctx == c).foldl (fun u l => u.launchGone page l) s2

end Sys2Proof.Machine
end

