-- ==== Sys2Proof/Machine/Scheduler.lean ====
section
/-! DEFINITION. The team scheduler (R317 to R324): ready pools, what fits a core, placement, pre-emption, time slicing, the residency floor;
the start of a team (R97, R237, R327) and its retirement (R307). -/

namespace Sys2Proof.Machine

/-! ### Cores and what they have room for (R319) -/

/-- The core of a die that has a number. -/
def State.coreOf (s : State) (d n : Nat) : Option Nat := (List.find? (fun (e : Nat × Core) => e.1 / 18 == d && e.2.num == some n) s.cores).map (·.1)

/-- A spare core of a die that has not been brought in. -/
def State.spareOf (s : State) (d : Nat) : Option Nat :=
  (List.find? (fun (e : Nat × Core) => e.1 / 18 == d && e.2.num.isNone && !e.2.worn) s.cores).map (·.1)

/-- Whether a core is worn and a spare of its die is left to replace it (R362): with none it runs on. -/
def State.retiring (s : State) (c : Nat) : Bool := (s.core c).worn && (s.spareOf (c / 18)).isSome

/-- The cores of a die on which teams may be placed, by rising number. -/
def State.coresOf (s : State) (d : Nat) : List Nat := ((List.range 16).filterMap fun n => s.coreOf d n).filter fun c => !s.retiring c

/-- The teams resident on a core. -/
def State.residents (s : State) (c : Nat) : List Nat :=
  (s.teams.filter fun e => match e.2.place with
    | .resident x _ _ _ => x == c
    | .ready | .swapped | .retired => false).map (·.1)

/-- The sizes of a team's home gangs (R97). -/
def homeSizes (n : Nat) : List Nat := (List.range ((n + 7) / 8)).map fun g => min 8 (n - 8 * g)

/-- The slices of a team in a quarter. -/
def Team.inQuarter (v : Team) (q : Nat) : Nat :=
  match v.place with
  | .resident _ qs _ _ => sumNat (((qs.zip (homeSizes v.slices)).filter fun e => e.1 == q).map (·.2))
  | .ready | .swapped | .retired => 0

/-- The quarter with the fewest slices, the lowest winning a tie. -/
def leastQuarter (ls : List Nat) : Nat := (ls.findIdx? fun x => ls.all fun y => decide (x ≤ y)).getD 0

/-- The quarters of a team's home gangs on a core that holds some teams. DEDUCED, log entry 44. -/
def State.quartersFor (s : State) (rs : List Nat) (t : Nat) : List Nat :=
  let q0 := leastQuarter ((List.range 4).map fun q => sumNat (rs.map fun r => (s.team r).inQuarter q))
  (List.range (homeSizes (s.team t).slices).length).map fun g => (q0 + g) % 4

/-- Whether a team fits a core that holds some teams (R319). -/
def State.fits (s : State) (rs : List Nat) (t : Nat) : Bool :=
  let use (f : LaunchRec → Nat) : Nat := sumNat ((t :: rs).map fun r => f (s.params r))
  let qs := (s.quartersFor rs t).zip (homeSizes (s.team t).slices)
  decide (sumNat ((t :: rs).map fun r => (s.team r).slices) ≤ 512) &&
  ((List.range 4).all fun q =>
    decide (sumNat (rs.map fun r => (s.team r).inQuarter q) + sumNat ((qs.filter fun e => e.1 == q).map (·.2)) ≤ 128)) &&
  decide (use (·.tmem) ≤ 2 ^ 22) && decide (use (·.chan) ≤ 512) && decide (use (·.acc) ≤ 4) && decide (use LaunchRec.scaleEntries ≤ 131072) &&
  decide (use (·.bstore) ≤ 2 ^ 24)

/-- The core on which a team is placed: the lowest-numbered that it fits (R320). -/
def State.coreFor (s : State) (t : Nat) : Option Nat := (s.coresOf (s.teamDie t)).find? fun c => s.fits (s.residents c) t

/-! ### Ready pools (R317, R318, R327) -/

/-- Whether a context has a team slot free. -/
def State.freeSlot (s : State) (c : Nat) : Option Nat :=
  (List.range 4096).find? fun n => !s.teams.any fun e => e.2.ctx == c && e.2.slot == some n

/-- Teams are admitted in the order of their numbers: by launch, linear index and stage. -/
def State.teamPrio (s : State) (t : Nat) : Nat := s.launchPrio (s.team t).launch

/-- The teams of a pool of a die that may be placed, in pool order: ready, of a context that is not halted, with a team slot. -/
def State.pool (s : State) (d p : Nat) : List Nat :=
  (FMap.keys s.teams).filter fun t =>
    (s.team t).place == .ready && s.teamDie t == d && s.teamPrio t == p && !(s.ctx (s.team t).ctx).halted &&
    ((s.team t).slot.isSome || (s.freeSlot (s.team t).ctx).isSome)

/-- The access that a team's start takes: its channel table (R237). -/
def State.tableAccess (s : State) (t : Nat) : Access :=
  if (s.team t).started || (s.params t).chan = 0 then .ok
  else s.cpAccess (s.team t).ctx (s.params t).chtab (16 * (s.params t).chan) false

/-- A team that waits for a page of its channel table. -/
def State.tableWaits (s : State) (t : Nat) : Bool :=
  match s.tableAccess t with
  | .missing ps => ps.all fun p => s.awaits 0 (s.team t).ctx (pageOf p.1)
  | .ok | .refused => false

/-- The first of a pool that has been passed over for 64 quanta and fits nowhere (R320). -/
def State.waitingHead (s : State) (ts : List Nat) : Bool :=
  match ts with
  | t :: _ => decide (64 ≤ (s.team t).passed) && (s.coreFor t).isNone
  | [] => false

/-- The teams that the scheduler considers: pool after pool, up to a waiting head. -/
def State.considered (s : State) (d : Nat) : Nat → List Nat
  | 0 => []
  | p + 1 =>
    let ts := s.pool d p
    if s.waitingHead ts then ts.take 1 else ts ++ s.considered d p

/-- The team that is placed next on a die. DEDUCED, log entry 44. -/
def State.nextTeam (s : State) (d : Nat) : Option Nat :=
  (s.considered d 8).find? fun t => (s.coreFor t).isSome && !s.tableWaits t

/-! ### Placement (R97, R237, R320, R327) -/

/-- The channels of a team, from its table. -/
def State.tableChans (s : State) (t : Nat) : Option (List Chan) :=
  let r := s.params t
  ((List.range r.chan).map fun k =>
    Chan.ofEntry (leNat (s.vaRun (s.team t).ctx (r.chtab + BitVec.ofNat 64 (16 * k)) 16)) r.tmem).foldr
    (fun x xs => match x, xs with
      | some c, some cs => some (c :: cs)
      | _, _ => none) (some [])

/-- A team starts: its slot, its channels, its slices and home gangs. -/
def State.startTeam (s : State) (t : Nat) (chans : List Chan) : State :=
  let tm := s.team t
  let x := s.ctx tm.ctx
  let s1 := s.modTeam t fun v => { v with started := true, slot := s.freeSlot tm.ctx, chans := chans }
  let s2 : State :=
    { s1 with
      slices := (List.range tm.slices).foldl (fun m k => FMap.put m (sliceKey t k) (Slice.start x (s.params t).entry)) s1.slices,
      gangs := s1.gangs ++ (List.range ((tm.slices + 7) / 8)).map fun g =>
        ({ team := t, ks := (List.range (min 8 (tm.slices - 8 * g))).map (8 * g + ·), age := 0, wait := none } : Gang) }
  s2.invalidate ((List.range chans.length).map fun c => .chan t c) none

/-- The order of the next placement on a core. -/
def State.nextOrder (s : State) (c : Nat) : Nat :=
  ((s.residents c).map fun r => match (s.team r).place with
    | .resident _ _ o _ => o + 1
    | .ready | .swapped | .retired => 0).foldl max 0

/-- Whether a die's quantum is just beginning. -/
def State.fresh (s : State) (d : Nat) : Bool := (s.die d).opps == 0

/-- The copies that a team's slices have in the L1 of a core are gone (R147, R348). -/
def State.dropCopies (s : State) (t : Nat) : State :=
  (List.range (s.team t).slices).foldl (fun u k => u.modSlice t k fun v => { v with nc := [] }) s

/-- A team becomes resident on a core, its image read back (R324); on another core than its last it finds nothing in the L1. -/
def State.settleOn (s : State) (t c : Nat) (floor : Bool) : State :=
  let p : Place := .resident c (s.quartersFor (s.residents c) t) (s.nextOrder c) 0
  let s1 := if (s.team t).last = some c then s else s.dropCopies t
  (((s1.freeImage t).modTeam t fun v => { v with place := p, passed := 0, whole := s.fresh (s.teamDie t), floor := floor, last := some c }).modCtx
    (s.team t).ctx fun x => { x with absent := FMap.set 0 x.absent (s.teamDie t) 0 }).modCore c fun x => { x with gated := false }

/-- The context fault of a channel configuration (R237, R334). DEDUCED, log entry 45. -/
def State.chanFault (s : State) (t : Nat) : State :=
  s.contextFault (s.team t).ctx 4
    { LogRec.plain 0x0025 4 (s.params t).chtab 4 with die := s.teamDie t }

/-- A team placed on a core: at its start once its channel table can be read. -/
def State.placeOn (s : State) (gone : List Nat) (t c : Nat) (floor : Bool) : State :=
  if (s.team t).started then s.settleOn t c floor
  else match (s.tableAccess t).without gone with
    | .missing ps => s.cpPost (s.team t).ctx (5, t) 0 ps
    | .refused => s.chanFault t
    | .ok => match s.tableChans t with
      | none => s.chanFault t
      | some chs => ((s.cpReads (s.team t).ctx (s.params t).chtab (16 * (s.params t).chan)).startTeam t chs).settleOn t c floor

/-- TEAM_PLACE: the team that is next on its die. -/
def State.teamPlaced (s : State) (t : Nat) : State :=
  if s.nextTeam (s.teamDie t) = some t then
    match s.coreFor t with
    | some c => s.placeOn [] t c false
    | none => s
  else s

def execTeamPlace (t : Nat) (s : State) : Result := event (fun u => u.teamPlaced t) s

/-- A channel table's page has been answered as unresolvable: the team that waits for it refuses its start. -/
def State.tableGone (s : State) (c page : Nat) : State :=
  (FMap.keys s.teams).foldl (fun u t =>
    if (u.team t).ctx == c && (u.team t).place == .ready && !(u.ctx c).halted && (u.coreFor t).isSome && (u.tableAccess t).waitsFor page then
      u.chanFault t
    else u) s

/-! ### Swap-out (R153, R320, R323) -/

/-- Where a resident stands among those to be pre-empted: its priority, the lowest first, then the order of its placement, the latest
first (R320). -/
def State.before (s : State) (a b : Nat) : Bool :=
  let o (t : Nat) : Nat := match (s.team t).place with
    | .resident _ _ x _ => x
    | .ready | .swapped | .retired => 0
  decide (s.teamPrio a < s.teamPrio b) || (s.teamPrio a == s.teamPrio b && decide (o b < o a))

def State.insertVictim (s : State) (a : Nat) : List Nat → List Nat
  | [] => [a]
  | b :: r => if s.before a b then a :: b :: r else b :: s.insertVictim a r

/-- As many of the victims as it takes, in order, until the team fits. -/
def State.victimsUntil (s : State) (t : Nat) : List Nat → List Nat → List Nat
  | _, [] => []
  | rs, v :: vs => if s.fits rs t then [] else v :: s.victimsUntil t (rs.filter (· != v)) vs

/-- The residents that make room for a team that fits nowhere, from those that may be removed (R320). -/
def State.victims (s : State) (t : Nat) (may : Nat → Bool) : List Nat :=
  match (s.coresOf (s.teamDie t)).find? fun c => s.fits ((s.residents c).filter fun r => !may r) t with
  | none => []
  | some c => s.victimsUntil t (s.residents c) (((s.residents c).filter may).foldl (fun l v => s.insertVictim v l) [])

/-- Every gang of a team is parked, asleep or waiting (R153, R323). -/
def State.teamIdle (s : State) (t : Nat) : Bool :=
  s.gangs.all fun g => g.team != t || g.wait.isSome ||
    g.ks.any fun k => (s.slice t k).park.isSome || (match (s.slice t k).status with
      | .asleep _ => true
      | .run | .exited => false)

/-- Whether a ready team that fits nowhere pre-empts a resident of lower priority. -/
def State.preempts (s : State) (w t : Nat) : Bool :=
  (s.coreFor w).isNone && !s.tableWaits w &&
  (s.victims w (fun r => decide (s.teamPrio r < s.teamPrio w) && !(s.team r).floor)).head? == some t

/-- Whether a ready team that fits nowhere has waited a full quantum for the place of a resident of its own priority, resident for 8 quanta. -/
def State.timeSlices (s : State) (w t : Nat) : Bool :=
  (s.coreFor w).isNone && !s.tableWaits w && s.teamPrio w == s.teamPrio t && decide (1 ≤ (s.team w).passed) &&
  (match (s.team t).place with
   | .resident _ _ _ n => decide (8 ≤ n)
   | .ready | .swapped | .retired => false)

/-- The team that takes a resident's place by time slicing. -/
def State.slicer (s : State) (t : Nat) : Option Nat := (s.considered (s.teamDie t) 8).find? fun w => s.timeSlices w t

/-- A drain of the team has begun and has not completed: it posted a fault, or has writes in a spill buffer (R261). -/
def Team.drainBegun (v : Team) : Bool := v.queue.any fun m => m.drained || !m.asked.isEmpty

/-- Whether a resident team may be swapped out (R320, R323, R362), no drain of it being under way (R261); one of a context that has faulted once it has
nothing released left (R334). -/
def State.maySwap (s : State) (t : Nat) : Bool :=
  let d := s.teamDie t
  if (s.ctx (s.team t).ctx).halted then (s.team t).spent
  else !(s.team t).floor && !(s.team t).drainBegun &&
  (match s.teamCore t with
   | none => false
   | some c => s.retiring c || (s.considered d 8).any fun w => s.preempts w t || s.timeSlices w t || (s.teamIdle t && (s.coreFor w).isNone))

/-- What a sleeper waits on, as it stands: its word's place, how often it has been written, and whether an access would trap there; the arrivals that its barrier
lacks; its gate; its channel's counters; the commands completed. -/
def State.watched (s : State) (t k : Nat) : Sleep → List Nat
  | .wait (.wait _ a _) => match s.walk (s.team t).ctx ((s.slice t k).regs.getS a) with
    | .leaf l =>
      let p := s.loadAddr (s.teamDie t) l (l.npa ((s.slice t k).regs.getS a))
      [1, p, (s.words.filter fun w => w.1 / 8 == p / 8).length, (s.poisoned p).toNat + 2 * (s.expanderDown p).toNat + 4 * l.ff.toNat + 8 * l.r.toNat]
    | .none _ => [0]
  | .gate (.gwait _ a _) => [((s.team t).gate ((s.slice t k).regs.getS a).toNat).bits]
  | .chan i => match (blockingForm i).bind fun f => s.handle t ((s.slice t k).regs.getS f.2.1) with
    | some (o, n) => match s.chan o n with
      | some c => [1, c.free, c.filled]
      | none => [2]
    | none => [0]
  | .bar => [(s.live t).length]
  | .cwait _ => [(s.team t).doneCount]
  | .mwait _ => [(s.team t).queue.length]
  | .wait _ | .gate _ => []

/-- What the slices of a team sleep in, those that do. -/
def State.sleeps (s : State) (t : Nat) : List (Nat × Sleep) :=
  (s.live t).filterMap fun k => match (s.slice t k).status with
    | .asleep z => some (k, z)
    | .run | .exited => none

/-- The owner of the channel in whose closer a slice of a team sleeps (R240). -/
def State.sleepOwner (s : State) (t k : Nat) : Sleep → Option Nat
  | .chan i => ((blockingForm i).bind fun f => s.handle t ((s.slice t k).regs.getS f.2.1)).map (·.1)
  | .wait _ | .gate _ | .bar | .cwait _ | .mwait _ => none

/-- Swap-out by the scheduler, after the commits past their commit points, whose flags may fault the context (R209): what its sleepers wait on is watched
(R323). -/
def State.swapAway (s0 : State) (t : Nat) : State :=
  let s := s0.completeTeam t
  let zs := s.sleeps t
  let u := s.swapOut t
  if !s.resident t || ((s.ctx (s.team t).ctx).halted && !(s.team t).spent) then s else u.modTeam t fun v => { v with watch := zs.map fun z => (z.1, z.2, u.watched t z.1 z.2) }

/-- TEAM_SWAP_OUT: a team that waited for this place by time slicing takes it (R320). -/
def State.swapped (s : State) (t : Nat) : State :=
  if !s.maySwap t then s
  else
    let u := s.swapAway t
    match s.slicer t with
    | none => u
    | some w => match u.coreFor w with
      | some c => u.placeOn [] w c false
      | none => u

def execTeamSwapOut (t : Nat) (s : State) : Result := event (fun u => u.swapped t) s

/-- An engine thread has accesses left that are performed only while a team is resident (R288). -/
def State.engineNeeds (s : State) (t : Nat) (v : Engine) : Bool :=
  !v.done && !v.stopped && !v.void &&
  ((v.team == some t && v.bind == .gate) || (v.chan.map (·.1)) == some t ||
   (v.kind == .copy && !s.engineWritten v &&
    ((v.team == some t && cSkind v.desc) ||
     ((s.unitOwners v 0).contains t && unitSpace v.desc v.slot 0 != .global) ||
     (cConv v.desc == 2 && (s.unitOwners v (dataUnits v.desc v.slot)).contains t && unitSpace v.desc v.slot (dataUnits v.desc v.slot) != .global))))

/-- A slice of another team sleeps in a channel closer on a channel of a team, or slept in it when its own team was swapped out (R240). -/
def State.chanNeeds (s : State) (t : Nat) : Bool :=
  (FMap.keys s.teams).any fun u => u != t &&
    ((List.range (s.team u).slices).any (fun k => match (s.slice u k).status with
      | .asleep z => s.sleepOwner u k z == some t
      | .run | .exited => false) ||
     (s.team u).watch.any fun w => s.sleepOwner u w.1 w.2.1 == some t)

/-- What a sleeper of a swapped-out team waits on has changed since, or the owner of its channel is resident (R240, R323). -/
def State.stirred (s : State) (t : Nat) (w : Nat × Sleep × List Nat) : Bool :=
  s.watched t w.1 w.2.1 != w.2.2 || (match s.sleepOwner t w.1 w.2.1 with
    | some o => o != t && s.resident o
    | none => false)

/-- Why a team that has been swapped out is runnable again (R153, R240, R288, R323): its missing pages have been answered, or none was missing, and, if it
slept whole, something that it waits on has changed; or an engine or channel access is aimed at it. DEDUCED, log entry 44. -/
def State.mayRunAgain (s : State) (t : Nat) : Bool :=
  let v := s.team t
  (v.awaited.isEmpty && (v.watch.isEmpty || decide (v.watch.length < (s.live t).length) || v.watch.any (s.stirred t))) ||
  s.chanNeeds t || s.engines.any fun e => s.engineNeeds t e.2

/-- TEAM_RUNNABLE: a team returns to its ready pool (R153, R318, R323). -/
def State.runnable (s : State) (t : Nat) : State :=
  if (s.team t).place == .swapped && s.mayRunAgain t && !(s.ctx (s.team t).ctx).halted then
    s.modTeam t fun v => { v with place := .ready, passed := 0, whole := s.fresh (s.teamDie t), watch := [] }
  else s

def execTeamRunnable (t : Nat) (s : State) : Result := event (fun u => u.runnable t) s

/-! ### Quanta (R320 to R322, R341) -/

/-- Whether a context has a ready team, and a resident team, on a die. -/
def State.hasReady (s : State) (c d : Nat) : Bool :=
  (FMap.keys s.teams).any fun t => (s.team t).ctx == c && s.teamDie t == d && (s.team t).place == .ready
def State.hasResident (s : State) (c d : Nat) : Bool :=
  (FMap.keys s.teams).any fun t => (s.team t).ctx == c && s.teamDie t == d && s.resident t

/-- Issue opportunities of a quantum (R321). -/
def quantumOpps : Nat := 65536

/-- A team at the end of a quantum of its die: what counts is a quantum that it has spent whole where it is (R320, R322). -/
def Team.quantumOver (v : Team) : Team :=
  match v.place with
  | .resident c qs o n => { v with place := .resident c qs o (if v.whole then n + 1 else n), floor := v.floor && !v.whole, whole := true }
  | .ready => { v with passed := if v.whole then v.passed + 1 else v.passed, whole := true }
  | .swapped | .retired => v

/-- QUANTUM_END, once the die's quantum is over. -/
def State.endQuantum (s : State) (d : Nat) : State :=
  if (s.die d).opps < quantumOpps then s
  else
    let s1 := s.modDie d fun v => { v with opps := v.opps - quantumOpps, quanta := v.quanta + 1, poolFail := v.poolFail.map (· + 1) }
    let s2 := { s1 with teams := s1.teams.map fun (e : Nat × Team) => (e.1, if s.teamDie e.1 = d then e.2.quantumOver else e.2) }
    { s2 with ctxs := s2.ctxs.map fun (e : Nat × Ctx) =>
        (e.1, { e.2 with
          absent := FMap.set 0 e.2.absent d (if s.hasReady e.1 d && !s.hasResident e.1 d then FMap.get 0 e.2.absent d + 1 else 0),
          openFor := if e.2.mailbox.id != 0 && e.2.openDie.getD 0 == d then e.2.openFor + 1 else e.2.openFor }) }

def execQuantumEnd (die : Nat) (s : State) : Result := event (fun u => u.endQuantum die) s

/-- The first ready team of a context on a die. -/
def State.floorTeam (s : State) (c d : Nat) : Option Nat :=
  ((List.range 8).reverse.flatMap fun p => s.pool d p).find? fun t => (s.team t).ctx == c && !s.tableWaits t

/-- The residents that the residency floor may pre-empt for a team, of any priority (R322). -/
def State.floorVictims (s : State) (t : Nat) : List Nat :=
  s.victims t fun r => !(s.team r).floor && (!(s.ctx (s.team r).ctx).halted || (s.team r).spent)

/-- A context's residency floor on a die is due: at the start of a quantum, it has been absent for 63, and a team of it can be given room (R322). -/
def State.floorDue (s : State) (c d : Nat) : Bool :=
  s.fresh d && decide (63 ≤ FMap.get 0 (s.ctx c).absent d) &&
  match s.floorTeam c d with
  | some t => (s.coreFor t).isSome || !(s.floorVictims t).isEmpty
  | none => false

/-- RESIDENCY_FLOOR: a context absent for 63 quanta has its first ready team placed as the next quantum starts, pre-empting teams of any priority (R322), as
soon as no drain of theirs is under way (R261). -/
def State.floorPlace (s : State) (c d : Nat) : State :=
  if !s.floorDue c d then s
  else match s.floorTeam c d with
    | none => s
    | some t =>
      match (s.tableAccess t) with
      | .missing ps => s.cpPost c (5, t) 0 ps
      | _ =>
        if (s.coreFor t).isNone && (s.floorVictims t).any fun r => (s.team r).drainBegun then s
        else
          let s1 := if (s.coreFor t).isSome then s else (s.floorVictims t).foldl (fun u v => u.swapAway v) s
          match s1.coreFor t with
          | some x => s1.placeOn [] t x true
          | none => s1

/-- A die's issue opportunities wait: its quantum is over, or a residency floor is due as one starts (R321, R322). -/
def State.dieHeld (s : State) (d : Nat) : Bool :=
  decide (quantumOpps ≤ (s.die d).opps) || (FMap.keys s.ctxs).any fun c => s.floorDue c d

def execResidencyFloor (ctx die : Nat) (s : State) : Result := event (fun u => u.floorPlace ctx die) s

/-! ### Retirement (R268, R273, R307) -/

/-- The conditions of drains that no MWAIT has joined are recorded when the team retires (R273). -/
def State.logConds (s : State) (t : Nat) : State :=
  (s.team t).conds.foldl (fun u e => (flagList e.2).foldl (fun v i =>
    v.appendLog (s.team t).ctx { v.sliceRec t e.1 0 (i + 1) 0 0 with src := 2 }) u) s

/-- Whether a team has nothing left to do (R261, R288, R307). -/
def State.teamOver (s : State) (t : Nat) : Bool :=
  let tm := s.team t
  tm.started && tm.place != .retired && (List.range tm.slices).all (fun k => (s.slice t k).status == .exited && (s.slice t k).post.isEmpty) &&
  tm.queue.isEmpty && tm.ended.length == tm.issued

def State.retire (s : State) (t : Nat) : State :=
  if !s.teamOver t then s
  else
    let tm := s.team t
    let s1 := ((s.logConds t).freeImage t).modTeam t fun v =>
      { v with slot := none, place := .retired, tmem := [], scale := [], bstore := [], acc := [], conds := [], chans := [], awaited := [], watch := [] }
    let s2 := { s1 with slices := s1.slices.filter fun e => e.1 / 256 != t, gangs := s1.gangs.filter fun g => g.team != t }
    let s3 := (s2.modLaunch tm.launch fun v => { v with retired := v.retired + 1 }).invalidate
      ((List.range tm.chans.length).map fun c => .chan t c) none
    s3.launchCheck tm.launch

def execTeamRetire (t : Nat) (s : State) : Result := event (fun u => u.retire t) s

end Sys2Proof.Machine
end

