-- ==== Sys2Proof/Machine/ServiceProcessor.lean ====
section
/-! DEFINITION. What the service processor and the memory system do of themselves: leaf entries and their grants (R17, R141, R184, R188, R216), fault
answers (R151, R152, R334, R339), quotas and promises, balloon requests (R186, R341), write-back, antes, row capture (R163, R175, R182), failed block
metadata (R174, R341), expanders (R350, R351). -/

namespace Sys2Proof.Machine

/-! ### Leaf entries (R136 to R141) -/

/-- Node entries that the service processor adds: each at an entry of device-owned memory that holds no valid entry (R136, R137). -/
def State.addNodes (s : State) (ns : List (Nat × W64)) : Option State :=
  ns.foldl (fun (o : Option State) n => match o with
    | none => none
    | some u =>
      if n.1 % 8 = 0 ∧ !u.isHost n.1 ∧ !isFabric n.1 ∧ (u.block (blockOf n.1)).owner.isNone ∧ !(u.readWord64 n.1).getLsbD 0 ∧
          n.2.getLsbD 0 ∧ !n.2.getLsbD 6 ∧ nodeOk 0 n.2 then
        some (u.tableWrite (byteRun n.1 (leBytes 8 n.2.toNat)))
      else none) (some s)

/-- The address of the entry of a virtual address at a level: from a node of level `lvl + k`, `k` levels down. -/
def entryFrom (s : State) (va lvl : Nat) : Nat → Nat → Option Nat
  | 0, node => some (node + 8 * (va / 2 ^ levelShift lvl % (if lvl = 0 then 32 else 512)))
  | k + 1, node =>
    let e := s.readWord64 (node + 8 * (va / 2 ^ levelShift (lvl + k + 1) % 512))
    if e.getLsbD 0 && !e.getLsbD 6 && nodeOk (lvl + k) e then entryFrom s va lvl k ((e.extractLsb' 8 40).toNat * 256) else none

/-- Whether an entry may be replaced by a leaf entry: it is invalid, or a leaf, or a node entry whose node holds no valid entry. -/
def State.replaceable (s : State) (lvl : Nat) (e : W64) : Bool :=
  !e.getLsbD 0 || e.getLsbD 6 ||
  (List.range (if lvl = 1 then 32 else 512)).all fun i => !(s.readWord64 ((e.extractLsb' 8 40).toNat * 256 + 8 * i)).getLsbD 0

/-- Whether a range of addresses meets the context's trap area (R327), and its error log's ring (R335). -/
def Ctx.inTrapArea (x : Ctx) (va n : Nat) : Bool := decide (x.trapbase.toNat < va + n) && decide (va < x.trapbase.toNat + 2 ^ 27)
def Ctx.inRing (x : Ctx) (va n : Nat) : Bool := decide (x.logbase.toNat < va + n) && decide (va < x.logbase.toNat + 32 * 2 ^ x.logExp)

/-- Whether a page is device-owned storage of the context's space, which counts against no promise: any of its bytes lies in the trap area or the ring (R17,
R327, R335). Of a page that lies there in part only the spec says nothing. DESIGN CHOICE, log entry 46. -/
def Ctx.deviceOwned (x : Ctx) (va n : Nat) : Bool := x.inTrapArea va n || x.inRing va n

/-- 64 KiB pages that a leaf counts for its context's promise (R17). -/
def Ctx.pagesCounted (x : Ctx) (va lvl : Nat) : Nat := if x.deviceOwned va (2 ^ levelShift lvl) then 0 else 2 ^ (levelShift lvl - 16)

/-- A leaf over device-owned storage is as R327 and R335 have it: DEV, of this module, readable; writable in the trap area, not in the ring. -/
def Ctx.leafFits (x : Ctx) (va : Nat) (l : Leaf) : Bool :=
  let n := 2 ^ levelShift l.lvl
  !x.deviceOwned va n || (l.cc == .dev && !isFabric l.frame && l.r && (!x.inTrapArea va n || l.w) && (!x.inRing va n || !l.w))

/-- The blocks of a leaf, with the die of each: the lead's and every replica's (R216). -/
def leafBlocks (l : Leaf) (reps : List (Nat × Nat)) : List (Nat × Nat) :=
  ((l.home, l.frame) :: reps.map fun r => (r.1, r.2 * 65536)).flatMap fun x =>
    (List.range (l.pages * 16)).map fun i => (x.1, x.2 / 4096 + i)

/-- Granules that a block needs before a leaf over it becomes valid: 8 where it is to be pinned or uncompressible-IO (R177, R184). -/
def State.grantNeed (s : State) (l : Leaf) (uio : Bool) (b : Nat) : Nat := if l.gp || uio then 8 - (s.block b).count else 0

/-- A block that nobody has: no owner, nothing held in it. -/
def State.unused (s : State) (b : Nat) : Bool :=
  let v := s.block b
  v.owner.isNone && v.lent.isNone && v.count == 0 && v.codes.isEmpty && !v.bad && s.mem.all fun e => e.1 / 4096 != b

/-- Whether a block may be mapped by a context, or (`own`) as device-owned storage of its space, on a die: nobody's, and it holds nothing; or that storage's
already; or a context's, on that die and of the same kind. -/
def State.grantable (s : State) (c : Nat) (own : Bool) (uio : Bool) (d b : Nat) : Bool :=
  let v := s.block b
  s.unused b || (if own then v.lent == some c else v.owner.isSome && v.home == d && v.uio == uio)

/-- A block granted: its entry, its granules, its owner's accounting; one that nobody had reads as zero, every code ZERO (R184, R188). -/
def State.grantBlock (s : State) (c : Nat) (own : Bool) (l : Leaf) (uio : Bool) (d b : Nat) : State :=
  let v := s.block b
  if s.unused b then
    let s1 := { s with mem := s.mem.clear (b * 4096) 4096 }.setBlock b
      { Block.blank with owner := if own then none else some c, lent := if own then some c else none, home := d, gp := l.gp, rep := l.rep,
                         sys := if l.cc == Cc.sys then 1 else 0, uio := uio, pinned := l.gp,
                         codes := if uio then (List.range 32).map fun i => (i, codeRaw) else [] }
    let r := s1.draw b (s.grantNeed l uio b)
    r.2.attach b r.1
  else if v.owner == some c then
    let s1 := s.setBlock b { v with gp := l.gp, rep := l.rep, sys := v.sys + (if l.cc == .sys then 1 else 0), pinned := v.pinned || l.gp }
    let r := s1.draw b (s.grantNeed l uio b)
    r.2.attach b r.1
  else s

/-- The blocks of a leaf that is removed or replaced: one SYS mapping of its owner fewer (R345). -/
def State.unmapBlock (s : State) (c : Nat) (l : Leaf) (b : Nat) : State :=
  let v := s.block b
  if l.cc == .sys && v.owner == some c then s.setBlock b { v with sys := v.sys - 1 } else s

/-- Whether the granules of a mapping can be drawn: from the reserve, and from every die's pool. -/
def State.grantPays (s : State) (c : Nat) (l : Leaf) (uio : Bool) (bs : List (Nat × Nat)) : Bool :=
  let ns := (bs.filter fun b => (s.block b.2).owner.isNone || (s.block b.2).owner == some c).map fun b => (b, s.grantNeed l uio b.2)
  decide ((sumNat (ns.map (·.2)) : Int) ≤ (s.ctx c).reserve ∨ sumNat (ns.map (·.2)) = 0) &&
  ns.all fun n =>
    let pool (x : (Nat × Nat) × Nat) : Nat := match s.expanderOf x.1.2 with
      | some e => 4 + e
      | none => x.1.1
    let free := match s.expanderOf n.1.2 with
      | some _ => s.freeFor n.1.2
      | none => (s.die n.1.1).free
    n.2 == 0 || decide (sumNat ((ns.filter fun m => pool m == pool n).map (·.2)) ≤ free)

/-- The replicas of a leaf's pages, by lead frame. -/
def State.putReplicas (s : State) (l : Leaf) (reps : List (Nat × Nat)) : State :=
  if !l.rep then s
  else (List.range l.pages).foldl (fun u i =>
    { u with replicas := FMap.put u.replicas (l.frame / 65536 + i) (reps.map fun r => (r.1, r.2 + i)) }) s

/-- Whether the replicas given are those that the leaf needs: one frame for every other die, or none (R216). -/
def replicasOk (l : Leaf) (reps : List (Nat × Nat)) : Bool :=
  if l.rep then (reps.map (·.1)).mergeSort == ((List.range 4).filter fun d => d != l.home) && reps.all fun r => r.2 * 65536 % 2 ^ levelShift l.lvl == 0
  else reps.isEmpty

/-- A change of a leaf entry: the mapping of a page, its change or its removal, with the shootdown of the old translation (R141); `none`: the service
processor refuses it, and nothing is changed. DESIGN CHOICE, log entry 46. -/
def State.mapLeaf (s : State) (m : LeafMap) : Option State :=
  let x := s.ctx m.ctx
  let va := m.va.toNat % 2 ^ 57 / 2 ^ levelShift m.lvl * 2 ^ levelShift m.lvl
  let full := m.va.toNat / 2 ^ levelShift m.lvl * 2 ^ levelShift m.lvl
  if (FMap.find? s.ctxs m.ctx).isNone || decide (2 < m.lvl) || !canonical m.va then none
  else match (s.finishPosts m.ctx).addNodes m.nodes with
    | none => none
    | some s0 =>
      match entryFrom s0 va m.lvl (4 - m.lvl) x.root with
      | none => none
      | some a =>
        let old := s0.readWord64 a
        let valid := m.entry.getLsbD 0
        let oldLeaf := old.getLsbD 0 && old.getLsbD 6
        let l : Leaf := { addr := a, lvl := m.lvl, bits := m.entry }
        let lo : Leaf := { addr := a, lvl := m.lvl, bits := old }
        let gone := if oldLeaf then x.pagesCounted full m.lvl else 0
        let come := if valid then x.pagesCounted full m.lvl else 0
        let own := x.deviceOwned full (2 ^ levelShift m.lvl)
        let bs := if valid && !isFabric l.frame && l.cc != .io then (leafBlocks l m.replicas).filter fun b => !s0.isHost (4096 * b.2) else []
        if oldLeaf && (old &&& ~~~ 0x6000) == (m.entry &&& ~~~ 0x6000) then some s0
        else if !s0.replaceable m.lvl old || (valid && !(m.entry.getLsbD 6 && leafOk s0 m.lvl m.entry && replicasOk l m.replicas && x.leafFits full l)) ||
            decide (x.promise < x.mapped - gone + come) || !bs.all (fun b => s0.grantable m.ctx own m.uio b.1 b.2) ||
            !s0.grantPays m.ctx l m.uio bs then none
        else
          let s1 := s0.tableWrite (byteRun a (leBytes 8 m.entry.toNat))
          let s2 := if oldLeaf then s1.shootdown m.ctx (s0.pageBlocks lo) full (2 ^ levelShift m.lvl) (nextKey s1.slices) else s1
          let s3 := bs.foldl (fun u b => u.grantBlock m.ctx own l m.uio b.1 b.2)
            (if oldLeaf then (s0.pageBlocks lo).foldl (fun u b => u.unmapBlock m.ctx lo b) s2 else s2)
          some ((s3.putReplicas l (if valid then m.replicas else [])).modCtx m.ctx fun y => { y with mapped := y.mapped - gone + come })

def execLeafEntryChange (m : LeafMap) (s : State) : Result := event (fun u => (u.mapLeaf m).getD u) s

/-! ### Fault answers (R151, R152, R339) -/

/-- Faults that waited for room in a queue are posted as it has room. -/
def State.refillQueue (s : State) (d : Nat) : State :=
  let ws := (s.die d).fqWait
  ws.foldl (fun u e => u.postFault d e) (s.modDie d fun v => { v with fqWait := [] })

/-- An entry answered: it leaves the queue, and a swapped-out team that awaited its page awaits one page fewer (R153). -/
def State.dropEntry (s : State) (d : Nat) (f : FaultEntry) : State :=
  let s0 := s.modDie d fun v => { v with fq := v.fq.filter fun e => e.seq != f.seq }
  let s1 := if d = 0 then s0.modCtx f.ctx fun x => { x with asked := x.asked.filter fun a => a.2.2 != f.page } else s0
  let s2 := { s1 with teams := s1.teams.map fun (e : Nat × Team) =>
    (e.1, if e.2.ctx = f.ctx ∧ s.teamDie e.1 = d then { e.2 with awaited := e.2.awaited.filter (· != f.page) } else e.2) }
  s2.refillQueue d

/-- Whether a leaf entry change maps the page of a fault. -/
def coversFault (m : LeafMap) (f : FaultEntry) : Bool :=
  m.ctx == f.ctx && m.entry.getLsbD 0 && m.va.toNat % 2 ^ 57 / 2 ^ levelShift m.lvl == f.page * 65536 / 2 ^ levelShift m.lvl

/-- The first byte of a page, by its VA[56:16]. -/
def pageAddr (page : Nat) : W64 := (BitVec.ofNat 57 (page * 65536)).signExtend 64

/-- The threads whose fault for a page is answered as unresolvable give it up (R269, R286). -/
def State.threadsGone (s : State) (d c page : Nat) : State :=
  let s1 := { s with engines := s.engines.map fun (e : Nat × Engine) =>
    (e.1, if e.2.ctx = c ∧ e.2.die = d ∧ e.2.asked.contains page then
      { e.2 with asked := e.2.asked.filter (· != page), gone := e.2.gone ++ [page] } else e.2) }
  { s1 with teams := s1.teams.map fun (e : Nat × Team) =>
    (e.1, if e.2.ctx = c ∧ s.teamDie e.1 = d then
      { e.2 with queue := e.2.queue.map fun m =>
          if m.asked.contains page then { m with asked := m.asked.filter (· != page), gone := m.gone ++ [page] } else m }
    else e.2) }

/-- A fault answered as unresolvable: what waits for the page fails, and the context faults (R334, R366). DEDUCED, log entry 42. -/
def State.unresolvable (s : State) (d : Nat) (f : FaultEntry) : State :=
  let s1 := (s.dropEntry d f).threadsGone d f.ctx f.page
  let s2 := if d = 0 then (s1.cpGone f.ctx f.page).tableGone f.ctx f.page else s1
  s2.contextFault f.ctx 3
    { LogRec.plain 0x0025 4 (pageAddr f.page) 3 with die := d, core := f.core % 256, tslot := if f.tslot = 0xFFFF then 0xFFFFFFFF else f.tslot }

/-- FAULT_ANSWER: an entry is answered as mapped, with the mapping, or as unresolvable. -/
def State.answerFault (s : State) (d seq : Nat) (m : Option LeafMap) : State :=
  match (s.die d).fq.find? fun e => e.seq == seq with
  | none => s
  | some f => match m with
    | none => s.unresolvable d f
    | some x =>
      if coversFault x f then match s.mapLeaf x with
        | some u => ((u.dropEntry d f).settle).writeIndices f.ctx
        | none => s
      else s

def execFaultAnswer (die seq : Nat) (map : Option LeafMap) (s : State) : Result := event (fun u => u.answerFault die seq map) s

/-! ### Promises and quotas (R17, R178) -/

/-- The promises of the other contexts. -/
def State.promised (s : State) (c : Nat) : Nat := sumNat ((s.ctxs.filter fun e => e.1 != c).map (·.2.promise))

/-- 1,536 GB in pages of 64 KiB. -/
def promiseMax : Nat := 23437500

def execPromiseChange (ctx pages : Nat) (s : State) : Result :=
  event (fun u => if (u.ctx ctx).mapped ≤ pages ∧ u.promised ctx + pages ≤ promiseMax then u.modCtx ctx fun x => { x with promise := pages } else u) s

def execQuotaChange (ctx granules : Nat) (s : State) : Result := event (fun u => u.modCtx ctx fun x => { x with quota := (granules : Int) }) s

/-! ### Balloon requests (R186, R341) -/

/-- The die and the share of the first thing to be asked of a context for a POOL failure. -/
def State.askOf (s : State) (c : Nat) : Option (Nat × Nat) :=
  (List.range 4).findSome? fun d => ((s.die d).asks.find? fun a => a.1 == c).map fun a => (d, a.2)

/-- The mailbox written: every open chunk that has read it rolls back (R186). -/
def State.setMailbox (s : State) (c : Nat) (m : Mailbox) (die : Option Nat) (restart : Bool) : State :=
  (s.modCtx c fun x => { x with mailbox := m, openDie := die, openFor := if restart then 0 else x.openFor }).invalidate [.mailbox c] none

/-- A request opened with an id, or the open request raised. DEDUCED, log entry 48. -/
def State.ask (s : State) (c : Nat) (id : W64) (wanted owed urgency : Nat) (die : Option Nat) : State :=
  let m := (s.ctx c).mailbox
  if m.id = 0 then
    if id = 0 then s
    else s.setMailbox c { m with id := id, wanted := BitVec.ofNat 32 wanted, owed := BitVec.ofNat 32 owed, urgency := urgency } die true
  else
    s.setMailbox c { m with wanted := m.wanted + BitVec.ofNat 32 wanted, owed := m.owed + BitVec.ofNat 32 owed, urgency := max m.urgency urgency }
      (s.ctx c).openDie (decide (m.urgency < urgency))

/-- BALLOON_REQUEST: what a POOL failure asks of the context, at urgency 1; else a request of the service processor's own, opened where none is open,
or the raising of the open one by its id (R186). -/
def State.balloon (s : State) (c : Nat) (id : W64) (wanted urgency : Nat) : State :=
  if (FMap.find? s.ctxs c).isNone then s
  else match s.askOf c with
    | some (d, share) =>
      if (s.ctx c).mailbox.id = 0 ∧ id = 0 then s
      else (s.ask c id share share (if (s.ctx c).mailbox.id = 0 then 1 else 0) (some d)).modDie d fun v => { v with asks := v.asks.erase (c, share) }
    | none =>
      if (s.ctx c).mailbox.id ≠ 0 ∧ (s.ctx c).mailbox.id ≠ id then s
      else s.ask c id (wanted % 2 ^ 32) (wanted % 2 ^ 32) (min urgency 3) none

def execBalloonRequest (ctx : Nat) (id : W64) (wanted urgency : Nat) (s : State) : Result := event (fun u => u.balloon ctx id wanted urgency) s

/-- BALLOON_URGENCY_RAISE: 16 quanta have passed since the request's urgency last rose, and its die persists in POOL failure. -/
def State.raiseUrgency (s : State) (c : Nat) : State :=
  let x := s.ctx c
  match x.openDie with
  | none => s
  | some d =>
    let persists := match (s.die d).poolFail with
      | some n => decide (n ≤ 16)
      | none => false
    if x.mailbox.id ≠ 0 ∧ 16 ≤ x.openFor ∧ persists = true ∧ x.mailbox.urgency < 3 then
      s.setMailbox c { x.mailbox with urgency := x.mailbox.urgency + 1 } (some d) true
    else s

def execBalloonUrgencyRaise (ctx : Nat) (s : State) : Result := event (fun u => u.raiseUrgency ctx) s

/-- BALLOON_REQUEST_EXPIRY: a request left open at urgency 3 for 64 quanta. -/
def State.expireRequest (s : State) (c : Nat) : State :=
  let x := s.ctx c
  if x.mailbox.id ≠ 0 ∧ x.mailbox.urgency = 3 ∧ 64 ≤ x.openFor then
    (s.setMailbox c { x.mailbox with id := 0, wanted := 0, owed := 0 } none true).contextFault c 5 (LogRec.plain 0x0025 4 0 5)
  else s

def execBalloonRequestExpiry (ctx : Nat) (s : State) : Result := event (fun u => u.expireRequest ctx) s

/-! ### The memory system of itself (R163, R175, R182) -/

/-- WRITE_BACK: a line leaves the LLC by replacement, unless it is pinned; the L1 copies are invalidated (R168, R170, R175). -/
def State.replaceLine (s : State) (line : Nat) : State :=
  match FMap.find? s.llc line with
  | some l => if l.pin then s else (s.writeBack line false).invalidate [.mem line] none
  | none => s

def execWriteBack (line : Nat) (s : State) : Result := event (fun u => u.replaceLine line) s

/-- ANTE_REFILL: an ante below 128 is refilled by 512, and one above 1,024 gives its surplus back. -/
def State.refillAnte (s : State) (d i : Nat) : State :=
  let v := s.die d
  let a := v.antes.getD i []
  if a.size < 128 then
    let r := v.pool.take 512
    s.modDie d fun x => { x with pool := r.2, antes := x.antes.set i (r.1.foldl (fun p g => p.put g) a) }
  else if 1024 < a.size then
    let r := a.take 1024
    s.modDie d fun x => { x with pool := (r.2.flatMap fun e => (List.range e.2).map (e.1 + ·)).foldl (fun p g => p.put g) x.pool,
                                 antes := x.antes.set i (r.1.foldl (fun p g => p.put g) []) }
  else s

def execAnteRefill (die s' : Nat) (s : State) : Result := event (fun u => u.refillAnte die s') s

/-- Pinned lines of a line's set. -/
def State.pinnedIn (s : State) (line : Nat) : Nat := (s.llc.filter fun e => e.2.pin && s.sameSet e.1 line).length

/-- ROW_CAPTURE: the row where the first line given begins has been activated often enough; its lines are installed and pinned, unless a set would hold more
than 4 pinned tags. DESIGN CHOICE, log entry 49. -/
def State.captureRow (s : State) (d : Nat) (lines : List Nat) : State :=
  let ls := s.rowLines d (lines.headD 0)
  let s1 := ls.foldl (fun u l =>
    (State.fit { u with llc := FMap.put u.llc l (match FMap.find? u.llc l with
      | some v => { v with pin := true }
      | none => { dirty := false, code := FMap.get 0 (u.block (blockOfLine l)).codes (lineInBlock l), sectors := [], pin := true, stamp := u.clock }),
                            clock := u.clock + 1 } l none 64).placeLine l) s
  if ls.isEmpty || ls.any (fun l => decide (4 < s1.pinnedIn l)) then s
  else ((ls.map fun l => llcSlice (blockOfLine l)).dedup).foldl (fun u i =>
    u.modDie d fun v => { v with captures := FMap.set 0 v.captures i (FMap.get 0 v.captures i + 1) }) s1

def execRowCapture (die : Nat) (lines : List Nat) (s : State) : Result := event (fun u => u.captureRow die lines) s

/-- ROW_UNPIN. -/
def execRowUnpin (die : Nat) (lines : List Nat) (s : State) : Result := event (fun u => u.unpinRow die lines) s

/-! ### Failed block metadata (R174, R341) -/

/-- BME_POISON_REPLACE: an entry fails its check; and, once it has failed, the service processor replaces it: every code 15, no granule, the same owner,
whose occupied total falls; the LLC's lines of the block, poisoned too, are dropped. The granules that it held are in no pool until module reset. DESIGN CHOICE, log entry 49. -/
def State.replaceBme (s : State) (b : Nat) : State :=
  let v := s.block b
  if v.bad then
    (({ s with llc := s.llc.filter fun e => blockOfLine e.1 != b }.setBlock b
      { v with codes := (List.range 32).map fun i => (i, codePoison), count := 0, ptrs := [], bad := false, pinned := false }).occupy v.owner 0 v.count)
  else if v.owner.isSome || v.count != 0 then
    (s.setBlock b { v with bad := true }).invalidate ((List.range 32).map fun i => .mem (32 * b + i)) none
  else s

def execBmePoisonReplace (block : Nat) (s : State) : Result := event (fun u => u.replaceBme block) s

/-! ### Expanders (R350, R351) -/

/-- Whether an address lies in an expander. -/
def State.inExpander (s : State) (x npa : Nat) : Bool := s.expanderOf (blockOf npa) == some x

/-- Whether a held effect writes an expander. -/
def State.heldWrites (s : State) (x c : Nat) (h : Held) : Bool :=
  match h with
  | .store _ bs _ | .signal bs _ => bs.any fun b => s.inExpander x b.npa
  | .red _ _ _ ls _ => ls.any fun l => s.inExpander x l.npa
  | .range o base len _ => (o == .zero || o == .disc || o == .pin) && (s.rangeBlocks c base len).any fun b => s.expanderOf b.1 == some x
  | .tstore _ | .redt _ _ _ _ | .gate _ _ | .chan _ _ _ | .matrix _ | .engine _ _ | .launchN _ _ | .launchT _ _ | .graph _ _ | .csr _ _ => false

/-- A slice when an expander fails: a chunk that holds a write to it rolls back; a parked instruction whose buffer does starts anew. -/
def State.sliceExpander (s : State) (x c : Nat) (sl : Slice) : Slice :=
  let writes (ch : Chunk) : Bool := ch.held.any fun it => s.heldWrites x c it.eff
  let s0 := { sl with nc := sl.nc.filter fun e => !s.inExpander x (e.1 * 128),
                      prevHit := sl.prevHit || (match sl.prev with
                        | some p => writes p
                        | none => false) }
  let s1 := if writes sl.chunk then { s0 with hit := true } else s0
  match s1.park with
  | some p =>
    if p.buf.any fun b => (b.bytes.any fun y => s.inExpander x y.npa) || b.red.any fun y => s.inExpander x y.npa then
      { s1 with park := some p.anew }
    else s1
  | none => s1

/-- The lines of an expander that NC stores past their commit point have still to write. -/
def State.postLines (s : State) (x : Nat) : List Nat :=
  (s.slices.flatMap fun e => e.2.post.flatMap fun it => match it.eff with
    | .store _ bs _ => (bs.filter fun b => s.inExpander x b.npa).map fun b => lineOf b.npa
    | _ => []).dedup

/-- An expander fails (R351). DEDUCED, log entry 50. -/
def State.failExpander (s : State) (x : Nat) : State :=
  match FMap.find? s.expanders x with
  | none => s
  | some v =>
    if v.failed then s
    else
      let lost := (s.postLines x).foldl (fun u l => u.setLine none (l, codePoison)) s
      { lost with expanders := FMap.put s.expanders x { v with failed := true },
                  llc := (lost.llc.filter fun e => e.2.dirty || !s.inExpander x (e.1 * 128)).map fun (e : Nat × LlcLine) =>
                    (e.1, if s.inExpander x (e.1 * 128) then { e.2 with code := codePoison, sectors := e.2.sectors.take (codeSectors codePoison) } else e.2),
                  slices := lost.slices.map fun e => (e.1, s.sliceExpander x (s.team (e.1 / 256)).ctx e.2) }

def execExpanderLinkDown (x : Nat) (s : State) : Result := event (fun u => u.failExpander x) s
def execExpanderTimeout (x : Nat) (s : State) : Result := event (fun u => u.failExpander x) s

/-- EXPANDER_BRING_BACK: the expander and its pool are online again. -/
def execExpanderBringBack (x : Nat) (s : State) : Result :=
  event (fun u => { u with expanders := FMap.modify u.expanders x fun v => { v with failed := false } }) s

end Sys2Proof.Machine
end

