-- ==== Sys2Proof/Machine/ModuleEvents.lean ====
section
/-! DEFINITION. Contexts and queues as the driver has them made (R297 to R299), the host's accesses (R345 to R347), links and groups (R352, R355), power
gating, health and spares (R348, R362), throttling, reset and management (R357 to R364). -/

namespace Sys2Proof.Machine

/-! ### Contexts and queues (R17, R297, R299) -/

/-- CONTEXT_CREATE: a context of a free number, with an empty page table, within the limits of R17, R297 and R335; ctx.trapbase is any canonical address.
DESIGN CHOICE, log entry 69. -/
def State.createCtx (s : State) (c : CtxSpec) : State :=
  let pages := c.promise.getD ((c.quota + 127) / 128)
  if c.num < 4096 ∧ (FMap.find? s.ctxs c.num).isNone ∧ c.prio ≤ 7 ∧ 6 ≤ c.logExp ∧ c.logExp ≤ 16 ∧ s.promised c.num + pages ≤ promiseMax ∧
      c.root % 4096 = 0 ∧ (s.readBytes c.root 4096).all (fun b => b == 0) ∧ canonical c.trapbase ∧ canonical c.logbase then
    { s with ctxs := FMap.put s.ctxs c.num
              { Ctx.blank with quota := c.quota, promise := pages, prio := c.prio, root := c.root, trapbase := c.trapbase, logbase := c.logbase,
                               logExp := c.logExp, shared := c.shared } }
  else s

def execContextCreate (c : CtxSpec) (s : State) : Result := event (fun u => u.createCtx c) s

/-- QUEUE_CREATE: a queue of a free number, within the limits of R299, its read-index word canonical and at a multiple of 8. DESIGN CHOICE, log entry 69. -/
def State.createQueue (s : State) (q : QueueSpec) : State :=
  if q.num < 131072 ∧ (FMap.find? s.queues q.num).isNone ∧ (FMap.find? s.ctxs q.ctx).isSome ∧ 4 ≤ q.exp ∧ q.exp ≤ 16 ∧
      q.base.toNat % (64 * 2 ^ q.exp) = 0 ∧ canonical q.base ∧ q.rix.toNat % 8 = 0 ∧ canonical q.rix then
    { s with queues := FMap.put s.queues q.num { HostQueue.blank with ctx := q.ctx, base := q.base, exp := q.exp, rix := q.rix } }
  else s

def execQueueCreate (q : QueueSpec) (s : State) : Result := event (fun u => u.createQueue q) s

/-- Step 1 of R298: what the queues hold is discarded, and their read indices stand at their write indices; a read-index word whose page has no translation
waits for it (R366). -/
def State.dropPackets (s : State) (c : Nat) : State :=
  (s.queuesOf c).foldl (fun u q =>
    let v := u.queue q
    (u.modQueue q fun y => { y with read := v.posted, packets := [], waiting := none }).writeIndex q) s

/-- Steps 2 and 3: commits past their commit point complete; teams with all that they hold are freed; engine threads stop at their next 512-byte
boundary, and their spilled writes are discarded; fault entries and balloon requests are dropped. -/
def State.dropWork (s : State) (c : Nat) : State :=
  let ts := (FMap.keys s.teams).filter fun t => (s.team t).ctx == c
  let s0 := ((s.engines.filter fun e => e.2.ctx == c && !e.2.done && !e.2.stopped).map (·.1)).foldl State.stopEngine s
  let s1 := ts.foldl (fun u t => ((List.range (u.team t).slices).foldl (fun x k => x.completeLast t k) u).freeImage t) s0
  let s2 := { s1 with
      teams := s1.teams.map fun (e : Nat × Team) => (e.1, if e.2.ctx = c then
        { Team.blank with launch := e.2.launch, ctx := c, x := e.2.x, y := e.2.y, z := e.2.z, stage := e.2.stage, slices := e.2.slices,
                          place := .retired, started := e.2.started } else e.2),
      slices := s1.slices.filter fun e => !ts.contains (e.1 / 256),
      gangs := s1.gangs.filter fun g => !ts.contains g.team,
      ctxs := s1.ctxs.map fun (e : Nat × Ctx) => (e.1, if e.1 = c then { e.2 with asked := [] } else e.2),
      dies := s1.dies.map fun (e : Nat × Die) => (e.1,
        { e.2 with spill := e.2.spill.filter fun x => x.ctx != c, fq := e.2.fq.filter fun x => x.ctx != c,
                   fqWait := e.2.fqWait.filter fun x => x.ctx != c, asks := e.2.asks.filter fun a => a.1 != c }) }
  let s3 := (List.range 4).foldl State.refillQueue s2
  let m := (s3.ctx c).mailbox
  s3.setMailbox c { m with id := 0, wanted := 0, owed := 0 } none true

/-- Step 4: launches and graphs that have not completed have their signals written with all ones, each once its page can be written (R366). -/
def State.dropLaunches (s : State) (c : Nat) : State :=
  let s1 := ((FMap.keys s.launches).filter fun l => (s.launch l).ctx == c && !(s.launch l).done).foldl (fun u l =>
    (u.modLaunch l fun v => { Launch.signalOnly c v.addr v.params.signal .slice with retired := 0, snap := v.snap, past := v.past }).launchCheck l) s
  (s1.graphsOf c).foldl (fun u g =>
    (u.modGraph g fun x => { x with start := none, refused := true, nodes := [], counts := [], states := [], origin := .slice }).graphCheck g) s1

/-- CONTEXT_RESET (R298). DEDUCED, log entry 47. -/
def State.resetCtx (s : State) (c : Nat) : State :=
  if (FMap.find? s.ctxs c).isNone then s
  else
    let s1 := s.modCtx c fun x => { x with stopped := true }
    let s2 := ((((s1.dropPackets c).dropWork c).writeIndices c).dropLaunches c).appendLog c (LogRec.plain 0x0024 4 0 0)
    s2.modCtx c fun x => { x with stopped := false, halted := false, absent := [] }

def execContextReset (ctx : Nat) (s : State) : Result := event (fun u => u.resetCtx ctx) s

/-- A block of a destroyed context, or of its trap area and its error log, returned: its granules free, its lines nowhere (R188). A block that has failed its check keeps its granules out of
every pool until module reset. -/
def State.freeBlock (s : State) (b : Nat) : State :=
  let v := s.block b
  let s1 := if v.bad then s else v.ptrs.foldl (fun u g => u.release b g) s
  { s1.setBlock b Block.blank with mem := s1.mem.clear (b * 4096) 4096, llc := s1.llc.filter fun e => blockOfLine e.1 != b }

/-- CONTEXT_DESTROY: the context is reset, and then its queues, its blocks and its state are given up. -/
def State.destroyCtx (s : State) (c : Nat) : State :=
  if (FMap.find? s.ctxs c).isNone then s
  else
    let s1 := s.resetCtx c
    let bs := (s1.blocks.filter fun e => e.2.owner == some c || e.2.lent == some c).map (·.1)
    let s2 := bs.foldl (fun u b => u.freeBlock b) s1
    { s2 with ctxs := FMap.erase s2.ctxs c, queues := s2.queues.filter fun e => e.2.ctx != c,
              engines := s2.engines.filter fun e => e.2.ctx != c,
              replicas := s2.replicas.filter fun e => !bs.contains (e.1 * 16),
              dies := s2.dies.map fun (e : Nat × Die) => (e.1, { e.2 with loans := FMap.erase e.2.loans c }) }

def execContextDestroy (ctx : Nat) (s : State) : Result := event (fun u => u.destroyCtx ctx) s

/-! ### The host (R345 to R347) -/

/-- The nominal size of the module's memory: 1,536 GB (R345). -/
def hdmSize : Nat := 1536000000000

/-- Whether a host access may be performed: its block is mapped SYS by its owning context. -/
def State.hostMay (s : State) (npa : Nat) : Bool :=
  (s.block (blockOf npa)).owner.isSome && (s.block (blockOf npa)).sys != 0

/-- The record of a refused host access. -/
def State.hostRefused (s : State) (npa : Nat) (write : Bool) : State :=
  let b := s.block (blockOf npa)
  match b.owner with
  | some c => s.appendLog c { LogRec.plain 0x0026 5 (BitVec.ofNat 64 (npa / 128 * 128)) (if write then 1 else 0) with die := b.home }
  | none => s

/-- HOST_READ: 64 bytes of the HDM range. DEDUCED, log entry 51. -/
def State.hostReads (s : State) (npa : Nat) : State :=
  let a := npa / 64 * 64
  if hdmSize ≤ a then s
  else if s.hostMay a then { s with out := s.out ++ [Out.hostData a (s.readBytes a 64) (s.poisoned a)] }
  else
    let s1 := { s with out := s.out ++ [Out.hostData a (s.freeBytes 64) true], draws := s.draws + 64 }
    s1.hostRefused a false

def execHostRead (npa : Nat) (s : State) : Result := event (fun u => u.hostReads npa) s

/-- HOST_WRITE: bytes within 64 bytes of the HDM range, charged to the block's owner (R183). -/
def State.hostWrites (s : State) (npa : Nat) (bs : List Byte) : State :=
  if hdmSize ≤ npa ∨ 64 < npa % 64 + bs.length then s
  else if !s.hostMay npa then s.hostRefused npa true
  else
    let b := s.block (blockOf npa)
    let r := LogRec.plain (if b.bad then 0x0015 else 0x0014) 5 (BitVec.ofNat 64 (npa / 128 * 128)) 0
    let s1 := s.agentWrite (byteRun npa bs) none
    match b.owner with
    | some c => if b.bad || codePoisoned (s.lineCode (lineOf npa)) then s1.appendLog c { r with die := b.home } else s1
    | none => s1

def execHostWrite (npa : Nat) (bytes : List Byte) (s : State) : Result := event (fun u => u.hostWrites npa bytes) s

/-- HOST_SNOOP: a snoop that invalidates removes every copy of the line, and the chunks that have read it roll back; a line of host memory then holds
what the host has written, which the model leaves free. A downgrade changes nothing that a program sees. DEDUCED, log entry 51. -/
def State.hostSnoops (s : State) (npa : Nat) (inv : Bool) : State :=
  if !inv then s
  else
    let s1 := s.invalidate [.mem (lineOf npa)] none
    if s.isHost npa then { s1.pokeBytes (npa / 64 * 64) (s.freeBytes 64) with draws := s.draws + 64 } else s1

def execHostSnoop (npa : Nat) (inv : Bool) (s : State) : Result := event (fun u => u.hostSnoops npa inv) s

/-! ### Links and groups (R352, R355) -/

/-- LINK_FAILURE: packets go over the links that are left. -/
def execLinkFailure (l : Nat) (s : State) : Result :=
  event (fun u => { u with module := { u.module with links := u.module.links.filter (· != l) } }) s

/-- COLLECTIVE_GROUP_DEFINE: at most 256 groups, of 1 to 128 members. -/
def State.defineGroup (s : State) (g : GroupSpec) : State :=
  if g.handle < 2 ^ 32 ∧ s.groups.length < 256 ∧ (FMap.find? s.groups g.handle).isNone ∧ 1 ≤ g.members.length ∧ g.members.length ≤ 128 then
    { s with groups := FMap.put s.groups g.handle { members := g.members, round := 0, isOpen := false } }
  else s

def execCollectiveGroupDefine (g : GroupSpec) (s : State) : Result := event (fun u => u.defineGroup g) s

/-- GROUP_END: a member has left the domain; the rounds in flight end in error for every member (R355). -/
def State.endGroup (s : State) (g : Nat) : State :=
  match FMap.find? s.groups g with
  | none => s
  | some _ =>
    let s1 := s.roundMismatch (s.inFlight g)
    { s1 with groups := FMap.erase s1.groups g }

def execGroupEnd (g : Nat) (s : State) : Result := event (fun u => u.endGroup g) s

/-! ### Cores, health and spares (R348, R361, R362) -/

/-- The copies that a core's L1 holds are gone (R348). -/
def State.emptyL1 (s : State) (c : Nat) : State :=
  ((FMap.keys s.teams).filter fun t => (s.team t).last == some c).foldl (fun u t => u.dropCopies t) s

/-- CORE_POWER_GATE: an idle core's L1 is emptied, and the core is gated (R348). DEDUCED, log entry 52. -/
def State.gateCore (s : State) (d n : Nat) : State :=
  match s.coreOf d n with
  | some c => if (s.residents c).isEmpty then (s.emptyL1 c).modCore c fun v => { v with gated := true } else s
  | none => s

def execCorePowerGate (die n : Nat) (s : State) : Result := event (fun u => u.gateCore die n) s

/-- The key of a part's health counter: of corrected soft errors, or of repair retries (R362); a core by its place as fabricated. -/
def partKey (retry : Bool) (core : Nat) : Part → Nat
  | .core _ _ => 12 * core + retry.toNat
  | .llcSet n => 12 * n + 2 + retry.toNat
  | .bond n => 12 * n + 4 + retry.toNat
  | .row n => 12 * n + 6 + retry.toNat
  | .serdes n => 12 * n + 8 + retry.toNat
  | .channel n => 12 * n + 10 + retry.toNat

/-- The number of a part's kind among the thresholds of a boot image. -/
def partKind : Part → Nat
  | .core _ _ => 0 | .llcSet _ => 1 | .bond _ => 2 | .row _ => 3 | .serdes _ => 4 | .channel _ => 5

/-- Part numbers as a repair map's content has them. -/
def listBytes (ns : List Nat) : List Byte := leBytes 4 ns.length ++ ns.flatMap (leBytes 4)

/-- A repair map's content, as the model signs it. DESIGN CHOICE, log entry 38. -/
def mapBytes (m : RepairMap) : List Byte :=
  leBytes 8 m.seq ++ (List.range 4).flatMap (fun d => listBytes (m.cores.getD d []) ++ listBytes (m.retired.getD d [])) ++ listBytes m.llcSets ++
  listBytes m.bonds ++ listBytes m.serdes ++ listBytes m.rows ++ listBytes m.channels

/-- A boot image's content, as the vendor signs it. DESIGN CHOICE, log entry 38. -/
def bootBytes (b : BootImage) : List Byte :=
  leBytes 8 b.version ++ (b.masks.flatMap fun ms => ms.flatMap fun m => leBytes 4 m.toNat) ++ leBytes 8 b.timeout ++ listBytes b.health ++
  leBytes 8 b.power ++ b.body

/-! ### Signatures (R359, R363) -/

/-- The signature under a private key over content, where it is the holder's own (`none`): its nonce is free. DESIGN CHOICE, log entry 67. -/
def signatureOf (key : Nat) (content : List Byte) : Option (List Byte) → List Byte
  | some x => x
  | none => ecdsaSign (keyOf key) (keyOf (Config.nonce key (beNat (sha384 content)))) (sha384 content)

/-- The public half of the identity key: x and y of 48 bytes each. -/
def identityBytes : List Byte := beBytes 48 (publicKey (keyOf Config.identityKey)).1 ++ beBytes 48 (publicKey (keyOf Config.identityKey)).2

/-- The identity certificate in flash: the public half of the identity key, signed by the vendor. DESIGN CHOICE, log entry 38. -/
def Module.certificate (m : Module) : List Byte :=
  m.cert.getD (identityBytes ++ signatureOf Config.vendorKey identityBytes none)

/-- Whether the certificate holds the security block's own public half, signed under the vendor key (R359). -/
def Module.certified (m : Module) : Bool :=
  m.certificate.take 96 == identityBytes && ecdsaValid (publicKey (keyOf Config.vendorKey)) (sha384 identityBytes) (m.certificate.drop 96)

/-- The newest repair map that flash holds. -/
def Module.latestMap (m : Module) : RepairMap :=
  match m.newMap, m.map with
  | some x, _ => x
  | none, some x => x
  | none, none => defaultMap

/-- Whether copy A is the older: an empty slot first, then the lower number, and of equal numbers the one written first, `late` saying that B was written last
(R359, R364). DESIGN CHOICE, log entry 38. -/
def olderA {α : Type} (rank : α → Nat) (late : Bool) (a b : Option α) : Bool :=
  match a, b with
  | none, _ => true
  | some _, none => false
  | some x, some y => decide (rank x < rank y) || (decide (rank x = rank y) && late)

/-- A repair map written over the older of flash's two copies. -/
def Module.writeMap (m : Module) (x : RepairMap) : Module :=
  if olderA (·.seq) m.mapLate m.mapA m.mapB then { m with mapA := some x, mapLate := false } else { m with mapB := some x, mapLate := true }

/-- A boot image written over the older of flash's two copies. -/
def Module.writeBoot (m : Module) (x : BootImage) : Module :=
  if olderA (·.version) m.bootLate m.bootA m.bootB then { m with bootA := some x, bootLate := false } else { m with bootB := some x, bootLate := true }

/-- A repair appended to the map: its sequence number rises by 1, and the security block signs it (R360, R362). -/
def State.appendRepair (s : State) (f : RepairMap → RepairMap) : State :=
  let m := s.module.latestMap
  let y := { f m with seq := m.seq + 1, sig := none }
  { s with module := { s.module.writeMap y with newMap := some y } }

/-- A part taken into a list of those that spares replace, if the spare of its group of `n` parts is left (R361). -/
def takeSpare (n part : Nat) (used : List Nat) : Option (List Nat) :=
  if used.any fun x => x / n == part / n then none else some (used ++ [part])

/-- The repair of a part other than a core: one spare LLC set for 64, bond lane for 32, SerDes lane for 8, channel for a stack's 32; a row by its bank's own
post-package repair (R361). None where no spare is left. DEDUCED, log entry 52. -/
def repairOf (m : RepairMap) : Part → Option RepairMap
  | .core _ _ => none
  | .llcSet n => (takeSpare 64 n m.llcSets).map fun l => { m with llcSets := l }
  | .bond n => (takeSpare 32 n m.bonds).map fun l => { m with bonds := l }
  | .row n => (takeSpare 1 n m.rows).map fun l => { m with rows := l }
  | .serdes n => (takeSpare 8 n m.serdes).map fun l => { m with serdes := l }
  | .channel n => (takeSpare 32 n m.channels).map fun l => { m with channels := l }

/-- What follows when a part's counter has crossed its threshold (R362): a core is worn, and takes no further team while its die has a spare; another part's
repair is appended to the map, for the next reset. -/
def State.retirePart (s : State) (p : Part) : State :=
  match p with
  | .core d n => match s.coreOf d n with
    | some c => s.modCore c fun v => { v with worn := true }
    | none => s
  | .llcSet _ | .bond _ | .row _ | .serdes _ | .channel _ => match repairOf s.module.latestMap p with
    | some m => s.appendRepair fun _ => m
    | none => s

/-- HEALTH_THRESHOLD: a part has had `n` more corrected soft errors, or repair retries; its counter crosses its threshold when it comes to exceed it
(R362). DEDUCED, log entry 52. -/
def State.partWorn (s : State) (p : Part) (retry : Bool) (n : Nat) : State :=
  let c := match p with
    | .core d m => (s.coreOf d m).getD 72
    | .llcSet _ | .bond _ | .row _ | .serdes _ | .channel _ => 0
  let k := partKey retry c p
  let old := FMap.get 0 s.module.health k
  let limit := ((s.module.boot.getD defaultBoot).health.getD (partKind p) 0)
  let s1 := { s with module := { s.module with health := FMap.set 0 s.module.health k (old + n) } }
  if c = 72 then s
  else if old ≤ limit ∧ limit < old + n then s1.retirePart p else s1

def execHealthThreshold (p : PartErrors) (s : State) : Result := event (fun u => u.partWorn p.part p.retry p.count) s

/-- SPARE_BRING_IN: a worn core that holds no team is gated, its L1 emptied, and a spare takes its number (R361, R362). -/
def State.bringIn (s : State) (d n : Nat) : State :=
  match s.coreOf d n, s.spareOf d with
  | some c, some x =>
    if (s.core c).worn && (s.residents c).isEmpty then
      (((s.emptyL1 c).modCore c fun v => { v with num := none, gated := true }).modCore x fun v => { v with num := some n, gated := false }).appendRepair fun m =>
        { m with cores := m.cores.set d ((m.cores.getD d []).set n (x % 18)),
                 retired := (List.range 4).map fun e => m.retired.getD e [] ++ if e = d then [c % 18] else [] }
    else s
  | _, _ => s

def execSpareBringIn (die n : Nat) (s : State) : Result := event (fun u => u.bringIn die n) s

/-- JUNCTION_THROTTLE: the die's clock is lowered by 1/16 of 2.25 GHz, down to 1.125 GHz at the least (R358). -/
def execJunctionThrottle (die : Nat) (s : State) : Result := event (fun u => u.modDie die fun v => { v with step := min 8 (v.step + 1) }) s

/-! ### Reset (R358 to R360) -/

/-- Whether a boot image, a repair map, is accepted (R359). -/
def Module.acceptsBoot (m : Module) (b : BootImage) : Bool :=
  ecdsaValid (publicKey (keyOf Config.vendorKey)) (sha384 (bootBytes b)) (signatureOf Config.vendorKey (bootBytes b) b.sig) &&
    decide (m.bootVer ≤ b.version)
def Module.acceptsMap (m : Module) (x : RepairMap) : Bool :=
  ecdsaValid (publicKey (keyOf Config.identityKey)) (sha384 (mapBytes x)) (signatureOf Config.identityKey (mapBytes x) x.sig) && m.certified &&
    decide (m.mapSeq ≤ x.seq)

/-- The newer of the copies that are accepted: not the older, as a write of an image would find it. -/
def newer {α : Type} (rank : α → Nat) (late : Bool) (a b : Option α) : Option α := if olderA rank late a b then b else a

def Module.chooseBoot (m : Module) : Option BootImage := newer (·.version) m.bootLate (m.bootA.filter m.acceptsBoot) (m.bootB.filter m.acceptsBoot)
def Module.chooseMap (m : Module) : Option RepairMap := newer (·.seq) m.mapLate (m.mapA.filter m.acceptsMap) (m.mapB.filter m.acceptsMap)

/-- The expanders that the service processor finds on the four ports of an EVX-CHS4-384LX (R350): each may be present. PRESUMED, log entry 6. -/
def presentExpanders (draws : Nat) : FMap Expander :=
  if Config.lx then
    ((List.range 4).filter fun x => Config.coin (draws + x)).map fun x =>
      (x, { first := (2 ^ 46 + x * 2 ^ 37) / 4096, blocks := 2 ^ 25, pool := [(0, 2 ^ 28)], failed := false })
  else []

/-- The module after a reset, by the images in flash (R359, R360); its power limit is 2,600 W (R357). What lies outside it, the host's memory among it,
stays. DESIGN CHOICE, log entry 38. DEDUCED, log entry 39. -/
def State.moduleReset (s : State) (cause : Nat) : State :=
  let m := s.module
  let keep : State :=
    { State.reset with mem := s.mem.filter fun e => s.isHost e.1, hostMem := s.hostMem, cur := s.cur, tape := s.tape, draws := s.draws + 4,
                       idle := s.idle, out := s.out ++ [.restart cause] }
  let m1 : Module := { m with inReset := true, powerLimit := 2600, health := [], boot := m.chooseBoot, map := m.chooseMap, newMap := none, links := List.range 18,
                              cause := cause, bootVer := (m.chooseBoot.map (·.version)).getD m.bootVer,
                              mapSeq := (m.chooseMap.map (·.seq)).getD m.mapSeq }
  match m.chooseBoot, m.chooseMap with
  | some b, some r =>
    { keep with dies := (List.range 4).map fun d => (d, Die.reset (b.masks.getD d defaultMasks)),
                cores := (List.range 72).map fun i => (i, Core.reset r i), expanders := presentExpanders s.draws,
                module := { m1 with inReset := false, timeout := b.timeout } }
  | _, _ => { keep with cores := (List.range 72).map fun i => (i, { Core.blank with clk := 0 }), module := m1 }

/-- A junction at 115 °C: every context loses its work as if reset (R298), and the module is reset (R358). -/
def State.thermalReset (s : State) : State := ((FMap.keys s.ctxs).foldl State.resetCtx s).moduleReset 1

def execThermalReset (s : State) : Result := event State.thermalReset s
def execPowerOn (s : State) : Result := event (fun u => u.moduleReset 2) s
def execModuleReset (s : State) : Result := event (fun u => u.moduleReset 0) s

/-! ### Management (R357, R363, R364) -/

def execGetIdentityCertificate (s : State) : Result := event (fun u => { u with out := u.out ++ [.certificate u.module.certificate] }) s

/-- How many spare cores, 16 and 17 of a die as fabricated, a repair map puts in the place of others. -/
def spareCores (r : RepairMap) : Nat := (r.cores.flatMap id).countP fun c => decide (16 ≤ c)

/-- Bytes 0 to 143 of an attestation report (R363), of the images accepted at the last reset. -/
def Module.reportBody (m : Module) (nonce : BitVec 256) : List Byte :=
  let spares := match m.map with
    | some r => spareCores r % 256 + 256 * (r.llcSets.length % 256) + 65536 * (r.bonds.length % 256) +
        2 ^ 24 * (r.serdes.length % 256)
    | none => 0
  leBytes 4 0x0C450001 ++ leBytes 4 spares ++ leBytes 8 (match m.boot with
    | some b => b.version
    | none => 0) ++
  (match m.boot with
   | some b => sha384 (bootBytes b)
   | none => List.replicate 48 0) ++
  (match m.map with
   | some x => sha384 (mapBytes x)
   | none => List.replicate 48 0) ++ leBytes 32 nonce.toNat

/-- The 240 bytes of an attestation report; `k` numbers the signature's nonce. -/
def Module.report (m : Module) (nonce : BitVec 256) (k : Nat) : List Byte :=
  let b := m.reportBody nonce
  b ++ ecdsaSign (keyOf Config.identityKey) (keyOf (Config.nonce Config.identityKey k)) (sha384 b)

def execGetAttestationReport (nonce : BitVec 256) (s : State) : Result :=
  event (fun u => { u with out := u.out ++ [.report (u.module.report nonce u.draws)], draws := u.draws + 1 }) s

/-- The spares that are left (R361, R364): cores of each die, LLC sets of the module's 8,192, channels of its eight stacks, SerDes lanes of its 22 groups of
eight (26 with expanders). -/
def State.sparesLeft (s : State) : List Nat :=
  let m := s.module.latestMap
  ((List.range 4).map fun d => (s.cores.filter fun e => e.1 / 18 == d && e.2.num.isNone && !e.2.worn).length) ++
    [8192 - m.llcSets.length, 8 - m.channels.length, (if Config.lx then 26 else 22) - m.serdes.length]

/-- Get health: not available in reset. Worn cores that run on, and the bond lanes and rows repaired, are reported too (R362). -/
def State.healthReport (s : State) : State :=
  if s.module.inReset then s
  else
    { s with out := s.out ++ [.health ((List.range 4).map fun d => Config.reading (s.draws + d)) [Config.reading (s.draws + 4)]
                ((List.range 4).map fun d => (s.die d).step) s.module.health s.sparesLeft
                ((s.cores.filter fun e => e.2.num.isSome && e.2.worn).map (·.1)) s.module.latestMap.bonds s.module.latestMap.rows],
             draws := s.draws + 5 }

def execGetHealth (s : State) : Result := event State.healthReport s

/-- Set power limit: 1,600 W to 2,600 W in steps of 50 W; not available in reset. -/
def execSetPowerLimit (watts : Nat) (s : State) : Result :=
  event (fun u =>
    if u.module.inReset ∨ watts < 1600 ∨ 2600 < watts ∨ watts % 50 ≠ 0 then u else { u with module := { u.module with powerLimit := watts } }) s

/-- Write image: the older flash copy, checked at the next reset. A map that management writes is never the security block's own (R360). -/
def execWriteImage (img : Image) (s : State) : Result :=
  event (fun u => { u with module := match img with
    | .boot b => u.module.writeBoot b
    | .map m => u.module.writeMap { m with sig := some (m.sig.getD []) } }) s

/-- Whether an event is a management command that is available in reset (R364), or a power-on. -/
def availableInReset : Instr → Bool
  | .getIdentityCertificate | .getAttestationReport _ | .writeImage _ | .moduleReset | .powerOn => true
  | _ => false

end Sys2Proof.Machine
end

