-- ==== Sys2Proof/Machine/System.lean ====
section
/-! DEFINITION. Device-side launches and signals (R314 to R316), TRAP, BRK and RTE (R330, R331), discovery words (R63), context registers
(R46, R47), counters (R171, R338), the error log's head (R337), FENCEIO (R222). -/

namespace Sys2Proof.Machine

/-! ### LAUNCH, GRAPHGO, SIGNAL -/

/-- The lines of a record or header, checked as one load. -/
def wantRecord (n : Nat) (a : W64) : List (W64 × Want) :=
  (a, wantDesc n fun c => c == .io) :: (List.range (n / 128 - 1)).map fun i =>
    (a + BitVec.ofNat 64 (128 * (i + 1)), wantDesc 128 fun c => c == .io)

/-- The bytes of a record, line by line. -/
def State.recordBytes (s : State) (t k n : Nat) (oks : List (Acc × Leaf × Nat)) : State × List Byte :=
  oks.foldl (fun (a : State × List Byte) x => let r := a.1.load t k x.2.1 x.2.2 (min n 128); (r.1, a.2 ++ r.2)) (s, [])

/-- A command on a record of n bytes, read at issue and held. -/
def recordOp (i : Instr) (a n : Nat) (op : W64 → List Byte → Held) (s : State) : Result :=
  issue i (sliceAccess i 0 false (fun v t k => wantRecord n ((v.slice t k).regs.getS a))
    (fun st v t k oks =>
      let r := v.recordBytes t k n oks
      st.holdAndGo r.1 t k [op ((v.slice t k).regs.getS a) r.2] [] (v.loadLines t oks))) s

def execLaunchN (a : Nat) (s : State) : Result := recordOp (.launchN a) a 256 (fun va bs => .launchN va bs) s
def execLaunchT (a : Nat) (s : State) : Result := recordOp (.launchT a) a 256 (fun va bs => .launchT va bs) s
def execGraphgo (a : Nat) (s : State) : Result := recordOp (.graphgo a) a 64 (fun va bs => .graph va bs) s

/-- What SIGNAL needs of its word (R315). -/
def wantSignal : Want :=
  { n := 8, r := false, w := true, kind := 1, bars := fun c => c == .nc || c == .io, data := false, noRemote := true }

def execSignal (d a : Nat) (s : State) : Result :=
  issue (.signal d a) (sliceAccess (.signal d a) 1 false (fun v t k => [((v.slice t k).regs.getS a, wantSignal)])
    (fun st v t k oks =>
      let bs := leBytes 8 ((v.slice t k).regs.getS d).toNat
      st.holdAndGo v t k (oks.map fun x => .signal (storeRun x.2.1.rep x.1.va.toNat x.2.2 bs) [x.2.1.addr])
        (oks.flatMap fun x => writeLine x.2.1 x.2.2) [])) s

/-! ### TRAP and BRK (R331) -/

/-- The own commit of a TRAP or BRK, a delivery point; then, unless a floating-point trap has been taken, its own. -/
def State.trapOwn (s : State) (t k : Nat) (i : Instr) (cause n : Nat) (resume : W64) : State :=
  let pc := (s.slice t k).regs.pc
  let s0 := s.modSlice t k fun v => { v with park := none, regs := { v.regs with wins := [] }, chunk := { v.chunk with instrs := 1 } }
  match s0.commitChunk t k true with
  | .error f => s0.capacityFault t k f
  | .ok s1 =>
    let s2 := s1.deliver t k (s0.slice t k).fpxen pc pc
    if (s0.slice t k).delivers then s2
    else s2.enterHandler t k { cause := cause, sub := 0, pc := resume, cpc := pc, addr := 0, word := instrWord i, info := BitVec.ofNat 32 n }

def trapOp (i : Instr) (cause n step : Nat) (s : State) : Result :=
  issue i (fun st u t ks => eachSlice (fun v t k =>
    match st.preIn v t k with
    | .left w => (w, .gone)
    | .ok w => (w.trapOwn t k i cause n ((w.slice t k).regs.pc + BitVec.ofNat 64 step), .ended)) u t ks) s

def execTrap (n : Nat) (s : State) : Result := trapOp (.trap n) 11 n 4 s
def execBrk (n : Nat) (s : State) : Result := trapOp (.brk n) 12 n 0 s

/-! ### RTE (R330) -/

/-- The registers that a frame restores. -/
def Regs.restore (r : Regs) (f : List Byte) : Regs :=
  let r1 := (List.range 8).foldl (fun q i => q.setS i (field64 f (8 * i))) r
  (((r1.setP 0 (BitVec.ofNat 4 (field f 98 1 % 16))).setP 1 (BitVec.ofNat 4 (field f 98 1 / 16))).setMode
    (BitVec.ofNat 16 (field f 96 2))).setPc (field64 f 64)

/-- A frame with a reserved MODE bit set or a misaligned PC. DEDUCED, log entry 37. -/
def frameBad (f : List Byte) : Bool := decide (2 ^ 13 ≤ field f 96 2) || field f 64 8 % 4 != 0

/-- The record of a bad frame: pc the RTE's, no would-be frame, the slice in its handler (R334). -/
def State.badFrame (s : State) (t k : Nat) (pc : W64) : State :=
  s.contextFault (s.team t).ctx 2 { s.sliceRec t k pc 0x0025 0 (BitVec.ofNat 32 (2 + 2 ^ 24)) with src := 4 }

/-- RTE once its chunk has committed: the frame is read as a load is, which may trap or wait for its page, or for those of the other slices (R151: `waits`); then
the registers are restored. A frame at an address that is no multiple of 128, which only ctx.trapbase can make, takes the misalignment trap. DESIGN CHOICE, log
entry 69. -/
def State.rteFrame (s0 : State) (t k : Nat) (waits : Bool) : State × Did :=
  let s := s0.touch (s0.team t).ctx [s0.frameAddr t k]
  let pc := (s.slice t k).regs.pc
  match s.aloneCheck t k [(s.frameAddr t k, wantDesc 128 fun c => c == .io)] with
  | .trap x => (s.trapAt t k .rte x, .gone)
  | .wait ms => ((s.modSlice t k fun v => v.parkWhole .rte (missPages ms)).postMisses t 0 ((ms.filter fun m => m.2.2.2).map fun m => (m.2.1, m.2.2.1)), .stay)
  | .go oks =>
    if waits then (s.modSlice t k fun v => v.parkWhole .rte [], .stay) else
    let r := s.descBytes t k 128 oks
    if frameBad r.2 then (r.1.badFrame t k pc, .gone)
    else (r.1.modSlice t k fun v =>
      let q := (v.regs.restore r.2).complete.aged
      { v with regs := q, handler := false, park := none, chunk := Chunk.begin (r.1.ctx (r.1.team t).ctx) q }, .ended)

/-- RTE in a slice. One that waited for its frame's page has committed its chunk already. -/
def State.rte (waits : Bool) (st s : State) (t k : Nat) : State × Did :=
  let sl := s.slice t k
  if !sl.handler then (st.trapIn s t k .rte { cause := 1, sub := 1, addr := 0, info := 0 }, .gone)
  else if sl.park.isSome then s.rteFrame t k waits
  else match st.preIn (s.modSlice t k fun v => { v with chunk := { v.chunk with instrs := v.chunk.instrs + 1 } }) t k with
    | .left w => (w, .gone)
    | .ok w => w.rteFrame t k waits

/-- Some slice of the gang that is in its handler misses the page of its frame. -/
def State.frameMissing (s : State) (t : Nat) (ks : List Nat) : Bool :=
  ks.any fun k => (s.slice t k).handler && (match s.aloneCheck t k [(s.frameAddr t k, wantDesc 128 fun c => c == .io)] with
    | .wait _ => true
    | .trap _ | .go _ => false)

def execRte (s : State) : Result := issue .rte (fun st u t ks => eachSlice (State.rte (u.frameMissing t ks) st) u t ks) s

/-! ### Discovery words, context registers -/

/-- A discovery word (R63). -/
def discovery (lx : Bool) (n : Nat) : W64 :=
  match n with
  | 0 => 0x0E7B0C4500010100
  | 1 => 3
  | 2 => if lx then 0x0000120408041004 else 0x0000120008041004
  | _ => 0

def execRdcap (d n : Nat) (s : State) : Result := regOp (.rdcap d n) (fun r => r.setS d (discovery Config.lx n)) s

/-- A context register as a slice reads it: its own held CSRW at once (R46, R47). What a slice of the context reads between another slice's commit of a CSRW
and its own next chunk start is the committed value. DESIGN CHOICE, log entry 63. -/
def csrValue (c : Ctx) (sl : Slice) (n : Nat) : W64 :=
  match n with
  | 0x000 => BitVec.ofInt 64 c.quota
  | 0x001 => (BitVec.ofInt 32 c.reserve).signExtend 64
  | 0x002 => BitVec.ofNat 64 c.promise
  | 0x010 => sl.ownCsr 0x010 c.tvec
  | 0x011 => c.trapbase
  | 0x012 => (sl.ownCsr 0x012 (if c.lachk then 1 else 0)) &&& 1
  | 0x013 => (sl.ownCsr 0x013 (c.fpxen.setWidth 64)) &&& 0x3F
  | 0x014 => c.logbase
  | 0x015 => BitVec.ofNat 64 c.prio
  | _ => 0

def execCsrr (d n : Nat) (s : State) : Result :=
  issueRegs (.csrr d n) (fun st t k r => .ok (r.setS d (csrValue (st.ctx (st.team t).ctx) (st.slice t k) n)).adv) s

/-- CSRW, held until commit. -/
def execCsrw (a n : Nat) (s : State) : Result :=
  issue (.csrw a n) (fun st u t ks => eachSlice (fun v t k =>
    let x := (v.slice t k).regs.getS a
    if n = 0x010 ∧ x.toNat % 4 ≠ 0 then
      (st.trapIn v t k (.csrw a n) { cause := 3, sub := 0, addr := x, info := BitVec.ofNat 32 (st.firstLane k) }, .gone)
    else st.holdAndGo v t k [.csr n x] [] []) u t ks) s

/-! ### Counters -/

/-- The quarter of a slice's home gang (R319). -/
def State.quarterOf (s : State) (t k : Nat) : Nat :=
  match (s.team t).place with
  | .resident _ qs _ _ => qs.getD (k / 8) 0
  | .ready | .swapped | .retired => 0

/-- A line is in an LLC slice of a die. -/
def State.inLlc (s : State) (d i line : Nat) : Bool := (s.block (blockOfLine line)).home == d && llcSlice (blockOfLine line) == i

/-- The sum of a measure over the lines that an LLC slice of a die holds. -/
def State.llcSum (s : State) (d i : Nat) (f : LlcLine → Nat) : Nat :=
  ((s.llc.filter fun e => s.inLlc d i e.1).map fun e => f e.2).foldl (· + ·) 0

/-- A number of State's with what the hardware may add to it, up to a limit: clean lines that reads have brought in, whose L1 copies no rule fixes. -/
def upTo (limit n : Nat) (free : W64) : W64 := BitVec.ofNat 64 (n + free.toNat % (limit - n + 1))

/-- A counter of R171 or R338, from State's own counts; those that depend on what reads have brought into the caches and the TLBs, which the spec leaves to
the hardware, may be larger by a free number. DESIGN CHOICE, log entry 28. -/
def counter (s : State) (t k n : Nat) (free : W64) : W64 :=
  let c := (s.team t).ctx
  let d := s.die (s.teamDie t)
  let core := match s.teamCore t with
    | some x => s.core x
    | none => Core.blank
  let q := s.quarterOf t k
  let shared (x : W64) : W64 := if (s.ctx c).shared then x else 0
  let num (x : Nat) : W64 := BitVec.ofNat 64 x
  match n with
  | 0x000 => shared (num (FMap.get 0 core.opps q))
  | 0x001 => shared (num (FMap.get 0 core.issues q))
  | 0x002 => shared (num core.tlbMiss + free)
  | 0x003 => shared (num d.tlbMiss + free)
  | 0x004 => shared (num d.walks + free)
  | 0x005 => num (FMap.get 0 (s.ctx c).posted (s.teamDie t))
  | 0x006 => num (FMap.get 0 (s.ctx c).merged (s.teamDie t))
  | 0x007 => shared (num core.rollbacks)
  | 0x008 => num (s.ctx c).capFaults
  | 0x009 => num (s.ctx c).traps
  | 0x00A => shared (num d.swapOuts)
  | _ =>
    let die := s.teamDie t
    if n < 0x110 then shared (num ((FMap.get 0 d.evicts (n - 0x100) + free.toNat % 2 ^ 32) % 2 ^ 64))
    else if n < 0x120 then shared (upTo (64 * 8192) (s.llcSum die (n - 0x110) fun l => codeSectors l.code) free)
    else if n < 0x130 then shared (upTo (48 * 8192) (s.llcSum die (n - 0x120) fun _ => 1) free)
    else if n < 0x140 then shared (num (FMap.get 0 d.captures (n - 0x130)))
    else if n < 0x150 then shared (num (d.antes.getD (n - 0x140) []).size)
    else shared (upTo (48 * 8192) (s.llcSum die (n % 16) fun l => if l.code = (n - 0x200) / 16 then 1 else 0) free)

/-- Expansion evictions that lines brought in by reads have caused since the last reading of a counter: a free number, which the counter keeps, since it only
counts up (R171). DESIGN CHOICE, log entry 28. -/
def State.moreEvicts (s : State) (t n : Nat) (free : W64) : State :=
  if 0x100 ≤ n ∧ n < 0x110 ∧ (s.ctx (s.team t).ctx).shared then s.countEvicts (s.teamDie t) (n - 0x100) (free.toNat % 2 ^ 32) else s

def execPcrd (d n : Nat) (s : State) : Result :=
  issue (.pcrd d n) (fun _ u t ks => eachSlice (fun v t k =>
    ((v.drawn.moreEvicts t n (Config.word v.draws)).modSlice t k fun sl => { sl with regs := (sl.regs.setS d (counter v t k n (Config.word v.draws))).adv }, .plain)) u t ks) s

/-- LOGRD: the head is a load of the read signature; 2^e is not. -/
def execLogrd (d n : Nat) (s : State) : Result :=
  issue (.logrd d n) (fun st u t ks => eachSlice (fun v t k =>
    let c := (v.team t).ctx
    let rl : List LineId := if n = 0 then [.log c] else []
    match st.room v t k [] rl with
    | .left w => (w, .gone)
    | .ok w => (w.modSlice t k fun sl =>
        let h := sl.hold [] [] rl
        { h with regs := (h.regs.setS d (BitVec.ofNat 64 (if n = 0 then (w.ctx c).logHead else 2 ^ (w.ctx c).logExp))).adv }, .plain)) u t ks) s

/-! ### FENCEIO -/

/-- FENCEIO: every earlier access of the slice has been performed once its chunk has committed. -/
def execFenceio (s : State) : Result :=
  issueCloser .fenceio (fun v t k => (v.modSlice t k fun sl => { sl with regs := sl.regs.adv }, .closer)) s

end Sys2Proof.Machine
end

