-- ==== Sys2Proof/Machine/Sched.lean ====
section
/-! DEFINITION. The order of moves: the issue opportunities of a quarter (R85, R86, R99, R321), the fetch of a gang's instruction (R26, R27), the moves
that the machine makes when none is given. -/

namespace Sys2Proof.Machine

/-! ### The fetch (R26, R27, R60, R61) -/

/-- The subcode of a word that is no instruction (R62). -/
def errorSub : DecodeError → Nat
  | .unassignedOpcode => 0
  | .unassignedFunction => 1
  | .reservedField => 2
  | .extension => 0
  | .truncated => 0

/-- What a word makes the gang do: its instruction, or the trap of a word that is none. -/
def instrOf (w : W32) : Instr :=
  match decode w.toNat with
  | .ok i => i
  | .error .extension => .extensionEmulation w
  | .error e => .illegalInstruction w (errorSub e)

/-- What a fetch comes to: no translation, a trap, or a word. -/
inductive Fetch
  | missing (page : Nat) (malformed : Bool)
  | trap (x : Trap)
  | word (s : State) (w : W32)

def wantFetch : Want := { n := 4, r := false, w := false, kind := 3, bars := fun _ => false, data := true }

/-- The values that a fetch of the word at `b` may return besides the one there now (R27): the one at the launch's admission, unless the page was not
mapped then as it is now, and those that stores have given it since. DESIGN CHOICE, log entry 8. -/
def State.fetchable (s : State) (t : Nat) (pc : W64) (npa b : Nat) : List Nat :=
  let l := s.launch (s.team t).launch
  (if { s with mem := l.snap }.npaOf (s.team t).ctx pc = some npa then [leNat (Memory.readBytes l.snap b 4)] else []) ++
  ((s.words.take (s.words.length - l.past)).filter fun e => e.1 == b).map (·.2)

/-- The word at a PC for a team: as memory holds it, or as it has been since the team's launch was admitted (R27). -/
def State.fetch (s : State) (t : Nat) (pc : W64) : Fetch :=
  let c := (s.team t).ctx
  let d := s.teamDie t
  let noX := canonical pc && (match s.walk c pc with
    | .leaf l => !l.ff && !l.x
    | .none _ => false)
  if noX then .trap { cause := 4, sub := 1, addr := pc, info := 0 }
  else match s.fate c d wantFetch s.draws pc with
    | .missing p m _ => .missing p m
    | .trap _ x => .trap x
    | .ok l a =>
      let s1 := s.touch c [pc]
      if isRemote l a then
        let r := s1.remoteLoad a 4
        .word r.1 (BitVec.ofNat 32 (leNat r.2))
      else
        let b := s.loadAddr d l a
        let new := s1.readNat b 4
        let old := (s1.fetchable t pc a b).filter fun v => v != new
        if old.isEmpty then .word s1 (BitVec.ofNat 32 new)
        else .word s1.drawn (BitVec.ofNat 32 ((new :: old).getD ((Config.word s1.draws).toNat % (old.length + 1)) new))

/-- A slice parked at a fetch (R152). -/
def Slice.parkFetch (page : Nat) (sl : Slice) : Slice :=
  { sl with park := some { instr := none, mask := 0, all := 0, far := 0, vas := [], pages := [page], buf := [], rset := [] } }

/-- A slice whose word has been fetched: its open chunk has used the page (R141), and it is parked no more. -/
def Slice.fetched (page : Nat) (sl : Slice) : Slice := { sl with park := none, chunk := { sl.chunk with code := (page :: sl.chunk.code).dedup } }

/-- What the gang acted on does next: an instruction, that of an issue opportunity of a quarter of a core, or nothing more in this step. -/
inductive Next
  | run (i : Instr) (s : State)
  | issue (i : Instr) (s : State) (c q : Nat)
  | stop (s : State)

/-- Some slices changed alike. -/
def State.modEach (s : State) (t : Nat) (ks : List Nat) (f : Slice → Slice) : State := ks.foldl (fun u k => u.modSlice t k f) s

/-- Every slice of the gang acted on takes the trap of its fetch. -/
def State.fetchTrap (s : State) (x : Trap) (pc : W64) : State :=
  let t := s.cur.team
  let ks := s.cur.ks
  let u := ks.foldl (fun u k => if s.haltedSince u t then u else
    u.takeTrap t k { cause := x.cause, sub := x.sub, pc := pc, cpc := pc, addr := x.addr, word := 0, info := x.info }) s
  s.orLater (s.partTrapped (u.regroup t ks (ks.filter fun k => (u.slice t k).handler && !(s.slice t k).handler))) t ks

/-- The gang acted on fetches its instruction. DEDUCED, log entry 9. -/
def State.fetchGang (s : State) : Next :=
  let t := s.cur.team
  let ks := s.cur.ks
  let pc := (s.slice t (ks.headD 0)).regs.pc
  match s.fetch t pc with
  | .missing p m => .stop ((s.modEach t ks (Slice.parkFetch p)).postMisses t 3 (ks.map fun _ => (p, m)))
  | .trap x => .stop ((s.touch (s.team t).ctx [pc]).fetchTrap x pc)
  | .word s1 w => .run (instrOf w) (s1.modEach t ks (Slice.fetched (pageOf pc)))

/-! ### Readiness (R85) -/

/-- Whether a slice may issue, as far as the machine's state says: its chunk may have ended if no earlier one is still in commit (R206). -/
def State.sliceReady (s : State) (t k : Nat) : Bool :=
  let sl := s.slice t k
  sl.status == .run && !sl.hit && !sl.prevHit && sl.tell.isNone && sl.park.isNone && sl.due.isNone &&
  !(sl.chunk.ended && (sl.prev.isSome || !sl.post.isEmpty))

/-- An MRD waits for the commands of its tile (R274). -/
def State.readWaits (s : State) (g : Gang) : Bool :=
  g.ks.any fun k => match (s.slice g.team k).mark with
    | some m => (s.team g.team).pending m.2 (some m.1)
    | none => false

/-- A gang is ready, unless it is busy for a reason of time; in a context that has faulted nothing issues (R334). -/
def State.gangReady (s : State) (g : Gang) : Bool :=
  !(s.ctx (s.team g.team).ctx).halted && g.ks.all (s.sliceReady g.team) && g.wait.isNone && !s.readWaits g

/-- A parked matrix command that slices at level 2 commit at once finds room in the team's queue (R259). -/
def State.retryFits (s : State) (g : Gang) : Bool :=
  let n := (g.ks.filter fun k => (s.slice g.team k).level == 2 && (match (s.slice g.team k).park.bind (·.instr) with
    | some (.mloop _ _ _ _ _ _) | some (.mdrain _ _) => true
    | _ => false)).length
  n == 0 || decide ((s.team g.team).queue.length + n ≤ 256)

/-- A parked gang may retry: a page that it awaits has been answered, or those of its slices that awaited one have left it (R151). -/
def State.mayRetry (s : State) (g : Gang) : Bool :=
  s.resident g.team && !(s.ctx (s.team g.team).ctx).halted && g.ks.all (fun k => !(s.slice g.team k).hit && !(s.slice g.team k).prevHit) &&
  let waits (x : Nat) : Bool := s.awaits (s.teamDie g.team) (s.team g.team).ctx x
  let pages := (g.ks.filter fun k => (s.slice g.team k).status == .run).filterMap fun k => (s.slice g.team k).park.map (·.pages)
  s.retryFits g && !pages.isEmpty && (pages.any (·.any fun x => !waits x) || pages.all (·.isEmpty))

/-- The retry of a parked gang: its instruction goes on; or, where its fetch waited, the word is fetched. -/
def State.retryGang (s : State) (t k : Nat) : Next :=
  match s.gangOf t k with
  | none => .stop s
  | some g =>
    if !s.mayRetry g then .stop s
    else
      let u := { s with cur := { team := t, ks := g.ks } }
      match g.ks.findSome? fun j => (s.slice t j).park.bind (·.instr) with
      | some i => .run i u
      | none => match u.fetchGang with
        | .run _ v | .issue _ v _ _ => .stop v
        | .stop v => .stop v

/-- The order of a gang's placement, if it is in a quarter of a core. -/
def State.gangIn (s : State) (c q : Nat) (g : Gang) : Option Nat :=
  match (s.team g.team).place with
  | .resident x qs o _ => if x = c ∧ qs.getD (g.ks.headD 0 / 8) 0 = q then some o else none
  | .ready | .swapped | .retired => none

/-! ### The selector (R85, R86) -/

/-- Whether the selector takes a gang before another, each with the order of its team's placement. -/
def takesBefore (a b : Nat × Gang) : Bool :=
  let old (x : Nat × Gang) : Nat := if 256 ≤ x.2.age then x.2.age else 0
  decide (old b < old a) ||
  (old a == old b && (decide (a.1 < b.1) || (a.1 == b.1 && (decide (a.2.team < b.2.team) ||
    (a.2.team == b.2.team && decide (a.2.ks.headD 0 < b.2.ks.headD 0))))))

def bestOf (gs : List (Nat × Gang)) : Option Gang :=
  (gs.foldl (fun (b : Option (Nat × Gang)) g => match b with
    | some x => if takesBefore g x then some g else some x
    | none => some g) none).map (·.2)

/-- The gangs of a quarter that are ready at an opportunity. -/
def State.readyGangs (s : State) (c q : Nat) (busy : List (Nat × Nat)) : List (Nat × Gang) :=
  s.gangs.filterMap fun g => match s.gangIn c q g with
    | some o => if s.gangReady g && !busy.contains (g.team, g.ks.headD 0) then some (o, g) else none
    | none => none

/-- The lowest-numbered enabled core of a die (R321). -/
def State.firstCore (s : State) (d : Nat) : Option Nat := (List.range 16).findSome? fun n => s.coreOf d n

/-- An opportunity is counted: by its quarter, and for its die's quantum (R321, R338). -/
def State.countOpp (s : State) (c q : Nat) : State :=
  let s1 := s.modCore c fun v => { v with opps := FMap.set 0 v.opps q (FMap.get 0 v.opps q + 1) }
  if q = 0 ∧ s.firstCore (c / 18) = some c then s1.modDie (c / 18) fun v => { v with opps := v.opps + 1 } else s1

/-- The home gangs that end their wait at a REGANG at an opportunity of their quarter (R99): the first after 1,024 have passed since the wait began, so that the
1,024th itself does not end it. DESIGN CHOICE, log entry 65. -/
def State.joins (s : State) (c q : Nat) : List (Nat × Nat × W64) :=
  ((s.gangs.filter fun g => (s.gangIn c q g).isSome && g.wait.isSome).map fun g =>
    (g.team, g.ks.headD 0 / 8, (s.slice g.team (g.ks.headD 0)).regs.pc)).dedup.filter fun x =>
      s.regangDue x.1 x.2.1 x.2.2 || s.allWait x.1 x.2.1 x.2.2

/-- The ageing counts and the waits after an opportunity: the ready gangs' but the chosen one's rise. -/
def State.ageGangs (s : State) (c q : Nat) (ready : List (Nat × Gang)) (chosen : Option Gang) : State :=
  { s with gangs := s.gangs.map fun g =>
      if some g = chosen then g
      else if (s.gangIn c q g).isNone then g
      else { g with age := if ready.any (fun r => r.2 == g) then g.age + 1 else g.age, wait := g.wait.map (· + 1) } }

/-- A slice of the gang that issues: a chunk that has ended is in commit from now on, and the next one opens (R206). -/
def Slice.reopen (c : Ctx) (sl : Slice) : Slice := if sl.chunk.ended then sl.shift c else sl

/-- The gang acted on issues an instruction: it is counted, and its ageing count becomes 0 (R86, R338). -/
def State.countIssue (s : State) (c q : Nat) : State :=
  { s.modCore c fun x => { x with issues := FMap.set 0 x.issues q (FMap.get 0 x.issues q + 1) } with
    gangs := s.gangs.map fun g => if g.team = s.cur.team ∧ g.ks = s.cur.ks then { g with age := 0 } else g }

/-- An issue opportunity of a quarter of a core: the gang that issues, if any, becomes the gang acted on. There is none while the die's quantum has to end, or
a residency floor to be met (R321, R322). -/
def State.opportunity (s : State) (c q : Nat) (busy : List (Nat × Nat)) : State × Bool :=
  let v := s.core c
  if v.gated || v.num.isNone || decide (3 < q) || s.dieHeld (c / 18) then (s, false)
  else
    let ready := s.readyGangs c q busy
    let best := bestOf ready
    let js := s.joins c q
    let s1 := js.foldl (fun u x => u.regangJoin x.1 x.2.1 x.2.2) (s.ageGangs c q ready best)
    let s2 := s1.countOpp c q
    match best with
    | none => (s2, false)
    | some g => ({ s2.modEach g.team g.ks (Slice.reopen (s2.ctx (s2.team g.team).ctx)) with cur := { team := g.team, ks := g.ks } }, true)

/-! ### Moves -/

/-- The events that come of themselves, outside a gang's issue. -/
def isEvent (i : Instr) : Bool :=
  match i with
  | .extensionEmulation _ | .illegalInstruction _ _ => false
  | _ => (encode i).isNone

/-- What a slice's own state asks for: its rollback, its change of level, a commit that may go on, its gang's retry. -/
def State.owedBy (s : State) (t k : Nat) : Option Move :=
  let sl := s.slice t k
  if !s.resident t then none
  else if sl.hit || sl.prevHit then some (.event (.rollback t k))
  else if sl.due.isSome then some (.event (.levelChange t k))
  else if sl.status == .run && (!sl.post.isEmpty || (match sl.prev with
      | some p => s.queueRoom t p.held
      | none => (sl.chunk.ended && s.queueRoom t sl.chunk.held) || (sl.tell.isSome && !sl.chunk.ended))) then some (.event (.chunkCommit t k))
  else match s.gangOf t k with
    | some g => if s.mayRetry g then some (.retry t k) else none
    | none => none

/-- What a die's state asks for: its quantum's end, a residency floor (R321, R322). -/
def State.owedTo (s : State) (d : Nat) : Option Move :=
  if quantumOpps ≤ (s.die d).opps then some (.event (.quantumEnd d))
  else ((FMap.keys s.ctxs).find? fun c => s.floorDue c d).map fun c => .event (.residencyFloor c d)

/-- The move when none is given: what the slices and the dies ask for, and the quarters' opportunities in turn, by halves. DESIGN CHOICE, log entry 2. -/
def defaultMove (s : State) : Move :=
  match (if s.idle % 2 = 0 then
      ((FMap.keys s.slices).findSome? fun x => s.owedBy (x / 256) (x % 256)).or ((List.range 4).findSome? s.owedTo) else none) with
  | some m => m
  | none => .opp (s.idle / 8 % 72) (s.idle / 2 % 4) []

/-- The next move, and the state without it. -/
def State.nextMove (s : State) : Move × State :=
  match s.tape with
  | m :: r => (m, { s with tape := r })
  | [] => (defaultMove s, { s with idle := s.idle + 1 })

/-- What a move does next: it runs an instruction or an event, or it ends there. -/
def State.act (s : State) (m : Move) : Next :=
  match m with
  | .event i => if isEvent i && (!s.module.inReset || availableInReset i) then .run i s else .stop s
  | .opp c q busy =>
    if s.module.inReset then .stop s
    else
      let r := s.opportunity c q busy
      if r.2 then match r.1.fetchGang with
        | .run i u | .issue i u _ _ => .issue i u c q
        | .stop u => .stop u
      else .stop r.1
  | .retry t k => if s.module.inReset then .stop s else s.retryGang t k

/-- Nothing can ever happen: the module is held in reset and no move is given. -/
def State.stuck (s : State) : Bool := s.module.inReset && s.tape.isEmpty

end Sys2Proof.Machine
end

