-- ==== Sys2Proof/Machine/Dispatch.lean ====
section
/-! DEFINITION. One arm for each constructor of Instr, each a call of that instruction's meaning. -/

namespace Sys2Proof.Machine

def exec (i : Instr) (s : State) : Host.Outcome State Fault Refusal :=
  match i with
  | .sadd d a b => Sys2Proof.Machine.execSadd d a b s
  | .ssub d a b => Sys2Proof.Machine.execSsub d a b s
  | .smul d a b => Sys2Proof.Machine.execSmul d a b s
  | .smulh d a b => Sys2Proof.Machine.execSmulh d a b s
  | .smulhN d a b => Sys2Proof.Machine.execSmulhN d a b s
  | .sdiv d a b => Sys2Proof.Machine.execSdiv d a b s
  | .sdivN d a b => Sys2Proof.Machine.execSdivN d a b s
  | .srem d a b => Sys2Proof.Machine.execSrem d a b s
  | .sremN d a b => Sys2Proof.Machine.execSremN d a b s
  | .sand d a b => Sys2Proof.Machine.execSand d a b s
  | .sor d a b => Sys2Proof.Machine.execSor d a b s
  | .sxor d a b => Sys2Proof.Machine.execSxor d a b s
  | .sshl d a b => Sys2Proof.Machine.execSshl d a b s
  | .sshr d a b => Sys2Proof.Machine.execSshr d a b s
  | .ssra d a b => Sys2Proof.Machine.execSsra d a b s
  | .smin d a b => Sys2Proof.Machine.execSmin d a b s
  | .sminN d a b => Sys2Proof.Machine.execSminN d a b s
  | .smax d a b => Sys2Proof.Machine.execSmax d a b s
  | .smaxN d a b => Sys2Proof.Machine.execSmaxN d a b s
  | .sslt d a b => Sys2Proof.Machine.execSslt d a b s
  | .ssltn d a b => Sys2Proof.Machine.execSsltn d a b s
  | .ssel d a b => Sys2Proof.Machine.execSsel d a b s
  | .saddi d a j => Sys2Proof.Machine.execSaddi d a j s
  | .sandi d a j => Sys2Proof.Machine.execSandi d a j s
  | .sori d a j => Sys2Proof.Machine.execSori d a j s
  | .sxori d a j => Sys2Proof.Machine.execSxori d a j s
  | .sshli d a n => Sys2Proof.Machine.execSshli d a n s
  | .slui d j => Sys2Proof.Machine.execSlui d j s
  | .srd d n => Sys2Proof.Machine.execSrd d n s
  | .swr a n => Sys2Proof.Machine.execSwr a n s
  | .smovv d x => Sys2Proof.Machine.execSmovv d x s
  | .smovvLane d => Sys2Proof.Machine.execSmovvLane d s
  | .smovvTlane d => Sys2Proof.Machine.execSmovvTlane d s
  | .vrdl d a l => Sys2Proof.Machine.execVrdl d a l s
  | .br j => Sys2Proof.Machine.execBr j s
  | .brCc c a j => Sys2Proof.Machine.execBrCc c a j s
  | .bany p j => Sys2Proof.Machine.execBany p j s
  | .ball p j => Sys2Proof.Machine.execBall p j s
  | .bnone p j => Sys2Proof.Machine.execBnone p j s
  | .call j => Sys2Proof.Machine.execCall j s
  | .nop => Sys2Proof.Machine.execNop s
  | .ret => Sys2Proof.Machine.execRet s
  | .jmpr a => Sys2Proof.Machine.execJmpr a s
  | .regang => Sys2Proof.Machine.execRegang s
  | .exit => Sys2Proof.Machine.execExit s
  | .mode j => Sys2Proof.Machine.execMode j s
  | .moder a => Sys2Proof.Machine.execModer a s
  | .vadd d a b => Sys2Proof.Machine.execVadd d a b s
  | .vsub d a b => Sys2Proof.Machine.execVsub d a b s
  | .vmul d a b => Sys2Proof.Machine.execVmul d a b s
  | .vmulh d a b => Sys2Proof.Machine.execVmulh d a b s
  | .vmad d a b => Sys2Proof.Machine.execVmad d a b s
  | .vmin d a b => Sys2Proof.Machine.execVmin d a b s
  | .vmax d a b => Sys2Proof.Machine.execVmax d a b s
  | .vand d a b => Sys2Proof.Machine.execVand d a b s
  | .vor d a b => Sys2Proof.Machine.execVor d a b s
  | .vxor d a b => Sys2Proof.Machine.execVxor d a b s
  | .vshl d a b => Sys2Proof.Machine.execVshl d a b s
  | .vshr d a b => Sys2Proof.Machine.execVshr d a b s
  | .vabs d a => Sys2Proof.Machine.execVabs d a s
  | .vneg d a => Sys2Proof.Machine.execVneg d a s
  | .vnot d a => Sys2Proof.Machine.execVnot d a s
  | .vsel d a b p => Sys2Proof.Machine.execVsel d a b p s
  | .vcmp c p a b => Sys2Proof.Machine.execVcmp c p a b s
  | .vaddi d a j => Sys2Proof.Machine.execVaddi d a j s
  | .vmovi d j => Sys2Proof.Machine.execVmovi d j s
  | .vfadd d a b => Sys2Proof.Machine.execVfadd d a b s
  | .vfsub d a b => Sys2Proof.Machine.execVfsub d a b s
  | .vfmul d a b => Sys2Proof.Machine.execVfmul d a b s
  | .vfma d a b => Sys2Proof.Machine.execVfma d a b s
  | .vfmin d a b => Sys2Proof.Machine.execVfmin d a b s
  | .vfmax d a b => Sys2Proof.Machine.execVfmax d a b s
  | .vfabs d a => Sys2Proof.Machine.execVfabs d a s
  | .vfneg d a => Sys2Proof.Machine.execVfneg d a s
  | .vfcmp c p a b => Sys2Proof.Machine.execVfcmp c p a b s
  | .vrcp d a l => Sys2Proof.Machine.execVrcp d a l s
  | .vrsq d a l => Sys2Proof.Machine.execVrsq d a l s
  | .vsqrt d a l => Sys2Proof.Machine.execVsqrt d a l s
  | .vexp2 d a l => Sys2Proof.Machine.execVexp2 d a l s
  | .vlog2 d a l => Sys2Proof.Machine.execVlog2 d a l s
  | .vsin d a l => Sys2Proof.Machine.execVsin d a l s
  | .vcos d a l => Sys2Proof.Machine.execVcos d a l s
  | .pand d a b => Sys2Proof.Machine.execPand d a b s
  | .por d a b => Sys2Proof.Machine.execPor d a b s
  | .pxor d a b => Sys2Proof.Machine.execPxor d a b s
  | .pnot d a => Sys2Proof.Machine.execPnot d a s
  | .pset d x => Sys2Proof.Machine.execPset d x s
  | .vcvt d a k t l => Sys2Proof.Machine.execVcvt d a k t l s
  | .vqnt d a k l => Sys2Proof.Machine.execVqnt d a k l s
  | .vdqnt d a b k => Sys2Proof.Machine.execVdqnt d a b k s
  | .vpack d a b => Sys2Proof.Machine.execVpack d a b s
  | .vunpk h d a => Sys2Proof.Machine.execVunpk h d a s
  | .vclass d a => Sys2Proof.Machine.execVclass d a s
  | .vperm d a b => Sys2Proof.Machine.execVperm d a b s
  | .vbperm d a b => Sys2Proof.Machine.execVbperm d a b s
  | .vslide d a b n => Sys2Proof.Machine.execVslide d a b n s
  | .vshfl k d a m => Sys2Proof.Machine.execVshfl k d a m s
  | .vbcast d a m => Sys2Proof.Machine.execVbcast d a m s
  | .vred o d a => Sys2Proof.Machine.execVred o d a s
  | .vscan o d a => Sys2Proof.Machine.execVscan o d a s
  | .vballot d p => Sys2Proof.Machine.execVballot d p s
  | .vcount d p => Sys2Proof.Machine.execVcount d p s
  | .vld t x b dbl l => Sys2Proof.Machine.execVld t x b dbl l s
  | .vst t x b dbl l => Sys2Proof.Machine.execVst t x b dbl l s
  | .vldc t b dbl o => Sys2Proof.Machine.execVldc t b dbl o s
  | .vstc t b dbl o => Sys2Proof.Machine.execVstc t b dbl o s
  | .sld d b wd o => Sys2Proof.Machine.execSld d b wd o s
  | .sst d b wd o => Sys2Proof.Machine.execSst d b wd o s
  | .tld t x b dbl l => Sys2Proof.Machine.execTld t x b dbl l s
  | .tst t x b dbl l => Sys2Proof.Machine.execTst t x b dbl l s
  | .pref b o => Sys2Proof.Machine.execPref b o s
  | .cwb a b => Sys2Proof.Machine.execCwb a b s
  | .cinv a b => Sys2Proof.Machine.execCinv a b s
  | .cdisc a b => Sys2Proof.Machine.execCdisc a b s
  | .rdnpa d a => Sys2Proof.Machine.execRdnpa d a s
  | .atom o t x b dbl => Sys2Proof.Machine.execAtom o t x b dbl s
  | .red o t x b dbl => Sys2Proof.Machine.execRed o t x b dbl s
  | .atomt o t x b dbl => Sys2Proof.Machine.execAtomt o t x b dbl s
  | .redt o t x b dbl => Sys2Proof.Machine.execRedt o t x b dbl s
  | .wait c a b => Sys2Proof.Machine.execWait c a b s
  | .bar n => Sys2Proof.Machine.execBar n s
  | .ginit a b => Sys2Proof.Machine.execGinit a b s
  | .gexpect a b => Sys2Proof.Machine.execGexpect a b s
  | .garrive a => Sys2Proof.Machine.execGarrive a s
  | .gwait p a b => Sys2Proof.Machine.execGwait p a b s
  | .chacq d a => Sys2Proof.Machine.execChacq d a s
  | .chacqNb d a => Sys2Proof.Machine.execChacqNb d a s
  | .chpub a => Sys2Proof.Machine.execChpub a s
  | .chtake d a => Sys2Proof.Machine.execChtake d a s
  | .chtakeNb d a => Sys2Proof.Machine.execChtakeNb d a s
  | .chfree a => Sys2Proof.Machine.execChfree a s
  | .cmit => Sys2Proof.Machine.execCmit s
  | .specrd d x => Sys2Proof.Machine.execSpecrd d x s
  | .rsvrd d => Sys2Proof.Machine.execRsvrd d s
  | .rsvpin a b => Sys2Proof.Machine.execRsvpin a b s
  | .rsvunpin a b => Sys2Proof.Machine.execRsvunpin a b s
  | .forfeit d a b => Sys2Proof.Machine.execForfeit d a b s
  | .balrd d => Sys2Proof.Machine.execBalrd d s
  | .balack a b => Sys2Proof.Machine.execBalack a b s
  | .czero a b => Sys2Proof.Machine.execCzero a b s
  | .csize blk d a => Sys2Proof.Machine.execCsize blk d a s
  | .mloop d fa fb t ka l => Sys2Proof.Machine.execMloop d fa fb t ka l s
  | .mzero t => Sys2Proof.Machine.execMzero t s
  | .mwait => Sys2Proof.Machine.execMwait s
  | .mrd d x t l => Sys2Proof.Machine.execMrd d x t l s
  | .mwr d x t l => Sys2Proof.Machine.execMwr d x t l s
  | .mdrain d t => Sys2Proof.Machine.execMdrain d t s
  | .mscl a b n => Sys2Proof.Machine.execMscl a b n s
  | .copy f d a b => Sys2Proof.Machine.execCopy f d a b s
  | .cwait a => Sys2Proof.Machine.execCwait a s
  | .cseq d => Sys2Proof.Machine.execCseq d s
  | .allred d a => Sys2Proof.Machine.execAllred d a s
  | .repsync d a b => Sys2Proof.Machine.execRepsync d a b s
  | .cspill d => Sys2Proof.Machine.execCspill d s
  | .launchN a => Sys2Proof.Machine.execLaunchN a s
  | .launchT a => Sys2Proof.Machine.execLaunchT a s
  | .graphgo a => Sys2Proof.Machine.execGraphgo a s
  | .signal d a => Sys2Proof.Machine.execSignal d a s
  | .trap n => Sys2Proof.Machine.execTrap n s
  | .brk n => Sys2Proof.Machine.execBrk n s
  | .rte => Sys2Proof.Machine.execRte s
  | .rdcap d n => Sys2Proof.Machine.execRdcap d n s
  | .csrr d n => Sys2Proof.Machine.execCsrr d n s
  | .csrw a n => Sys2Proof.Machine.execCsrw a n s
  | .pcrd d n => Sys2Proof.Machine.execPcrd d n s
  | .logrd d n => Sys2Proof.Machine.execLogrd d n s
  | .fenceio => Sys2Proof.Machine.execFenceio s
  | .vtanh d a l => Sys2Proof.Machine.execVtanh d a l s
  | .verf d a l => Sys2Proof.Machine.execVerf d a l s
  | .vsigm d a l => Sys2Proof.Machine.execVsigm d a l s
  | .vpopc d a l => Sys2Proof.Machine.execVpopc d a l s
  | .vclz d a l => Sys2Proof.Machine.execVclz d a l s
  | .vbrev d a l => Sys2Proof.Machine.execVbrev d a l s
  | .extensionEmulation w => Sys2Proof.Machine.execExtensionEmulation w s
  | .illegalInstruction w sub => Sys2Proof.Machine.execIllegalInstruction w sub s
  | .chunkCommit t k => Sys2Proof.Machine.execChunkCommit t k s
  | .rollback t k => Sys2Proof.Machine.execRollback t k s
  | .levelChange t k => Sys2Proof.Machine.execLevelChange t k s
  | .regangTimeout t home pc => Sys2Proof.Machine.execRegangTimeout t home pc s
  | .faultAnswer die seq map => Sys2Proof.Machine.execFaultAnswer die seq map s
  | .waitWake t k => Sys2Proof.Machine.execWaitWake t k s
  | .gwaitWake t k => Sys2Proof.Machine.execGwaitWake t k s
  | .channelWake t k => Sys2Proof.Machine.execChannelWake t k s
  | .cwaitWake t k => Sys2Proof.Machine.execCwaitWake t k s
  | .mwaitWake t k => Sys2Proof.Machine.execMwaitWake t k s
  | .engineComplete e => Sys2Proof.Machine.execEngineComplete e s
  | .spillReplay die j => Sys2Proof.Machine.execSpillReplay die j s
  | .allredRound g seq => Sys2Proof.Machine.execAllredRound g seq s
  | .kStep t j => Sys2Proof.Machine.execKStep t j s
  | .drain t j => Sys2Proof.Machine.execDrain t j s
  | .matrixCommandPerform t j => Sys2Proof.Machine.execMatrixCommandPerform t j s
  | .writeBack line => Sys2Proof.Machine.execWriteBack line s
  | .anteRefill die x => Sys2Proof.Machine.execAnteRefill die x s
  | .rowCapture die lines => Sys2Proof.Machine.execRowCapture die lines s
  | .rowUnpin die lines => Sys2Proof.Machine.execRowUnpin die lines s
  | .bmePoisonReplace block => Sys2Proof.Machine.execBmePoisonReplace block s
  | .balloonRequest ctx id wanted urgency => Sys2Proof.Machine.execBalloonRequest ctx id wanted urgency s
  | .balloonUrgencyRaise ctx => Sys2Proof.Machine.execBalloonUrgencyRaise ctx s
  | .balloonRequestExpiry ctx => Sys2Proof.Machine.execBalloonRequestExpiry ctx s
  | .teamPlace t => Sys2Proof.Machine.execTeamPlace t s
  | .teamSwapOut t => Sys2Proof.Machine.execTeamSwapOut t s
  | .teamRunnable t => Sys2Proof.Machine.execTeamRunnable t s
  | .quantumEnd die => Sys2Proof.Machine.execQuantumEnd die s
  | .residencyFloor ctx die => Sys2Proof.Machine.execResidencyFloor ctx die s
  | .teamRetire t => Sys2Proof.Machine.execTeamRetire t s
  | .notifyRegisterWrite q v => Sys2Proof.Machine.execNotifyRegisterWrite q v s
  | .launchPacket q => Sys2Proof.Machine.execLaunchPacket q s
  | .graphPacket q => Sys2Proof.Machine.execGraphPacket q s
  | .waitsigPacket q => Sys2Proof.Machine.execWaitsigPacket q s
  | .signalPacket q => Sys2Proof.Machine.execSignalPacket q s
  | .notifiedReread ctx => Sys2Proof.Machine.execNotifiedReread ctx s
  | .kernelNode g n => Sys2Proof.Machine.execKernelNode g n s
  | .copyNode g n => Sys2Proof.Machine.execCopyNode g n s
  | .signalNode g n => Sys2Proof.Machine.execSignalNode g n s
  | .waitNode g n => Sys2Proof.Machine.execWaitNode g n s
  | .condNode g n => Sys2Proof.Machine.execCondNode g n s
  | .loopNode g n => Sys2Proof.Machine.execLoopNode g n s
  | .loopIteration g n => Sys2Proof.Machine.execLoopIteration g n s
  | .contextCreate c => Sys2Proof.Machine.execContextCreate c s
  | .queueCreate q => Sys2Proof.Machine.execQueueCreate q s
  | .contextReset ctx => Sys2Proof.Machine.execContextReset ctx s
  | .hostRead npa => Sys2Proof.Machine.execHostRead npa s
  | .hostWrite npa bytes => Sys2Proof.Machine.execHostWrite npa bytes s
  | .hostSnoop npa inv => Sys2Proof.Machine.execHostSnoop npa inv s
  | .expanderLinkDown x => Sys2Proof.Machine.execExpanderLinkDown x s
  | .expanderTimeout x => Sys2Proof.Machine.execExpanderTimeout x s
  | .linkFailure l => Sys2Proof.Machine.execLinkFailure l s
  | .groupEnd g => Sys2Proof.Machine.execGroupEnd g s
  | .healthThreshold p => Sys2Proof.Machine.execHealthThreshold p s
  | .spareBringIn die n => Sys2Proof.Machine.execSpareBringIn die n s
  | .junctionThrottle die => Sys2Proof.Machine.execJunctionThrottle die s
  | .thermalReset => Sys2Proof.Machine.execThermalReset s
  | .powerOn => Sys2Proof.Machine.execPowerOn s
  | .getIdentityCertificate => Sys2Proof.Machine.execGetIdentityCertificate s
  | .getAttestationReport nonce => Sys2Proof.Machine.execGetAttestationReport nonce s
  | .getHealth => Sys2Proof.Machine.execGetHealth s
  | .setPowerLimit watts => Sys2Proof.Machine.execSetPowerLimit watts s
  | .writeImage img => Sys2Proof.Machine.execWriteImage img s
  | .moduleReset => Sys2Proof.Machine.execModuleReset s
  | .contextDestroy ctx => Sys2Proof.Machine.execContextDestroy ctx s
  | .promiseChange ctx pages => Sys2Proof.Machine.execPromiseChange ctx pages s
  | .quotaChange ctx granules => Sys2Proof.Machine.execQuotaChange ctx granules s
  | .leafEntryChange m => Sys2Proof.Machine.execLeafEntryChange m s
  | .expanderBringBack x => Sys2Proof.Machine.execExpanderBringBack x s
  | .collectiveGroupDefine g => Sys2Proof.Machine.execCollectiveGroupDefine g s
  | .engineSectorAccess e j => Sys2Proof.Machine.execEngineSectorAccess e j s
  | .corePowerGate die n => Sys2Proof.Machine.execCorePowerGate die n s

end Sys2Proof.Machine
end

