-- ==== Sys2Proof/Machine/Breach.lean ====
section
/-! DEFINITION. Sources overwritten too early (R40): an instruction whose promise a later one breaks by writing a register that it reads is performed
again with that register, by lane, in its old or its new form. -/

namespace Sys2Proof.Machine

/-- The registers that the window's instruction reads, and does not write itself, and that a later one writes too early (R40, R41). -/
def Window.hurt (w : Window) (writes : List Reg) : List Reg :=
  writes.filter fun x => (w.read.map (·.1)).contains x && !(w.wrote.map (·.1)).contains x

/-- The window's sources, those just written each in the old form or the new. DESIGN CHOICE, log entry 18. -/
def Window.mixed (w : Window) (q : Regs) (writes : List Reg) (base : Nat) : Window :=
  { w with read := ((List.range w.read.length).zip w.read).map fun e =>
      if (w.hurt writes).contains e.2.1 then (e.2.1, mixWhole e.2.1 (Config.lanes (base + e.1)) (q.whole e.2.1) e.2.2) else e.2 }

/-- A slice as it stood at a window's instruction, with the window's sources: what it held after is not held. -/
def Slice.backAt (w : Window) (sl : Slice) : Slice :=
  let before (ch : Chunk) : Chunk := { ch with held := ch.held.filter fun it => decide (it.num < w.num) }
  let regs := w.read.foldl (fun (q : Regs) e => q.putWhole e.1 e.2) { sl.regs with pc := w.pc, mode := w.mode, fpx := 0, wins := [] }
  let chunk := { before (if w.old then sl.prev.getD sl.chunk else sl.chunk) with instrs := 0, ended := false, wlines := [], rlines := [] }
  { sl with regs := regs, chunk := chunk, prev := if w.old then none else sl.prev, prevHit := false, hit := false, level := 0, tell := none, park := none,
            mark := none }

/-- A slice's windows after a window's instruction has been performed again, raising some flags: its new sources, and its flags, if %fpx still has them. -/
def Window.resource (w : Window) (fl : Flags) (x : Window) : Window :=
  if x.num = w.num ∧ x.old = w.old ∧ !x.complete then { x with read := w.read, own := x.own.map fun _ => fl } else x

/-- %fpx from what stands whatever open windows' instructions read, and the flags of those. -/
def Regs.reflag (r : Regs) : Regs := { r with fpx := (r.wins.filter fun w => !w.complete).foldl (fun f w => f ||| w.own.getD 0) r.plain }

/-- A slice in which the window's instruction has been performed again as in `y`: its results in the registers that nothing has written since, its flags and
its effects in the place of those it had. -/
def Slice.redone (w : Window) (writes : List Reg) (y sl : Slice) : Slice :=
  let news := (y.chunk.held.drop ((sl.backAt w).chunk.held.length)).map fun it => { it with num := w.num }
  let put (ch : Chunk) : Chunk :=
    { ch with held := (ch.held.filter fun it => decide (it.num < w.num)) ++ news ++ ch.held.filter fun it => decide (w.num < it.num),
              wlines := (ch.wlines ++ y.chunk.wlines).dedup, rlines := (ch.rlines ++ y.chunk.rlines).dedup }
  let dests := (w.wrote.map (·.1)).filter fun x => !w.lost.contains x && !writes.contains x
  let regs := dests.foldl (fun (q : Regs) x => q.putWhole x (y.regs.whole x)) sl.regs
  { sl with regs := { regs with wins := regs.wins.map (w.resource y.regs.fpx) }.reflag, chunk := if w.old then sl.chunk else put sl.chunk,
            prev := if w.old then sl.prev.map put else sl.prev }

/-- A slice has gone past an instruction, with no commit, no trap and no rollback. -/
def wentOn (a b : Slice) : Bool :=
  a.commits == b.commits && a.rollbacks == b.rollbacks && a.handler == b.handler && b.park.isNone && b.status == .run && b.regs.pc != a.regs.pc

/-- One window of the gang: `u` is the state before the instruction that hurts it, `v` the state now. It is performed again only in the gang that issued it, and
only where it then completes as it did; at every level. DESIGN CHOICE, log entry 18. -/
def State.again (u : State) (j : Instr) (v : State) (w0 : Window) : State :=
  let t := u.cur.team
  let ks := u.cur.ks
  let find (k : Nat) : Option Window := (u.slice t k).regs.wins.find? fun x => x.num == w0.num && x.old == w0.old && x.pc == w0.pc && !x.complete
  let ws (k : Nat) : Window := ((find k).getD w0).mixed (v.slice t k).regs (u.writes j t k) (v.draws + 1024 * k)
  if w0.ks != ks || !(ks.all fun k => (find k).isSome) || (ks.all fun k => (w0.hurt (u.writes j t k)).isEmpty) then v
  else
    let z := ks.foldl (fun x k => x.modSlice t k fun sl => sl.backAt (ws k)) { v with cur := u.cur }
    match exec w0.instr z with
    | .next y =>
      if ks.all (fun k => wentOn (z.slice t k) (y.slice t k)) && y.out == z.out then
        ks.foldl (fun x k => x.modSlice t k fun sl => sl.redone (ws k) (u.writes j t k) (y.slice t k)) v
      else v
    | .fault _ | .refused _ => v

/-- What an instruction's breaches of earlier promises leave (R40): `u` is the state before it, `v` the state after it. -/
def State.breaches (u : State) (j : Instr) (v : State) : State :=
  let t := u.cur.team
  if u.cur.ks.all (fun k => (u.slice t k).regs.wins.isEmpty) || !(u.cur.ks.all fun k => wentOn (u.slice t k) (v.slice t k)) then v
  else
    let r := (u.slice t (u.cur.ks.headD 0)).regs.wins.foldl (State.again u j) v
    { r with draws := v.draws + 2 ^ 19 }

/-- An instruction or an event as a step runs it: with what its breaches of open promises do (R40). -/
def run (i : Instr) (u : State) : Host.Outcome State Fault Refusal :=
  match exec i u with
  | .next v => .next (if isEvent i then v else u.breaches i v)
  | r => r

/-- The instruction of an issue opportunity: counted, and its gang's ageing count 0, if it has issued and not waited (R86, R338). -/
def runIssue (i : Instr) (u : State) (c q : Nat) : Host.Outcome State Fault Refusal :=
  match run i (u.countIssue c q) with
  | .next v => .next (if v.cur.waits then { v with gangs := u.gangs, cores := u.cores } else v)
  | r => r

end Sys2Proof.Machine
end

