-- ==== Sys2Proof/Machine/Step.lean ====
section
/-! DEFINITION. One step of the machine: the next move, made. -/

namespace Sys2Proof.Machine

/-- One step: the next move is taken; it runs an instruction or an event, or it ends. -/
def step (s : State) : Host.Outcome State Fault Refusal :=
  if s.stuck then .fault .heldInReset
  else
    match State.act s.nextMove.2 s.nextMove.1 with
    | .run i u => run i u
    | .issue i u c q => runIssue i u c q
    | .stop u => .next u

/-! ### A program placed where the next step fetches it -/

/-- Where the page table and the page of a placed program lie. -/
def placeRoot : Nat := 0x10000000000
def placePage : Nat := 0x10000010000

/-- The launch record of a placed program: one team of one slice with every register that a record can give it, four format slots for the forms
that name one, no signal. -/
def placeRecord : LaunchRec :=
  { LaunchRec.blank with tmem := 2 ^ 22, vregs := 128, sregs := 64, chan := 2, acc := 4, bstore := 2 ^ 24,
                         slots := List.replicate 8 0 }

/-- The state in which the next step fetches the instruction that has the bits of `w`: a context whose page table maps one page at virtual address 0,
readable, writable and executable, with the instruction at its start; a launch of one team of one slice, resident on the first core; and an
issue opportunity of its quarter as the next move. DEDUCED, log entry 1. -/
def State.withFetchWord (s : State) (nbits w : Nat) : State :=
  let c := nextKey s.ctxs
  let l := nextKey s.launches
  let t := nextKey s.teams
  let core := ((FMap.keys s.cores).find? fun k => (s.core k).num.isSome).getD 0
  let node (a : Nat) (e : Nat) : List (Nat × Byte) := byteRun a (leBytes 8 e)
  let cells := node placeRoot (placeRoot + 4096 + 1) ++ node (placeRoot + 4096) (placeRoot + 8192 + 1) ++
    node (placeRoot + 8192) (placeRoot + 12288 + 1) ++ node (placeRoot + 12288) (placeRoot + 16384 + 1) ++
    node (placeRoot + 16384) (placePage + 0x605D) ++ byteRun placePage (bytesOfWord (w % 2 ^ nbits))
  let mem := cells.foldl (fun m e => Memory.write m e.1 e.2) s.mem
  let ctx : Ctx := { Ctx.blank with quota := 2 ^ 20, promise := 2 ^ 10, mapped := 1, root := placeRoot }
  let chan : Chan := { base := 0, lsz := 0, count := 2, free := 2, filled := 2, acq := 0, pub := 0, take := 0, rel := 0 }
  let team : Team := { Team.blank with launch := l, ctx := c, slices := 1, slot := some 0, place := .resident core [0] 0 0, started := true,
                                       chans := [chan, chan] }
  let launch : Launch := { params := placeRecord, addr := 0, ctx := c, retired := 0, tails := [], origin := .slice, done := false, snap := mem, past := s.words.length }
  { s with mem := mem, ctxs := FMap.put s.ctxs c ctx, launches := FMap.put s.launches l launch, teams := FMap.put s.teams t team,
           slices := FMap.put s.slices (sliceKey t 0) (Slice.start ctx 0),
           gangs := { team := t, ks := [0], age := 0, wait := none } :: s.gangs,
           blocks := FMap.put s.blocks (placePage / 4096) { Block.blank with owner := some c },
           tape := .opp core 0 (s.gangs.map fun g => (g.team, g.ks.headD 0)) :: s.tape }

end Sys2Proof.Machine
end

