-- ==== Sys2Proof/Safety.lean ====
section
/-! DEFINITION. What claims call a good state and a safe run, and the terms in which they say what an instruction leaves. -/

namespace Sys2Proof.Machine

/-- A run of `n` steps stops at no fault and no refusal. -/
def State.safeFor : Nat → State → Prop
  | 0, _ => True
  | n + 1, s => ∃ u, step s = .next u ∧ u.safeFor n

/-! ### The gang that an instruction acts on -/

/-- The slices of one team that the present instruction acts on, each once, each with its registers in the state. -/
def State.acts (s : State) (t : Nat) (ks : List Nat) : Prop :=
  s.cur = { team := t, ks := ks } ∧ ks.Nodup ∧ ∀ k ∈ ks, k < 256 ∧ (FMap.find? s.slices (sliceKey t k)).isSome = true

/-- Steps 1 to 5 of R61 let the instruction execute in every slice of the gang, and no lookahead promise is open (R39). -/
def State.lets (s : State) (t : Nat) (ks : List Nat) (i : Instr) : Prop :=
  ∀ k ∈ ks, s.refusal i t k = none ∧ (s.slice t k).regs.wins = []

/-- A slice whose open chunk ends where it has reached the limit of its level: 256 instructions at level 0, 16 at level 1 (R200). -/
def Slice.ending (v : Slice) : Slice :=
  { v with chunk := { v.chunk with ended := v.chunk.ended || (v.level == 0 && decide (256 ≤ v.chunk.instrs)) || (v.level == 1 && decide (16 ≤ v.chunk.instrs)) } }

/-- What an instruction leaves that changes slices of its gang alone: each as `F` names it, its chunk ended where it has reached its limit;
every other slice, and every other part of the state but the gangs, as it was. -/
structure SliceEffect (s u : State) (t : Nat) (ks : List Nat) (F : Nat → Slice) : Prop where
  slices : ∀ k ∈ ks, u.slice t k = (F k).ending
  others : ∀ key, (∀ k ∈ ks, key ≠ sliceKey t k) → FMap.find? u.slices key = FMap.find? s.slices key
  rest : u = { s with slices := u.slices, gangs := u.gangs }

/-- The parts of a gang whose slices stand where `at'` says: the slices that stand alike, in the gang's order, with the first of the gang first (R97). -/
def standParts (at' : Nat → W64 × BitVec 16) (ks : List Nat) : List (List Nat) :=
  (ks.filter fun k => ks.find? (fun j => at' j == at' k) == some k).map fun k => ks.filter fun j => at' j == at' k

/-- Where the slices of a gang go on running as `F` names them, one gang for each pair of PC and MODE among them takes its place, with its
ageing count; every other gang stays (R86, R97). -/
def State.parted (s u : State) (t : Nat) (ks : List Nat) (F : Nat → Slice) : Prop :=
  (∀ k ∈ ks, (F k).status = .run ∧ (F k).park = none) →
    u.gangs = s.gangs.flatMap fun g =>
      if g.team = t ∧ g.ks = ks then (standParts (fun k => ((F k).regs.pc, (F k).regs.mode)) ks).map fun p => { g with ks := p } else [g]

/-- Slice k after an instruction that has completed in it, with the registers `r` and the slice otherwise as `sl`: nothing is parked, the
chunk counts one more instruction, and the instruction's own lookahead promise is open. -/
def State.ran (s : State) (i : Instr) (t k : Nat) (sl : Slice) (r : Regs) : Slice :=
  { sl with
    regs := { r with wins := (s.slice t k).regs.nextWins (s.slice t k).regs { r with wins := [] } i s.cur.ks sl.chunk.instrs (s.reads i t k) (s.writes i t k) },
    park := none, mark := none, chunk := { sl.chunk with instrs := sl.chunk.instrs + 1 } }

/-- The instruction completes and leaves what `F` names of each slice of its gang, which parts by where they stand. -/
def State.runs (s : State) (t : Nat) (ks : List Nat) (r : Result) (F : Nat → Slice) : Prop :=
  ∃ u, r = .next u ∧ SliceEffect s u t ks F ∧ s.parted u t ks F

/-- The instruction, let execute, completes, and each slice of its gang goes on with the registers that `f` makes of its own;
nothing else changes. -/
def State.sets (s : State) (t : Nat) (ks : List Nat) (i : Instr) (f : Nat → Regs → Regs) : Prop :=
  s.lets t ks i → s.runs t ks (exec i s) fun k => s.ran i t k (s.slice t k) (f k (s.slice t k).regs)

/-! ### An instruction of one slice -/

/-- The instruction, let execute, acts on slice k alone, which is below level 2 (R211) and has nothing parked. -/
def State.solo (s : State) (t k : Nat) (i : Instr) : Prop :=
  s.acts t [k] ∧ s.lets t [k] i ∧ (s.slice t k).level < 2 ∧ (s.slice t k).park = none ∧ (s.slice t k).mark = none

/-- The lines that the instruction writes and reads fit the open chunk's limits (R200). -/
def State.fits2 (s : State) (t k : Nat) (wl rl : List LineId) : Prop :=
  ((s.slice t k).chunk.wlines ++ wl).dedup.length ≤ 64 ∧ (readLines ((s.slice t k).chunk.rlines ++ rl)).length ≤ 256

/-- The instruction completes with the effects `es` held in the open chunk, until its commit (R201), and the registers that `f` makes of
the slice's; nothing else changes. -/
def State.holds (s : State) (t k : Nat) (i : Instr) (es : List Held) (wl rl : List LineId) (f : Regs → Regs) : Prop :=
  s.solo t k i → s.fits2 t k wl rl →
    s.runs t [k] (exec i s) fun _ => s.ran i t k ((s.slice t k).hold es wl rl) (f (s.slice t k).regs)

/-- Every one of a slice instruction's accesses passes the checks of R150 on a page of this module that is not NC, and no walk has an accessed bit
to set (R140). -/
def State.passes (s : State) (t k : Nat) (xs : List (W64 × Want)) (oks : List (Acc × Leaf × Nat)) : Prop :=
  s.touch (s.team t).ctx (xs.map (·.1)) = s ∧ s.aloneCheck t k xs = .go oks ∧
  ∀ x ∈ oks, isRemote x.2.1 x.2.2 = false ∧ x.2.1.cc ≠ .nc

/-- The same of the active lanes of a lane instruction. -/
def State.lanesPass (s : State) (t k : Nat) (w : Want) (addr : Regs → Nat → W64) (oks : List (Acc × Leaf × Nat)) : Prop :=
  let xs := s.laneAccs t [k] addr
  s.touch (s.team t).ctx (xs.map (·.va)) = s ∧ xs.map (s.fateOf t w) = oks.map (fun x => .ok x.2.1 x.2.2) ∧ oks.map (·.1) = xs ∧
  ∀ x ∈ oks, isRemote x.2.1 x.2.2 = false ∧ x.2.1.cc ≠ .nc

/-- The same of the active lanes of a gang's lane instruction. -/
def State.gangPass (s : State) (t : Nat) (ks : List Nat) (w : Want) (addr : Regs → Nat → W64) (oks : List (Acc × Leaf × Nat)) : Prop :=
  let xs := s.laneAccs t ks addr
  s.touch (s.team t).ctx (xs.map (·.va)) = s ∧ xs.map (s.fateOf t w) = oks.map (fun x => .ok x.2.1 x.2.2) ∧ oks.map (·.1) = xs ∧
  ∀ x ∈ oks, isRemote x.2.1 x.2.2 = false ∧ x.2.1.cc ≠ .nc

/-- The instruction completes in every slice of a gang whose slices are below level 2 and have nothing parked, each with its own effects `es` held, the lines `wl` written and `rl`
read, and the registers that `f` makes of its own; nothing else changes. -/
def State.gangHolds (s : State) (t : Nat) (ks : List Nat) (i : Instr) (es : Nat → List Held) (wl rl : Nat → List LineId) (f : Nat → Regs → Regs) : Prop :=
  s.acts t ks → s.lets t ks i →
    (∀ k ∈ ks, (s.slice t k).level < 2 ∧ (s.slice t k).park = none ∧ (s.slice t k).mark = none ∧ s.fits2 t k (wl k) (rl k)) →
    s.runs t ks (exec i s) fun k => s.ran i t k ((s.slice t k).hold (es k) (wl k) (rl k)) (f k (s.slice t k).regs)

/-- The check of R150 that an address fails, by its place in their order, with the cause and the subcode of the trap and the address that it names: misaligned; not canonical; forfeited; barred by its
class or by its permissions; on a failed expander; poisoned, for an access that returns data. -/
def State.fails (s : State) (t : Nat) (w : Want) (va : W64) (row cause sub : Nat) (named : W64) : Prop :=
  (va.toNat % w.n ≠ 0 ∧ row = 1 ∧ cause = 3 ∧ sub = 0 ∧ named = va) ∨
  (va.toNat % w.n = 0 ∧ canonical va = false ∧ row = 2 ∧ cause = 4 ∧ sub = 2 ∧ named = va) ∨
  (va.toNat % w.n = 0 ∧ canonical va = true ∧ ∃ l, s.walk (s.team t).ctx va = .leaf l ∧
    let permits := (w.r = true → l.r = true) ∧ (w.w = true → l.w = true)
    let down := s.expanderDown (l.npa va) = true
    let a := s.loadAddr (s.teamDie t) l (l.npa va)
    let lost := w.data = true ∧ s.lostDirty a = true
    (l.ff = true ∧ row = 4 ∧ cause = 5 ∧ sub = 0 ∧ named = va) ∨
    (l.ff = false ∧ w.bars l.cc = true ∧ row = 5 ∧ cause = 4 ∧ sub = 0 ∧ named = va) ∨
    (l.ff = false ∧ w.bars l.cc = false ∧ ¬ permits ∧ row = 5 ∧ cause = 4 ∧ sub = 1 ∧ named = va) ∨
    (l.ff = false ∧ w.bars l.cc = false ∧ permits ∧ down ∧ ¬ lost ∧ row = 6 ∧ cause = 7 ∧ sub = 0 ∧ named = va) ∨
    (l.ff = false ∧ w.bars l.cc = false ∧ permits ∧ (lost ∨ (¬ down ∧ w.data = true ∧ s.poisoned a = true)) ∧ row = 7 ∧ cause = 8 ∧ sub = 0 ∧
      named = BitVec.ofNat 64 (va.toNat / 128 * 128)))

/-- The value of an access of n bytes that passed: the slice's own held stores over memory (R143). -/
def State.loaded (s : State) (t k n : Nat) (x : Acc × Leaf × Nat) : Nat := leNat (s.load t k x.2.1 x.2.2 n).2

/-! ### Closers (R203) -/

/-- A slice with no commit under way, whose open chunk holds no effect and has not been hit (R205, R206). -/
abbrev Slice.idle (v : Slice) : Prop :=
  v.chunk.held = [] ∧ v.hit = false ∧ v.prev = none ∧ v.prevHit = false ∧ v.post = [] ∧ v.tell = none

/-- A closer acts on slice k alone, which has no commit under way and nothing held, with no flag to deliver (R83, R205). -/
def State.calm (s : State) (t k : Nat) (i : Instr) : Prop :=
  s.acts t [k] ∧ s.lets t [k] i ∧ (s.slice t k).idle ∧
  (s.slice t k).regs.fpx &&& ~~~ (s.slice t k).regs.delivered = 0 ∧ (s.slice t k).status = .run ∧
  (s.slice t k).park = none ∧ (s.slice t k).mark = none

/-- What a slice is once a chunk with no effect has committed, with the context's registers `c` (R204, R210). -/
def Slice.committed (c : Ctx) (v : Slice) : Slice :=
  { v.countCommit with regs := v.regs.complete, chunk := Chunk.begin c v.regs.complete, hit := false, post := [], nc := [] }

/-- A slice once a closer has completed in it with the registers `r`: the chunk before the closer, if it held an instruction, and the
closer's own have committed, and its next chunk is empty. -/
def Slice.closed (c : Ctx) (v : Slice) (r : Regs) : Slice :=
  let w := if v.chunk.instrs = 0 then v else v.committed c
  { w.committed c with regs := { r with wins := [] }, chunk := Chunk.begin c { r with wins := [] }, park := none, mark := none }

/-- Slice k of team t, and no other slice, is `X` in `u`, which is otherwise `s` but for its gangs. -/
structure Leaves (s u : State) (t k : Nat) (X : Slice) : Prop where
  slice  : u.slice t k = X
  others : ∀ key, key ≠ sliceKey t k → FMap.find? u.slices key = FMap.find? s.slices key
  rest   : u = { s with slices := u.slices, gangs := u.gangs }

/-- The closer completes with the registers that `f` makes of the slice's; `base` is the state with what else the closer changes. The slice goes on
in its gang. -/
def State.closes (s : State) (t k : Nat) (i : Instr) (base : State) (f : Regs → Regs) : Prop :=
  s.calm t k i → ∃ u, exec i s = .next u ∧
    Leaves base u t k ((s.slice t k).closed (base.ctx (base.team t).ctx) (f (s.slice t k).regs)) ∧ u.gangs = base.gangs

/-! ### Commits (R201, R204) and rollbacks -/

/-- The chunk that a rollback of the slice undoes: the one in commit, where an invalidation has hit that one, or the open one (R205, R206). -/
def Slice.undone (v : Slice) : Chunk := if v.prevHit then v.prev.getD v.chunk else v.chunk

/-- A slice whose chunk has committed with the flags `fl` of its reductions, step 6 having nothing left to do (R83, R204, R210). -/
def Slice.after (c : Ctx) (fl : Flags) (v : Slice) : Slice :=
  let r := (v.regs.raise fl).complete
  { v.countCommit with regs := r, chunk := Chunk.begin c r, hit := false, post := [], nc := [] }

/-- A commit of the open chunk of slice k, the effect `e` of the instruction at `pc` being all that it holds, goes through, whenever step 6 is made: the effect
leaves `X`, and the slice's next chunk begins. -/
def State.commits (s : State) (t k : Nat) (pc : W64) (e : Held) (X : State) (fl : Flags) : Prop :=
  ∀ num now, (s.slice t k).chunk.held = [{ pc := pc, num := num, eff := e }] →
    s.commitChunk t k now = .ok (X.modSlice t k (Slice.after (X.ctx (s.team t).ctx) fl))

/-- What a commit that has gone through leaves of memory: the value that `f` gives a byte, or the byte as it was. -/
def State.leavesMem (s : State) (t k : Nat) (e : Held) (f : Nat → Option Byte) : Prop :=
  ∀ pc num now w, (s.slice t k).chunk.held = [{ pc := pc, num := num, eff := e }] → s.commitChunk t k now = .ok w →
    ∀ a, Memory.read w.mem a = (f a).getD (Memory.read s.mem a)

/-- Bytes may be written where an effect of a chunk puts them: sound lines of sound blocks, of no failed expander (R167, R174, R351). -/
def State.sound (s : State) (a : Nat) : Prop :=
  s.discards a = false ∧ codePoisoned (s.lineCode (lineOf a)) = false

/-! ### Sleepers (R203, R209) -/

/-- Slice k of a resident team sleeps in a closer: its chunk holds nothing and it has no flag to deliver. -/
def State.dozes (s : State) (t k : Nat) (z : Sleep) : Prop :=
  (FMap.find? s.slices (sliceKey t k)).isSome = true ∧ (s.slice t k).status = .asleep z ∧ (s.teamCore t).isSome = true ∧
  (s.slice t k).idle ∧ (s.slice t k).regs.wins = [] ∧
  (s.slice t k).regs.fpx &&& ~~~ (s.slice t k).regs.delivered = 0

/-- A sleeper that has woken: its closer has completed with the registers `r`, and the closer's own chunk has committed. -/
def Slice.woken (c : Ctx) (v : Slice) (r : Regs) : Slice :=
  { v.committed c with status := .run, park := none, regs := { r with wins := [] }, chunk := Chunk.begin c { r with wins := [] } }

/-- Every gang's slices stand alike, and none of them has entered its handler since `s`: no gang parts (R97). -/
def State.whole (s v : State) : Prop :=
  ∀ g ∈ v.gangs, g.ks ≠ [] ∧ s.trapped v g = [] ∧ (∀ k ∈ g.ks, (v.slice g.team k).status ≠ .exited) ∧
    ∀ j ∈ g.ks, ∀ k ∈ g.ks, (v.slice g.team j).stand = (v.slice g.team k).stand

/-- The event, or instruction, leaves `v`; gangs part where their slices have come to stand at different places. -/
def State.gives (s : State) (i : Instr) (v : State) : Prop :=
  ∃ u, exec i s = .next u ∧ u = { v with gangs := u.gangs } ∧ (s.whole v → u.gangs = v.gangs)

/-- The event wakes slice k, whose closer writes what `f` makes of its registers; `base` is the state with what else changes. Its gang stays
whole where its slices stand alike. -/
def State.wakes (s : State) (t k : Nat) (i : Instr) (base : State) (f : Regs → Regs) : Prop :=
  ∃ u, exec i s = .next u ∧ Leaves base u t k ((s.slice t k).woken (base.ctx (base.team t).ctx) (f (s.slice t k).regs).adv) ∧
    (s.whole { u with gangs := base.gangs } → u.gangs = base.gangs)

/-! ### Traps (R325 to R329) -/

/-- The state once a trap's frame is in memory and counted. -/
def State.framed (s : State) (t k : Nat) (f : Frame) : State :=
  let c := (s.team t).ctx
  let a := s.frameAddr t k
  ((s.vaWrite c a (f.bytes (s.slice t k).regs)).lossRecord c a (s.sliceRec t k f.cpc 0 0 0)).modCtx c fun v => { v with traps := v.traps + 1 }

/-- A slice in its handler: s0 is the frame's address, MODE 0x000A, the PC the handler's, the chunk empty. -/
def Slice.entered (c : Ctx) (a : W64) (v : Slice) : Slice :=
  let r := { ((v.regs.setS 0 a).setMode 0x000A).setPc c.tvec with wins := [] }
  { v with regs := r, handler := true, hit := false, chunk := Chunk.begin c r, park := none, mark := none, status := .run }

/-- The commit of the open chunk before a trap, if it holds an instruction. -/
def Slice.settled (c : Ctx) (v : Slice) : Slice := if v.chunk.instrs = 0 then v else v.committed c

/-- The instruction takes a trap in slice k: from `v`, in which the slice's chunks have committed, the frame `f` is stored and the
handler entered. -/
def State.enters (s : State) (t k : Nat) (i : Instr) (v : State) (f : Frame) : Prop :=
  let b := v.framed t k f
  ∃ u, exec i s = .next u ∧ Leaves b u t k (((b.slice t k)).entered (b.ctx (v.team t).ctx) (v.frameAddr t k))

/-- A handler can be entered: the slice is not in it, and the context has one. -/
def State.handles (s : State) (t k : Nat) : Prop := (s.slice t k).handler = false ∧ (s.ctx (s.team t).ctx).tvec ≠ 0

/-! ### Values and their rounding (R69, R76 to R79) -/

/-- The value of a code that is no infinity and no NaN, in a format with an exponent field (R69). -/
def Fmt.value (f : Fmt) (c : Nat) : ℚ :=
  let e := c % f.signBit / 2 ^ f.frac
  let m : ℚ := (c % 2 ^ f.frac : Nat)
  let x : ℚ := if e = 0 then m / 2 ^ f.frac * 2 ^ (1 - (f.bias : ℤ)) else (1 + m / 2 ^ f.frac) * 2 ^ ((e : ℤ) - f.bias)
  if c / f.signBit % 2 = 1 then -x else x

/-- The codes of the numbers of a format. -/
def Fmt.finite (f : Fmt) (c : Nat) : Prop := c < 2 ^ f.width ∧ c % f.signBit ≤ f.maxCode

/-- The number of code `c` is the one among the format's that a rounding mode takes for `z`; a tie goes to the even code (R76). -/
def Fmt.nearest (f : Fmt) (r : Rnd) (z : ℚ) (c : Nat) : Prop :=
  match r with
  | .rne => ∀ u, f.finite u → |f.value c - z| ≤ |f.value u - z| ∧ (|f.value c - z| = |f.value u - z| → f.value u ≠ f.value c → c % 2 = 0)
  | .rz => |f.value c| ≤ |z| ∧ ∀ u, f.finite u → |f.value u| ≤ |z| → |f.value u| ≤ |f.value c|
  | .rdn => f.value c ≤ z ∧ ∀ u, f.finite u → f.value u ≤ z → f.value u ≤ f.value c
  | .rup => z ≤ f.value c ∧ ∀ u, f.finite u → z ≤ f.value u → f.value c ≤ f.value u

/-- A value overflows: once rounded with no bound on the exponent it exceeds the largest number, or, in e2m3 and e3m2, it does so before (R76). -/
def Fmt.overflows (f : Fmt) (r : Rnd) (z : ℚ) : Prop :=
  let top := f.value f.maxCode
  let next := f.value (f.maxCode + 1)
  if f.narrow then top < |z|
  else match r with
  | .rne => top + next < 2 * |z| ∨ (top + next = 2 * |z| ∧ f.maxCode % 2 = 1)
  | .rz => next ≤ |z|
  | .rdn => if z < 0 then top < |z| else next ≤ |z|
  | .rup => if z < 0 then next ≤ |z| else top < |z|

/-- A value is tiny: rounded with no bound on the exponent below, it lies under the smallest normal number (R79). -/
def Fmt.tiny (f : Fmt) (r : Rnd) (z : ℚ) : Prop :=
  let low : ℚ := 2 ^ (1 - (f.bias : ℤ))
  let last := low - low / 2 ^ (f.frac + 1)
  z ≠ 0 ∧ |z| < low ∧
  match r with
  | .rne => |z| < (last + low) / 2
  | .rz => True
  | .rdn => 0 < z ∨ |z| ≤ last
  | .rup => z < 0 ∨ |z| ≤ last

/-- The code and the flags of the exact value `z` rounded once, in a format with an exponent field; `neg` is the sign of an exact zero (R76 to R79). -/
def Fmt.rounds (f : Fmt) (r : Rnd) (sat ftz neg : Bool) (z : ℚ) (c : Nat × Flags) : Prop :=
  let s := decide (z < 0)
  let away := match r with
    | .rne => true
    | .rz => false
    | .rdn => s
    | .rup => !s
  (z = 0 → c = (f.signed neg 0, 0)) ∧
  (f.overflows r z → c = (if f.narrow || sat then f.signed s f.maxCode
      else if f.hasInf then f.signed s (if away then f.infCode else f.maxCode) else f.nanCode, fOverflow ||| fInexact)) ∧
  (ftz = true → f.wide = true → f.tiny r z → c = (f.signed s 0, fUnderflow ||| fInexact)) ∧
  (z ≠ 0 → ¬ f.overflows r z → (ftz = true → f.wide = true → ¬ f.tiny r z) →
    f.finite c.1 ∧ c.1 / f.signBit = (if s then 1 else 0) ∧ f.nearest r z c.1 ∧
    (f.value c.1 = z → c.2 = 0) ∧
    (f.value c.1 ≠ z → f.tiny r z → c.2 = fUnderflow ||| fInexact) ∧
    (f.value c.1 ≠ z → ¬ f.tiny r z → c.2 = fInexact))

/-- A normal code is the one that a rounding mode takes for the square root of `x`. -/
def Fmt.root (f : Fmt) (r : Rnd) (x : ℚ) (c : Nat) : Prop :=
  let v := f.value c
  let below := f.value (c - 1)
  let above := f.value (c + 1)
  0 < c ∧ c < f.maxCode ∧
  match r with
  | .rne => (below + v) ^ 2 ≤ 4 * x ∧ 4 * x ≤ (v + above) ^ 2
  | .rz | .rdn => v ^ 2 ≤ x ∧ x < above ^ 2
  | .rup => below ^ 2 < x ∧ x ≤ v ^ 2

/-- The whole number that a rounding mode takes for `z` (R76). -/
def Rnd.whole (r : Rnd) (z : ℚ) (n : ℤ) : Prop :=
  match r with
  | .rne => 2 * |n - z| ≤ 1 ∧ (2 * |n - z| = 1 → n % 2 = 0)
  | .rz => |(n : ℚ)| ≤ |z| ∧ |z| < |(n : ℚ)| + 1 ∧ 0 ≤ n * z
  | .rdn => (n : ℚ) ≤ z ∧ z < n + 1
  | .rup => z ≤ n ∧ (n : ℚ) < z + 1

/-- The value of a 4-bit code (R72). -/
def q4Value (t : Q4) (c : Nat) : ℚ :=
  let m : ℚ := match t with
    | .int => (c % 8 : Nat)
    | .e2m1 => [0, 1 / 2, 1, 3 / 2, 2, 3, 4, 6].getD (c % 8) 0
    | .pow2 => [0, 1 / 8, 1 / 4, 1 / 2, 1, 2, 4, 8].getD (c % 8) 0
    | .hyb => [0, 1, 2, 3, 4, 8, 16, 32].getD (c % 8) 0
  if c / 8 % 2 = 0 then m else match t with
    | .int => m - 8
    | .e2m1 | .pow2 | .hyb => -m

/-- The 4-bit code that a rounding mode takes for a value within the type's range; a tie goes to even m, or for INT to the even number (R72, R76). -/
def Q4.nearest (t : Q4) (r : Rnd) (z : ℚ) (c : Nat) : Prop :=
  c < 16 ∧ (t ≠ .int → c ≠ 8) ∧
  match r with
  | .rne => ∀ u < 16, |q4Value t c - z| ≤ |q4Value t u - z| ∧ (|q4Value t c - z| = |q4Value t u - z| → q4Value t u ≠ q4Value t c → c % 2 = 0)
  | .rz => |q4Value t c| ≤ |z| ∧ 0 ≤ q4Value t c * z ∧ ∀ u < 16, 0 ≤ q4Value t u * z → |q4Value t u| ≤ |z| → |q4Value t u| ≤ |q4Value t c|
  | .rdn => q4Value t c ≤ z ∧ ∀ u < 16, q4Value t u ≤ z → q4Value t u ≤ q4Value t c
  | .rup => z ≤ q4Value t c ∧ ∀ u < 16, z ≤ q4Value t u → q4Value t c ≤ q4Value t u

end Sys2Proof.Machine
end

