-- ==== Sys2Proof/Certificates/Slice0/Obligations.lean ====
section
/-! DEFINITION. The statements for the provers. -/

open Sys2Proof Sys2Proof.Machine

/-! ### Encodings -/

/-- R26 to R66: words that the spec writes out, decoded. -/
def Obligations.DecodeWords : Prop :=
  decode 0x0C208003 = .ok (.sshli 4 4 3) ∧ decode 0x0E2891A3 = .ok (.slui 5 0x91A3) ∧ decode 0x0428BABC = .ok (.saddi 5 5 0x1ABC) ∧
  decode 0x10080000 = .ok (.srd 1 0) ∧ decode 0x12006010 = .ok (.swr 3 0x010) ∧ decode 0x140C2000 = .ok (.smovv 3 4) ∧ decode 0x140E0800 = .ok (.smovvTlane 3) ∧
  decode 0x16084803 = .ok (.vrdl 2 9 3) ∧ decode 0x2A000000 = .ok (.call 0) ∧ decode 0x2C000001 = .ok .ret ∧ decode 0x2C00A002 = .ok (.jmpr 5) ∧
  decode 0x2E000192 = .ok (.mode 0x0192) ∧ decode 0x2E310000 = .ok (.moder 6) ∧ decode 0x34041030 = .ok (.vcmp .eq 1 2 3) ∧
  decode 0x36040FFF = .ok (.vaddi 1 1 0x7FF) ∧ decode 0x381BFFFF = .ok (.vmovi 6 0x3FFFF) ∧ decode 0x60143070 = .ok (.vperm 5 6 7) ∧
  decode 0xB6001000 = .ok (.mzero 2) ∧ decode 0xD4000009 = .ok (.trap 9) ∧ decode 0xD4000400 = .ok (.brk 0) ∧ decode 0xD6000000 = .ok .rte ∧
  decode 0xDE000000 = .ok .fenceio

/-- R26 to R66: every well-formed instruction that has a word is what its word decodes to, with every operand at every value that its field admits. -/
def Obligations.EncodeThenDecode : Prop :=
  ∀ (i : Instr) (w : Nat), i.wellFormed = true → encode i = some w → w < 2 ^ 32 ∧ decode w = .ok i

/-- R26 to R66: a word that decodes is the one word of its instruction, which is well-formed; the opcodes from 0x76 up are those reserved for extensions. -/
def Obligations.DecodeThenEncode : Prop :=
  ∀ w : Nat, w < 2 ^ 32 → (∀ i, decode w = .ok i → i.wellFormed = true ∧ encode i = some w) ∧ (decode w = .error .extension ↔ 0x76 ≤ w / 2 ^ 25)

/-! ### Steps -/

/-- R26, R27, R61, R85: at an issue opportunity the ready gang that the selector takes fetches the word at its PC: from a page that may be executed, the four bytes there, the least
significant first; the step is then the decoded instruction, run with what its breaches of open promises do (R40): where no promise is open, the instruction alone; one that has to wait leaves its gang's
ageing count and the core's count of instructions as they were. What the
opportunity itself changes is named: with no wait at a REGANG that ends, no memory, and of the slices only a chunk that has ended, which is in commit from then on (R206). The order of
moves, the choice among a word's values and the overlap are log entries 2, 8 and 12. -/
def Obligations.StepRunsDecoded : Prop :=
  ∀ (s : State) (c q : Nat) (busy : List (Nat × Nat)) (r : List Move), s.tape = .opp c q busy :: r → s.module.inReset = false →
    let v := { s with tape := r }
    (∀ g, (v.core c).gated = false → (v.core c).num.isSome = true → q ≤ 3 → v.dieHeld (c / 18) = false → bestOf (v.readyGangs c q busy) = some g →
      ∃ u, v.opportunity c q busy = (u, true) ∧ u.cur = { team := g.team, ks := g.ks } ∧
        (v.joins c q = [] → u.mem = s.mem ∧ u.blocks = s.blocks ∧ u.launches = s.launches ∧ u.teams = s.teams ∧ u.ctxs = s.ctxs ∧ u.module = s.module ∧
          ((∀ k ∈ g.ks, k < 256) → ∀ t, ∀ k < 256, u.slice t k = if t = g.team ∧ k ∈ g.ks ∧ (s.slice t k).chunk.ended = true
            then (s.slice t k).shift (s.ctx (s.team t).ctx) else s.slice t k))) ∧
    ∀ (u : State) (l : Leaf) (a : Nat) (i : Instr), v.opportunity c q busy = (u, true) →
      let t := u.cur.team
      let x := (u.team t).ctx
      let pc := (u.slice t (u.cur.ks.headD 0)).regs.pc
      let b := u.loadAddr (u.teamDie t) l a
      u.walk x pc = .leaf l → l.x = true → u.fate x (u.teamDie t) wantFetch u.draws pc = .ok l a → isRemote l a = false → u.touch x [pc] = u →
      (∀ v ∈ u.fetchable t pc a b, v = u.readNat b 4) → decode (leNat (u.readBytes b 4)) = .ok i →
      let w := u.modEach t u.cur.ks (Slice.fetched (pageOf pc))
      let issued (r : Result) : Result := match r with
        | .next v => .next (if v.cur.waits then { v with gangs := w.gangs, cores := w.cores } else v)
        | .fault e => .fault e
        | .refused e => .refused e
      step s = issued (run i (w.countIssue c q)) ∧ ((∀ k ∈ u.cur.ks, (u.slice t k).regs.wins = []) → step s = issued (exec i (w.countIssue c q)))

/-- R357, R359, R364: a step that makes an event runs it; while the module is held in reset only power-on and the management commands that are available then; with no move at
hand there it stops (log entry 39). An instruction with a word is no event. -/
def Obligations.StepMakesEvents : Prop :=
  (∀ (s : State) (i : Instr) (r : List Move), s.tape = .event i :: r →
    (isEvent i = true → (s.module.inReset = false ∨ availableInReset i = true) → step s = exec i { s with tape := r }) ∧
    ((isEvent i = false ∨ (s.module.inReset = true ∧ availableInReset i = false)) → step s = .next { s with tape := r })) ∧
  (∀ (s : State) (c q : Nat) (busy : List (Nat × Nat)) (r : List Move), s.tape = .opp c q busy :: r → s.module.inReset = true → step s = .next { s with tape := r }) ∧
  (∀ s : State, step s = .fault .heldInReset ↔ s.module.inReset = true ∧ s.tape = []) ∧
  (∀ (i : Instr) (w : Nat), encode i = some w → isEvent i = false)

/-- Every step keeps memory in its canonical form: addresses strictly rising, none listed that reads as an unlisted one does. -/
def Obligations.MemoryFormKept : Prop :=
  ∀ s u : State, Memory.wf s.mem = true → step s = .next u → Memory.wf u.mem = true

/-! ### Registers, places, storage -/

/-- R31: a general register reads as what was last written to it, and no other register with it; no register reads as a constant; CALL writes s63 and RET jumps to it. -/
def Obligations.RegisterFiles : Prop :=
  (∀ (r : Regs) (n m : Nat) (x : W64), n < 64 → m < 64 → (r.setS n x).getS m = if m = n then x else r.getS m) ∧
  (∀ (r : Regs) (n l m j : Nat) (x : W32), n < 128 → l < 4 → m < 128 → j < 4 → (r.setV n l x).getV m j = if m = n ∧ j = l then x else r.getV m j) ∧
  (∀ (r : Regs) (n m : Nat) (x : Lanes), n < 8 → m < 8 → (r.setP n x).getP m = if m = n then x else r.getP m) ∧
  ∀ (s : State) (t : Nat) (ks : List Nat), s.acts t ks → ∀ d : BitVec 22,
    s.sets t ks (.call d) (fun _ r => (r.setS 63 (r.pc + 4)).setPc (r.pc + 4 + 4 * d.signExtend 64)) ∧
    ((∀ k ∈ ks, ((s.slice t k).regs.getS 63).toNat % 4 = 0) → s.sets t ks .ret (fun _ r => r.setPc (r.getS 63)))

/-- R317: the coordinates of a launch's teams give their linear index; a team's die is its linear index modulo 4, at every stage; a launch's effective priority. -/
def Obligations.LaunchPlaces : Prop :=
  (∀ (l c : Nat) (r : LaunchRec) (i stage : Nat), 0 < r.nx → 0 < r.ny → i < r.nx * r.ny * r.nz →
    let v := Team.ofLaunch l c r i stage
    v.x + r.nx * (v.y + r.ny * v.z) = i ∧ v.x < r.nx ∧ v.y < r.ny ∧ v.z < r.nz ∧ v.stage = stage) ∧
  (∀ (s : State) (t : Nat), s.teamDie t = ((s.team t).x + (s.params t).nx * ((s.team t).y + (s.params t).ny * (s.team t).z)) % 4 ∧
    ∀ c, s.coreFor t = some c → c / 18 = s.teamDie t) ∧
  ∀ (s : State) (l : Nat), s.launchPrio l = min (s.launch l).params.prio (s.ctx (s.launch l).ctx).prio

/-- R23, R188: storage granted to a new owner reads as zero: a block that nobody has may be mapped only if nothing is held in it, and its grant leaves each
line's code ZERO (RAW in an uncompressible-IO page), no granule attached but to a pinned or uncompressible-IO one, and every byte 0; a team's memory, tiles, B-store and scale memory; a
slice's registers. Which blocks the service processor may grant, and that a grant of one in an uncompressible-IO page makes its lines RAW, is the model's choice (log entry 46). -/
def Obligations.NewStorage : Prop :=
  (∀ (s : State) (c d b : Nat) (own uio : Bool), s.grantable c own uio d b = true → (s.block b).owner = none → (s.block b).lent = none →
    (s.block b).count = 0 ∧ (∀ i, FMap.get 0 (s.block b).codes i = codeZero) ∧ (∀ a, a / 4096 = b → Memory.read s.mem a = 0) ∧
    ∀ l : Leaf, let w := s.grantBlock c own l uio d b
      (∀ i < 32, FMap.get 0 (w.block b).codes i = if uio then codeRaw else codeZero) ∧ (∀ a, a / 4096 = b → Memory.read w.mem a = 0) ∧
      (∀ a, a / 4096 ≠ b → Memory.read w.mem a = Memory.read s.mem a) ∧ (w.block b).owner = (if own then none else some c) ∧ (w.block b).home = d ∧
      (w.block b).bad = false ∧ (l.gp = false → uio = false → (w.block b).count = 0)) ∧
  (∀ (l c : Nat) (r : LaunchRec) (i stage : Nat),
    let v := Team.ofLaunch l c r i stage
    (∀ a n, v.readBytes a n = List.replicate n 0) ∧ (∀ x m n, v.element x m n = 0) ∧ (∀ a, FMap.get 0 v.scale a = 0) ∧ (∀ a, FMap.get 0 v.bstore a = 0)) ∧
  ∀ (c : Ctx) (pc : W64),
    let r := (Slice.start c pc).regs
    (∀ n < 64, r.getS n = 0) ∧ (∀ n < 128, ∀ l < 4, r.getV n l = 0) ∧ (∀ n < 8, r.getP n = 0) ∧ r.fpx = 0 ∧ r.pc = pc

/-- R6, R23, R359, R360: the machine right after reset: four dies, no context, nothing in any storage array, no gang to issue, the module out of reset. That memory
reads as 0 is deduced (log entry 5), and the split of the granules and the images in flash are the model's choice (log entry 4). -/
def Obligations.ResetState : Prop :=
  let s := State.reset
  s.mem = [] ∧ Memory.wf s.mem = true ∧ s.blocks = [] ∧ s.llc = [] ∧ s.ctxs = [] ∧ s.teams = [] ∧ s.slices = [] ∧ s.gangs = [] ∧ s.engines = [] ∧ s.queues = [] ∧
  s.launches = [] ∧ s.graphs = [] ∧ s.groups = [] ∧ s.module.inReset = false ∧ FMap.keys s.dies = List.range 4 ∧
  (∀ d < 4, (s.die d).spill = [] ∧ (s.die d).fq = []) ∧ ∀ d < 4, ∀ n < 16, s.coreOf d n = some (18 * d + n)

/-! ### Scalars, branches, lane moves -/

/-- R88 to R90, R96: the scalar forms, each value as its table gives it; nothing but the destination and the PC changes. The most negative number
by −1 needs no case of its own: its quotient wraps to it. An instruction is counted in its chunk, which ends at its 256th at level 0 and its 16th at level 1,
and not before (R200). -/
def Obligations.ScalarResults : Prop :=
  ∀ (s : State) (t : Nat) (ks : List Nat), s.acts t ks → ∀ (d a b : Nat) (m : BitVec 13) (n : BitVec 6) (w : BitVec 19),
    s.sets t ks (.sadd d a b) (fun _ r => (r.setS d (r.getS a + r.getS b)).adv) ∧
    s.sets t ks (.ssub d a b) (fun _ r => (r.setS d (r.getS a - r.getS b)).adv) ∧
    s.sets t ks (.smul d a b) (fun _ r => (r.setS d (r.getS a * r.getS b)).adv) ∧
    s.sets t ks (.smulh d a b) (fun _ r => (r.setS d (BitVec.ofInt 64 ((r.getS a).toInt * (r.getS b).toInt / 2 ^ 64))).adv) ∧
    s.sets t ks (.smulhN d a b) (fun _ r => (r.setS d (BitVec.ofNat 64 ((r.getS a).toNat * (r.getS b).toNat / 2 ^ 64))).adv) ∧
    s.sets t ks (.sdiv d a b) (fun _ r => (r.setS d (if r.getS b = 0 then 0xFFFFFFFFFFFFFFFF
      else BitVec.ofInt 64 ((r.getS a).toInt.tdiv (r.getS b).toInt))).adv) ∧
    s.sets t ks (.sdivN d a b) (fun _ r => (r.setS d (if r.getS b = 0 then 0xFFFFFFFFFFFFFFFF
      else BitVec.ofNat 64 ((r.getS a).toNat / (r.getS b).toNat))).adv) ∧
    s.sets t ks (.srem d a b) (fun _ r => (r.setS d (if r.getS b = 0 then r.getS a
      else BitVec.ofInt 64 ((r.getS a).toInt.tmod (r.getS b).toInt))).adv) ∧
    s.sets t ks (.sremN d a b) (fun _ r => (r.setS d (if r.getS b = 0 then r.getS a
      else BitVec.ofNat 64 ((r.getS a).toNat % (r.getS b).toNat))).adv) ∧
    s.sets t ks (.sand d a b) (fun _ r => (r.setS d (r.getS a &&& r.getS b)).adv) ∧
    s.sets t ks (.sor d a b) (fun _ r => (r.setS d (r.getS a ||| r.getS b)).adv) ∧
    s.sets t ks (.sxor d a b) (fun _ r => (r.setS d (r.getS a ^^^ r.getS b)).adv) ∧
    s.sets t ks (.sshl d a b) (fun _ r => (r.setS d (r.getS a <<< ((r.getS b).toNat % 64))).adv) ∧
    s.sets t ks (.sshr d a b) (fun _ r => (r.setS d (r.getS a >>> ((r.getS b).toNat % 64))).adv) ∧
    s.sets t ks (.ssra d a b) (fun _ r => (r.setS d ((r.getS a).sshiftRight ((r.getS b).toNat % 64))).adv) ∧
    s.sets t ks (.smin d a b) (fun _ r => (r.setS d (if (r.getS a).toInt < (r.getS b).toInt then r.getS a else r.getS b)).adv) ∧
    s.sets t ks (.sminN d a b) (fun _ r => (r.setS d (if (r.getS a).toNat < (r.getS b).toNat then r.getS a else r.getS b)).adv) ∧
    s.sets t ks (.smax d a b) (fun _ r => (r.setS d (if (r.getS a).toInt > (r.getS b).toInt then r.getS a else r.getS b)).adv) ∧
    s.sets t ks (.smaxN d a b) (fun _ r => (r.setS d (if (r.getS a).toNat > (r.getS b).toNat then r.getS a else r.getS b)).adv) ∧
    s.sets t ks (.sslt d a b) (fun _ r => (r.setS d (if (r.getS a).toInt < (r.getS b).toInt then 1 else 0)).adv) ∧
    s.sets t ks (.ssltn d a b) (fun _ r => (r.setS d (if (r.getS a).toNat < (r.getS b).toNat then 1 else 0)).adv) ∧
    s.sets t ks (.ssel d a b) (fun _ r => (r.setS d (if r.getS d ≠ 0 then r.getS a else r.getS b)).adv) ∧
    s.sets t ks (.saddi d a m) (fun _ r => (r.setS d (r.getS a + m.signExtend 64)).adv) ∧
    s.sets t ks (.sandi d a m) (fun _ r => (r.setS d (r.getS a &&& m.signExtend 64)).adv) ∧
    s.sets t ks (.sori d a m) (fun _ r => (r.setS d (r.getS a ||| m.signExtend 64)).adv) ∧
    s.sets t ks (.sxori d a m) (fun _ r => (r.setS d (r.getS a ^^^ m.signExtend 64)).adv) ∧
    s.sets t ks (.sshli d a n) (fun _ r => (r.setS d (r.getS a <<< n.toNat)).adv) ∧
    s.sets t ks (.slui d w) (fun _ r => (r.setS d (((w.setWidth 32 : BitVec 32) <<< 13).signExtend 64)).adv) ∧
    (s.lets t ks (.sadd d a b) → ∃ u, exec (.sadd d a b) s = .next u ∧ ∀ k ∈ ks,
      let n := (s.slice t k).chunk.instrs + 1
      (u.slice t k).chunk.instrs = n ∧ ((u.slice t k).chunk.ended = true ↔ (s.slice t k).chunk.ended = true ∨
        ((s.slice t k).level = 0 ∧ 256 ≤ n) ∨ ((s.slice t k).level = 1 ∧ 16 ≤ n)))

/-- R94 to R97: where a branch, a call or a jump goes, and that CALL alone writes a register; NOP changes nothing but the PC. The open chunk stays open and holds
what it held; a rollback puts the slice back at its checkpoint's PC with the registers that stood there. A jump's target here is aligned; InstructionTraps
says what another does. A gang whose slices all branch, or all do not, stays whole; one whose slices decide differently parts into those that branch and those that do
not, each in the gang's order with its ageing count, and no other gang changes. -/
def Obligations.BranchResults : Prop :=
  ∀ (s : State) (t : Nat) (ks : List Nat), s.acts t ks → ∀ (p a : Nat) (d : BitVec 22) (m : BitVec 13),
    (∀ (ga gb : List Gang) (G : Gang) (pc : W64) (mode : BitVec 16),
      let taken := ks.filter fun k => (s.slice t k).regs.getS a == 0
      let others := ks.filter fun k => (s.slice t k).regs.getS a != 0
      s.lets t ks (.brCc .z a m) → m ≠ 0 → ks ≠ [] → s.gangs = ga ++ G :: gb → G.team = t → G.ks = ks → (∀ g ∈ ga ++ gb, g.team = t → g.ks ≠ ks) →
      (∀ k ∈ ks, (s.slice t k).status = .run ∧ (s.slice t k).regs.pc = pc ∧ (s.slice t k).regs.mode = mode) →
      ∃ u, exec (.brCc .z a m) s = .next u ∧
        (taken = [] ∨ others = [] → u.gangs = s.gangs) ∧
        (taken ≠ [] → others ≠ [] → u.gangs = ga ++ { G with ks := taken } :: { G with ks := others } :: gb ∨
          u.gangs = ga ++ { G with ks := others } :: { G with ks := taken } :: gb)) ∧
    decode 0x2C000000 = .ok .nop ∧ s.sets t ks .nop (fun _ r => r.adv) ∧
    (∀ k ∈ ks, ((s.rollbackSlice t k).slice t k).regs = (s.slice t k).undone.ckpt) ∧
    s.sets t ks (.br d) (fun _ r => r.setPc (r.pc + 4 + 4 * d.signExtend 64)) ∧
    s.sets t ks (.brCc .z a m) (fun _ r => r.setPc (r.pc + 4 + if r.getS a = 0 then 4 * m.signExtend 64 else 0)) ∧
    s.sets t ks (.brCc .nz a m) (fun _ r => r.setPc (r.pc + 4 + if r.getS a ≠ 0 then 4 * m.signExtend 64 else 0)) ∧
    s.sets t ks (.brCc .lz a m) (fun _ r => r.setPc (r.pc + 4 + if (r.getS a).toInt < 0 then 4 * m.signExtend 64 else 0)) ∧
    s.sets t ks (.brCc .gez a m) (fun _ r => r.setPc (r.pc + 4 + if 0 ≤ (r.getS a).toInt then 4 * m.signExtend 64 else 0)) ∧
    s.sets t ks (.bany p d) (fun _ r => r.setPc (r.pc + 4 +
      if ∃ l < 4, r.active.getLsbD l = true ∧ (r.getP p).getLsbD l = true then 4 * d.signExtend 64 else 0)) ∧
    s.sets t ks (.ball p d) (fun _ r => r.setPc (r.pc + 4 +
      if ∀ l < 4, r.active.getLsbD l = true → (r.getP p).getLsbD l = true then 4 * d.signExtend 64 else 0)) ∧
    s.sets t ks (.bnone p d) (fun _ r => r.setPc (r.pc + 4 +
      if ∀ l < 4, r.active.getLsbD l = true → (r.getP p).getLsbD l = false then 4 * d.signExtend 64 else 0)) ∧
    s.sets t ks (.call d) (fun _ r => (r.setS 63 (r.pc + 4)).setPc (r.pc + 4 + 4 * d.signExtend 64)) ∧
    ((∀ k ∈ ks, ((s.slice t k).regs.getS 63).toNat % 4 = 0) → s.sets t ks .ret (fun _ r => r.setPc (r.getS 63))) ∧
    ((∀ k ∈ ks, ((s.slice t k).regs.getS a).toNat % 4 = 0) → s.sets t ks (.jmpr a) (fun _ r => r.setPc (r.getS a)))

/-- R37, R44, R92, R93, R99, R100: lane moves, MODE, and a REGANG of a gang that holds every live slice of its home gang. -/
def Obligations.MoveResults : Prop :=
  ∀ (s : State) (t : Nat) (ks : List Nat), s.acts t ks → ∀ (d a l : Nat) (m : BitVec 16),
    s.sets t ks (.smovv d a) (fun _ r => (singleLanes (fun _ => (r.getS a).setWidth 32) d r).adv) ∧
    s.sets t ks (.smovvLane d) (fun _ r => (singleLanes (fun l => BitVec.ofNat 32 l) d r).adv) ∧
    s.sets t ks (.smovvTlane d) (fun k r => (singleLanes (fun l => BitVec.ofNat 32 (4 * k + l)) d r).adv) ∧
    s.sets t ks (.vrdl d a l) (fun _ r => (r.setS d ((r.getV a l).setWidth 64)).adv) ∧
    s.sets t ks (.mode m) (fun _ r => (r.setMode m).adv) ∧
    s.sets t ks (.moder a) (fun _ r => (r.setMode ((r.getS a).setWidth 16)).adv) ∧
    (ks = s.homeLive t (ks.headD 0 / 8) → s.sets t ks .regang (fun _ r => r.adv))

/-- R43, R45: SRD and SWR; what SRD reads of each special register; SWR writes the sticky flags of its own slice, and a rollback puts back those of the checkpoint. An SRD of
%clk is a closer (R91): here of a calm slice. -/
def Obligations.SpecialRegisterAccess : Prop :=
  (∀ (s : State) (t : Nat) (ks : List Nat), s.acts t ks → ∀ (d a n : Nat),
    (n ≠ 0x00F → s.sets t ks (.srd d n) (fun k r => (r.setS d (specialValue s t k r n)).adv)) ∧
    s.sets t ks (.swr a n) (fun _ r => { r with
      fpx := (r.getS a).setWidth 6, delivered := r.delivered &&& (r.getS a).setWidth 6, pc := r.pc + 4 })) ∧
  (∀ (s : State) (t k d : Nat), s.calm t k (.srd d 0x00F) → ∃ u, exec (.srd d 0x00F) s = .next u ∧ (u.slice t k).regs =
    { ((s.slice t k).regs.setS d (s.clockOn.clockValue t)).adv with wins := [] }) ∧
  (∀ (s : State) (t k : Nat), (FMap.find? s.slices (sliceKey t k)).isSome = true → ((s.rollbackSlice t k).slice t k).regs.fpx = (s.slice t k).undone.ckpt.fpx) ∧
  (∀ (s : State) (t k : Nat) (r : Regs) (n : Nat),
    (n = 0x000 → specialValue s t k r n = BitVec.ofNat 64 k) ∧
    (n = 0x001 → specialValue s t k r n = BitVec.ofNat 64 (s.team t).slices) ∧
    (n = 0x002 → specialValue s t k r n = BitVec.ofNat 64 s.cur.ks.length) ∧
    (n = 0x003 → specialValue s t k r n = BitVec.ofNat 64 (s.team t).x) ∧
    (n = 0x004 → specialValue s t k r n = BitVec.ofNat 64 (s.team t).y) ∧
    (n = 0x005 → specialValue s t k r n = BitVec.ofNat 64 (s.team t).z) ∧
    (n = 0x006 → specialValue s t k r n = BitVec.ofNat 64 (s.team t).stage) ∧
    (n = 0x007 → specialValue s t k r n = BitVec.ofNat 64 (s.params t).nx) ∧
    (n = 0x008 → specialValue s t k r n = BitVec.ofNat 64 (s.params t).ny) ∧
    (n = 0x009 → specialValue s t k r n = BitVec.ofNat 64 (s.params t).nz) ∧
    (n = 0x00A → specialValue s t k r n = BitVec.ofNat 64 (s.params t).stages) ∧
    (n = 0x00B → specialValue s t k r n = (s.params t).args) ∧
    (∀ c m, n = 0x00C → s.teamCore t = some c → (s.core c).num = some m → specialValue s t k r n = BitVec.ofNat 64 m) ∧
    (n = 0x00D → specialValue s t k r n = BitVec.ofNat 64 (s.teamDie t)) ∧
    (n = 0x00E → specialValue s t k r n = BitVec.ofNat 64 (s.team t).ctx) ∧
    (n = 0x010 → specialValue s t k r n = r.fpx.setWidth 64))

/-! ### Vectors -/

/-- R104, R105, R108, R132: the integer group, VADDI and the bit instructions, element by element of MODE.type in the active lanes, with the flags of
int_result where the element goes through it. -/
def Obligations.VectorIntegerResults : Prop :=
  ∀ (s : State) (t : Nat) (ks : List Nat), s.acts t ks → ∀ (d a b l : Nat) (m : BitVec 11),
    s.sets t ks (.vadd d a b) (fun _ r => (intLanes (sumElem fun _ x y => x + y) d a b r).adv) ∧
    s.sets t ks (.vsub d a b) (fun _ r => (intLanes (sumElem fun _ x y => x - y) d a b r).adv) ∧
    s.sets t ks (.vmul d a b) (fun _ r => (intLanes (sumElem fun _ x y => x * y) d a b r).adv) ∧
    s.sets t ks (.vmulh d a b) (fun _ r => (intLanes mulhElem d a b r).adv) ∧
    s.sets t ks (.vmad d a b) (fun _ r => (intLanes (sumElem fun z x y => z + x * y) d a b r).adv) ∧
    s.sets t ks (.vmin d a b) (fun _ r => (intLanes minElem d a b r).adv) ∧
    s.sets t ks (.vmax d a b) (fun _ r => (intLanes maxElem d a b r).adv) ∧
    s.sets t ks (.vshl d a b) (fun _ r => (intLanes shlElem d a b r).adv) ∧
    s.sets t ks (.vshr d a b) (fun _ r => (intLanes shrElem d a b r).adv) ∧
    s.sets t ks (.vabs d a) (fun _ r => (intLanes (sumElem fun _ x _ => (x.natAbs : Int)) d a a r).adv) ∧
    s.sets t ks (.vneg d a) (fun _ r => (intLanes (sumElem fun _ x _ => -x) d a a r).adv) ∧
    s.sets t ks (.vaddi d a m) (fun _ r => (intLanes (sumElem fun _ x _ => x + m.toInt) d a a r).adv) ∧
    s.sets t ks (.vpopc d a l) (fun _ r => (intLanes popcElem d a a r).adv) ∧
    s.sets t ks (.vclz d a l) (fun _ r => (intLanes clzElem d a a r).adv) ∧
    s.sets t ks (.vbrev d a l) (fun _ r => (intLanes brevElem d a a r).adv)

/-- R36, R67, R68, R77, R82, R104, R105, R108, R132: the lanes of an element instruction, and the values of the integer group. In every active lane each
element of vd is what the element operation makes of the elements of vd, va and vb at its place, read before any write, over the pair under a 64-bit type; the
flags of the elements are raised, and nothing else changes. VADD, VSUB, VMUL, VMAD, VABS, VNEG and VADDI wrap the exact result, or with MODE.sat clamp it and
raise isat; the other forms raise no flag whatever MODE.sat says. -/
def Obligations.IntegerLaneValues : Prop :=
  ∀ (r : Regs) (d a b : Nat) (m : BitVec 11),
    let t := modeType r.mode
    let w := typeWidth t
    let n := if typePair t then 1 else 32 / w
    let raw (q : Regs) (x l j : Nat) : Nat := (if typePair t then (q.getPair x l).toNat else (q.getV x l).toNat) / 2 ^ (w * j) % 2 ^ w
    let num (x : Nat) : ℤ := if typeSigned t = true ∧ 2 ^ (w - 1) ≤ x then (x : ℤ) - 2 ^ w else x
    let lo : ℤ := if typeSigned t then -2 ^ (w - 1) else 0
    let hi : ℤ := if typeSigned t then 2 ^ (w - 1) - 1 else 2 ^ w - 1
    let each (P : Nat → Nat → Prop) : Prop := ∀ l < 4, r.active.getLsbD l = true → ∀ j < n, P l j
    let exact (f : ElemOp) (z : Nat → Nat → Nat → ℤ) : Prop :=
      each (fun l j => (raw (intLanes f d a b r) d l j : ℤ) = z (raw r d l j) (raw r a l j) (raw r b l j) % 2 ^ w) ∧ (intLanes f d a b r).fpx = r.fpx
    let sums (f : ElemOp) (z : ℤ → ℤ → ℤ → ℤ) : Prop :=
      let v (l j : Nat) : ℤ := z (num (raw r d l j)) (num (raw r a l j)) (num (raw r b l j))
      each (fun l j => (raw (intLanes f d a b r) d l j : ℤ) = (if modeSat r.mode then max lo (min hi (v l j)) else v l j) % 2 ^ w) ∧
      (each (fun l j => lo ≤ v l j ∧ v l j ≤ hi) ∨ modeSat r.mode = false → (intLanes f d a b r).fpx = r.fpx) ∧
      (¬ each (fun l j => lo ≤ v l j ∧ v l j ≤ hi) → modeSat r.mode = true → (intLanes f d a b r).fpx = r.fpx ||| fIsat)
    (∀ f : ElemOp,
      (∀ x l, l < 4 → ((x ≠ d ∧ (typePair t = true → x ≠ d + 1)) ∨ r.active.getLsbD l = false) → (intLanes f d a b r).getV x l = r.getV x l) ∧
      (intLanes f d a b r).s = r.s ∧ (intLanes f d a b r).p = r.p ∧ (intLanes f d a b r).mode = r.mode ∧ (intLanes f d a b r).pc = r.pc ∧
      each (fun l j => raw (intLanes f d a b r) d l j = (f w (typeSigned t) (modeSat r.mode) (raw r d l j) (raw r a l j) (raw r b l j)).1 % 2 ^ w) ∧
      (∀ x < 6, (intLanes f d a b r).fpx.getLsbD x = true ↔ r.fpx.getLsbD x = true ∨
        ¬ each fun l j => (f w (typeSigned t) (modeSat r.mode) (raw r d l j) (raw r a l j) (raw r b l j)).2.getLsbD x = false)) ∧
    (typeInt t = true →
      sums (sumElem fun _ x y => x + y) (fun _ x y => x + y) ∧
      sums (sumElem fun _ x y => x - y) (fun _ x y => x - y) ∧
      sums (sumElem fun _ x y => x * y) (fun _ x y => x * y) ∧
      sums (sumElem fun z x y => z + x * y) (fun z x y => z + x * y) ∧
      sums (sumElem fun _ x _ => (x.natAbs : Int)) (fun _ x _ => |x|) ∧
      sums (sumElem fun _ x _ => -x) (fun _ x _ => -x) ∧
      sums (sumElem fun _ x _ => x + m.toInt) (fun _ x _ => x + m.toInt) ∧
      exact mulhElem (fun _ x y => num x * num y / 2 ^ w) ∧
      exact minElem (fun _ x y => if num x < num y then x else y) ∧
      exact maxElem (fun _ x y => if num x > num y then x else y) ∧
      exact shlElem (fun _ x y => if w ≤ y then 0 else x * 2 ^ y) ∧
      exact shrElem (fun _ x y => if w ≤ y then (if num x < 0 then -1 else 0) else num x / 2 ^ y) ∧
      exact popcElem (fun _ x _ => (List.range w).countP fun i => x.testBit i) ∧
      each (fun l j => ∀ i < w, (raw (intLanes brevElem d a b r) d l j).testBit i = (raw r a l j).testBit (w - 1 - i)) ∧
      (intLanes brevElem d a b r).fpx = r.fpx ∧
      each (fun l j =>
        let c := raw (intLanes clzElem d a b r) d l j
        c ≤ w ∧ raw r a l j < 2 ^ (w - c) ∧ (c < w → 2 ^ (w - 1 - c) ≤ raw r a l j)) ∧
      (intLanes clzElem d a b r).fpx = r.fpx)

/-- R106 to R108, R115: the bitwise forms, VSEL, VCMP, VMOVI and the predicate instructions. The bitwise forms and VSEL act on the whole lane, or on the pair under a
64-bit type; VCMP's relation holds in a lane where it holds for every element of it, as signed numbers under an i type. A predicate is written in the active
lanes alone. -/
def Obligations.VectorLogicResults : Prop :=
  (∀ (r : Regs) (d a b : Nat) (f : Nat → Nat → Nat → Nat → Nat),
    let pair := typePair (modeType r.mode) = true
    let w := if pair then 64 else 32
    let whole (q : Regs) (x l : Nat) : Nat := if pair then (q.getPair x l).toNat else (q.getV x l).toNat
    let u := wholeLanes f d a b r
    (∀ l < 4, whole u d l = if r.active.getLsbD l = true then f l w (whole r a l) (whole r b l) % 2 ^ w else whole r d l) ∧
    (∀ x, ∀ l < 4, x ≠ d → (pair → x ≠ d + 1) → u.getV x l = r.getV x l) ∧
    u.s = r.s ∧ u.p = r.p ∧ u.mode = r.mode ∧ u.fpx = r.fpx ∧ u.pc = r.pc) ∧
  (∀ (r : Regs) (p a b l : Nat), l < 4 →
    let t := modeType r.mode
    let w := typeWidth t
    let n := if typePair t then 1 else 32 / w
    let raw (x j : Nat) : Nat := (if typePair t then (r.getPair x l).toNat else (r.getV x l).toNat) / 2 ^ (w * j) % 2 ^ w
    let num (x j : Nat) : ℤ := if t < 4 ∧ 2 ^ (w - 1) ≤ raw x j then (raw x j : ℤ) - 2 ^ w else raw x j
    let bit (c : CmpCond) : Prop := ((r.mergeP p (testLanes (cmpLane c r a b))).getP p).getLsbD l = true
    (r.active.getLsbD l = true →
      (bit .eq ↔ ∀ j < n, num a j = num b j) ∧ (bit .ne ↔ ∀ j < n, num a j ≠ num b j) ∧
      (bit .lt ↔ ∀ j < n, num a j < num b j) ∧ (bit .le ↔ ∀ j < n, num a j ≤ num b j)) ∧
    (r.active.getLsbD l = false → ∀ c, bit c ↔ (r.getP p).getLsbD l = true)) ∧
  ∀ (s : State) (t : Nat) (ks : List Nat), s.acts t ks → ∀ (d a b p : Nat) (c : CmpCond) (m : BitVec 18),
    s.sets t ks (.vand d a b) (fun _ r => (wholeLanes (fun _ _ x y => x &&& y) d a b r).adv) ∧
    s.sets t ks (.vor d a b) (fun _ r => (wholeLanes (fun _ _ x y => x ||| y) d a b r).adv) ∧
    s.sets t ks (.vxor d a b) (fun _ r => (wholeLanes (fun _ _ x y => x ^^^ y) d a b r).adv) ∧
    s.sets t ks (.vnot d a) (fun _ r => (wholeLanes (fun _ w x _ => 2 ^ w - 1 - x) d a a r).adv) ∧
    s.sets t ks (.vsel d a b p) (fun _ r => (wholeLanes (fun l _ x y => if (r.getP p).getLsbD l then x else y) d a b r).adv) ∧
    s.sets t ks (.vcmp c p a b) (fun _ r => (r.mergeP p (testLanes (cmpLane c r a b))).adv) ∧
    s.sets t ks (.vmovi d m) (fun _ r => (singleLanes (fun _ => m.signExtend 32) d r).adv) ∧
    s.sets t ks (.pand d a b) (fun _ r => (r.mergeP d (r.getP a &&& r.getP b)).adv) ∧
    s.sets t ks (.por d a b) (fun _ r => (r.mergeP d (r.getP a ||| r.getP b)).adv) ∧
    s.sets t ks (.pxor d a b) (fun _ r => (r.mergeP d (r.getP a ^^^ r.getP b)).adv) ∧
    s.sets t ks (.pnot d a) (fun _ r => (r.mergeP d (~~~ r.getP a)).adv) ∧
    s.sets t ks (.pset d a) (fun _ r => (r.mergeP d ((r.getS a).setWidth 4)).adv)

/-- R76 to R79, R109 to R114, R131: the float group and the special functions. Sums, differences, products and VFMA are the exact value rounded once by
MODE.rnd, with the flags of that rounding: a number of the format gives its own code, any other value the neighbour that MODE.rnd names; likewise VSQRT and, in
f16 and bf16, VRCP and VRSQ, to nearest. The inputs of R114, zeros, infinities and NaNs give the results of their tables, with their flags. Where the spec bounds a
special function's value without giving it, the value is the model's free one (log entry 20). -/
def Obligations.VectorFloatResults : Prop :=
  (∀ (s : State) (t : Nat) (ks : List Nat), s.acts t ks → ∀ (d a b p l : Nat) (c : FcmpCond),
    s.sets t ks (.vfadd d a b) (fun _ r => (intLanes (floatElem addFloat r.mode) d a b r).adv) ∧
    s.sets t ks (.vfsub d a b) (fun _ r => (intLanes (floatElem subFloat r.mode) d a b r).adv) ∧
    s.sets t ks (.vfmul d a b) (fun _ r => (intLanes (floatElem mulFloat r.mode) d a b r).adv) ∧
    s.sets t ks (.vfma d a b) (fun _ r => (intLanes (floatElem fmaFloat r.mode) d a b r).adv) ∧
    s.sets t ks (.vfmin d a b) (fun _ r => (intLanes (floatElem (pickFloat false) r.mode) d a b r).adv) ∧
    s.sets t ks (.vfmax d a b) (fun _ r => (intLanes (floatElem (pickFloat true) r.mode) d a b r).adv) ∧
    s.sets t ks (.vfabs d a) (fun _ r => (intLanes (floatElem absFloat r.mode) d a a r).adv) ∧
    s.sets t ks (.vfneg d a) (fun _ r => (intLanes (floatElem negFloat r.mode) d a a r).adv) ∧
    s.sets t ks (.vfcmp c p a b) (fun _ r =>
      ((r.mergeP p (testLanes fun j => (fcmpLane c r a b j).1)).raise (laneFlags r fun j => (fcmpLane c r a b j).2)).adv) ∧
    s.sets t ks (.vrcp d a l) (fun _ r => (intLanes (floatElem (specialFloat .rcp) r.mode) d a a r).adv) ∧
    s.sets t ks (.vrsq d a l) (fun _ r => (intLanes (floatElem (specialFloat .rsq) r.mode) d a a r).adv) ∧
    s.sets t ks (.vsqrt d a l) (fun _ r => (intLanes (floatElem (specialFloat .sqrt) r.mode) d a a r).adv) ∧
    s.sets t ks (.vexp2 d a l) (fun _ r => (intLanes (floatElem (specialFloat .exp2) r.mode) d a a r).adv) ∧
    s.sets t ks (.vlog2 d a l) (fun _ r => (intLanes (floatElem (specialFloat .log2) r.mode) d a a r).adv) ∧
    s.sets t ks (.vsin d a l) (fun _ r => (intLanes (floatElem (specialFloat .sin) r.mode) d a a r).adv) ∧
    s.sets t ks (.vcos d a l) (fun _ r => (intLanes (floatElem (specialFloat .cos) r.mode) d a a r).adv) ∧
    s.sets t ks (.vtanh d a l) (fun _ r => (intLanes (floatElem (specialFloat .tanh) r.mode) d a a r).adv) ∧
    s.sets t ks (.verf d a l) (fun _ r => (intLanes (floatElem (specialFloat .erf) r.mode) d a a r).adv) ∧
    s.sets t ks (.vsigm d a l) (fun _ r => (intLanes (floatElem (specialFloat .sigm) r.mode) d a a r).adv)) ∧
  ∀ (m : BitVec 16), modeType m = 8 ∨ modeType m = 9 ∨ modeType m = 10 →
    let f := floatFmt (modeType m)
    let rnd := modeRnd m
    let sat := modeSat m
    let ftz := modeFtz m
    let el (o : FloatOp) (d a b : Nat) : Nat × Flags := floatElem o m f.width false sat d a b
    let un (fn : Special) (a : Nat) : Nat × Flags := el (specialFloat fn) 0 a a
    let src (c : Nat) : Nat := if ftz = true ∧ c % f.signBit < 2 ^ f.frac then c / f.signBit * f.signBit else c
    let neg (c : Nat) : Bool := decide (f.signBit ≤ c)
    let mag (c : Nat) : Nat := src c % f.signBit
    let nan (c : Nat) : Bool := decide (f.infCode < c % f.signBit)
    let sig (c : Nat) : Bool := nan c && decide (c % 2 ^ f.frac < 2 ^ (f.frac - 1))
    let isInf (c : Nat) : Bool := c % f.signBit == f.infCode
    let order (c : Nat) : ℤ := if neg c then -(mag c : ℤ) - 1 else mag c
    let num (c : Nat) : ℤ := if neg c then -(mag c : ℤ) else mag c
    let v (c : Nat) : ℚ := f.value (src c)
    let zero (x y : Bool) : Bool := if x = y then x else rnd == .rdn
    let top (n : Bool) : Nat := f.signed n (if sat then f.maxCode else f.infCode)
    let noNumber : Nat × Flags := (f.nanCode, fInvalid)
    let one := f.bias * 2 ^ f.frac
    (∀ d a b, f.finite d → f.finite a → f.finite b →
      f.rounds rnd sat ftz (zero (neg a) (neg b)) (v a + v b) (el addFloat d a b) ∧
      f.rounds rnd sat ftz (zero (neg a) (!neg b)) (v a - v b) (el subFloat d a b) ∧
      f.rounds rnd sat ftz (neg a != neg b) (v a * v b) (el mulFloat d a b) ∧
      f.rounds rnd sat ftz (zero (neg d) (neg a != neg b)) (v d + v a * v b) (el fmaFloat d a b)) ∧
    (∀ d a b, a < 2 ^ f.width → b < 2 ^ f.width → d < 2 ^ f.width →
      (nan a = true ∨ nan b = true →
        (∀ o ∈ [addFloat, subFloat, mulFloat], el o d a b = (f.nanCode, flagIf (sig a || sig b) fInvalid)) ∧
        (el fmaFloat d a b).1 = f.nanCode ∧
        el (pickFloat false) d a b = (if nan a = false then src a else if nan b = false then src b else f.nanCode, flagIf (sig a || sig b) fInvalid) ∧
        el (pickFloat true) d a b = el (pickFloat false) d a b) ∧
      (nan d = true → (el fmaFloat d a b).1 = f.nanCode) ∧
      (nan a = false → nan b = false →
        el (pickFloat false) d a b = (if order b < order a then src b else src a, 0) ∧
        el (pickFloat true) d a b = (if order a < order b then src b else src a, 0)) ∧
      (isInf a = true → nan b = false →
        el addFloat d a b = (if isInf b = true ∧ neg a ≠ neg b then noNumber else (top (neg a), 0)) ∧
        el subFloat d a b = (if isInf b = true ∧ neg a = neg b then noNumber else (top (neg a), 0)) ∧
        el mulFloat d a b = (if mag b = 0 then noNumber else (top (neg a != neg b), 0)) ∧
        el mulFloat d b a = el mulFloat d a b ∧
        (mag b = 0 → nan d = false → el fmaFloat d a b = noNumber) ∧
        (mag b ≠ 0 → f.finite d → el fmaFloat d a b = (top (neg a != neg b), 0))) ∧
      el absFloat d a b = (if nan a then f.nanCode else mag a, 0) ∧
      el negFloat d a b = (if nan a then f.nanCode else src a ^^^ f.signBit, 0) ∧
      (∀ c : FcmpCond, fcmpElem c (f.decode (f.flush ftz a)) (f.decode (f.flush ftz b)) =
        (if nan a || nan b then (c == .ne || c == .un, flagIf (sig a || sig b || c == .lt || c == .le) fInvalid)
         else (match c with
          | .eq => num a == num b
          | .ne => num a != num b
          | .lt => decide (num a < num b)
          | .le => decide (num a ≤ num b)
          | .un => false, 0)))) ∧
    (∀ a, f.finite a → v a ≠ 0 →
      (neg a = false → f.root rnd (v a) (un .sqrt a).1 ∧ (un .sqrt a).2 = (if f.value (un .sqrt a).1 ^ 2 = v a then 0 else fInexact)) ∧
      (neg a = true → ∀ fn ∈ [Special.rsq, .sqrt, .log2], un fn a = noNumber) ∧
      (modeType m ≠ 10 → f.rounds .rne sat ftz (neg a) (1 / v a) (un .rcp a)) ∧
      (modeType m ≠ 10 → neg a = false →
        f.root .rne (1 / v a) (un .rsq a).1 ∧ (un .rsq a).2 = (if f.value (un .rsq a).1 ^ 2 * v a = 1 then 0 else fInexact)) ∧
      (∀ k : ℤ, v a = k → 1 - (f.bias : ℤ) ≤ k → k ≤ f.bias → f.value (un .exp2 a).1 = 2 ^ k ∧ (un .exp2 a).2 = 0) ∧
      (∀ k : ℤ, v a = 2 ^ k → f.value (un .log2 a).1 = k ∧ (un .log2 a).2 = 0)) ∧
    (∀ fn, ∀ a < 2 ^ f.width, nan a = true → un fn a = (f.nanCode, flagIf (sig a) fInvalid)) ∧
    ∀ n : Bool,
      let z := f.signed n 0
      let i := f.signed n f.infCode
      un .rcp z = (top n, fDivZero) ∧ un .rsq z = (top n, fDivZero) ∧ un .sqrt z = (z, 0) ∧ un .exp2 z = (one, 0) ∧
      un .log2 z = (top true, fDivZero) ∧ un .sin z = (z, 0) ∧ un .cos z = (one, 0) ∧ un .tanh z = (z, 0) ∧ un .erf z = (z, 0) ∧
      un .sigm z = ((f.bias - 1) * 2 ^ f.frac, 0) ∧
      un .rcp i = (z, 0) ∧ un .sin i = noNumber ∧ un .cos i = noNumber ∧ un .tanh i = (f.signed n one, 0) ∧ un .erf i = (f.signed n one, 0) ∧
      un .sigm i = (if n then 0 else one, 0) ∧ un .exp2 i = (if n then 0 else top false, 0) ∧
      un .rsq i = (if n then noNumber else (0, 0)) ∧ un .sqrt i = (if n then noNumber else (top false, 0)) ∧
      un .log2 i = (if n then noNumber else (top false, 0)) ∧ un .log2 one = (0, 0)

/-- R70, R72, R74, R76 to R80, R116 to R121: conversion, quantisation and the pack group, with the values they give. VCVT puts element j of the source group at
place j of the destination group; an integer becomes an integer by int_result and a float by one rounding, a float becomes a whole number by MODE.rnd, clamped with
invalid, and a float by one rounding. VQNT's scale is the least e4m3 number that brings the largest magnitude within qmax, or 448 with overflow, and each code the
quotient rounded once. VDQNT is the product of code, scale and tensor scale rounded once, and NaN for an entry that is negative or NaN. The pack group moves
elements and VCLASS names the class of each. That an infinity into a format without one raises no flag, that a negative scale entry raises none, and that VQNT's flags of an element go to the slice of its lane
and those of the block to every slice of the gang, is the model's reading (log entry 21). -/
def Obligations.VectorConversionResults : Prop :=
  (∀ (s : State) (t : Nat) (ks : List Nat), s.acts t ks → ∀ (d a b k l : Nat) (u : BitVec 4) (h : Half),
    s.sets t ks (.vcvt d a k u l) (fun _ r =>
      (cvtLanes d a (cvtType u.toNat ((s.slots t).getD k 0)) (cvtType (modeType r.mode) ((s.slots t).getD k 0)) r).adv) ∧
    s.sets t ks (.vqnt d a k l) (fun x r =>
      let q := quantiseBlock ((List.range 32).map (s.quantSource x r a)) (slotBlockFmt ((s.slots t).getD k 0)) (modeRnd r.mode)
      ((eachLane (laneList r.active) (fun o j =>
        ((o.setV d j (BitVec.ofNat 32 (q.1.getD (4 * posOf x ks + j) (0, 0)).1)).setV (d + 1) j (q.2.1.setWidth 32)).raise
          (q.1.getD (4 * posOf x ks + j) (0, 0)).2) r).raise q.2.2).adv) ∧
    s.sets t ks (.vdqnt d a b k) (fun _ r => (eachLane (laneList r.active) (fun q j =>
      (q.setV d j (BitVec.ofNat 32 (dequantLane ((s.slots t).getD k 0) r a b j).1)).raise (dequantLane ((s.slots t).getD k 0) r a b j).2) r).adv) ∧
    s.sets t ks (.vpack d a b) (fun _ r => (singleLanes (packLane r a b) d r).adv) ∧
    s.sets t ks (.vunpk h d a) (fun _ r => (singleLanes (unpackLane h r a) d r).adv) ∧
    s.sets t ks (.vclass d a) (fun _ r => (singleLanes (classLane r a) d r).adv)) ∧
  (∀ (r : Regs) (d a st dt : Nat), let u := elemType st; let v := elemType dt
    u.bits ≤ 32 → v.bits ≤ 32 → ∀ l < 4, r.active.getLsbD l = true → ∀ j < max (32 / u.bits) (32 / v.bits),
      ((cvtLanes d a st dt r).getV (d + j / (32 / v.bits)) l).toNat / 2 ^ (v.bits * (j % (32 / v.bits))) % 2 ^ v.bits =
        (cvtElem u v r.mode ((r.getV (a + j / (32 / u.bits)) l).toNat / 2 ^ (u.bits * (j % (32 / u.bits))) % 2 ^ u.bits)).1) ∧
  (∀ (r : Regs) (d a st dt : Nat), let u := elemType st; let v := elemType dt
    ∀ l < 4, r.active.getLsbD l = true →
      (u.bits = 64 → v.bits = 64 → ((cvtLanes d a st dt r).getPair d l).toNat = (cvtElem u v r.mode (r.getPair a l).toNat).1) ∧
      (u.bits = 64 → v.bits = 32 → ((cvtLanes d a st dt r).getV d l).toNat = (cvtElem u v r.mode (r.getPair a l).toNat).1) ∧
      (u.bits = 32 → v.bits = 64 → ((cvtLanes d a st dt r).getPair d l).toNat = (cvtElem u v r.mode (r.getV a l).toNat).1)) ∧
  (∀ (m : BitVec 16) (wf wt : Nat) (sf sg : Bool) (f g : Fmt) (x : Nat), wf ∈ [8, 16, 32, 64] → wt ∈ [8, 16, 32, 64] →
    (∀ q, f ≠ .q4 q) → (∀ q, g ≠ .q4 q) →
    let rnd := modeRnd m
    let sat := modeSat m
    let ftz := modeFtz m
    let n : ℤ := if sf = true ∧ 2 ^ (wf - 1) ≤ x then (x : ℤ) - 2 ^ wf else x
    let lo : ℤ := if sg then -2 ^ (wt - 1) else 0
    let hi : ℤ := if sg then 2 ^ (wt - 1) - 1 else 2 ^ wt - 1
    let c := x % 2 ^ f.width
    let y := if ftz = true ∧ f.wide = true ∧ c % f.signBit < 2 ^ f.frac then c / f.signBit * f.signBit else c
    let neg := decide (f.signBit ≤ c)
    let mag := c % f.signBit
    let isInf := f.hasInf && mag == f.infCode
    let isNan := (f.hasInf && decide (f.infCode < mag)) || (f == .e4m3 && mag == 0x7F)
    let sig := f.wide && isNan && decide (mag % 2 ^ f.frac < 2 ^ (f.frac - 1))
    let toInt := cvtElem (.float f) (.int wt sg) m x
    let toFloat := cvtElem (.float f) (.float g) m x
    (x < 2 ^ wf →
      let z := cvtElem (.int wf sf) (.int wt sg) m x
      (z.1 : ℤ) = (if sat then max lo (min hi n) else n) % 2 ^ wt ∧ z.2 = (if sat = true ∧ (n < lo ∨ hi < n) then fIsat else 0) ∧
      g.rounds rnd sat ftz false n (cvtElem (.int wf sf) (.float g) m x)) ∧
    (isNan = true →
      toInt = (0, fInvalid) ∧ toFloat = (if g.narrow then (0, fInvalid) else (g.nanCode, flagIf sig fInvalid))) ∧
    (isInf = true →
      (toInt.1 : ℤ) = (if neg then lo else hi) % 2 ^ wt ∧ toInt.2 = fInvalid ∧
      toFloat = (if g.narrow then (g.signed neg g.maxCode, 0)
        else if g.hasInf then (g.signed neg (if sat then g.maxCode else g.infCode), 0)
        else if sat then (g.signed neg g.maxCode, fOverflow) else (g.nanCode, fInvalid))) ∧
    (mag ≤ f.maxCode →
      g.rounds rnd sat ftz neg (f.value y) toFloat ∧
      ∀ k : ℤ, rnd.whole (f.value y) k →
        (toInt.1 : ℤ) = max lo (min hi k) % 2 ^ wt ∧
        toInt.2 = flagIf (decide (f.value y ≠ k)) fInexact ||| flagIf (decide (k < lo ∨ hi < k)) fInvalid)) ∧
  (∀ (xs : List ℚ) (f : Fmt) (rnd : Rnd), f.wide = false →
    let ex (x : ℚ) : Ex := .fin (decide (x < 0)) x.num.natAbs x.den
    let q := quantiseBlock (xs.map ex) f rnd
    let e := (q.2.1.setWidth 8).toNat
    let most : ℚ := match f with
      | .e4m3 => 448
      | .e5m2 => 57344
      | .e2m3 => 15 / 2
      | .e3m2 => 28
      | .q4 .int => 7
      | .q4 .e2m1 => 6
      | .q4 .pow2 => 8
      | .q4 .hyb => 32
      | .f32 | .f16 | .bf16 => 1
    q.2.1.toNat / 256 = (match f with
      | .q4 t => [Q4.int, .e2m1, .pow2, .hyb].idxOf t
      | _ => 0) ∧
    ((∀ x ∈ xs, x = 0) → e = 0 ∧ q.2.2 = 0 ∧ q.1 = xs.map fun _ => (0, 0)) ∧
    ((∃ x ∈ xs, x ≠ 0) →
      (e ≤ 0x7E ∧ ((∀ x ∈ xs, |x| ≤ 448 * most) → (∀ x ∈ xs, |x| ≤ Fmt.e4m3.value e * most) ∧
        (∀ c < e, ∃ x ∈ xs, Fmt.e4m3.value c * most < |x|) ∧ q.2.2 = 0)) ∧
      ((∃ x ∈ xs, 448 * most < |x|) → e = 0x7E ∧ q.2.2 = fOverflow) ∧
      ∀ p ∈ xs.zip q.1, (∀ t, f ≠ .q4 t) → f.rounds rnd true false (decide (p.1 < 0)) (p.1 / Fmt.e4m3.value e) p.2) ∧
    ((∃ x ∈ xs, x ≠ 0) → ∀ t, f = .q4 t → (∀ x ∈ xs, |x| ≤ 448 * most) → ∀ p ∈ xs.zip q.1, t.nearest rnd (p.1 / Fmt.e4m3.value e) p.2.1)) ∧
  (∀ (xs : List Ex) (f : Fmt) (rnd : Rnd), xs.any Ex.isNan = true →
    (quantiseBlock xs f rnd).1 = xs.map (fun _ => (0, 0)) ∧ ((quantiseBlock xs f rnd).2.1.setWidth 8).toNat = 0x7F ∧ (quantiseBlock xs f rnd).2.2 = fInvalid) ∧
  (∀ (slot : BitVec 64) (r : Regs) (a b l : Nat), blockSlot slot = true → modeType r.mode = 8 ∨ modeType r.mode = 9 ∨ modeType r.mode = 10 →
    let g := floatFmt (modeType r.mode)
    let e := ((r.getV (a + 1) l).setWidth 8).toNat
    let y := (r.getV b l).toNat
    let x := if modeFtz r.mode = true ∧ y % 2 ^ 31 < 2 ^ 23 then y / 2 ^ 31 * 2 ^ 31 else y
    let c := (r.getV a l).toNat % 2 ^ slotWidth slot
    let z := dequantLane slot r a b l
    (0x7F ≤ e → y % 2 ^ 31 ≤ 0x7F800000 → z = (g.nanCode, 0)) ∧
    (e < 0x7F → Fmt.f32.finite y →
      (∀ f, (∀ q, f ≠ .q4 q) → fmtOfCode (slotFmtCode slot) .int = some f → f.finite c →
        g.rounds (modeRnd r.mode) (modeSat r.mode) (modeFtz r.mode) (decide (f.signBit ≤ c) != decide (2 ^ 31 ≤ y))
          (f.value c * Fmt.e4m3.value e * Fmt.f32.value x) z) ∧
      (slotFmtCode slot = 0xF → ∃ neg,
        g.rounds (modeRnd r.mode) (modeSat r.mode) (modeFtz r.mode) neg
          (q4Value (slotQ4 slot ((r.getV (a + 1) l).setWidth 16)) c * Fmt.e4m3.value e * Fmt.f32.value x) z))) ∧
  ∀ (r : Regs) (a b l : Nat), l < 4 →
    let t := modeType r.mode
    let w := typeWidth t
    let n := 32 / w
    let raw (x j : Nat) : Nat := (r.getV x l).toNat / 2 ^ (w * j) % 2 ^ w
    (w = 8 ∨ w = 16 → ∀ j < n / 2,
      let at' (j : Nat) : Nat := (packLane r a b l).toNat / 2 ^ (w * j) % 2 ^ w
      let six (x : Nat) : Nat := if t = 0xD ∨ t = 0xE then x % 64 else x
      at' j = six (raw a (2 * j)) ∧ at' (n / 2 + j) = six (raw b (2 * j))) ∧
    (w = 8 ∨ w = 16 → ∀ j < n / 2, ∀ h : Half,
      let x := raw a (match h with | .lo => j | .hi => n / 2 + j)
      (unpackLane h r a l).toNat / 2 ^ (2 * w * j) % 2 ^ (2 * w) = if typeSigned t = true ∧ 2 ^ (w - 1) ≤ x then x + 2 ^ (2 * w) - 2 ^ w else x) ∧
    (∀ f q, fmtOfCode t q = some f → t ≠ 0xF → ∀ j < n,
      let x := raw a j % 2 ^ f.width
      let neg := f.signBit ≤ x
      let m := x % f.signBit
      (classLane r a l).toNat / 2 ^ (w * j) % 2 ^ w =
        if f.hasInf = true ∧ m = f.infCode then (if neg then 0 else 7)
        else if f.maxCode < m then (if f.hasInf = true ∧ m % 2 ^ f.frac < 2 ^ (f.frac - 1) then 8 else 9)
        else if m = 0 then (if neg then 3 else 4)
        else if m < 2 ^ f.frac then (if neg then 2 else 5)
        else if neg then 1 else 6)

/-- R122 to R130: the cross-lane instructions, each lane's source named by its gang lane. An active lane takes the lane that its instruction names, whether or not that one is active, and
keeps its own where that lane is absent; VBPERM's bytes come from the slice's table; a ballot has one bit for each active gang lane whose predicate holds; a reduction and a scan take
the active gang lanes alone: integers by their exact sum, wrapped or clamped once, or their least or greatest, f32 in the fixed tree, or step by step. -/
def Obligations.CrossLaneResults : Prop :=
  (∀ (s : State) (t : Nat) (ks : List Nat), s.cur = { team := t, ks := ks } → ∀ (k d a p : Nat) (r : Regs),
    let lane (g : Nat) : Option Regs := ks[g / 4]?.map fun x => if x = k then r else (s.slice t x).regs
    (∀ f : Nat → Option (Nat × Nat), ∀ l < 4,
      (crossLanes s k d f r).getV d l = (if r.active.getLsbD l = true then match f (4 * posOf k ks + l) with
        | some (n, g) => ((lane g).map fun q => q.getV n (g % 4)).getD (r.getV d l)
        | none => r.getV d l
      else r.getV d l) ∧ ∀ x, x ≠ d → (crossLanes s k d f r).getV x l = r.getV x l) ∧
    (∀ g < 32, (gangValues s k r a)[g]? = some ((lane g).bind fun q => if q.active.getLsbD (g % 4) = true then some (q.getV a (g % 4)).toNat else none)) ∧
    (∀ g < 32, (ballot s k r p).testBit g = true ↔ ∃ q, lane g = some q ∧ q.active.getLsbD (g % 4) = true ∧ (q.getP p).getLsbD (g % 4) = true) ∧
    ballot s k r p < 2 ^ 32 ∧ popCount 32 (ballot s k r p) = (List.range 32).countP fun g => (ballot s k r p).testBit g) ∧
  (∀ (r : Regs) (d a b l i : Nat), l < 4 → i < 4 →
    let byte (x : W32) (j : Nat) : Nat := x.toNat / 256 ^ j % 256
    let x := byte (r.getV a l) i
    byte (bpermLane r d a b l) i = if x / 16 = 15 then byte (r.getV d l) i else byte (r.getV b (x % 16 / 4)) (x % 4)) ∧
  (∀ (m : BitVec 16) (vs : List (Option Nat)), vs.length = 32 →
    let t := modeType m
    let num (x : Nat) : ℤ := if t = 2 ∧ 2 ^ 31 ≤ x % 2 ^ 32 then ((x % 2 ^ 32 : Nat) : ℤ) - 2 ^ 32 else (x % 2 ^ 32 : Nat)
    let lo : ℤ := if t = 2 then -2 ^ 31 else 0
    let hi : ℤ := if t = 2 then 2 ^ 31 - 1 else 2 ^ 32 - 1
    let clamp (z : ℤ) : W32 × Flags := if modeSat m = true then (BitVec.ofInt 32 (max lo (min hi z)), if lo ≤ z ∧ z ≤ hi then 0 else fIsat) else (BitVec.ofInt 32 z, 0)
    let wide (x : W32) : W64 := if t = 2 then x.signExtend 64 else x.setWidth 64
    let flush (x : Nat) : Nat := Fmt.f32.flush (modeFtz m) x
    let step (o : RedOp) (x y : Nat) : Nat × Flags := match o with
      | .sum => addFloat .f32 (modeRnd m) (modeSat m) (modeFtz m) 0 x y
      | .min => pickFloat false .f32 (modeRnd m) (modeSat m) (modeFtz m) 0 x y
      | .max => pickFloat true .f32 (modeRnd m) (modeSat m) (modeFtz m) 0 x y
    let out (o : RedOp) (g : Nat) : Option (Option (Nat × Flags)) := (scanValues o m none none vs)[g]?
    (∀ o, (∀ v ∈ vs, v = none) → redValue o m vs = (0, 0)) ∧
    (∀ o g, vs[g]? = some none → out o g = some none) ∧
    (t = 2 ∨ t = 6 →
      (let z := clamp ((vs.filterMap id).map num).sum
       redValue .sum m vs = (wide z.1, z.2)) ∧
      (∀ x ∈ vs.filterMap id, ∃ y ∈ vs.filterMap id, num y ≤ num x ∧ redValue .min m vs = (wide (BitVec.ofInt 32 (num y)), 0)) ∧
      (∀ x ∈ vs.filterMap id, ∃ y ∈ vs.filterMap id, num x ≤ num y ∧ redValue .max m vs = (wide (BitVec.ofInt 32 (num y)), 0)) ∧
      ∀ g x, vs[g]? = some (some x) →
        let pre := (vs.take (g + 1)).filterMap id
        (let z := clamp (pre.map num).sum
         out .sum g = some (some (z.1.toNat, z.2))) ∧
        (∀ v ∈ pre, ∃ y ∈ pre, num y ≤ num v ∧ out .min g = some (some ((BitVec.ofInt 32 (num y)).toNat, 0))) ∧
        (∀ v ∈ pre, ∃ y ∈ pre, num v ≤ num y ∧ out .max g = some (some ((BitVec.ofInt 32 (num y)).toNat, 0)))) ∧
    (t = 10 → ∀ o,
      (∃ node : Nat → Nat → Option (Nat × Flags),
        (∀ g < 32, node 0 g = (vs[g]?.getD none).map fun x => (flush x, 0)) ∧
        (∀ h < 5, ∀ g < 2 ^ (4 - h), node (h + 1) g = match node h (2 * g), node h (2 * g + 1) with
          | some x, some y => some ((step o x.1 y.1).1, x.2 ||| y.2 ||| (step o x.1 y.1).2)
          | some x, none => some x
          | none, y => y) ∧
        redValue o m vs = match node 5 0 with
          | some x => (BitVec.ofNat 64 (x.1 % 2 ^ 32), x.2)
          | none => (0, 0)) ∧
      ∀ g x, vs[g]? = some (some x) → out o g = some (some (match (((scanValues o m none none vs).take g).filterMap id).getLast? with
        | some y => step o y.1 (flush x)
        | none => (flush x, 0))))) ∧
  ∀ (s : State) (t : Nat) (ks : List Nat), s.acts t ks → ∀ (d a b n p : Nat) (o : RedOp),
    s.sets t ks (.vperm d a b) (fun k r => (crossLanes s k d (fun g => some (a, (r.getV b (g % 4)).toNat % 32)) r).adv) ∧
    s.sets t ks (.vbperm d a b) (fun _ r => (singleLanes (bpermLane r d a b) d r).adv) ∧
    s.sets t ks (.vslide d a b n) (fun k r => (crossLanes s k d (fun g => if n ≤ g then some (a, g - n) else some (b, 32 + g - n)) r).adv) ∧
    s.sets t ks (.vshfl .xor d a n) (fun k r => (crossLanes s k d (fun g => some (a, g ^^^ n)) r).adv) ∧
    s.sets t ks (.vshfl .up d a n) (fun k r => (crossLanes s k d (fun g => if n ≤ g then some (a, g - n) else none) r).adv) ∧
    s.sets t ks (.vshfl .down d a n) (fun k r => (crossLanes s k d (fun g => if g + n ≤ 31 then some (a, g + n) else none) r).adv) ∧
    s.sets t ks (.vbcast d a n) (fun k r => (crossLanes s k d (fun _ => some (a, n)) r).adv) ∧
    s.sets t ks (.vred o d a) (fun k r =>
      ((r.setS d (redValue o r.mode (gangValues s k r a)).1).raise (redValue o r.mode (gangValues s k r a)).2).adv) ∧
    s.sets t ks (.vscan o d a) (fun k r => (eachLane (laneList r.active) (fun q l =>
      match (scanValues o r.mode none none (gangValues s k r a)).getD (4 * posOf k ks + l) none with
      | some (v, fl) => (q.setV d l (BitVec.ofNat 32 v)).raise fl
      | none => q) r).adv) ∧
    s.sets t ks (.vballot d p) (fun k r => (r.setS d (BitVec.ofNat 64 (ballot s k r p))).adv) ∧
    s.sets t ks (.vcount d p) (fun k r => (r.setS d (BitVec.ofNat 64 (popCount 32 (ballot s k r p)))).adv)

/-! ### Memory -/

/-- R142 to R148, R150 to R152, R157, R202, R211: loads of virtual memory, PREF, and RDNPA. Where every lane passes, each active lane's destination takes its bytes, little-endian, the slice's
own held stores over memory; the lines read enter the read signature; nothing else changes, memory included; likewise in each slice of a gang; at level 2 the chunk commits at once. Where pages are
missing and no check fails, the other lanes complete, the slice parks at the instruction with the missing lanes, and each page's fault is posted, once, of the kind load. A load from an NC page enters no
signature and gives the slice's own copy of the line, if it has one that is still there, or memory (which of the two is the model's free choice, log entry 16). A load from an IO page, or from another module's memory, is a closer and
makes one transaction of its own size, whose value is free (log entry 26). -/
def Obligations.LoadResults : Prop :=
  ∀ (s : State) (t k : Nat) (v x b l : Nat) (dbl : Bool) (sz : Width) (o : BitVec 10) (oks : List (Acc × Leaf × Nat)),
    (s.lanesPass t k (wantLoad (dblBytes dbl)) (laneAddr b x) oks →
      s.holds t k (.vld v x b dbl l) [] [] (s.loadLines t oks) fun r =>
        (oks.foldl (fun q y => putLane v dbl q y.1.l (s.loaded t k (dblBytes dbl) y)) r).adv) ∧
    (s.lanesPass t k (wantLoad (dblBytes dbl)) (blockAddr b (dblBytes dbl) o) oks →
      s.holds t k (.vldc v b dbl o) [] [] (s.loadLines t oks) fun r =>
        (oks.foldl (fun q y => putLane v dbl q y.1.l (s.loaded t k (dblBytes dbl) y)) r).adv) ∧
    (s.passes t k [(msBase b (widthBytes sz) o (s.slice t k).regs, wantLoad (widthBytes sz))] oks →
      s.holds t k (.sld v b sz o) [] [] (s.loadLines t oks) fun r =>
        (oks.foldl (fun q y => q.setS v (BitVec.ofNat 64 (s.loaded t k (widthBytes sz) y))) r).adv) ∧
    (∀ ks, s.gangPass t ks (wantLoad (dblBytes dbl)) (laneAddr b x) oks →
      s.gangHolds t ks (.vld v x b dbl l) (fun _ => []) (fun _ => []) (fun j => s.loadLines t (ofSlice j oks)) fun j r =>
        ((ofSlice j oks).foldl (fun q y => putLane v dbl q y.1.l (s.loaded t j (dblBytes dbl) y)) r).adv) ∧
    (∀ w, s.calm t k (.sld v b sz o) → (s.slice t k).level = 2 → s.passes t k [(msBase b (widthBytes sz) o (s.slice t k).regs, wantLoad (widthBytes sz))] oks →
      s.fits2 t k [] (s.loadLines t oks) →
      (s.modSlice t k fun _ => s.ran (.sld v b sz o) t k ((s.slice t k).hold [] [] (s.loadLines t oks))
        (oks.foldl (fun q y => q.setS v (BitVec.ofNat 64 (s.loaded t k (widthBytes sz) y))) (s.slice t k).regs).adv).commitChunk t k false = .ok w →
      ∃ u, exec (.sld v b sz o) s = .next u ∧ Leaves w u t k (w.slice t k)) ∧
    (let i : Instr := .vld v x b dbl l
     let n := dblBytes dbl
     let xs := s.laneAccs t [k] (laneAddr b x)
     let c := (s.team t).ctx
     let die := s.teamDie t
     let gone (va : W64) : Bool := match s.walk c va with
       | .none _ => true
       | .leaf _ => false
     let missing := xs.filter fun y => gone y.va
     let pages := (missing.map fun y => pageOf y.va).dedup
     s.solo t k i → (s.slice t k).status = .run → missing ≠ [] → s.touch c (xs.map (·.va)) = s → oks.map (·.1) = xs.filter (fun y => !gone y.va) →
     (∀ y ∈ oks, s.fateOf t (wantLoad n) y.1 = .ok y.2.1 y.2.2 ∧ isRemote y.2.1 y.2.2 = false ∧ y.2.1.cc ≠ .nc) →
     (∀ y ∈ missing, y.va.toNat % n = 0 ∧ canonical y.va = true) →
     s.fits2 t k [] (s.loadLines t oks ++ (missing.map fun y => missingLine y.va).dedup) →
     ∃ u, exec i s = .next u ∧
       u.slice t k = { s.slice t k with
         regs := oks.foldl (fun q y => putLane v dbl q y.1.l (s.loaded t k n y)) (s.slice t k).regs,
         park := some { instr := some i, mask := maskOfLanes (missing.map (·.l)), all := (s.slice t k).regs.active, far := 0,
                        vas := xs.map fun y => (y.l, y.va), pages := pages, buf := [], rset := s.loadLines t oks } } ∧
       u.mem = s.mem ∧
       ∀ g ∈ pages, s.awaits die c g = false → ((s.die die).fq.length + pages.length ≤ 4096 →
         ∃ e ∈ (u.die die).fq, e.ctx = c ∧ e.page = g ∧ e.kind = 0 ∧ e.lanes = (missing.filter fun y => pageOf y.va == g).length ∧ e.merged = 0) ∧ u.awaits die c g = true) ∧
    (∀ y : Acc × Leaf × Nat, let n := widthBytes sz
      let va := msBase b n o (s.slice t k).regs
      let c := (s.team t).ctx
      let a := s.loadAddr (s.teamDie t) y.2.1 y.2.2
      let s0 := { s with draws := s.draws + if isFabric y.2.2 then 64 else 0 }
      s.touch c [va] = s0 → s0.aloneCheck t k [(va, wantLoad n)] = .go [y] →
      (isFabric y.2.2 = false → y.2.1.cc = .nc → s.solo t k (.sld v b sz o) → s.fits2 t k [] [] → (s.slice t k).heldAll = [] →
        ∃ u, exec (.sld v b sz o) s = .next u ∧ (u.slice t k).chunk.rlines = (s.slice t k).chunk.rlines.dedup ∧ u.mem = s.mem ∧
          ((u.slice t k).regs.getS v = BitVec.ofNat 64 (leNat (s.readBytes a n)) ∨
           ∃ ln, FMap.find? (s.slice t k).nc (lineOf a) = some ln ∧ (u.slice t k).regs.getS v = BitVec.ofNat 64 (leNat ((ln.drop (a % 128)).take n)))) ∧
      (y.2.1.cc = .io ∨ isFabric y.2.2 = true → s.closes t k (.sld v b sz o)
        { s0 with draws := s0.draws + n, out := s.out ++ [if isFabric y.2.2 then .remote y.2.2 false (s0.freeBytes n) else .io y.2.2 false (s0.freeBytes n)] } fun r =>
          (r.setS v (BitVec.ofNat 64 (leNat (s0.freeBytes n)))).adv)) ∧
    (∀ ks, s.acts t ks → s.sets t ks (.pref b o) (fun _ r => r.adv)) ∧
    (∀ ks, s.acts t ks → s.sets t ks (.rdnpa v b) fun _ r => (r.setS v (BitVec.ofNat 64 (rdnpaValue s (s.team t).ctx (r.getS b)))).adv)

/-- R143, R144, R147, R148, R150, R199, R201, R211: stores and reductions of virtual memory whose lanes all pass. The bytes are held at the addresses that the lanes
name, in lane order, with the lines that they write; memory and every register but the PC stay as they are until the chunk commits; likewise in each slice of a gang; at level 2 the chunk commits at
once. A store to an NC page is held as such. A store to an IO page, or to another module's memory, is a closer and makes one transaction of its own size. -/
def Obligations.StoreResults : Prop :=
  ∀ (s : State) (t k : Nat) (v x b l : Nat) (dbl : Bool) (sz : Width) (o : BitVec 10) (op : AtomOp) (oks : List (Acc × Leaf × Nat)),
    let regs := (s.slice t k).regs
    let held (n : Nat) (val : Regs → Nat → Nat) : List Held :=
      if oks = [] then [] else [.store false (oks.flatMap fun y => storeRun y.2.1.rep y.1.va.toNat y.2.2 (leBytes n (val regs y.1.l)))
        (oks.map fun y => y.2.1.addr).dedup]
    let lines : List LineId := oks.flatMap fun y => writeLine y.2.1 y.2.2
    (s.lanesPass t k (wantStore (dblBytes dbl)) (laneAddr b x) oks →
      s.holds t k (.vst v x b dbl l) (held (dblBytes dbl) (getLane v dbl)) lines [] Regs.adv) ∧
    (s.lanesPass t k (wantStore (dblBytes dbl)) (blockAddr b (dblBytes dbl) o) oks →
      s.holds t k (.vstc v b dbl o) (held (dblBytes dbl) (getLane v dbl)) lines [] Regs.adv) ∧
    (s.passes t k [(msBase b (widthBytes sz) o regs, wantStore (widthBytes sz))] oks →
      s.holds t k (.sst v b sz o) (held (widthBytes sz) fun r _ => (r.getS v).toNat) lines [] Regs.adv) ∧
    (∀ ks, s.gangPass t ks (wantStore (dblBytes dbl)) (laneAddr b x) oks →
      s.gangHolds t ks (.vst v x b dbl l)
        (fun j => let own := ofSlice j oks
          if own = [] then [] else [.store false (own.flatMap fun y => storeRun y.2.1.rep y.1.va.toNat y.2.2 (leBytes (dblBytes dbl) (getLane v dbl (s.slice t j).regs y.1.l)))
            (own.map fun y => y.2.1.addr).dedup])
        (fun j => (ofSlice j oks).flatMap fun y => writeLine y.2.1 y.2.2) (fun _ => []) fun _ r => r.adv) ∧
    (∀ w, s.calm t k (.sst v b sz o) → (s.slice t k).level = 2 → s.passes t k [(msBase b (widthBytes sz) o regs, wantStore (widthBytes sz))] oks → s.fits2 t k lines [] →
      (s.modSlice t k fun _ => s.ran (.sst v b sz o) t k ((s.slice t k).hold (held (widthBytes sz) fun r _ => (r.getS v).toNat) lines []) regs.adv).commitChunk t k false = .ok w →
      ∃ u, exec (.sst v b sz o) s = .next u ∧ Leaves w u t k (w.slice t k)) ∧
    (∀ y : Acc × Leaf × Nat, let n := widthBytes sz
      let va := msBase b n o regs
      let bs := leBytes n (regs.getS v).toNat
      let s0 := { s with draws := s.draws + if isFabric y.2.2 then 64 else 0 }
      s.touch (s.team t).ctx [va] = s0 → s0.aloneCheck t k [(va, wantStore n)] = .go [y] →
      (isFabric y.2.2 = false → y.2.1.cc = .nc → s.holds t k (.sst v b sz o) [.store true (storeRun y.2.1.rep va.toNat y.2.2 bs) [y.2.1.addr]] (writeLine y.2.1 y.2.2) [] Regs.adv) ∧
      (y.2.1.cc = .io ∨ isFabric y.2.2 = true → (s.readWord64 y.2.1.addr).getLsbD 14 = true →
        s.closes t k (.sst v b sz o) { s0 with out := s.out ++ [if isFabric y.2.2 then .remote y.2.2 true bs else .io y.2.2 true bs] } Regs.adv)) ∧
    (s.lanesPass t k (wantAtom op dbl false s t) (laneAddr b x) oks →
      s.holds t k (.red op v x b dbl)
        (if oks = [] then [] else [.red op dbl regs.mode
          (oks.map fun y => { va := y.1.va.toNat, npa := y.2.2, rep := y.2.1.rep, val := BitVec.ofNat 64 (getLane v dbl regs y.1.l) })
          (oks.map fun y => y.2.1.addr).dedup])
        lines [] Regs.adv)

/-- R135, R157, R201, R231: team memory within a launch's size, aligned: TLD reads the slice's own held bytes over team memory, ATOMT its own held reductions too; TST, ATOMT and REDT hold
their effects, which the commit makes: bytes put where they were held, and words that the operation makes of the old ones, with its flags. -/
def Obligations.TeamMemoryResults : Prop :=
  ∀ (s : State) (t k : Nat) (v x b l : Nat) (dbl : Bool) (op : AtomOp),
    let n := dblBytes dbl
    let xs := s.laneAccs t [k] (laneAddr b x)
    let lines := (xs.map fun y => LineId.team t (y.va.toNat / 128)).dedup
    let regs := (s.slice t k).regs
    ((∀ y ∈ xs, y.va.toNat % n = 0 ∧ y.va.toNat + n ≤ (s.params t).tmem) →
      s.holds t k (.tld v x b dbl l) [] [] lines (fun r => (xs.foldl (fun q y => putLane v dbl q y.l (s.teamLoad t k y.va.toNat n)) r).adv) ∧
      s.holds t k (.tst v x b dbl l)
        (if xs.isEmpty then [] else [.tstore (xs.flatMap fun y => byteRun y.va.toNat (leBytes n (getLane v dbl regs y.l)))]) lines [] Regs.adv ∧
      s.holds t k (.redt op v x b dbl)
        (if xs.isEmpty then [] else [.redt op dbl regs.mode
          (xs.map fun y => { va := y.va.toNat, npa := y.va.toNat, rep := false, val := BitVec.ofNat 64 (getLane v dbl regs y.l) })]) lines [] Regs.adv ∧
      (∀ y, xs = [y] →
        let old := leNat (((s.team t).withHeld (s.slice t k).heldAll).readBytes y.va.toNat n)
        let m := atomApply op (8 * n) regs.mode old (getLane v dbl regs y.l) (if op == .cas then casValue v dbl regs y.l else 0)
        s.holds t k (.atomt op v x b dbl) [.tstore (byteRun y.va.toNat (leBytes n m.1))] lines lines
          fun r => ((putLane v dbl r y.l old).raise m.2).adv)) ∧
    (∀ pc bs, s.commits t k pc (.tstore bs)
      ((s.modTeam t fun z => { z with tmem := bs.foldl (fun m e => FMap.set 0 m e.1 e.2) z.tmem }).invalidate ((bs.map fun e => LineId.team t (e.1 / 128)).dedup)
        (some (sliceKey t k))) 0) ∧
    (∀ pc m (y : RedLane),
      let r := atomApply op (8 * n) m (leNat ((s.team t).readBytes y.npa n)) (y.val.toNat % 2 ^ (8 * n)) 0
      s.commits t k pc (.redt op dbl m [y])
        ((s.modTeam t fun z => z.putBytes y.npa (leBytes n r.1)).invalidate [.team t (y.npa / 128)] (some (sliceKey t k))) r.2)

/-- R154, R163, R190, R192 to R194: the range instructions and CSIZE on ranges and pages that pass their checks: the operation is held. A range of length 0 does nothing but go on. At the
commit CZERO zeroes the range's bytes and CDISC its whole lines, of DEV and SYS pages here; CWB and CINV change no byte, and leave no line of the range dirty, or in the LLC at all, a captured
one unpinned with its row first (log entry 49); RSVPIN pins every sound block of the range and RSVUNPIN unpins it, unless its page is a gp page. Log entries 23, 24 and 62 name what the model chose. -/
def Obligations.RangeResults : Prop :=
  ∀ (s : State) (t k a b d : Nat) (blk : Bool) (oks : List (Acc × Leaf × Nat)),
    let regs := (s.slice t k).regs
    let base := regs.getS a
    let len := regs.getS b
    let n := (s.slice t k).chunk.held.length
    let pieces (bars : Cc → Bool) (host : Bool) := (rangePieces base.toNat len.toNat).map fun p => (BitVec.ofNat 64 p.1, wantRange bars host)
    (len ≠ 0 → rangeBad false base len = false →
      s.holds t k (.cwb a b) [.range .wb base len n] [.range n] [] Regs.adv ∧
      s.holds t k (.cinv a b) [.range .inv base len n] [.range n] [] Regs.adv ∧
      ((∀ p ∈ s.rangeLeavesAt (s.team t).ctx base len, p.2.ff = true ∨
          (p.2.w = true ∧ (p.2.cc = .dev ∨ p.2.cc = .sys) ∧ isFabric (p.2.npa p.1) = false ∧ s.expanderDown (p.2.npa p.1) = false)) →
        s.touch (s.team t).ctx ((s.rangeLeavesAt (s.team t).ctx base len).map (·.1)) = s →
        s.holds t k (.cdisc a b) [.range .disc base len n] [.range n] [] Regs.adv)) ∧
    (len ≠ 0 → rangeBad true base len = false →
      (s.passes t k (pieces (fun c => c == .io) true) oks →
        s.holds t k (.rsvpin a b) [.range .pin base len n] [.range n] [] Regs.adv ∧
        s.holds t k (.rsvunpin a b) [.range .unpin base len n] [.range n] [] Regs.adv) ∧
      (s.passes t k (pieces (fun c => c == .io) false) oks →
        s.holds t k (.czero a b) [.range .zero base len n] [.range n] [] Regs.adv)) ∧
    (len = 0 → s.acts t [k] → (s.slice t k).level < 2 → s.sets t [k] (.cwb a b) (fun _ r => r.adv) ∧ s.sets t [k] (.cinv a b) (fun _ r => r.adv) ∧ s.sets t [k] (.cdisc a b) (fun _ r => r.adv) ∧
      ((s.slice t k).park = none → (s.slice t k).mark = none → s.sets t [k] (.rsvpin a b) (fun _ r => r.adv) ∧ s.sets t [k] (.rsvunpin a b) (fun _ r => r.adv) ∧
        s.sets t [k] (.czero a b) (fun _ r => r.adv))) ∧
    (∀ (lo n : W64) (i : Nat),
      let c := (s.team t).ctx
      let ls := s.rangeLines c lo n
      let zeroed (pick : RangeLine → Bool) (x : Nat) : Option Byte :=
        if (s.rangeZeros c lo n pick).any (fun z => (s.copies z.rep z.npa).contains x) then some 0 else none
      ((∀ r ∈ ls, r.leaf.cc ≠ .nc ∧ (s.readWord64 r.leaf.addr).getLsbD 14 = true ∧ ∀ x ∈ s.copies r.leaf.rep r.npa, s.sound x) →
        s.leavesMem t k (.range .zero lo n i) (zeroed fun _ => true) ∧ s.leavesMem t k (.range .disc lo n i) (zeroed (·.whole))) ∧
      (s.touch c ((s.rangePages c lo n).map fun e => BitVec.ofNat 64 e.1.1) = s →
        s.leavesMem t k (.range .wb lo n i) (fun _ => none) ∧ s.leavesMem t k (.range .inv lo n i) (fun _ => none) ∧
        ∀ pc num w, ∀ r ∈ ls, ∀ x ∈ s.copies r.leaf.rep r.npa, r.leaf.cc ≠ .io → s.lineKept r = true → s.expanderDown x = false → s.commitChunk t k true = .ok w →
          ((s.slice t k).chunk.held = [{ pc := pc, num := num, eff := .range .wb lo n i }] → ∀ l, FMap.find? w.llc (lineOf x) = some l → l.dirty = false ∧ l.pin = false) ∧
          ((s.slice t k).chunk.held = [{ pc := pc, num := num, eff := .range .inv lo n i }] → FMap.find? w.llc (lineOf x) = none)) ∧
      (∀ pc num now w, ∀ r ∈ ls, ∀ x ∈ s.copies r.leaf.rep r.npa, (s.block (blockOf x)).bad = false → s.commitChunk t k now = .ok w →
        ((s.slice t k).chunk.held = [{ pc := pc, num := num, eff := .range .pin lo n i }] → (w.block (blockOf x)).pinned = true) ∧
        ((s.slice t k).chunk.held = [{ pc := pc, num := num, eff := .range .unpin lo n i }] → (w.block (blockOf x)).pinned = ((s.block (blockOf x)).gp && (s.block (blockOf x)).pinned)))) ∧
    (∀ x, oks = [x] → s.passes t k [(base, wantSize blk)] oks → (s.slice t k).prev = none → (s.slice t k).post = [] →
      let line := lineOf (s.loadAddr (s.teamDie t) x.2.1 x.2.2)
      s.holds t k (.csize blk d a) [] [] (if blk then (List.range 32).map fun i => LineId.mem (blockOfLine line * 32 + i) else [.mem line])
        fun r => (r.setS d (BitVec.ofNat 64 (if blk then blockReport s (blockOfLine line) else lineReport s line))).adv)

/-- R46, R47, R63, R171, R185, R191, R196, R213, R277, R286, R290, R337, R338: readings that are no closers. Those of the mailbox, the counters and the log's head enter the read
signature. RSVRD issues once its slices' commits have completed. What a counter that the spec does not determine answers is free (log entry 28): it is no less than what the model's own state counts, and
an eviction counter is never less than it was read to be, but for its wrap. -/
def Obligations.ReadingResults : Prop :=
  (∀ (c : Ctx) (v : Slice),
    csrValue c v 0x000 = BitVec.ofInt 64 c.quota ∧ (-2 ^ 31 ≤ c.reserve → c.reserve < 2 ^ 31 → (csrValue c v 0x001).toInt = c.reserve) ∧
    csrValue c v 0x002 = BitVec.ofNat 64 c.promise ∧ csrValue c v 0x011 = c.trapbase ∧ csrValue c v 0x014 = c.logbase ∧ csrValue c v 0x015 = BitVec.ofNat 64 c.prio ∧
    (let own (n : Nat) (w : W64) : Prop := ∃ a it b, v.heldAll = a ++ it :: b ∧ it.eff = .csr n w ∧ ∀ x ∈ b, ∀ y, x.eff ≠ .csr n y
     let none' (n : Nat) : Prop := ∀ x ∈ v.heldAll, ∀ y, x.eff ≠ .csr n y
     (∀ w, own 0x010 w → csrValue c v 0x010 = w) ∧ (none' 0x010 → csrValue c v 0x010 = c.tvec) ∧
     (∀ w, own 0x012 w → csrValue c v 0x012 = w &&& 1) ∧ (none' 0x012 → csrValue c v 0x012 = if c.lachk then 1 else 0) ∧
     (∀ w, own 0x013 w → csrValue c v 0x013 = w &&& 0x3F) ∧ (none' 0x013 → csrValue c v 0x013 = c.fpxen.setWidth 64))) ∧
  (∀ v : Slice,
    (v.level < 4 → (specValue v 0).toNat % 256 = v.level) ∧ (v.level < 256 → (specValue v 0).toNat / 2 ^ 8 % 256 = min v.rb 255 ∧ (specValue v 0).toNat / 2 ^ 16 = min v.cm 65535) ∧
    (specValue v 1).toNat = v.rollbacks % 2 ^ 64 ∧ (specValue v 2).toNat = v.commits % 2 ^ 64 ∧
    ((readLines v.chunk.rlines).length < 2 ^ 9 → v.chunk.wlines.length < 2 ^ 7 → v.chunk.instrs < 2 ^ 9 →
      (specValue v 3).toNat / 2 ^ 32 = (readLines v.chunk.rlines).length ∧ (specValue v 3).toNat / 2 ^ 16 % 2 ^ 16 = v.chunk.wlines.length ∧
      (specValue v 3).toNat % 2 ^ 16 = v.chunk.instrs)) ∧
  (∀ lx, discovery lx 0 = 0x0E7B0C4500010100 ∧ discovery lx 1 = 3 ∧ (discovery lx 2).toNat = 4 + 2 ^ 8 * 16 + 2 ^ 16 * 4 + 2 ^ 24 * 8 + 2 ^ 32 * (if lx then 4 else 0) + 2 ^ 40 * 18 ∧
    ∀ n, 2 < n → discovery lx n = 0) ∧
  (∀ (s : State) (t : Nat),
    let q := (s.die (s.teamDie t)).spill
    let c := (s.team t).ctx
    (s.spillWord t).toNat % 2 ^ 32 = 64 * (q.countP fun e => e.ctx == c) % 2 ^ 32 ∧
    (s.spillWord t).toNat / 2 ^ 32 = if (s.ctx c).shared then 64 * q.length % 2 ^ 32 else 0) ∧
  (∀ (s : State) (t k : Nat) (w : W64),
    let c := s.ctx (s.team t).ctx
    let d := s.teamDie t
    let lines (i : Nat) : List LlcLine := (s.llc.filter fun e => s.inLlc d i e.1).map (·.2)
    let most (n x : Nat) : Prop := ∃ m, counter s t k n w = BitVec.ofNat 64 (x + m)
    counter s t k 0x005 w = BitVec.ofNat 64 (FMap.get 0 c.posted d) ∧ counter s t k 0x006 w = BitVec.ofNat 64 (FMap.get 0 c.merged d) ∧
    counter s t k 0x008 w = BitVec.ofNat 64 c.capFaults ∧ counter s t k 0x009 w = BitVec.ofNat 64 c.traps ∧
    (c.shared = false → ∀ n, n ≠ 0x005 → n ≠ 0x006 → n ≠ 0x008 → n ≠ 0x009 → counter s t k n w = 0) ∧
    (c.shared = true →
      counter s t k 0x00A w = BitVec.ofNat 64 (s.die d).swapOuts ∧
      (∀ x qs o m, (s.team t).place = .resident x qs o m →
        counter s t k 0x000 w = BitVec.ofNat 64 (FMap.get 0 (s.core x).opps (qs.getD (k / 8) 0)) ∧
        counter s t k 0x001 w = BitVec.ofNat 64 (FMap.get 0 (s.core x).issues (qs.getD (k / 8) 0)) ∧
        most 0x002 (s.core x).tlbMiss ∧ counter s t k 0x007 w = BitVec.ofNat 64 (s.core x).rollbacks) ∧
      most 0x003 (s.die d).tlbMiss ∧ most 0x004 (s.die d).walks ∧
      ∀ i < 16, most (0x110 + i) ((lines i).map fun l => codeSectors l.code).sum ∧ most (0x120 + i) (lines i).length ∧
        counter s t k (0x130 + i) w = BitVec.ofNat 64 (FMap.get 0 (s.die d).captures i) ∧
        counter s t k (0x140 + i) w = BitVec.ofNat 64 ((s.die d).antes.getD i []).size ∧
        ∀ code < 16, most (0x200 + 16 * code + i) ((lines i).countP fun l => l.code == code))) ∧
  ∀ (s : State) (t k d n : Nat) (ks : List Nat),
    let c := (s.team t).ctx
    let m := (s.ctx c).mailbox
    s.holds t k (.balrd d) [] [] [.mailbox c] (fun r => (((r.setS d m.id).setS (d + 1) (m.wanted.setWidth 64)).setS (d + 2)
      ((m.owed.setWidth 64 <<< 32) ||| BitVec.ofNat 64 m.urgency)).adv) ∧
    s.holds t k (.logrd d n) [] [] (if n = 0 then [.log c] else [])
      (fun r => (r.setS d (BitVec.ofNat 64 (if n = 0 then (s.ctx c).logHead else 2 ^ (s.ctx c).logExp))).adv) ∧
    s.holds t k (.cseq d) [] [] [.done t] (fun r => (r.setS d (BitVec.ofNat 64 (s.team t).doneCount)).adv) ∧
    s.holds t k (.cspill d) [] [] [] (fun r => (r.setS d (s.spillWord t)).adv) ∧
    (s.acts t ks →
      ((∀ j ∈ ks, (s.slice t j).prev = none ∧ (s.slice t j).post = []) → s.sets t ks (.rsvrd d) fun _ r => (r.setS d (BitVec.ofNat 32 (s.pinnedGranules c) ++ BitVec.ofInt 32 (s.ctx c).reserve : BitVec 64)).adv) ∧
      s.sets t ks (.specrd d n) (fun j r => (r.setS d (specValue (s.slice t j) n)).adv) ∧
      s.sets t ks (.rdcap d n) (fun _ r => (r.setS d (discovery Config.lx n)).adv) ∧
      s.sets t ks (.csrr d n) (fun j r => (r.setS d (csrValue (s.ctx c) (s.slice t j) n)).adv)) ∧
    (s.acts t ks → s.lets t ks (.pcrd d n) →
      ((n < 0x100 ∨ 0x110 ≤ n ∨ ks = [k]) → ∃ u, exec (.pcrd d n) s = .next u ∧ ∀ j ∈ ks, ∃ w, (u.slice t j).regs = { (s.slice t j).regs.setS d (counter s t j n w) with
        pc := (s.slice t j).regs.pc + 4, wins := [] }) ∧
      (∀ i < 16, n = 0x100 + i → d < 64 → ks = [k] → (s.ctx c).shared = true → (FMap.find? s.dies (s.teamDie t)).isSome = true →
        ∃ u x, exec (.pcrd d n) s = .next u ∧ x < 2 ^ 32 ∧
          let y := (FMap.get 0 (s.die (s.teamDie t)).evicts i + x) % 2 ^ 64
          (u.slice t k).regs.getS d = BitVec.ofNat 64 y ∧ FMap.get 0 (u.die (s.teamDie t)).evicts i = y))

/-! ### Commands that a chunk holds -/

/-- R46, R47, R201, R234, R235, R237 to R240: gates, channels and CSRW: the update is held, and made at the commit. A non-blocking acquire or take of a counter at 0 answers all ones. A gate's
round closes when nothing is pending; an arrival that none is expected for, and a publish or free of nothing acquired or taken, leave a record. The committed CSRW is the context's register. -/
def Obligations.GateChannelResults : Prop :=
  ∀ (s : State) (t k a b d n : Nat),
    let regs := (s.slice t k).regs
    let off := regs.getS a
    (off.toNat % 16 = 0 → off.toNat + 16 ≤ (s.params t).tmem →
      s.holds t k (.ginit a b) [.gate off.toNat (.init ((regs.getS b).setWidth 16))] [.team t (off.toNat / 128)] [] Regs.adv ∧
      s.holds t k (.gexpect a b) [.gate off.toNat (.expect ((regs.getS b).setWidth 32))] [.team t (off.toNat / 128)] [] Regs.adv ∧
      s.holds t k (.garrive a) [.gate off.toNat .arrive] [.team t (off.toNat / 128)] [] Regs.adv) ∧
    (∀ o c, s.handle t (regs.getS a) = some (o, c) →
      s.holds t k (.chpub a) [.chan o c .pub] [] [] Regs.adv ∧
      s.holds t k (.chfree a) [.chan o c .free] [] [] Regs.adv ∧
      (∀ v, s.chanSeen t k o c = some v →
        (0 < v.free → s.holds t k (.chacqNb d a) [.chan o c .acq] [] [.chan o c] fun r => (r.setS d (BitVec.ofNat 64 (v.slot .acq))).adv) ∧
        (v.free = 0 → s.holds t k (.chacqNb d a) [] [] [.chan o c] fun r => (r.setS d 0xFFFFFFFFFFFFFFFF).adv) ∧
        (0 < v.filled → s.holds t k (.chtakeNb d a) [.chan o c .take] [] [.chan o c] fun r => (r.setS d (BitVec.ofNat 64 (v.slot .take))).adv) ∧
        (v.filled = 0 → s.holds t k (.chtakeNb d a) [] [] [.chan o c] fun r => (r.setS d 0xFFFFFFFFFFFFFFFF).adv))) ∧
    ((n ≠ 0x010 ∨ (regs.getS a).toNat % 4 = 0) → s.holds t k (.csrw a n) [.csr n (regs.getS a)] [] [] Regs.adv) ∧
    (∀ (pc : W64) (o : GateOp) (x : Nat),
      let g := ((s.team t).gate x).update o
      let u := (s.modTeam t fun v => v.setGate x g.1).invalidate [.team t (x / 128)] (some (sliceKey t k))
      s.commits t k pc (.gate x o) (if g.2 then u.appendLog (s.team t).ctx (u.sliceRec t k pc 0x0012 (BitVec.ofNat 64 x) 0) else u) 0) ∧
    (∀ (v : Team) (x : Nat) (g : Gate), (v.setGate x g).gate x = g) ∧
    (∀ (g : Gate) (m : BitVec 16) (w : W32),
      let close (h : Gate) : Gate := if h.apend = 0 ∧ h.bpend = 0 then
        { h with round := h.round + 1, err := h.ecur, erounds := h.erounds + (if h.ecur then 1 else 0), ecur := false, apend := h.arrive } else h
      (m ≠ 0 → g.update (.init m) = ({ round := 0, arrive := m, apend := m, erounds := 0, resv := 0, ecur := false, err := false, bpend := 0 }, false)) ∧
      g.update (.expect w) = (close { g with bpend := g.bpend + w }, false) ∧
      (g.apend ≠ 0 → g.update .arrive = (close { g with apend := g.apend - 1 }, false)) ∧
      (g.apend = 0 → g.update .arrive = (close { g with ecur := true }, true))) ∧
    (∀ (pc : W64) (o c : Nat) (v : Chan), (s.team o).chans[c]? = some v →
      let own (w : Chan) : State := (s.modTeam o fun x => { x with chans := x.chans.set c w }).invalidate [.chan o c] (some (sliceKey t k))
      let under : State := s.appendLog (s.team t).ctx (s.sliceRec t k pc 0x0013 0 (BitVec.ofNat 32 c))
      (v.pub ≠ v.acq → s.commits t k pc (.chan o c .pub) (own { v with filled := v.filled + 1, pub := v.pub + 1 }) 0) ∧
      (v.pub = v.acq → s.commits t k pc (.chan o c .pub) under 0) ∧
      (v.rel ≠ v.take → s.commits t k pc (.chan o c .free) (own { v with free := v.free + 1, rel := v.rel + 1 }) 0) ∧
      (v.rel = v.take → s.commits t k pc (.chan o c .free) under 0) ∧
      s.commits t k pc (.chan o c .acq) (own { v with free := v.free - 1, acq := v.acq + 1 }) 0 ∧
      s.commits t k pc (.chan o c .take) (own { v with filled := v.filled - 1, take := v.take + 1 }) 0) ∧
    ∀ (pc x : W64),
      s.commits t k pc (.csr 0x010 x) (s.modCtx (s.team t).ctx fun v => { v with tvec := x }) 0 ∧
      s.commits t k pc (.csr 0x012 x) (s.modCtx (s.team t).ctx fun v => { v with lachk := x.getLsbD 0 }) 0 ∧
      s.commits t k pc (.csr 0x013 x) (s.modCtx (s.team t).ctx fun v => { v with fpxen := x.setWidth 6 }) 0

/-- R201, R259, R263, R272, R274: the matrix commands are held, with the parameters read at issue, and enter the team's queue at the commit, in order; MRD waits for nothing of its tile and
reads the lanes' elements. -/
def Obligations.MatrixCommandResults : Prop :=
  ∀ (s : State) (t k d a b n l fa fb tile : Nat) (ka : Bool) (oks : List (Acc × Leaf × Nat)),
    let regs := (s.slice t k).regs
    let p := blockRegs d regs
    let sa := (s.params t).slots.getD fa 0
    let sb := (s.params t).slots.getD fb 0
    let desc := (s.descBytes t k 64 oks).2
    s.holds t k (.mzero tile) [.matrix (.zero tile)] [] [] Regs.adv ∧
    s.holds t k (.mwr d a tile l) [.matrix (.write tile (tileRow (regs.getS a)) (tileCol (regs.getS a))
      ((laneList regs.active).map fun j => (j, regs.getV d j)))] [] [] Regs.adv ∧
    (sclFault (s.params t) (regs.getS a) (regs.getS b) (n + 1) (s.firstLane k) = none →
      s.holds t k (.mscl a b n) [.matrix (.scale (regs.getS a).toNat (regs.getS b).toNat (n + 1))] [] [] Regs.adv) ∧
    (loopFault (s.params t) sa sb ka p (s.firstLane k) = none → pDe p = false →
      s.holds t k (.mloop d fa fb tile ka l) [.matrix (.loop { tile := tile, fa := sa, fb := sb, ka := ka, params := p, desc := [] })] [] [] Regs.adv) ∧
    (s.passes t k [(pDesc p, wantDesc 64 fun c => c == .nc || c == .io)] oks → drainFault (s.params t).tmem p (pDesc p) desc (s.firstLane k) = none →
      (loopFault (s.params t) sa sb ka p (s.firstLane k) = none → pDe p = true →
        s.holds t k (.mloop d fa fb tile ka l) [.matrix (.loop { tile := tile, fa := sa, fb := sb, ka := ka, params := p, desc := desc })] [] (s.loadLines t oks) Regs.adv) ∧
      s.holds t k (.mdrain d tile) [.matrix (.drain tile p desc)] [] (s.loadLines t oks) Regs.adv) ∧
    (∀ ks, s.acts t ks → (∀ j ∈ ks, (s.slice t j).mark = none) → (s.team t).pending (s.team t).released (some tile) = false →
      s.sets t ks (.mrd d a tile l) fun _ r =>
        (singleLanes (fun j => (s.team t).element tile (tileRow (r.getS a)) (tileCol (r.getS a) + j)) d r).adv) ∧
    (∀ (pc : W64) (o : MatOp), s.commits t k pc (.matrix o) (s.modTeam t fun x =>
      { x with released := x.released + 1, queue := x.queue ++ [{ num := x.released + 1, slice := k, core := s.coreNum t, op := o, steps := 0, wrapped := false,
                                                                  drained := false, flags := 0, bad := none, asked := [], gone := [] }] }) 0)

/-- R201, R212, R276, R277, R285, R292, R293: an engine command that passes its checks is held and its ticket written, one more than the last of the team; its thread is forked at the
commit. -/
def Obligations.EngineCommandResults : Prop :=
  ∀ (s : State) (t k d a b : Nat) (f : Binding) (oks : List (Acc × Leaf × Nat)),
    let regs := (s.slice t k).regs
    let va := regs.getS a
    let h := regs.getS b
    let ticket (r : Regs) : Regs := (r.setS d (BitVec.ofNat 64 (s.ticket t k))).adv
    (let desc := (s.descBytes t k 128 oks).2
     s.passes t k [(va, wantDesc 128 fun c => c == .io)] oks → s.copyTrap t f h va desc (s.firstLane k) = none →
      s.holds t k (.copy f d a b)
        [.engine (s.ticket t k) (.copy f (if f == .gate then h.toNat else 0) (if f == .channel then s.handleOf t h else none) va desc
          ((s.params t).slots.getD (cSlot desc) 0))] [] (.issued t :: s.loadLines t oks) ticket) ∧
    (let desc := (s.descBytes t k 64 oks).2
     s.passes t k [(va, wantDesc 64 fun c => c == .io)] oks → s.allredTrap va desc (s.firstLane k) = none →
      s.holds t k (.allred d a) [.engine (s.ticket t k) (.allred desc va)] [] (.issued t :: s.loadLines t oks) ticket) ∧
    (let ps := s.rangeLeavesAt (s.team t).ctx va h
     repRangeBad va h = false → repsyncTrap ps (s.firstLane k) = none → s.touch (s.team t).ctx (ps.map (·.1)) = s →
      s.holds t k (.repsync d a b) [.engine (s.ticket t k) (.repsync va h)] [] [.issued t] ticket) ∧
    (∀ (pc : W64) (n g : Nat) (ch : Option (Nat × Nat)) (desc : List Byte) (slot : BitVec 64),
      let e : Engine := { Engine.blank with ctx := (s.team t).ctx, team := some t, slice := k, die := s.teamDie t, core := s.coreNum t, ticket := n, done := false }
      let fork (x : Engine) : State := (({ s with engines := FMap.put s.engines (nextKey s.engines) x }).modTeam t fun y => { y with issued := y.issued + 1 }).invalidate
        [.issued t] (some (sliceKey t k))
      s.commits t k pc (.engine n (.copy f g ch va desc slot)) (fork { e with kind := .copy, bind := f, gate := g, chan := ch, va := va, desc := desc, slot := slot }) 0 ∧
      s.commits t k pc (.engine n (.allred desc va)) (fork { e with kind := .allred, desc := desc, va := va }) 0 ∧
      s.commits t k pc (.engine n (.repsync va h)) (fork { e with kind := .repsync, base := va, len := h }) 0)

/-- R201, R314 to R316: device-side launches and graphs hold the record as it is at issue, and SIGNAL its word; at the commit the launch is admitted, or added to the issuing launch's tails,
at most 64 of them, the graph starts, and a signal is told to every waiter. -/
def Obligations.LaunchCommandResults : Prop :=
  ∀ (s : State) (t k d a : Nat) (oks : List (Acc × Leaf × Nat)),
    let va := (s.slice t k).regs.getS a
    (s.passes t k (wantRecord 256 va) oks →
      s.holds t k (.launchN a) [.launchN va (s.recordBytes t k 256 oks).2] [] (s.loadLines t oks) Regs.adv ∧
      s.holds t k (.launchT a) [.launchT va (s.recordBytes t k 256 oks).2] [] (s.loadLines t oks) Regs.adv) ∧
    (s.passes t k (wantRecord 64 va) oks →
      s.holds t k (.graphgo a) [.graph va (s.recordBytes t k 64 oks).2] [] (s.loadLines t oks) Regs.adv) ∧
    (∀ x, oks = [x] → s.passes t k [(va, wantSignal)] oks →
      s.holds t k (.signal d a)
        [.signal (storeRun x.2.1.rep x.1.va.toNat x.2.2 (leBytes 8 ((s.slice t k).regs.getS d).toNat)) [x.2.1.addr]]
        (writeLine x.2.1 x.2.2) [] Regs.adv) ∧
    (∀ (pc : W64) (bs : List Byte),
      let c := (s.team t).ctx
      let l := (s.team t).launch
      s.commits t k pc (.launchN va bs) (s.admitLaunch c va bs .slice) 0 ∧ s.commits t k pc (.graph va bs) (s.graphStart c va bs .slice) 0 ∧
      ((s.launch l).tails.length < 64 → s.commits t k pc (.launchT va bs) (s.modLaunch l fun x => { x with tails := x.tails ++ [(va, bs)] }) 0)) ∧
    (∀ pc num now w ls (ys : List StoreByte), (s.slice t k).chunk.held = [{ pc := pc, num := num, eff := .signal ys ls }] → s.commitChunk t k now = .ok w →
      ∀ c x, FMap.find? s.ctxs c = some x → (w.ctx c).notified = x.notified + 1)

/-! ### Closers -/

/-- R203, R214, R222, R273, R289, R196: closers that change nothing but their slice, MWAIT's joined conditions and BALACK's mailbox apart. Where the open chunk holds effects, its commit comes
first: said of FENCEIO, where no step 6 is left to do and no matrix command waits for room. -/
def Obligations.CloserResults : Prop :=
  ∀ (s : State) (t k a b : Nat),
    let c := (s.team t).ctx
    let regs := (s.slice t k).regs
    s.closes t k .fenceio s Regs.adv ∧
    (∀ w, s.acts t [k] → s.lets t [k] .fenceio → (s.slice t k).hit = false → (s.slice t k).prev = none → (s.slice t k).prevHit = false → (s.slice t k).post = [] →
      (s.slice t k).status = .run → (s.slice t k).park = none → (s.slice t k).mark = none → (s.slice t k).tell = none →
      (s.slice t k).chunk.instrs ≠ 0 → (∀ it ∈ (s.slice t k).chunk.held, it.late = false ∧ it.isMatrix = false) → s.commitChunk t k true = .ok w →
      (w.slice t k).regs.fpx &&& ~~~ (w.slice t k).regs.delivered = 0 →
      ∃ u, exec .fenceio s = .next u ∧ Leaves w u t k ((w.slice t k).closed (w.ctx (w.team t).ctx) (w.slice t k).regs.adv) ∧ u.gangs = s.gangs) ∧
    (min (regs.getS a).toNat (s.team t).issued ≤ (s.team t).doneCount → s.closes t k (.cwait a) s Regs.adv) ∧
    ((s.team t).pending (s.team t).released none = false → FMap.get 0 (s.team t).conds k &&& ~~~ regs.delivered = 0 →
      s.closes t k .mwait (s.modTeam t fun v => { v with conds := FMap.set 0 v.conds k 0 }) fun r => (r.raise (FMap.get 0 (s.team t).conds k)).adv) ∧
    (let m := (s.ctx c).mailbox
     (m.id = 0 ∨ regs.getS a ≠ m.id → s.closes t k (.balack a b) s Regs.adv) ∧
     (m.id ≠ 0 → regs.getS a = m.id → s.closes t k (.balack a b) ((s.modCtx c fun x =>
       { x with mailbox := { m with id := 0, wanted := 0, owed := 0, answered := m.id, given := (regs.getS b).setWidth 32 } }).invalidate
         [.mailbox c] (some (sliceKey t k))) Regs.adv))

/-- R83, R140, R143, R179, R193, R200, R201, R204, R214, R227, R228: CMIT ends its chunk, itself the last instruction: one with no effect commits there, and one with effects, or behind a commit under way,
waits for its commit, and its slice with it where a flag may have to be delivered (log entry 12). What a commit leaves of memory, on lines that are sound and leaves whose d bits are set:
each byte that stores or a SIGNAL put somewhere is the last that they put there; a reduction's word is what the operation makes of the old one, its flags raised; every other byte is as before; a
store to an NC page reaches memory in step 6. Every commit is charged: it fails, with the granules wanting, if they exceed the reserve (RESERVE) or a die's pool (POOL), and goes through otherwise. -/
def Obligations.CommitResults : Prop :=
  (∀ (s : State) (t k : Nat), s.calm t k .cmit → ∃ u, exec .cmit s = .next u ∧
    Leaves s u t k (let r := { (s.slice t k).regs.adv with wins := [] }
      { (s.slice t k).committed (s.ctx (s.team t).ctx) with regs := r, chunk := Chunk.begin (s.ctx (s.team t).ctx) r }) ∧ u.gangs = s.gangs) ∧
  (∀ (s : State) (t k : Nat), s.acts t [k] → s.lets t [k] .cmit →
    let v := s.slice t k
    (v.heldAll ≠ [] ∨ v.prev.isSome = true ∨ v.hit = true) → ∃ u, exec .cmit s = .next u ∧
      Leaves s u t k (let w := s.ran .cmit t k v v.regs.adv
        { w with chunk := { w.chunk with ended := true },
                 tell := if v.regs.fpx &&& ~~~ v.regs.delivered ≠ 0 ∨ v.heldAll.any HeldItem.reduces = true then some v.fpxen else none })) ∧
  (∀ (s : State) (t k : Nat) (bs : List StoreByte) (ls : List Nat), (∀ l ∈ ls, (s.readWord64 l).getLsbD 14 = true) →
    (∀ b ∈ bs, ∀ a ∈ s.copies b.rep b.npa, s.sound a) →
    let last (a : Nat) : Option Byte := (bs.reverse.find? fun b => (s.copies b.rep b.npa).contains a).map (·.val)
    s.leavesMem t k (.store false bs ls) last ∧ s.leavesMem t k (.signal bs ls) last ∧
    ∀ pc num now w, (s.slice t k).chunk.held = [{ pc := pc, num := num, eff := .store true bs ls }] → s.commitChunk t k now = .ok w →
      ∀ a, Memory.read w.mem a = if now then (last a).getD (Memory.read s.mem a) else Memory.read s.mem a) ∧
  (∀ (s : State) (t k : Nat) (o : AtomOp) (wide : Bool) (m : BitVec 16) (xs : List RedLane) (ls : List Nat),
    let n := if wide then 8 else 4
    let r (x : RedLane) := atomApply o (8 * n) m (leNat (s.readBytes x.npa n)) (x.val.toNat % 2 ^ (8 * n)) 0
    (∀ l ∈ ls, (s.readWord64 l).getLsbD 14 = true) → (∀ x ∈ xs, x.rep = false ∧ ∀ i < n, s.sound (x.npa + i)) →
    xs.Pairwise (fun x y => x.npa + n ≤ y.npa ∨ y.npa + n ≤ x.npa) →
    s.leavesMem t k (.red o wide m xs ls) (fun a => (xs.find? fun x => decide (x.npa ≤ a) && decide (a < x.npa + n)).bind fun x => (leBytes n (r x).1)[a - x.npa]?) ∧
    ∀ pc num now w, (FMap.find? s.slices (sliceKey t k)).isSome = true → (s.slice t k).chunk.held = [{ pc := pc, num := num, eff := .red o wide m xs ls }] →
      s.commitChunk t k now = .ok w → (w.slice t k).regs.fpx = xs.foldl (fun f x => f ||| (r x).2) (s.slice t k).regs.fpx) ∧
  ∀ (s : State) (t k : Nat) (now : Bool),
    let c := (s.team t).ctx
    let held := (s.slice t k).chunk.held
    let full := s.trial allSorts c held
    let chg := s.chargeCodes full (s.trial charged c held)
    let u := s.growOwnerless chg
    let ns := (u.needs chg full.pins).filter fun e => (u.block e.1).owner.isSome
    let g := sumNat (ns.map (·.2))
    let short := ∃ b ∈ ns, 0 < b.2 ∧ u.freeFor b.1 < sumNat ((ns.filter fun x => u.poolId x.1 == u.poolId b.1).map (·.2))
    (∀ w, s.commitChunk t k now = .ok w → g = 0 ∨ ((g : Int) ≤ (u.ctx c).reserve ∧ ¬ short)) ∧
    ∀ f, s.commitChunk t k now = .error f → f.g = g ∧ 0 < g ∧
      ((f.kind = 0 ∧ (u.ctx c).reserve < (g : Int)) ∨ (f.kind = 1 ∧ (g : Int) ≤ (u.ctx c).reserve ∧ short))

/-- R56, R232, R301: a WAIT whose word meets its condition; the conditions, on the word m and the value y, signed but for `ltN` and `geN`. -/
def Obligations.WaitResults : Prop :=
  (∀ (s : State) (t k a b : Nat) (c : WaitCond) (x : Acc × Leaf × Nat),
    s.passes t k [((s.slice t k).regs.getS a, wantWait)] [x] →
    condOn c (s.readWord64 (s.loadAddr (s.teamDie t) x.2.1 x.2.2)) ((s.slice t k).regs.getS b) = true →
      s.closes t k (.wait c a b) s Regs.adv) ∧
  ∀ m y : W64, (condOn .eq m y = true ↔ m = y) ∧ (condOn .ne m y = true ↔ m ≠ y) ∧
    (condOn .lt m y = true ↔ m.toInt < y.toInt) ∧ (condOn .ge m y = true ↔ y.toInt ≤ m.toInt) ∧
    (condOn .ltN m y = true ↔ m.toNat < y.toNat) ∧ (condOn .geN m y = true ↔ y.toNat ≤ m.toNat)

/-- R233 to R235, R239, R240: a lone slice's barrier, a gate already passed, and the blocking acquire and take of a counter above 0. -/
def Obligations.SyncResults : Prop :=
  ∀ (s : State) (t k d a b n p : Nat),
    let regs := (s.slice t k).regs
    ((s.team t).arrivals = 0 → s.live t = [k] →
      s.closes t k (.bar n) (s.modTeam t fun v => { v with target := n, arrivals := 0 }) Regs.adv) ∧
    (let g := (s.team t).gate (regs.getS a).toNat
     (regs.getS a).toNat % 16 = 0 → (regs.getS a).toNat + 16 ≤ (s.params t).tmem → g.passed ((regs.getS b).setWidth 16) = true →
      s.closes t k (.gwait p a b) s fun r => (r.setP p (if g.err then 0xF else 0)).adv) ∧
    (∀ o c v, s.handle t (regs.getS a) = some (o, c) → s.chan o c = some v → (s.teamCore o).isSome = true →
      (0 < v.free → s.closes t k (.chacq d a) ((s.modTeam o fun x => { x with chans := x.chans.set c (v.update .acq).1 }).invalidate
        [.chan o c] (some (sliceKey t k))) fun r => (r.setS d (BitVec.ofNat 64 (v.slot .acq))).adv) ∧
      (0 < v.filled → s.closes t k (.chtake d a) ((s.modTeam o fun x => { x with chans := x.chans.set c (v.update .take).1 }).invalidate
        [.chan o c] (some (sliceKey t k))) fun r => (r.setS d (BitVec.ofNat 64 (v.slot .take))).adv))

/-- R85, R91: SRD of %clk takes the core's counter, which has gone on, and past the quarter's last reading. By how much it goes on is the model's choice (log entry 27). -/
def Obligations.ClockReading : Prop :=
  (∀ (s : State) (t k d : Nat), s.calm t k (.srd d 0x00F) → ∃ u, exec (.srd d 0x00F) s = .next u ∧ u.gangs = s.gangs ∧
    Leaves s.clockOn u t k ((s.slice t k).closed (s.ctx (s.team t).ctx) ((s.slice t k).regs.setS d (s.clockOn.clockValue t)).adv)) ∧
  (∀ (s : State) (t c : Nat) (qs : List Nat) (q : Nat) (m : Nat), (s.team t).place = .resident c qs q m →
    s.clockOn.clockValue t = BitVec.ofNat 64 (s.clockOn.core c).clk) ∧
  (∀ (s : State) (t c k : Nat) (qs : List Nat) (ks : List Nat), (FMap.find? s.cores c).isSome = true → s.cur = { team := t, ks := k :: ks } →
    (∃ q m, (s.team t).place = .resident c qs q m) →
      FMap.get 0 (s.core c).clkRead (qs.getD (k / 8) 0) < (s.clockOn.core c).clk ∧ (s.core c).clk ≤ (s.clockOn.core c).clk ∧
      FMap.get 0 (s.clockOn.core c).clkRead (qs.getD (k / 8) 0) = (s.clockOn.core c).clk)

/-- R97, R98, R233: EXIT in a calm slice of a team with no arrival at its barrier: its chunk commits and the slice has exited, its registers as they were; its gang is no
more. -/
def Obligations.ExitResults : Prop :=
  ∀ (s : State) (t k : Nat), s.calm t k .exit → (s.team t).arrivals = 0 → ∃ u, exec .exit s = .next u ∧
    Leaves s u t k { (s.slice t k).committed (s.ctx (s.team t).ctx) with status := .exited, handler := false } ∧
    u.gangs = s.gangs.filter fun g => g.team != t || g.ks != [k]

/-- R225 to R228: ATOM of one lane at a line of this module. Where the commit of what it writes can be charged, the lane's destination takes the
old value, the word the new one, and the chunk commits. -/
def Obligations.AtomicResults : Prop :=
  ∀ (s w : State) (t k v x b : Nat) (op : AtomOp) (dbl : Bool) (y : Acc × Leaf × Nat),
    s.calm t k (.atom op v x b dbl) → s.lanesPass t k (wantAtom op dbl true s t) (laneAddr b x) [y] →
    let c := s.ctx (s.team t).ctx
    let n := dblBytes dbl
    let r := (s.slice t k).regs
    let old := leNat (s.readBytes y.2.2 n)
    let m := atomApply op (8 * n) r.mode old (getLane v dbl r y.1.l) (if op == .cas then casValue v dbl r y.1.l else 0)
    let v0 := if (s.slice t k).chunk.instrs = 0 then s.slice t k else (s.slice t k).committed c
    m.2 &&& ~~~ r.delivered = 0 →
    (s.modSlice t k fun _ =>
      let h := v0.hold [.store false (storeRun y.2.1.rep y.1.va.toNat y.2.2 (leBytes n m.1)) [y.2.1.addr]] [.mem (lineOf y.2.2)] []
      { h with regs := { ((putLane v dbl r y.1.l old).raise m.2).adv with wins := [] }, chunk := { h.chunk with instrs := h.chunk.instrs + 1 } }).commitChunk
        t k true = .ok w →
      ∃ u, exec (.atom op v x b dbl) s = .next u ∧ Leaves w u t k (w.slice t k) ∧
        (u.slice t k).regs = { ((putLane v dbl r y.1.l old).raise m.2).adv with wins := [] }

/-- R141, R187, R190, R195: FORFEIT of a range that passes its checks, each of its translated pages once, forfeited ones passed over. Each page's ff bit is set; each of its sound blocks
keeps no granule, its lines ZERO, its bytes 0; f granules are freed, q = min(f, owed) of them against the open request: owed and the quota fall by q, the occupied count by f, and s[d] takes f. A
length of 0 gives up nothing and writes 0 (the model's choice, log entry 62). Page tables lie outside the pages given up, and no commit of the context has step 6 left to do. -/
def Obligations.ForfeitResults : Prop :=
  ∀ (s : State) (t k d a b : Nat),
    let base := (s.slice t k).regs.getS a
    let len := (s.slice t k).regs.getS b
    let c := (s.team t).ctx
    let ps := s.rangeLeavesAt c base len
    (len = 0 → s.closes t k (.forfeit d a b) s fun r => (r.setS d 0).adv) ∧
    (len ≠ 0 → base.toNat % 65536 = 0 → len.toNat % 65536 = 0 → rangeBad true base len = false → (∀ p ∈ ps, pageOut base len p = false) →
      (∀ p ∈ ps, p.2.ff = true ∨ (p.2.w = true ∧ p.2.cc = .dev ∧ isFabric (p.2.npa p.1) = false)) → s.touch c (ps.map (·.1)) = s →
      let pages := (ps.filter fun p => !p.2.ff).foldl (fun (x : List (W64 × Leaf)) p => if x.any fun q => q.2.addr == p.2.addr then x else x ++ [p]) []
      let f := pages.foldl (fun (x : State × Nat) p => ((x.1.forfeitPage t k p.1 p.2).1, x.2 + (x.1.forfeitPage t k p.1 p.2).2)) (s, 0)
      s.closes t k (.forfeit d a b) (f.1.forfeitAccount t k c f.2) (fun r => (r.setS d (BitVec.ofNat 64 f.2)).adv) ∧
      (s.calm t k (.forfeit d a b) → d < 64 → (FMap.find? s.ctxs c).isSome = true → (∀ e ∈ s.slices, (s.team (e.1 / 256)).ctx = c → e.2.post = []) →
        (∀ p ∈ ps, p.2.addr % 8 = 0 ∧ s.discards p.2.addr = false ∧ ∀ q ∈ ps, blockOf p.2.addr ∉ s.pageBlocks q.2) →
        ∃ u n, exec (.forfeit d a b) s = .next u ∧ (u.slice t k).regs.getS d = BitVec.ofNat 64 n ∧
          (let q := min n (s.ctx c).mailbox.owed.toNat
           (u.ctx c).mailbox.owed = (s.ctx c).mailbox.owed - BitVec.ofNat 32 q ∧ (u.ctx c).quota = (s.ctx c).quota - q ∧ (u.ctx c).occupied = (s.ctx c).occupied - n) ∧
          (∀ p ∈ ps, p.2.ff = false → (u.readWord64 p.2.addr).getLsbD 11 = true ∧ ∀ x ∈ s.pageBlocks p.2, (s.block x).bad = false →
            (u.block x).count = 0 ∧ (∀ i, FMap.get 0 (u.block x).codes i = codeZero) ∧ (∀ y, y / 4096 = x → Memory.read u.mem y = 0)) ∧
          (∀ p, pages = [p] → n = sumNat (((s.pageBlocks p.2).dedup.filter fun x => !(s.block x).bad).map fun x => (s.block x).count))))

/-! ### Sleepers -/

/-- R203, R232, R235, R240, R273, R289: each sleeper's wake event, its condition met, completes the sleeper's closer. -/
def Obligations.WakeResults : Prop :=
  ∀ (s : State) (t k d a b p n : Nat),
    let regs := (s.slice t k).regs
    (∀ (c : WaitCond) (x : Acc × Leaf × Nat), s.dozes t k (.wait (.wait c a b)) → (s.atGang t k).passes t k [(regs.getS a, wantWait)] [x] →
      condOn c (s.readWord64 (s.loadAddr (s.teamDie t) x.2.1 x.2.2)) (regs.getS b) = true →
        s.wakes t k (.waitWake t k) (s.atGang t k) id) ∧
    (let g := (s.team t).gate (regs.getS a).toNat
     s.dozes t k (.gate (.gwait p a b)) → g.passed ((regs.getS b).setWidth 16) = true →
      s.wakes t k (.gwaitWake t k) s fun r => r.setP p (if g.err then 0xF else 0)) ∧
    (∀ o c v, s.handle t (regs.getS a) = some (o, c) → s.chan o c = some v → (s.teamCore o).isSome = true →
      (0 < v.free → s.dozes t k (.chan (.chacq d a)) →
        s.wakes t k (.channelWake t k) ((s.atGang t k).takeSlot t k o c .acq v) fun r => r.setS d (BitVec.ofNat 64 (v.slot .acq))) ∧
      (0 < v.filled → s.dozes t k (.chan (.chtake d a)) →
        s.wakes t k (.channelWake t k) ((s.atGang t k).takeSlot t k o c .take v) fun r => r.setS d (BitVec.ofNat 64 (v.slot .take)))) ∧
    (s.dozes t k (.cwait n) → n ≤ (s.team t).doneCount → s.wakes t k (.cwaitWake t k) s id) ∧
    (s.dozes t k (.mwait n) → (s.team t).pending n none = false → FMap.get 0 (s.team t).conds k &&& ~~~ regs.delivered = 0 →
      s.wakes t k (.mwaitWake t k) (s.modTeam t fun v => { v with conds := FMap.set 0 v.conds k 0 }) fun r => r.raise (FMap.get 0 (s.team t).conds k))

/-! ### Traps -/

/-- R331: TRAP and BRK enter the handler with causes 11 and 12 once the chunk before them and their own have committed; TRAP resumes after
itself, BRK at itself. -/
def Obligations.SoftwareTraps : Prop :=
  ∀ (s : State) (t k n : Nat), s.handles t k →
    let pc := (s.slice t k).regs.pc
    let c := s.ctx (s.team t).ctx
    let v := s.modSlice t k fun x => { (x.settled c).committed c with park := none }
    (s.calm t k (.trap n) → s.enters t k (.trap n) v
      { cause := 11, sub := 0, pc := pc + 4, cpc := pc, addr := 0, word := instrWord (.trap n), info := BitVec.ofNat 32 n }) ∧
    (s.calm t k (.brk n) → s.enters t k (.brk n) v
      { cause := 12, sub := 0, pc := pc, cpc := pc, addr := 0, word := instrWord (.brk n), info := BitVec.ofNat 32 n })

/-- R330, R334: RTE in a handler, its frame read as a load that passes: from a good frame s0 to s7, p0, p1, MODE and the PC come from it, and the slice has left its handler; a frame with a reserved
MODE bit or a misaligned PC (log entry 37) is a context fault of code 2. -/
def Obligations.ReturnResults : Prop :=
  ∀ (s : State) (t k : Nat) (oks : List (Acc × Leaf × Nat)), s.calm t k .rte → (s.slice t k).handler = true →
    s.passes t k [(s.frameAddr t k, wantDesc 128 fun c => c == .io)] oks →
    let c := (s.team t).ctx
    let f := (s.descBytes t k 128 oks).2
    ((2 ^ 13 ≤ field f 96 2 ∨ field f 64 8 % 4 ≠ 0) → (FMap.find? s.ctxs c).isSome = true →
      ∃ u, exec .rte s = .next u ∧ (u.ctx c).stopped = true ∧ (u.ctx c).halted = true ∧ u.out = s.out ++ [Out.driver c 2]) ∧
    (field f 96 2 < 2 ^ 13 → field f 64 8 % 4 = 0 → ∃ u, exec .rte s = .next u ∧ Leaves s u t k
      (let v := (s.slice t k).committed (s.ctx c)
       let r := { (s.slice t k).regs.restore f with wins := [] }
       { v with handler := false, regs := r, chunk := Chunk.begin (s.ctx c) r }) ∧
      (∀ i < 8, (u.slice t k).regs.getS i = field64 f (8 * i)) ∧ (u.slice t k).regs.pc = field64 f 64 ∧
      (u.slice t k).regs.mode = BitVec.ofNat 16 (field f 96 2) ∧
      (u.slice t k).regs.getP 0 = BitVec.ofNat 4 (field f 98 1 % 16) ∧ (u.slice t k).regs.getP 1 = BitVec.ofNat 4 (field f 98 1 / 16))

/-- R57, R95, R150, R325, R330, R351: traps that an instruction takes in place of its effect: words that are no instruction, a jump to a misaligned address, RTE
outside a handler, and an access that a check of R150 refuses or that lies on a failed expander, said of the plain loads and stores and RED: of several lanes that fail, the first check's, and of
those the lowest lane's. Class before permission, and a failed expander between permission and poison, is the model's reading of their order (log entry 10), the lowest
gang lane in info for an access that no lane makes likewise (log entry 23). -/
def Obligations.InstructionTraps : Prop :=
  ∀ (s : State) (t k : Nat), s.handles t k →
    let regs := (s.slice t k).regs
    let c := s.ctx (s.team t).ctx
    let v := s.modSlice t k (Slice.settled c)
    let frame (cause sub : Nat) (addr : W64) (word info : W32) : Frame :=
      { cause := cause, sub := sub, pc := regs.pc, cpc := regs.pc, addr := addr, word := word, info := info }
    (∀ w, s.calm t k (.extensionEmulation w) → s.enters t k (.extensionEmulation w) v (frame 2 0 0 w 0)) ∧
    (∀ w sub, s.calm t k (.illegalInstruction w sub) → s.enters t k (.illegalInstruction w sub) v (frame 1 sub 0 w 0)) ∧
    (∀ a, (regs.getS a).toNat % 4 ≠ 0 → s.calm t k (.jmpr a) →
      s.enters t k (.jmpr a) v (frame 3 0 (regs.getS a) (instrWord (.jmpr a)) (BitVec.ofNat 32 (s.firstLane k)))) ∧
    ((regs.getS 63).toNat % 4 ≠ 0 → s.calm t k .ret →
      s.enters t k .ret v (frame 3 0 (regs.getS 63) (instrWord .ret) (BitVec.ofNat 32 (s.firstLane k)))) ∧
    (s.calm t k .rte → s.enters t k .rte v (frame 1 1 0 (instrWord .rte) 0)) ∧
    ∀ (d x b l : Nat) (dbl : Bool) (sz : Width) (o : BitVec 10) (op : AtomOp) (row cause sub : Nat) (named : W64),
      let cx := (s.team t).ctx
      let here (vas : List W64) : Prop := s.touch cx vas = s ∧ ∀ va ∈ vas, ∀ l, s.walk cx va = .leaf l → isFabric (l.npa va) = false
      let lanes (i : Instr) (w : Want) (addr : Regs → Nat → W64) : Prop :=
        let xs := s.laneAccs t [k] addr
        ∀ y ∈ xs, s.calm t k i → here (xs.map (·.va)) → s.fails t w y.va row cause sub named →
          (∀ z ∈ xs, ∀ row' cause' sub' named', s.fails t w z.va row' cause' sub' named' → row < row' ∨ (row = row' ∧ y.gl ≤ z.gl)) →
          s.enters t k i v (frame cause sub named (instrWord i) (BitVec.ofNat 32 y.gl))
      let alone (i : Instr) (w : Want) : Prop :=
        let va := msBase b (widthBytes sz) o regs
        s.calm t k i → here [va] → s.fails t w va row cause sub named →
          s.enters t k i v (frame cause sub named (instrWord i) (BitVec.ofNat 32 (s.firstLane k)))
      lanes (.vld d x b dbl l) (wantLoad (dblBytes dbl)) (laneAddr b x) ∧ lanes (.vldc d b dbl o) (wantLoad (dblBytes dbl)) (blockAddr b (dblBytes dbl) o) ∧
      lanes (.vst d x b dbl l) (wantStore (dblBytes dbl)) (laneAddr b x) ∧ lanes (.vstc d b dbl o) (wantStore (dblBytes dbl)) (blockAddr b (dblBytes dbl) o) ∧
      lanes (.red op d x b dbl) (wantAtom op dbl false s t) (laneAddr b x) ∧
      alone (.sld d b sz o) (wantLoad (widthBytes sz)) ∧ alone (.sst d b sz o) (wantStore (widthBytes sz))

/-- R38, R41, R43, R46, R61, R100, R116: an instruction that names a register or an operand that its slice does not have takes a trap in place of its effect, with the first check of R61's list that
fails: any instruction. What fails is then said form by form: subcode 2 for GINIT's count and COPY's idle field, 3 for a register or tile outside the allocation or a group that is not aligned, 4 for a MODE type
that is not accepted or a reserved MODE bit, 5 for a slot, VCVT's before its registers, 6 for a register that is read-only; cause 9 for the lookahead check, last of all: a read of an open promise's
destination, or a write of its source that is no destination of it. -/
def Obligations.RefusedOperands : Prop :=
  ∀ (s : State) (t k : Nat),
    let r := (s.slice t k).regs
    let p := s.params t
    let slot (n : Nat) := p.slots.getD n 0
    let bad (i : Instr) (sub : Nat) : Prop := s.refusal i t k = some (1, sub)
    (∀ (i : Instr) (cause sub : Nat), s.handles t k → s.acts t [k] → (encode i).isSome = true → s.refusal i t k = some (cause, sub) → (s.slice t k).idle →
      let z := match i with
        | .srd _ n => if n = 0x00F then s.clockOn else s
        | _ => s
      let v := z.modSlice t k (Slice.settled (s.ctx (s.team t).ctx))
      let f : Frame := { cause := cause, sub := sub, pc := r.pc, cpc := r.pc, addr := 0, word := instrWord i, info := 0 }
      (r.wins = [] → s.enters t k i v f) ∧
      (let b := v.framed t k f
       ∃ u, exec i s = .next u ∧ u.slice t k = (b.slice t k).entered (b.ctx (v.team t).ctx) (v.frameAddr t k) ∧ u.mem = b.mem)) ∧
    (∀ i cause sub, s.refusal i t k = some (cause, sub) → (cause = 1 ∧ 2 ≤ sub ∧ sub ≤ 6) ∨ (cause = 9 ∧ sub = 0)) ∧
    (∀ (d a b : Nat), ∀ i ∈ [Instr.sadd d a b, .ssub d a b, .smul d a b, .smulh d a b, .smulhN d a b, .sdiv d a b, .sdivN d a b, .srem d a b, .sremN d a b, .sand d a b,
        .sor d a b, .sxor d a b, .sshl d a b, .sshr d a b, .ssra d a b, .smin d a b, .sminN d a b, .smax d a b, .smaxN d a b, .sslt d a b, .ssltn d a b, .ssel d a b],
      (bad i 3 ↔ p.sregs ≤ d ∨ p.sregs ≤ a ∨ p.sregs ≤ b) ∧ (r.wins = [] → s.refusal i t k = none ∨ bad i 3)) ∧
    (∀ (d a b : Nat), ∀ i ∈ [Instr.vadd d a b, .vsub d a b, .vmul d a b, .vmulh d a b, .vmad d a b, .vmin d a b, .vmax d a b, .vshl d a b, .vshr d a b],
      let wide := modeType r.mode = 3 ∨ modeType r.mode = 7
      let out := if wide then p.vregs ≤ d + 1 ∨ p.vregs ≤ a + 1 ∨ p.vregs ≤ b + 1 ∨ d % 2 = 1 ∨ a % 2 = 1 ∨ b % 2 = 1
        else p.vregs ≤ d ∨ p.vregs ≤ a ∨ p.vregs ≤ b
      (bad i 3 ↔ out) ∧ (bad i 4 ↔ ¬ out ∧ 8 ≤ modeType r.mode)) ∧
    (∀ (d a b : Nat), ∀ i ∈ [Instr.vfadd d a b, .vfsub d a b, .vfmul d a b, .vfma d a b, .vfmin d a b, .vfmax d a b],
      let out := p.vregs ≤ d ∨ p.vregs ≤ a ∨ p.vregs ≤ b
      (bad i 3 ↔ out) ∧ (bad i 4 ↔ ¬ out ∧ modeType r.mode ≠ 8 ∧ modeType r.mode ≠ 9 ∧ modeType r.mode ≠ 10)) ∧
    (∀ (v x b : Nat) (l : Nat), (bad (.vld v x b true l) 3 ↔ p.sregs ≤ b ∨ p.vregs ≤ x ∨ p.vregs ≤ v + 1 ∨ v % 2 = 1)) ∧
    (∀ (a n : Nat), a < p.sregs → (bad (.swr a n) 6 ↔ n ≠ 0x010) ∧ (bad (.csrw a n) 6 ↔ n ≠ 0x010 ∧ n ≠ 0x012 ∧ n ≠ 0x013)) ∧
    (∀ m : BitVec 16, bad (.mode m) 4 ↔ 2 ^ 13 ≤ m.toNat) ∧
    (∀ (a b : Nat), (bad (.ginit a b) 3 ↔ p.sregs ≤ a ∨ p.sregs ≤ b) ∧
      (bad (.ginit a b) 2 ↔ a < p.sregs ∧ b < p.sregs ∧ ((r.getS b).toNat % 65536 = 0 ∨ 65536 ≤ (r.getS b).toNat))) ∧
    (∀ (d a n : Nat) (u : BitVec 4) (l : Nat), (u = 15 ∨ modeType r.mode = 15) → slotAccepted (slot n) = false → bad (.vcvt d a n u l) 5) ∧
    (∀ (tile : Nat), bad (.mzero tile) 3 ↔ p.acc ≤ tile) ∧
    (∀ (d fa fb tile : Nat) (ka : Bool) (l : Nat), (bad (.mloop d fa fb tile ka l) 3 ↔ p.acc ≤ tile ∨ 56 < d ∨ p.sregs ≤ d + 7) ∧
      (bad (.mloop d fa fb tile ka l) 5 ↔ ¬ (p.acc ≤ tile ∨ 56 < d ∨ p.sregs ≤ d + 7) ∧ matrixSlots (slot fa) (slot fb) ka = false)) ∧
    ∀ i,
      let breach := ∃ w ∈ r.wins, (∃ x ∈ s.reads i t k, x ∈ w.wrote.map (·.1)) ∨ ∃ x ∈ s.writes i t k, x ∈ w.read.map (·.1) ∧ x ∉ w.wrote.map (·.1)
      (s.refusal i t k = some (9, 0) → (s.slice t k).lachk = true ∧ breach) ∧
      ((s.slice t k).lachk = true → breach → s.refusal i t k ≠ none) ∧ (¬ breach → s.refusal i t k ≠ some (9, 0))

/-- R328: the frame's 128 bytes, little-endian; a capacity fault's frame holds the registers of the checkpoint, and it and a floating-point trap's have no word. -/
def Obligations.FrameLayout : Prop :=
  (∀ (f : Frame) (r : Regs), f.cause < 256 → f.sub < 256 →
    let b := f.bytes r
    b.length = 128 ∧ (∀ i < 8, field64 b (8 * i) = r.getS i) ∧ field64 b 64 = f.pc ∧ field64 b 72 = f.cpc ∧ field64 b 80 = f.addr ∧
    field b 88 4 = f.word.toNat ∧ field b 92 4 = f.info.toNat ∧ field b 96 2 = r.mode.toNat ∧
    field b 98 1 = (r.getP 0).toNat + 16 * (r.getP 1).toNat ∧ field b 99 1 = f.cause ∧ field b 100 1 = f.sub ∧
    field b 101 1 = (if f.cause = 3 ∨ f.cause = 4 ∨ f.cause = 5 ∨ f.cause = 7 ∨ f.cause = 8 then f.info.toNat % 32 else 0) ∧
    b.drop 102 = List.replicate 26 0) ∧
  (∀ (s : State) (t k : Nat) (f : CapFail), (FMap.find? s.slices (sliceKey t k)).isSome = true → ∃ v : State,
    let ck := ((s.slice t k).prev.getD (s.slice t k).chunk).ckpt
    (v.slice t k).regs = ck ∧ (v.slice t k).chunk.held = [] ∧ v.mem = s.mem ∧ s.capacityFault t k f = v.enterHandler t k
      { cause := 6, sub := f.kind, pc := ck.pc, cpc := f.pc, addr := f.addr, word := 0, info := BitVec.ofNat 32 f.g }) ∧
  ∀ (s : State) (t k : Nat) (en : BitVec 6) (pc resume : W64), (s.slice t k).regs.fpx &&& ~~~ (s.slice t k).regs.delivered &&& en ≠ 0 →
    let new := (s.slice t k).regs.fpx &&& ~~~ (s.slice t k).regs.delivered &&& en
    ∃ v : State, s.deliver t k en pc resume = v.enterHandler t k { cause := 10, sub := 0, pc := resume, cpc := pc, addr := 0, word := 0, info := new.setWidth 32 }

/-- R57, R61, R95, R329 to R331, R334: a trap, whichever, in a slice that is in its handler already, or in a context with no handler, is a context fault: nothing is admitted or placed any more, exactly one driver
event with code 1 is posted, and memory changes by one error-log record alone, so that no frame is written: cause 0x0025, the would-be frame's cpc and addr, and info with the code, that frame's cause and subcode and
hm, 1 in a handler. Memory is said where no slice of the context has a commit's step 6 or 7 left to do. -/
def Obligations.HandlerAbsent : Prop :=
  ∀ (s : State) (t k : Nat),
    let c := (s.team t).ctx
    let sl := s.slice t k
    let pc := sl.regs.pc
    (sl.handler = true ∨ (s.ctx c).tvec = 0) → (FMap.find? s.ctxs c).isSome = true →
    (∀ f : Frame,
      let u := s.enterHandler t k f
      let hm := if sl.handler then 2 ^ 24 else 0
      let record : LogRec := { pc := f.cpc, addr := f.addr, info := BitVec.ofNat 32 (1 + 256 * f.cause + 65536 * f.sub + hm), slice := k, core := s.coreNum t,
                                die := s.teamDie t, tslot := s.tslot t, cause := 0x0025, src := 4 }
      (u.ctx c).stopped = true ∧ (u.ctx c).halted = true ∧ u.out = s.out ++ [Out.driver c 1] ∧
      ((∀ e ∈ s.slices, (s.team (e.1 / 256)).ctx = c → e.2.post = [] ∧ e.2.tell = none) → u.mem = (s.appendLog c record).mem)) ∧
    (let v := s.modSlice t k (Slice.settled (s.ctx c))
     let w := s.modSlice t k fun x => { (x.settled (s.ctx c)).committed (s.ctx c) with park := none }
     let f (i : Instr) (cause sub info : Nat) (addr : W64) : Frame :=
       { cause := cause, sub := sub, pc := pc, cpc := pc, addr := addr, word := instrWord i, info := BitVec.ofNat 32 info }
     (∀ n, s.calm t k (.trap n) → s.gives (.trap n) (w.enterHandler t k { f (.trap n) 11 0 n 0 with pc := pc + 4 })) ∧
     (∀ n, s.calm t k (.brk n) → s.gives (.brk n) (w.enterHandler t k (f (.brk n) 12 0 n 0))) ∧
     (∀ x, s.calm t k (.extensionEmulation x) → s.gives (.extensionEmulation x) (v.enterHandler t k (f (.extensionEmulation x) 2 0 0 0))) ∧
     (∀ x n, s.calm t k (.illegalInstruction x n) → s.gives (.illegalInstruction x n) (v.enterHandler t k (f (.illegalInstruction x n) 1 n 0 0))) ∧
     (∀ a, (sl.regs.getS a).toNat % 4 ≠ 0 → s.calm t k (.jmpr a) →
       s.gives (.jmpr a) (v.enterHandler t k (f (.jmpr a) 3 0 (s.firstLane k) (sl.regs.getS a)))) ∧
     (∀ i cause sub, (∀ d, i ≠ .srd d 0x00F) → s.acts t [k] → (encode i).isSome = true → s.refusal i t k = some (cause, sub) → sl.idle → sl.regs.wins = [] →
       s.gives i (v.enterHandler t k (f i cause sub 0 0))))

/-! ### Chunks and gangs -/

/-- R83, R97, R200, R204 to R207, R210, R211, R214, R259: the events of a slice's chunks: a change of level that is due; the rollback of a slice that alone in its gang an invalidation has hit, to
the checkpoint of its open chunk, or of the chunk in commit where that one is hit, and it leaves its gang; step 6 of a commit past its commit point; the commit of the chunk before the open one, and of the open one that has ended, each to
its commit point, or its capacity fault; and the delivery that a CMIT left to its commit. That steps 1 to 5 of R204 are one
event and step 6 another, the earlier chunk's first, is the model's choice (log entry 12). -/
def Obligations.ChunkEventResults : Prop :=
  ∀ (s : State) (t k : Nat),
    let sl := s.slice t k
    let ctx := (s.team t).ctx
    let toLevel (n : Nat) : Prop := s.gives (.levelChange t k) (s.modSlice t k fun v => { v with level := n, rb := 0, cm := 0 })
    let back (c : Nat) (from' : Slice → Slice) : State := (s.modSlice t k fun v => let w := from' v
      { w with regs := w.chunk.ckpt, hit := false, tell := none, park := none, mark := none, rb := v.rb + 1, cm := 0, rollbacks := v.rollbacks + 1,
               chunk := { w.chunk with instrs := 0, held := [], wlines := [], rlines := [], code := [], ended := false } }).modCore c fun v =>
        { v with rollbacks := v.rollbacks + 1 }
    (sl.level = 0 → 4 ≤ sl.rb → toLevel 1) ∧ (sl.level = 1 → sl.cm < 64 → 8 ≤ sl.rb → toLevel 2) ∧ (sl.level ≠ 0 → 64 ≤ sl.cm → toLevel 0) ∧
    (∀ g c, s.gangOf t k = some g → (g.ks.filter fun i => (s.slice t i).hit || (s.slice t i).prevHit) = [k] → sl.due = none → s.teamCore t = some c →
      (sl.prevHit = false → s.gives (.rollback t k) ((back c id).regroup t g.ks [k])) ∧
      (∀ p, sl.prevHit = true → sl.prev = some p → s.gives (.rollback t k) ((back c fun v => { v with chunk := p, prev := none, prevHit := false }).regroup t g.ks [k]))) ∧
    ((s.teamCore t).isSome = true → sl.status = .run →
      (sl.tell = none →
        (sl.post ≠ [] → s.gives (.chunkCommit t k) ((s.stepSix t k ctx sl.post).modSlice t k fun v => { v with post := [], nc := [] })) ∧
        (∀ p, sl.post = [] → sl.prev = some p → sl.prevHit = false → s.queueRoom t p.held = true →
          (∀ r, s.perform t k p.held = .ok r → s.gives (.chunkCommit t k) (r.1.modSlice t k (Slice.passed r.2 (p.held.filter HeldItem.late)))) ∧
          (∀ f, s.perform t k p.held = .error f → s.gives (.chunkCommit t k) (s.capacityFault t k f))) ∧
        (sl.post = [] → sl.prev = none → sl.hit = false → sl.chunk.ended = true → s.queueRoom t sl.chunk.held = true →
          (∀ w, s.commitChunk t k false = .ok w → s.gives (.chunkCommit t k) w) ∧
          (∀ f, s.commitChunk t k false = .error f → s.gives (.chunkCommit t k) (s.capacityFault t k f)) ∧
          (sl.chunk.held = [] → s.gives (.chunkCommit t k) (s.modSlice t k (Slice.committed (s.ctx ctx)))))) ∧
      (∀ en, sl.tell = some en → sl.post = [] → sl.prev = none → sl.chunk.ended = false →
        s.gives (.chunkCommit t k) ((s.modSlice t k fun v => { v with tell := none }).deliver t k en (sl.regs.pc - 4) sl.regs.pc)))

/-- R97, R99: a gang that has not every live slice of its home gang waits at its REGANG, its registers as they were, while a sibling has not arrived; the last to arrive ends the wait, and so does
the time limit, for those that have arrived: they go on in one gang for each MODE, in ascending order, with an ageing count of 0, beside the machine's other gangs. Which opportunity counts as the last is the model's
choice (log entry 65). -/
def Obligations.RegangWaits : Prop :=
  ∀ (s : State) (t : Nat) (ks : List Nat) (ga gb : List Gang) (G : Gang),
    let home := ks.headD 0 / 8
    let pc := (s.slice t (ks.headD 0)).regs.pc
    let mode (k : Nat) := (s.slice t k).regs.mode
    let fresh (k : Nat) := (s.slice t k).hit = false ∧ (s.slice t k).prevHit = false ∧ (s.slice t k).park = none ∧ (s.slice t k).status = .run
    let one (v : State) (js : List Nat) (k : Nat) : Prop := { team := t, ks := js.filter fun j => mode j = mode k, age := 0, wait := none } ∈ v.gangs
    let past (v : State) (k : Nat) : Prop := { (v.slice t k).regs with wins := [] } = { (s.slice t k).regs.adv with wins := [] }
    (s.acts t ks → s.lets t ks .regang → s.gangs = ga ++ G :: gb → G.team = t → G.ks = ks → ks ≠ [] →
      (∀ g ∈ ga ++ gb, g.ks ≠ [] ∧ (g.team = t → ∀ k ∈ ks, k ∉ g.ks)) →
      (∀ k ∈ ks, fresh k ∧ k ∈ s.homeLive t home ∧ (s.slice t k).regs.pc = pc ∧ mode k = mode (ks.headD 0)) →
      ((∃ k ∈ s.homeLive t home, k ∉ ks ∧ k ∉ s.arrived t home pc) →
        ∃ u, exec .regang s = .next u ∧ SliceEffect s u t ks (fun k => s.ran .regang t k (s.slice t k) (s.slice t k).regs) ∧
          u.gangs = ga ++ { G with wait := some 0 } :: gb) ∧
      ((∃ k ∈ s.homeLive t home, k ∉ ks) → (∀ k ∈ s.homeLive t home, k ∉ ks → fresh k ∧ k ∈ s.arrived t home pc) →
        ∃ u, exec .regang s = .next u ∧ (∀ k ∈ s.homeLive t home, past u k ∧ one u (s.homeLive t home) k) ∧
          ∀ g ∈ ga ++ gb, g.wait = none → g ∈ u.gangs)) ∧
    (∀ (h : Nat) (a : W64), (∀ g ∈ s.gangs, ∀ g' ∈ s.gangs, g.team = g'.team → (∃ k ∈ g.ks, k ∈ g'.ks) → g = g') → (∀ g ∈ s.gangs, g.ks ≠ [] ∧ g.ks.Nodup ∧ ∀ k ∈ g.ks, k < 256 ∧ (FMap.find? s.slices (sliceKey g.team k)).isSome = true ∧
        (s.slice g.team k).status ≠ .exited ∧ (s.slice g.team k).stand = (s.slice g.team (g.ks.headD 0)).stand) →
      (∃ g ∈ s.gangs, g.team = t ∧ (∃ n, g.wait = some n ∧ 1024 ≤ n) ∧ ∃ k ∈ g.ks, k / 8 = h ∧ (s.slice t k).regs.pc = a) →
      (∀ k ∈ s.arrived t h a, fresh k) →
      ∃ u, exec (.regangTimeout t h a) s = .next u ∧
        (∀ k ∈ s.arrived t h a, (u.slice t k).regs = (s.slice t k).regs.adv ∧ one u (s.arrived t h a) k) ∧
        (∀ k ∈ s.homeLive t h, k ∉ s.arrived t h a → u.slice t k = s.slice t k) ∧
        ∀ g ∈ s.gangs, g.wait = none → g ∈ u.gangs)

/-! ### Matrix commands -/

/-- R255, R259 to R261, R264, R268, R272 to R274: a command of the team's queue that may run, performed: MZERO, MWR and MSCL; a K-step of a loop, by turns with the other teams of the core (log entry 14), which leaves the queue
with its last if no drain follows; a drain with no residual into team memory, whole in one event, which is the model's choice (log entry 31): the hardware writes row by row. No sum wraps here. -/
def Obligations.MatrixEventResults : Prop :=
  ∀ (s : State) (t i : Nat) (m : MatCmd), (s.team t).queue[i]? = some m → s.mayRun t i = true → m.wrapped = false → m.bad = none →
    let done (v : State) (fl : Flags) : State := v.modTeam t fun x =>
      { x with queue := x.queue.filter fun q => q.num != m.num, conds := FMap.set 0 x.conds m.slice (FMap.get 0 x.conds m.slice ||| fl) }
    (∀ n, m.op = .zero n → s.gives (.matrixCommandPerform t i) (done (s.modTeam t fun v => v.setTile n []) m.flags)) ∧
    (∀ n r c ls, m.op = .write n r c ls → s.gives (.matrixCommandPerform t i)
      (done (s.modTeam t fun v => ls.foldl (fun y e => { y with acc := FMap.set 0 y.acc (tileKey n r (c + e.1)) e.2 }) v) m.flags)) ∧
    (∀ off idx g, m.op = .scale off idx g → s.gives (.matrixCommandPerform t i)
      (done (s.modTeam t fun v => (List.range (32 * g)).foldl (fun y e =>
        { y with scale := FMap.set 0 y.scale (idx + e) (BitVec.ofNat 16 (leNat (v.readBytes (off + 2 * e) 2))) }) v) m.flags)) ∧
    (∀ c, m.op = .loop c → s.turnOf t = false → s.gives (.kStep t i) s) ∧
    (∀ c, m.op = .loop c → m.steps < pCount c.params → s.turnOf t = true → (∀ x ∈ (s.team t).kStep c m.steps, x.2 = false) →
      let v := ((s.takeTurn t).modTeam t fun x => x.setTile c.tile (((s.team t).kStep c m.steps).map (·.1))).modCmd t m.num fun _ => { m with steps := m.steps + 1 }
      s.gives (.kStep t i) (if m.steps + 1 = pCount c.params ∧ pDe c.params = false then done v m.flags else v)) ∧
    (∀ tile p d, m.drainOf = some (tile, p, d) → dDtm d = true → dRes d = false →
      let e (r n : Nat) := drainElement p d ((s.team t).element tile r n) 0 r n
      let cells := (List.range (dRows d)).flatMap fun r => (List.range (dCols d)).map fun n => (r, n)
      let bs := cells.flatMap fun x =>
        byteRun (pDst p + BitVec.ofNat 64 (x.1 * dOpitch d + x.2 * fmtBytes (dOfmt d))).toNat (leBytes (fmtBytes (dOfmt d)) (e x.1 x.2).1)
      s.gives (.drain t i) (done ((s.modTeam t fun v => bs.foldl (fun y b => { y with tmem := FMap.set 0 y.tmem b.1 b.2 }) v).invalidate
        ((bs.map fun b => LineId.team t (b.1 / 128)).dedup) none) (cells.foldl (fun f x => f ||| (e x.1 x.2).2) m.flags)))

/-! ### Engine threads -/

/-- R277, R281, R286: the accesses of a COPY that is bound to nothing: a source sector read from this module's memory; a unit written to global memory, or to
the team memory of one team; its completion, which its team's ticket counter sees. A spilled write is made again (R183). -/
def Obligations.EngineEventResults : Prop :=
  ∀ (s : State) (e : Nat),
    let v := s.engine e
    v.done = false → v.stopped = false → v.kind = .copy → v.chan = none → v.bind = .none →
      (∀ rk q sec l a, v.void = false → q < 128 → rk < (if cConv v.desc = 2 then cBlocks v.desc else dataUnits v.desc v.slot) → FMap.find? v.got (128 * rk + q) = none →
        (keySectors v.desc v.slot rk)[q]? = some sec →
        (cSkind v.desc = false → s.threadPage (s.engineWho v) v.gone false (BitVec.ofNat 64 (32 * sec)) = .ok l a → isFabric a = false →
          s.touch v.ctx [BitVec.ofNat 64 (32 * sec)] = s → s.poisoned (s.loadAddr v.die l a) = false →
          s.gives (.engineSectorAccess e (2 * (128 * rk + q)))
            (s.modEngine e fun x => { x with got := FMap.put x.got (128 * rk + q) (s.readBytes (s.loadAddr v.die l a) 32) })) ∧
        (∀ t, cSkind v.desc = true → v.team = some t → s.resident t = true →
          s.gives (.engineSectorAccess e (2 * (128 * rk + q)))
            (s.modEngine e fun x => { x with got := FMap.put x.got (128 * rk + q) ((s.team t).readBytes (32 * sec) 32) }))) ∧
      (∀ u b bs, v.void = false → u < unitCount v.desc v.slot → v.perf.contains (16 * u) = false → v.hasRead u = true →
        (v.unitBytes u = (.global, b :: bs) → unitSpace v.desc v.slot u = .global → ∀ w, (s.reach (s.engineWho v) (b :: bs)).threadWrite (s.engineWho v) v.gone (b :: bs) = .ok w → (w.engine e).bind = .none →
          s.gives (.engineSectorAccess e (2 * (16 * u) + 1))
            ((w.modEngine e fun x => { x with perf := x.perf ++ [16 * u] }).modEngine e fun x => { x with sent := x.sent + (b :: bs).length })) ∧
        (∀ t, v.unitBytes u = (.team, b :: bs) → unitSpace v.desc v.slot u = .team → s.copyTargets v = [t] → s.resident t = true →
          s.gives (.engineSectorAccess e (2 * (16 * u) + 1))
            ((((s.modTeam t fun y => (b :: bs).foldl (fun z x => { z with tmem := FMap.set 0 z.tmem x.1 (maskByte (FMap.get 0 z.tmem x.1) x.2.1 x.2.2) }) y).invalidate
              (((b :: bs).map fun y => LineId.team t (y.1 / 128)).dedup) none).modEngine e fun x => { x with perf := x.perf ++ [16 * u] }).modEngine e fun x =>
                { x with sent := x.sent + (b :: bs).length }))) ∧
      (∀ t, v.team = some t → v.failed = none → s.engineWritten v = true → s.engineSpilled e = false →
        s.gives (.engineComplete e) (((s.modEngine e fun x => { x with done := true, got := [], perf := [] }).modTeam t fun x =>
          { x with ended := x.ended ++ [v.ticket] }).invalidate [.done t] none)) ∧
      (∀ die i x w, (s.die die).spill[i]? = some x → x.engine = some e → (s.reach (s.engineWho v) x.bytes).threadWrite (s.engineWho v) v.gone x.bytes = .ok w → (w.engine e).bind = .none →
        s.gives (.spillReplay die i) ((w.modDie die fun y => { y with spill := y.spill.eraseIdx i }).modEngine e fun y => { y with sent := y.sent + x.bytes.length }))

/-- R128, R292: the round of a group whose members are all of this module, every rank having contributed and none twice, their descriptors agreeing: each takes the tree's sums,
and the group's next round may open. -/
def Obligations.AllredRounds : Prop :=
  ∀ (s : State) (g : Nat) (seq : W64) (x : Group) (d : List Byte),
    let es := s.roundOf g seq
    let ranks := es.map fun e => aRank e.2.desc
    FMap.find? s.groups g = some x → x.isOpen = true → x.round = seq → es ≠ [] → (∀ m ∈ x.members, m.module = s.module.domain) →
    ranks.Nodup → (∀ r, r < x.members.length → r ∈ ranks) →
    (∀ e ∈ es, e.2.contributed = true ∧ e.2.failed = none ∧ aCount e.2.desc = aCount d ∧ aType e.2.desc = aType d ∧ aOp e.2.desc = aOp d ∧
      aRnd e.2.desc = aRnd d ∧ aSat e.2.desc = aSat d) →
    let value (r i : Nat) : Nat := match es.find? fun e => aRank e.2.desc == r with
      | some e => e.2.contribution.getD i 0
      | none => 0
    let out := (List.range (aCount d)).flatMap fun i => leBytes (aWidth d) (allredTree d ((List.range x.members.length).map fun r => value r i))
    ∃ n, s.gives (.allredRound g seq) { es.foldl (fun (u : State) e => u.modEngine e.1 fun v => { v with got := FMap.put v.got resultKey out }) { s with draws := n } with
      groups := FMap.modify s.groups g fun y => { y with round := y.round + 1, isOpen := false } }

/-! ### Mapping and capacity -/

/-- R17, R18, R136 to R141, R151, R184, R188, R216, R327, R334, R339: a leaf entry written where none was, with its grants, and one taken away, with its shootdown, each once step 6 of every commit of the context is done; a fault answered with a mapping, and one
answered as unresolvable. How the service processor is asked, and what of a page partly in the trap area counts, is the model's choice (log entry 46), and what fails with an unresolvable page is its reading (42). -/
def Obligations.MappingResults : Prop :=
  ∀ (s : State) (m : LeafMap) (a : Nat),
    let x := s.ctx m.ctx
    let z := s.finishPosts m.ctx
    let size := 2 ^ levelShift m.lvl
    let va := m.va.toNat % 2 ^ 57 / size * size
    let full := m.va.toNat / size * size
    let old := z.readWord64 a
    let l : Leaf := { addr := a, lvl := m.lvl, bits := m.entry }
    let n := x.pagesCounted full m.lvl
    let bs := if isFabric l.frame || l.cc == .io then [] else (leafBlocks l m.replicas).filter fun b => !z.isHost (4096 * b.2)
    let own := x.deviceOwned full size
    let w := z.tableWrite (byteRun a (leBytes 8 m.entry.toNat))
    ((FMap.find? s.ctxs m.ctx).isSome = true → m.lvl ≤ 2 → canonical m.va = true → m.nodes = [] → entryFrom z va m.lvl (4 - m.lvl) x.root = some a →
      (old.getLsbD 0 = false → m.entry.getLsbD 0 = true → m.entry.getLsbD 6 = true → leafOk z m.lvl m.entry = true → replicasOk l m.replicas = true → x.leafFits full l = true →
        x.mapped + n ≤ x.promise → (∀ b ∈ bs, z.grantable m.ctx own m.uio b.1 b.2 = true) → z.grantPays m.ctx l m.uio bs = true →
        s.gives (.leafEntryChange m) (((bs.foldl (fun u b => u.grantBlock m.ctx own l m.uio b.1 b.2) w).putReplicas l m.replicas).modCtx
          m.ctx fun y => { y with mapped := y.mapped + n })) ∧
      (old.getLsbD 0 = true → old.getLsbD 6 = true → m.entry = 0 → x.mapped - n ≤ x.promise →
        let lo : Leaf := { l with bits := old }
        s.gives (.leafEntryChange m) (((z.pageBlocks lo).foldl (fun u b => u.unmapBlock m.ctx lo b) (w.shootdown m.ctx (z.pageBlocks lo) full size (nextKey w.slices))).modCtx
          m.ctx fun y => { y with mapped := y.mapped - n }))) ∧
    (∀ d seq f, (s.die d).fq.find? (fun e => e.seq == seq) = some f →
      (∀ u, coversFault m f = true → s.mapLeaf m = some u → s.gives (.faultAnswer d seq (some m)) ((u.dropEntry d f).settle)) ∧
      ((FMap.find? s.ctxs f.ctx).isSome = true →
        ∃ u, exec (.faultAnswer d seq none) s = .next u ∧ (u.ctx f.ctx).stopped = true ∧ (u.ctx f.ctx).halted = true ∧ Out.driver f.ctx 3 ∈ u.out))

/-- R17, R178, R186, R341: promises and quotas; a balloon request opened, raised, and expired. How requests are chosen and merged is the model's reading (log entry 48). -/
def Obligations.CapacityRequests : Prop :=
  ∀ (s : State) (c n : Nat) (id : W64) (u : Nat),
    let x := s.ctx c
    let m := x.mailbox
    let opened (y : Mailbox) (die : Option Nat) : State := (s.modCtx c fun v => { v with mailbox := y, openDie := die, openFor := 0 }).invalidate [.mailbox c] none
    s.gives (.quotaChange c n) (s.modCtx c fun v => { v with quota := n }) ∧
    (x.mapped ≤ n → s.promised c + n ≤ promiseMax → s.gives (.promiseChange c n) (s.modCtx c fun v => { v with promise := n })) ∧
    ((FMap.find? s.ctxs c).isSome = true → s.askOf c = none →
      (m.id = 0 → id ≠ 0 → u ≤ 3 → n < 2 ^ 32 → s.gives (.balloonRequest c id n u)
        (opened { m with id := id, wanted := BitVec.ofNat 32 n, owed := BitVec.ofNat 32 n, urgency := u } none)) ∧
      (m.id ≠ 0 → m.id = id → u ≤ 3 → m.urgency < u → n < 2 ^ 32 → s.gives (.balloonRequest c id n u)
        (opened { m with wanted := m.wanted + BitVec.ofNat 32 n, owed := m.owed + BitVec.ofNat 32 n, urgency := u } x.openDie))) ∧
    (∀ d share, (FMap.find? s.ctxs c).isSome = true → s.askOf c = some (d, share) → m.id = 0 → id ≠ 0 → s.gives (.balloonRequest c id n u)
      ((opened { m with id := id, wanted := BitVec.ofNat 32 share, owed := BitVec.ofNat 32 share, urgency := 1 } (some d)).modDie d fun v =>
        { v with asks := v.asks.erase (c, share) })) ∧
    (∀ d, x.openDie = some d → m.id ≠ 0 → 16 ≤ x.openFor → m.urgency < 3 → (∃ q ≤ 16, (s.die d).poolFail = some q) →
      s.gives (.balloonUrgencyRaise c) (opened { m with urgency := m.urgency + 1 } (some d))) ∧
    (m.id ≠ 0 → m.urgency = 3 → 64 ≤ x.openFor → (FMap.find? s.ctxs c).isSome = true →
      ∃ v, exec (.balloonRequestExpiry c) s = .next v ∧ (v.ctx c).mailbox = { m with id := 0, wanted := 0, owed := 0 } ∧ (v.ctx c).halted = true ∧
        Out.driver c 5 ∈ v.out)

/-- R163, R168, R169, R174, R175, R182, R341: what the memory system does of itself: a line of no failed expander replaced; an ante refilled, and its surplus given back; a line, alone in its row, captured in a set with
room, and unpinned; a block's metadata failing its check, and replaced, with the lines that the LLC has of it. When each happens is the model's choice, and which lines share a row is free (log entry 49). -/
def Obligations.MemorySystemResults : Prop :=
  ∀ (s : State) (line d i : Nat),
    let b := blockOfLine line
    (∀ l, FMap.find? s.llc line = some l → l.pin = false → s.expanderDown (line * 128) = false →
      (l.dirty = false → s.gives (.writeBack line) (({ s with llc := FMap.erase s.llc line }).invalidate [.mem line] none)) ∧
      (l.dirty = true → (s.block b).bad = false → s.gives (.writeBack line)
        (((({ s with llc := FMap.erase s.llc line }).setBlock b { s.block b with codes := FMap.set 0 (s.block b).codes (lineInBlock line) l.code }).repack b).invalidate
          [.mem line] none))) ∧
    (let a := (s.die d).antes.getD i []
     (a.size < 128 → s.gives (.anteRefill d i) (s.modDie d fun x =>
       { x with pool := ((s.die d).pool.take 512).2, antes := x.antes.set i (((s.die d).pool.take 512).1.foldl (fun p g => p.put g) a) })) ∧
     (1024 < a.size → s.gives (.anteRefill d i) (s.modDie d fun x =>
       { x with pool := ((a.take 1024).2.flatMap fun e => (List.range e.2).map (e.1 + ·)).foldl (fun p g => p.put g) x.pool,
                antes := x.antes.set i ((a.take 1024).1.foldl (fun p g => p.put g) []) }))) ∧
    (∀ w, FMap.find? s.llc line = none → s.rowLines d line = [line] →
      w = { s with llc := FMap.put s.llc line { dirty := false, code := FMap.get 0 (s.block b).codes (lineInBlock line), sectors := [], pin := true, stamp := s.clock },
                   clock := s.clock + 1 } →
      (w.setUse line).1 ≤ 48 → (w.setUse line).2 ≤ 64 → (w.placeLine line).pinnedIn line ≤ 4 →
      s.gives (.rowCapture d [line]) ((w.placeLine line).modDie d fun x =>
        { x with captures := FMap.set 0 x.captures (llcSlice b) (FMap.get 0 x.captures (llcSlice b) + 1) })) ∧
    (∀ l, FMap.find? s.llc line = some l → l.pin = true → (s.block b).home = d → (s.rowLines d line).filter (· ≠ line) = [] →
      s.gives (.rowUnpin d [line]) (State.writeBack { s with llc := FMap.put s.llc line { l with pin := false } } line true)) ∧
    ((s.block b).bad = true → s.gives (.bmePoisonReplace b) ((({ s with llc := s.llc.filter fun e => blockOfLine e.1 != b }).setBlock b
      { s.block b with codes := (List.range 32).map fun j => (j, codePoison), count := 0, ptrs := [], bad := false, pinned := false }).occupy
        (s.block b).owner 0 (s.block b).count)) ∧
    ((s.block b).bad = false → (s.block b).owner.isSome = true → s.gives (.bmePoisonReplace b)
      ((s.setBlock b { s.block b with bad := true }).invalidate ((List.range 32).map fun j => .mem (32 * b + j)) none))

/-! ### Scheduling -/

/-- R97, R147, R153, R307, R318 to R320, R322 to R324, R327, R338, R348: the next team of a die placed, at its start and again; a team swapped out, its slices back at their checkpoints, the place to a team that has
waited a quantum for it; ready again once what it waits for is there; retired; placed for its context's residency floor as a quantum starts. Which team, victim and core is the model's reading (log entry 44). -/
def Obligations.TeamResults : Prop :=
  ∀ (s : State) (t : Nat),
    let tm := s.team t
    let on (u : State) (c : Nat) (floor : Bool) : State :=
      ((((if (u.team t).last = some c then u else u.dropCopies t).freeImage t).modTeam t fun v =>
        { v with place := .resident c (u.quartersFor (u.residents c) t) (u.nextOrder c) 0, passed := 0, whole := (u.die (u.teamDie t)).opps == 0, floor := floor,
                 last := some c }).modCtx (u.team t).ctx fun x => { x with absent := FMap.set 0 x.absent (u.teamDie t) 0 }).modCore c fun x => { x with gated := false }
    (∀ c, s.nextTeam (s.teamDie t) = some t → s.coreFor t = some c →
      (tm.started = true → s.gives (.teamPlace t) (on s c false)) ∧
      (tm.started = false → (s.params t).chan = 0 → ∃ u, exec (.teamPlace t) s = .next u ∧
        (u.team t).started = true ∧ (u.team t).slot = s.freeSlot tm.ctx ∧ (u.team t).chans = [] ∧ u.teamCore t = some c ∧
        (∀ k < tm.slices, u.slice t k = Slice.start (s.ctx tm.ctx) (s.params t).entry) ∧
        ∀ g < (tm.slices + 7) / 8, { team := t, ks := (List.range (min 8 (tm.slices - 8 * g))).map (8 * g + ·), age := 0, wait := none } ∈ u.gangs)) ∧
    ((s.teamCore t).isSome = true → s.maySwap t = true →
      (s.slicer t = none → (∀ k < tm.slices, (s.slice t k).post = [] ∧ (s.slice t k).tell = none ∧ (FMap.find? s.slices (sliceKey t k)).isSome = true) →
        ∃ u, exec (.teamSwapOut t) s = .next u ∧ (u.team t).place = .swapped ∧ (u.team t).floor = false ∧ u.mem = s.mem ∧
          ((FMap.find? s.dies (s.teamDie t)).isSome = true → (u.die (s.teamDie t)).swapOuts = (s.die (s.teamDie t)).swapOuts + 1) ∧
          ∀ k < tm.slices, ((s.slice t k).status = .exited ∨ (s.slice t k).wentFar = true → u.slice t k = s.slice t k) ∧
            ((s.slice t k).status ≠ .exited → (s.slice t k).wentFar = false → u.slice t k = { (s.slice t k).fallBack.rewind with status := .run })) ∧
      (∀ w c, s.slicer t = some w → (s.swapAway t).coreFor w = some c → (s.team w).started = true →
        s.gives (.teamSwapOut t) ((s.swapAway t).settleOn w c false))) ∧
    (tm.place = .swapped → tm.awaited = [] → (tm.watch = [] ∨ ∃ w ∈ tm.watch, s.watched t w.1 w.2.1 ≠ w.2.2) → (s.ctx tm.ctx).halted = false →
      s.gives (.teamRunnable t) (s.modTeam t fun v => { v with place := .ready, passed := 0, whole := (s.die (s.teamDie t)).opps == 0, watch := [] })) ∧
    (s.teamOver t = true → tm.conds = [] →
      s.gives (.teamRetire t) ((({ (s.freeImage t).modTeam t (fun v =>
          { v with slot := none, place := .retired, tmem := [], scale := [], bstore := [], acc := [], conds := [], chans := [], awaited := [], watch := [] }) with
        slices := s.slices.filter fun e => e.1 / 256 != t, gangs := s.gangs.filter fun g => g.team != t }.modLaunch tm.launch fun v => { v with retired := v.retired + 1 }).invalidate
          ((List.range tm.chans.length).map fun c => .chan t c) none).launchCheck tm.launch)) ∧
    (∀ c d x, 63 ≤ FMap.get 0 (s.ctx c).absent d → (s.die d).opps = 0 →
      ((List.range 8).reverse.flatMap fun p => s.pool d p).find? (fun r => (s.team r).ctx == c && !s.tableWaits r) = some t → tm.started = true → s.coreFor t = some x →
      s.gives (.residencyFloor c d) (on s x true))

/-- R320 to R322, R341: a quantum of a die ends: residents and ready teams that spent it whole where they are are older by one, and every context's absence and open request; a floor's protection ends with
its first whole quantum. What a part of a quantum counts is the model's reading (log entry 44). -/
def Obligations.QuantumResults : Prop :=
  ∀ (s : State) (d : Nat), 65536 ≤ (s.die d).opps → ∃ u, exec (.quantumEnd d) s = .next u ∧
    (u.die d).opps = ((s.modDie d fun v => { v with opps := v.opps - 65536 }).die d).opps ∧
    (∀ t tm, FMap.find? s.teams t = some tm → s.teamDie t = d →
      (∀ c qs o n, tm.place = .resident c qs o n → (u.team t).place = .resident c qs o (if tm.whole then n + 1 else n) ∧ (u.team t).floor = (tm.floor && !tm.whole) ∧ (u.team t).whole = true) ∧
      (tm.place = .ready → (u.team t).passed = (if tm.whole then tm.passed + 1 else tm.passed) ∧ (u.team t).whole = true)) ∧
    (∀ c x, FMap.find? s.ctxs c = some x →
      FMap.get 0 (u.ctx c).absent d = (if s.hasReady c d = true ∧ s.hasResident c d = false then FMap.get 0 x.absent d + 1 else 0) ∧
      (u.ctx c).openFor = if x.mailbox.id ≠ 0 ∧ x.openDie.getD 0 = d then x.openFor + 1 else x.openFor)

/-! ### The command processor -/

/-- R140, R299 to R303, R366: a write to a notify register, with its overrun; the four packets, a refused one among them; a signal stored; a waiting WAITSIG whose word now
meets its condition. The accesses read are of pages whose accessed bits are set already. What a packet's fields must be is the model's reading of R301 (log entry 40). -/
def Obligations.QueueResults : Prop :=
  ∀ (s : State) (q : Nat) (v : HostQueue), FMap.find? s.queues q = some v →
    let va := v.base + BitVec.ofNat 64 (64 * (v.read % 2 ^ v.exp))
    let bs := s.vaRun v.ctx va 64
    let passed (u : State) (run : List PacketRun) : State :=
      (u.modQueue q fun y => { y with read := (v.read + 1) % 2 ^ 64, packets := y.packets ++ run, owes := false }).vaWrite v.ctx v.rix (leBytes 8 ((v.read + 1) % 2 ^ 64))
    let run (k : Nat) : List PacketRun := [{ idx := v.read, kind := k, addr := pAddr bs, value := pValue bs, cond := pCond bs }]
    (∀ x : W64, v.ahead x.toNat ≤ 2 ^ v.exp → v.ahead v.posted < v.ahead x.toNat →
      s.gives (.notifyRegisterWrite q x) ((s.modQueue q fun y => { y with posted := x.toNat }).notify v.ctx)) ∧
    (∀ x : W64, 2 ^ v.exp < v.ahead x.toNat →
      s.gives (.notifyRegisterWrite q x) ((s.appendLog v.ctx (LogRec.plain 0x0020 3 0 (BitVec.ofNat 32 q))).notify v.ctx)) ∧
    (s.queueOpen v = true → s.cpAccess v.ctx va 64 false = .ok → s.cpAccess v.ctx v.rix 8 true = .ok → s.cpReads v.ctx va 64 = s →
      (packetOk bs = true → (pAfter bs = false ∨ v.packets = []) → s.targetAccess v.ctx bs = .ok →
        (pType bs = 1 → s.cpReads v.ctx (pAddr bs) 256 = s → s.gives (.launchPacket q)
          ((passed s (run 1)).admitLaunch v.ctx (pAddr bs) (s.vaRun v.ctx (pAddr bs) 256) (.packet q v.read))) ∧
        (pType bs = 2 → s.cpReads v.ctx (pAddr bs) 64 = s → s.gives (.graphPacket q)
          ((passed s (run 2)).graphStart v.ctx (pAddr bs) (s.vaRun v.ctx (pAddr bs) 64) (.packet q v.read))) ∧
        (pType bs = 3 → s.cpReads v.ctx (pAddr bs) 8 = s → codeHolds (pCond bs) (s.vaWord v.ctx (pAddr bs)) (pValue bs) = true → s.gives (.waitsigPacket q) (passed s [])) ∧
        (pType bs = 3 → s.cpReads v.ctx (pAddr bs) 8 = s → codeHolds (pCond bs) (s.vaWord v.ctx (pAddr bs)) (pValue bs) = false → s.gives (.waitsigPacket q)
          ((passed s (run 3)).modQueue q fun y => { y with waiting := some (s.ctx v.ctx).notified })) ∧
        (pType bs = 4 → v.signalReady = none → s.gives (.signalPacket q) (passed s (run 4)))) ∧
      (packetOk bs = false → ∀ u, u = s.appendLog v.ctx (LogRec.plain 0x0021 3 va (BitVec.ofNat 32 q)) → u.queue q = v → u.cpAccess v.ctx v.rix 8 true = .ok →
        s.gives (.launchPacket q) (passed u []) ∧ s.gives (.graphPacket q) (passed u []) ∧ s.gives (.waitsigPacket q) (passed u []))) ∧
    (∀ p, v.signalReady = some p → s.cpAccess v.ctx p.addr 8 true = .ok →
      s.gives (.signalPacket q) ((s.writeSignal v.ctx p.addr p.value false).packetDone q p.idx)) ∧
    (∀ seen p, s.queuesOf v.ctx = [q] → s.graphsOf v.ctx = [] → v.waiting = some seen → v.packets.find? (fun x => x.kind == 3) = some p →
      seen < (s.ctx v.ctx).notified → s.cpAccess v.ctx p.addr 8 false = .ok → s.cpReads v.ctx p.addr 8 = s → codeHolds p.cond (s.vaWord v.ctx p.addr) p.value = true →
      s.gives (.notifiedReread v.ctx) ((s.packetDone q p.idx).modQueue q fun y => { y with waiting := none }))

/-- R140, R308 to R312: a ready node starts: a launch, a copy, a signal, a wait, a choice, a loop; and a loop's iteration ends. What a node reads lies on pages whose accessed
bits are set already. Which descriptors a COPY node may run is the model's choice (log entry 41). -/
def Obligations.NodeResults : Prop :=
  ∀ (s : State) (g n : Nat) (v : GraphRun), s.graph g = some v → (s.ctx v.ctx).stopped = false →
    let x := v.node n
    let word := s.vaWord v.ctx x.p0
    let read (k : Nat) : Prop := s.cpReads v.ctx x.p0 k = s
    let leave (u : State) : State := (u.modGraph g fun y => { y with entered := y.entered.set n false }).nodeDone g n false
    let enter (k : Nat) : State := s.modGraph g fun y =>
      { y with counts := (List.range y.counts.length).map fun i => if inBody x i then (y.node i).deps else y.counts.getD i 0,
               states := (List.range y.states.length).map fun i => if inBody x i then .idle else if i = n then .running else y.states.getD i .idle,
               iters := (List.range y.iters.length).map fun i => if inBody x i then 0 else if i = n then k else y.iters.getD i 0,
               entered := (List.range y.entered.length).map fun i => if inBody x i then false else if i = n then true else y.entered.getD i false }
    s.nodeAccess v.ctx x = .ok →
    (v.ready n = true →
      (x.kind = 1 → read 256 → s.gives (.kernelNode g n) ((s.setNode g n .running).admitLaunch v.ctx x.p0 (s.vaRun v.ctx x.p0 256) (.node g n))) ∧
      (x.kind = 2 → read 128 → copyNodeOk (s.vaRun v.ctx x.p0 128) = true → s.gives (.copyNode g n)
        (let e : Engine := { Engine.blank with ctx := v.ctx, die := 0, core := 0xFFFF, slice := 0xFFFF, desc := s.vaRun v.ctx x.p0 128, va := x.p0, origin := .node g n, done := false }
         { (s.setNode g n .running) with engines := FMap.put s.engines (nextKey s.engines) e })) ∧
      (x.kind = 3 → s.gives (.signalNode g n) ((s.writeSignal v.ctx x.p0 x.p1 false).nodeDone g n false)) ∧
      (x.kind = 4 → read 8 → codeHolds x.cond word x.p1 = true → s.gives (.waitNode g n) (s.nodeDone g n false)) ∧
      (x.kind = 4 → read 8 → codeHolds x.cond word x.p1 = false → s.gives (.waitNode g n)
        ((s.setNode g n .running).modGraph g fun y => { y with seen := y.seen.set n (s.ctx v.ctx).notified })) ∧
      (x.kind = 5 → read 8 → s.gives (.condNode g n) (s.nodeDone g n (!codeHolds x.cond word x.p1))) ∧
      (x.kind = 6 → read 8 → codeHolds x.cond word x.p1 = false → s.gives (.loopNode g n) (leave s)) ∧
      (x.kind = 6 → read 8 → codeHolds x.cond word x.p1 = true → 0 < x.max → s.gives (.loopNode g n) (enter 0))) ∧
    (v.running n = true → x.kind = 6 → read 8 → v.bodyStill n = true → v.refused = false →
      let k := v.iters.getD n 0 + 1
      (codeHolds x.cond word x.p1 = false → s.gives (.loopIteration g n) (leave s)) ∧
      (codeHolds x.cond word x.p1 = true → k = x.max → s.gives (.loopIteration g n)
        (leave (s.appendLog v.ctx (LogRec.plain 0x0019 3 v.header (BitVec.ofNat 32 n))))) ∧
      (codeHolds x.cond word x.p1 = true → k ≠ x.max → s.gives (.loopIteration g n) (enter k)))

/-! ### Contexts, the host, the module -/

/-- R17, R188, R297 to R299, R335: a context and a queue made; a context reset: no team of it is left, its queues hold nothing; and one destroyed. What becomes of its queues and its memory is the model's reading
(log entry 47), and a new context's registers that the spec gives no value are the model's choice (19). -/
def Obligations.ContextResults : Prop :=
  ∀ (s : State),
    (∀ c : CtxSpec, let pages := c.promise.getD ((c.quota + 127) / 128)
      c.num < 4096 → FMap.find? s.ctxs c.num = none → c.prio ≤ 7 → 6 ≤ c.logExp → c.logExp ≤ 16 → s.promised c.num + pages ≤ promiseMax → c.root % 4096 = 0 →
      (∀ b ∈ s.readBytes c.root 4096, b = 0) → canonical c.trapbase = true → canonical c.logbase = true →
      let x : Ctx := { Ctx.blank with quota := c.quota, promise := pages, prio := c.prio, root := c.root, trapbase := c.trapbase, logbase := c.logbase,
                                      logExp := c.logExp, shared := c.shared }
      s.gives (.contextCreate c) { s with ctxs := FMap.put s.ctxs c.num x }) ∧
    (∀ q : QueueSpec, q.num < 131072 → FMap.find? s.queues q.num = none → (FMap.find? s.ctxs q.ctx).isSome = true → 4 ≤ q.exp → q.exp ≤ 16 →
      q.base.toNat % (64 * 2 ^ q.exp) = 0 → canonical q.base = true → q.rix.toNat % 8 = 0 → canonical q.rix = true →
      let x : HostQueue := { ctx := q.ctx, base := q.base, exp := q.exp, rix := q.rix, read := 0, posted := 0, packets := [], waiting := none }
      s.gives (.queueCreate q) { s with queues := FMap.put s.queues q.num x }) ∧
    (∀ c, (FMap.find? s.ctxs c).isSome = true →
      (∃ u, exec (.contextReset c) s = .next u ∧ (u.ctx c).stopped = false ∧ (u.ctx c).halted = false ∧ (u.ctx c).mailbox.id = 0 ∧
        (∀ t v, FMap.find? u.teams t = some v → v.ctx = c → v.place = .retired ∧ v.slot = none ∧ v.queue = []) ∧
        (∀ e v, FMap.find? u.engines e = some v → v.ctx = c → v.done = true ∨ v.stopped = true) ∧
        (∀ d v, FMap.find? u.dies d = some v → ∀ x ∈ v.spill, x.ctx ≠ c)) ∧
      (∃ u, exec (.contextDestroy c) s = .next u ∧ FMap.find? u.ctxs c = none ∧ (∀ q v, FMap.find? u.queues q = some v → v.ctx ≠ c) ∧
        (∀ e v, FMap.find? u.engines e = some v → v.ctx ≠ c)))

/-- R183, R205, R345 to R347: a host read and a host write of a block mapped SYS, and refused ones; a snoop that invalidates device memory, and one that does not. What a refused read returns is free, and the
rest is the model's reading (log entry 51). -/
def Obligations.HostResults : Prop :=
  ∀ (s : State) (npa : Nat) (bs : List Byte),
    let b := s.block (blockOf npa)
    (npa % 64 = 0 → npa < 1536000000000 → s.hostMay npa = true →
      s.gives (.hostRead npa) { s with out := s.out ++ [Out.hostData npa (s.readBytes npa 64) (s.poisoned npa)] }) ∧
    (∀ c, npa % 64 = 0 → npa < 1536000000000 → b.owner = some c → b.sys = 0 → ∃ x, s.gives (.hostRead npa)
      ({ s with out := s.out ++ [Out.hostData npa x true], draws := s.draws + 64 }.appendLog c
        { LogRec.plain 0x0026 5 (BitVec.ofNat 64 (npa / 128 * 128)) 0 with die := b.home })) ∧
    (npa < 1536000000000 → npa % 64 + bs.length ≤ 64 →
      (s.hostMay npa = true → b.bad = false → codePoisoned (s.lineCode (lineOf npa)) = false →
        s.gives (.hostWrite npa bs) (s.agentWrite (byteRun npa bs) none)) ∧
      (∀ c, b.owner = some c → b.sys = 0 → s.gives (.hostWrite npa bs)
        (s.appendLog c { LogRec.plain 0x0026 5 (BitVec.ofNat 64 (npa / 128 * 128)) 1 with die := b.home }))) ∧
    (s.isHost npa = false → s.gives (.hostSnoop npa true) (s.invalidate [.mem (lineOf npa)] none)) ∧
    s.gives (.hostSnoop npa false) s

/-- R348, R350 to R352, R355, R358, R360 to R362: links, groups, expanders; a core gated, its L1 emptied; a part's counter that crosses its threshold, so that a core is worn, or the repair of an LLC set, one for 64,
is appended to the map; a spare core brought in; the throttle. When and how far are the model's choices (log entries 50 and 52). -/
def Obligations.ModuleEventResults : Prop :=
  ∀ (s : State) (l d n x : Nat),
    s.gives (.linkFailure l) { s with module := { s.module with links := s.module.links.filter (· != l) } } ∧
    (∀ g : GroupSpec, g.handle < 2 ^ 32 → s.groups.length < 256 → FMap.find? s.groups g.handle = none → 1 ≤ g.members.length → g.members.length ≤ 128 →
      s.gives (.collectiveGroupDefine g) { s with groups := FMap.put s.groups g.handle { members := g.members, round := 0, isOpen := false } }) ∧
    (∀ g, FMap.find? s.groups l = some g → s.inFlight l = [] → s.gives (.groupEnd l) { s with groups := FMap.erase s.groups l }) ∧
    (∀ v, FMap.find? s.expanders x = some v → v.failed = false →
      ∀ i ∈ [Instr.expanderLinkDown x, Instr.expanderTimeout x], ∃ u, exec i s = .next u ∧
        u.expanders = FMap.put s.expanders x { v with failed := true } ∧ u.mem = s.mem ∧
        (∀ e ∈ u.llc, s.inExpander x (e.1 * 128) = true → e.2.dirty = true ∧ e.2.code = codePoison)) ∧
    s.gives (.expanderBringBack x) { s with expanders := FMap.modify s.expanders x fun v => { v with failed := false } } ∧
    s.gives (.junctionThrottle d) (s.modDie d fun v => { v with step := min 8 (v.step + 1) }) ∧
    (∀ c, s.coreOf d n = some c → s.residents c = [] → s.gives (.corePowerGate d n) ((s.emptyL1 c).modCore c fun v => { v with gated := true })) ∧
    (∀ (p : Part) (retry : Bool) (k c : Nat), (∀ m, p = .core d m → s.coreOf d m = some c) → (∀ e m, p = .core e m → e = d) → ((∀ e m, p ≠ .core e m) → c = 0) → c ≠ 72 →
      let key := partKey retry c p
      let old := FMap.get 0 s.module.health key
      let limit := (s.module.boot.getD defaultBoot).health.getD (partKind p) 0
      let u : State := { s with module := { s.module with health := FMap.set 0 s.module.health key (old + k) } }
      (old + k ≤ limit ∨ limit < old → s.gives (.healthThreshold { part := p, retry := retry, count := k }) u) ∧
      (old ≤ limit → limit < old + k →
        (∀ m, p = .core d m → s.gives (.healthThreshold { part := p, retry := retry, count := k }) (u.modCore c fun v => { v with worn := true })) ∧
        (∀ m, p = .llcSet m → (∀ o ∈ s.module.latestMap.llcSets, o / 64 ≠ m / 64) →
          s.gives (.healthThreshold { part := p, retry := retry, count := k }) (u.appendRepair fun v => { v with llcSets := v.llcSets ++ [m] })) ∧
        (∀ m, p = .llcSet m → (∃ o ∈ s.module.latestMap.llcSets, o / 64 = m / 64) → s.gives (.healthThreshold { part := p, retry := retry, count := k }) u))) ∧
    (∀ c y, s.coreOf d n = some c → s.spareOf d = some y → (s.core c).worn = true → s.residents c = [] → s.gives (.spareBringIn d n)
      ((((s.emptyL1 c).modCore c fun v => { v with num := none, gated := true }).modCore y fun v => { v with num := some n, gated := false }).appendRepair fun m =>
        { m with cores := m.cores.set d ((m.cores.getD d []).set n (y % 18)),
                 retired := (List.range 4).map fun e => m.retired.getD e [] ++ if e = d then [c % 18] else [] }))

/-- R298, R357 to R360, R363, R364: the management commands, and the three causes of a module reset: with images in flash that are accepted the module is out of reset with what they give, with none it stays in
reset; the power limit is 2,600 W. A thermal reset ends every context's work as its own reset does. How the images and the health report are laid out, and what outlives a reset, is the model's choice (log
entries 38, 39, 59 and 67). -/
def Obligations.ManagementResults : Prop :=
  ∀ (s : State) (nonce : BitVec 256) (w : Nat),
    let m := s.module
    s.gives .getIdentityCertificate { s with out := s.out ++ [.certificate m.certificate] } ∧
    s.gives (.getAttestationReport nonce) { s with out := s.out ++ [.report (m.report nonce s.draws)], draws := s.draws + 1 } ∧
    (∀ b, s.gives (.writeImage (.boot b)) { s with module := m.writeBoot b }) ∧
    (∀ r, s.gives (.writeImage (.map r)) { s with module := m.writeMap { r with sig := some (r.sig.getD []) } }) ∧
    (m.inReset = false →
      (1600 ≤ w → w ≤ 2600 → w % 50 = 0 → s.gives (.setPowerLimit w) { s with module := { m with powerLimit := w } }) ∧
      ∃ ts p, s.gives .getHealth
        { s with out := s.out ++ [.health ts [p] ((List.range 4).map fun d => (s.die d).step) m.health s.sparesLeft
            ((s.cores.filter fun e => e.2.num.isSome && e.2.worn).map (·.1)) m.latestMap.bonds m.latestMap.rows], draws := s.draws + 5 }) ∧
    ∀ x ∈ [(Instr.moduleReset, 0), (Instr.thermalReset, 1), (Instr.powerOn, 2)], ∃ u, exec x.1 s = .next u ∧
      Out.restart x.2 ∈ u.out ∧ u.ctxs = [] ∧ u.teams = [] ∧ u.slices = [] ∧ u.blocks = [] ∧ u.llc = [] ∧ u.engines = [] ∧ u.queues = [] ∧ u.launches = [] ∧
      u.graphs = [] ∧ u.groups = [] ∧
      (let v := if x.2 = 1 then (FMap.keys s.ctxs).foldl State.resetCtx s else s
       u.mem = v.mem.filter (fun e => v.isHost e.1)) ∧ u.module.powerLimit = 2600 ∧
      u.module.mapA = m.mapA ∧ u.module.mapB = m.mapB ∧ u.module.bootA = m.bootA ∧ u.module.bootB = m.bootB ∧ u.module.cause = x.2 ∧
      (∀ b r, m.chooseBoot = some b → m.chooseMap = some r → u.module.inReset = false ∧ u.module.boot = some b ∧ u.module.map = some r ∧
        u.module.bootVer = b.version ∧ u.module.mapSeq = r.seq) ∧
      ((m.chooseBoot = none ∨ m.chooseMap = none) → u.module.inReset = true)
end

