-- ==== Sys2Proof/Laws/FMap.lean ====
section
/-! SUPPORT. The laws of tables: what each operation leaves at each key, and that it keeps the canonical form. -/

namespace Sys2Proof.Machine

variable {α : Type}

/-! ### Looking up -/

@[simp] theorem FMap.find?_nil (i : Nat) : FMap.find? ([] : FMap α) i = none := rfl
@[simp] theorem FMap.get_nil (d : α) (i : Nat) : FMap.get d [] i = d := rfl

theorem FMap.get_eq_find? (d : α) (m : FMap α) (i : Nat) : FMap.get d m i = (FMap.find? m i).getD d := by
  induction m with
  | nil => rfl
  | cons e m ih =>
    obtain ⟨k, v⟩ := e
    by_cases h : k = i <;> simp [FMap.get, FMap.find?, h, ih]

theorem FMap.get_of_find? {d v : α} {m : FMap α} {i : Nat} (h : FMap.find? m i = some v) : FMap.get d m i = v := by
  rw [FMap.get_eq_find?, h]; rfl

/-! ### modify -/

theorem FMap.find?_modify (m : FMap α) (i j : Nat) (f : α → α) :
    FMap.find? (FMap.modify m i f) j = if j = i then (FMap.find? m j).map f else FMap.find? m j := by
  induction m with
  | nil => simp [FMap.modify]
  | cons e m ih =>
    obtain ⟨k, v⟩ := e
    by_cases hi : k = i
    · subst hi
      by_cases hk : k = j
      · subst hk; simp [FMap.modify, FMap.find?]
      · have : j ≠ k := fun e => hk e.symm
        simp [FMap.modify, FMap.find?, hk, this]
    · by_cases hk : k = j
      · subst hk; simp [FMap.modify, FMap.find?, hi]
      · simp [FMap.modify, FMap.find?, hi, hk, ih]

/-- Changes of one entry compose. -/
theorem FMap.modify_modify (m : FMap α) (i : Nat) (f g : α → α) : FMap.modify (FMap.modify m i f) i g = FMap.modify m i (g ∘ f) := by
  induction m with
  | nil => rfl
  | cons e m ih =>
    obtain ⟨k, v⟩ := e
    by_cases hi : k = i <;> simp [FMap.modify, hi, ih]

/-- A change of an entry is what it makes of the entry's value. -/
theorem FMap.modify_congr {m : FMap α} {i : Nat} {f g : α → α} (h : ∀ v, FMap.find? m i = some v → f v = g v) :
    FMap.modify m i f = FMap.modify m i g := by
  induction m with
  | nil => rfl
  | cons e m ih =>
    obtain ⟨k, v⟩ := e
    by_cases hi : k = i
    · simp [FMap.modify, hi, h v (by simp [FMap.find?, hi])]
    · simp only [FMap.modify, hi, if_false]
      rw [ih fun w hw => h w (by simpa [FMap.find?, hi] using hw)]

@[simp] theorem FMap.find?_modify_ne {m : FMap α} {i j : Nat} (f : α → α) (h : j ≠ i) :
    FMap.find? (FMap.modify m i f) j = FMap.find? m j := by simp [FMap.find?_modify, h]

theorem FMap.get_modify_ne {m : FMap α} {i j : Nat} (d : α) (f : α → α) (h : j ≠ i) :
    FMap.get d (FMap.modify m i f) j = FMap.get d m j := by simp [FMap.get_eq_find?, h]

theorem FMap.get_modify_eq {m : FMap α} {i : Nat} (d : α) (f : α → α) (h : (FMap.find? m i).isSome) :
    FMap.get d (FMap.modify m i f) i = f (FMap.get d m i) := by
  obtain ⟨v, hv⟩ := Option.isSome_iff_exists.mp h
  simp [FMap.get_eq_find?, FMap.find?_modify, hv]

@[simp] theorem FMap.isSome_modify (m : FMap α) (i j : Nat) (f : α → α) :
    (FMap.find? (FMap.modify m i f) j).isSome = (FMap.find? m j).isSome := by
  rw [FMap.find?_modify]; by_cases h : j = i <;> simp [h]

theorem FMap.keys_modify (m : FMap α) (i : Nat) (f : α → α) : FMap.keys (FMap.modify m i f) = FMap.keys m := by
  induction m with
  | nil => rfl
  | cons e m ih =>
    obtain ⟨k, v⟩ := e
    by_cases hi : k = i <;> simp [FMap.modify, FMap.keys, hi]
    exact ih

/-! ### erase, put, set -/

theorem FMap.erase_cons (k : Nat) (v : α) (m : FMap α) (i : Nat) :
    FMap.erase ((k, v) :: m) i = if k = i then FMap.erase m i else (k, v) :: FMap.erase m i := by
  by_cases h : k = i <;> simp [FMap.erase, h]

theorem FMap.find?_erase (m : FMap α) (i j : Nat) :
    FMap.find? (FMap.erase m i) j = if j = i then none else FMap.find? m j := by
  induction m with
  | nil => simp [FMap.erase]
  | cons e m ih =>
    obtain ⟨k, v⟩ := e
    rw [FMap.erase_cons]
    by_cases hi : k = i
    · subst hi
      by_cases hj : j = k
      · simp [hj] at ih ⊢; exact ih
      · simp [FMap.find?, hj, Ne.symm hj, ih]
    · by_cases hk : k = j
      · subst hk; simp [FMap.find?, hi]
      · simp [FMap.find?, hi, hk, ih]

theorem FMap.find?_insertSorted_self (m : FMap α) (i : Nat) (v : α) (h : FMap.find? m i = none) :
    FMap.find? (FMap.insertSorted m i v) i = some v := by
  induction m with
  | nil => simp [FMap.insertSorted, FMap.find?]
  | cons e m ih =>
    obtain ⟨k, w⟩ := e
    by_cases hk : k = i
    · simp [FMap.find?, hk] at h
    · by_cases hl : i < k
      · simp [FMap.insertSorted, hl, FMap.find?]
      · simp only [FMap.find?, hk, if_false] at h
        simp [FMap.insertSorted, hl, FMap.find?, hk, ih h]

theorem FMap.find?_insertSorted_ne (m : FMap α) {i j : Nat} (v : α) (h : j ≠ i) :
    FMap.find? (FMap.insertSorted m i v) j = FMap.find? m j := by
  induction m with
  | nil => simp [FMap.insertSorted, FMap.find?, Ne.symm h]
  | cons e m ih =>
    obtain ⟨k, w⟩ := e
    by_cases hl : i < k
    · simp [FMap.insertSorted, hl, FMap.find?, Ne.symm h]
    · simp [FMap.insertSorted, hl, FMap.find?, ih]

theorem FMap.find?_put (m : FMap α) (i j : Nat) (v : α) :
    FMap.find? (FMap.put m i v) j = if j = i then some v else FMap.find? m j := by
  by_cases h : j = i
  · subst h
    rw [if_pos rfl]
    exact FMap.find?_insertSorted_self _ _ _ (by simp [FMap.find?_erase])
  · rw [if_neg h, FMap.put, FMap.find?_insertSorted_ne _ _ h, FMap.find?_erase, if_neg h]

@[simp] theorem FMap.get_put_eq (d : α) (m : FMap α) (i : Nat) (v : α) : FMap.get d (FMap.put m i v) i = v := by
  simp [FMap.get_eq_find?, FMap.find?_put]

theorem FMap.get_put_ne (d : α) (m : FMap α) {i j : Nat} (v : α) (h : j ≠ i) :
    FMap.get d (FMap.put m i v) j = FMap.get d m j := by simp [FMap.get_eq_find?, FMap.find?_put, h]

theorem FMap.get_set [DecidableEq α] (d : α) (m : FMap α) (i j : Nat) (v : α) :
    FMap.get d (FMap.set d m i v) j = if j = i then v else FMap.get d m j := by
  unfold FMap.set
  by_cases hv : v = d
  · rw [if_pos hv]
    by_cases h : j = i <;> simp [FMap.get_eq_find?, FMap.find?_erase, h, hv]
  · rw [if_neg hv]
    by_cases h : j = i <;> simp [FMap.get_eq_find?, FMap.find?_put, h]

@[simp] theorem FMap.get_set_eq [DecidableEq α] (d : α) (m : FMap α) (i : Nat) (v : α) :
    FMap.get d (FMap.set d m i v) i = v := by simp [FMap.get_set]

theorem FMap.get_set_ne [DecidableEq α] (d : α) (m : FMap α) {i j : Nat} (v : α) (h : j ≠ i) :
    FMap.get d (FMap.set d m i v) j = FMap.get d m j := by simp [FMap.get_set, h]

/-! ### The canonical form -/

/-- Sortedness as a pairwise relation. -/
theorem FMap.sorted_iff (m : FMap α) : FMap.sorted m = true ↔ m.Pairwise (fun a b => a.1 < b.1) := by
  induction m with
  | nil => simp [FMap.sorted]
  | cons a m ih =>
    cases m with
    | nil => simp [FMap.sorted]
    | cons b m =>
      simp only [FMap.sorted, Bool.and_eq_true, decide_eq_true_eq, ih, List.pairwise_cons]
      constructor
      · rintro ⟨hab, hb, hm⟩
        refine ⟨?_, hb, hm⟩
        intro x hx
        rcases List.mem_cons.mp hx with rfl | hx
        · exact hab
        · exact lt_trans hab (hb x hx)
      · rintro ⟨ha, hb, hm⟩
        exact ⟨ha b (List.mem_cons_self ..), hb, hm⟩

theorem FMap.wf_iff [DecidableEq α] (d : α) (m : FMap α) :
    FMap.wf d m = true ↔ m.Pairwise (fun a b => a.1 < b.1) ∧ ∀ e ∈ m, e.2 ≠ d := by
  simp [FMap.wf, FMap.sorted_iff]

theorem FMap.mem_insertSorted (m : FMap α) (i : Nat) (v : α) (e : Nat × α) :
    e ∈ FMap.insertSorted m i v ↔ e = (i, v) ∨ e ∈ m := by
  induction m with
  | nil => simp [FMap.insertSorted]
  | cons a m ih =>
    obtain ⟨k, w⟩ := a
    by_cases h : i < k
    · simp [FMap.insertSorted, h]
    · simp only [FMap.insertSorted, h, if_false, List.mem_cons, ih]; tauto

theorem FMap.pairwise_insertSorted (m : FMap α) (i : Nat) (v : α) (hs : m.Pairwise (fun a b => a.1 < b.1))
    (hn : ∀ e ∈ m, e.1 ≠ i) : (FMap.insertSorted m i v).Pairwise (fun a b => a.1 < b.1) := by
  induction m with
  | nil => simp [FMap.insertSorted]
  | cons a m ih =>
    obtain ⟨k, w⟩ := a
    have hm := List.pairwise_cons.mp hs
    by_cases h : i < k
    · simp only [FMap.insertSorted, h, if_true]
      refine List.pairwise_cons.mpr ⟨?_, hs⟩
      intro x hx
      rcases List.mem_cons.mp hx with rfl | hx
      · exact h
      · exact lt_trans h (hm.1 x hx)
    · have hki : k < i := lt_of_le_of_ne (Nat.le_of_not_lt h) (hn (k, w) (List.mem_cons_self ..))
      simp only [FMap.insertSorted, h, if_false]
      refine List.pairwise_cons.mpr ⟨?_, ih hm.2 fun e he => hn e (List.mem_cons_of_mem _ he)⟩
      intro x hx
      rcases (FMap.mem_insertSorted m i v x).mp hx with rfl | hx
      · exact hki
      · exact hm.1 x hx

/-- Any filter keeps the canonical form. -/
theorem FMap.wf_filter [DecidableEq α] {d : α} {m : FMap α} (p : Nat × α → Bool) (h : FMap.wf d m = true) :
    FMap.wf d (m.filter p) = true := by
  rw [FMap.wf_iff] at *
  exact ⟨h.1.filter p, fun e he => h.2 e (List.mem_of_mem_filter he)⟩

theorem FMap.wf_erase [DecidableEq α] {d : α} {m : FMap α} (i : Nat) (h : FMap.wf d m = true) :
    FMap.wf d (FMap.erase m i) = true := FMap.wf_filter _ h

theorem FMap.wf_set [DecidableEq α] {d : α} {m : FMap α} (i : Nat) (v : α) (h : FMap.wf d m = true) :
    FMap.wf d (FMap.set d m i v) = true := by
  unfold FMap.set
  split
  · exact FMap.wf_erase i h
  · rename_i hv
    have he := (FMap.wf_iff d _).mp (FMap.wf_erase i h)
    rw [FMap.wf_iff]
    refine ⟨FMap.pairwise_insertSorted _ i v he.1 ?_, ?_⟩
    · intro e hm
      have := (List.mem_filter.mp hm).2
      simpa using this
    · intro e hm
      rcases (FMap.mem_insertSorted _ i v e).mp hm with rfl | hm
      · exact hv
      · exact he.2 e hm

end Sys2Proof.Machine
end

