-- ==== Sys2Proof/Laws/State.lean ====
section
/-! SUPPORT. What each update of the state leaves in each field and each table, one lemma for each. -/

namespace Sys2Proof.Machine

/-! ### State.modSlice -/

@[simp] theorem State.modSlice_mem (s : State) (t k : Nat) (f : Slice → Slice) : (s.modSlice t k f).mem = s.mem := rfl
@[simp] theorem State.modSlice_blocks (s : State) (t k : Nat) (f : Slice → Slice) : (s.modSlice t k f).blocks = s.blocks := rfl
@[simp] theorem State.modSlice_llc (s : State) (t k : Nat) (f : Slice → Slice) : (s.modSlice t k f).llc = s.llc := rfl
@[simp] theorem State.modSlice_replicas (s : State) (t k : Nat) (f : Slice → Slice) : (s.modSlice t k f).replicas = s.replicas := rfl
@[simp] theorem State.modSlice_hostMem (s : State) (t k : Nat) (f : Slice → Slice) : (s.modSlice t k f).hostMem = s.hostMem := rfl
@[simp] theorem State.modSlice_clock (s : State) (t k : Nat) (f : Slice → Slice) : (s.modSlice t k f).clock = s.clock := rfl
@[simp] theorem State.modSlice_dies (s : State) (t k : Nat) (f : Slice → Slice) : (s.modSlice t k f).dies = s.dies := rfl
@[simp] theorem State.modSlice_cores (s : State) (t k : Nat) (f : Slice → Slice) : (s.modSlice t k f).cores = s.cores := rfl
@[simp] theorem State.modSlice_gangs (s : State) (t k : Nat) (f : Slice → Slice) : (s.modSlice t k f).gangs = s.gangs := rfl
@[simp] theorem State.modSlice_teams (s : State) (t k : Nat) (f : Slice → Slice) : (s.modSlice t k f).teams = s.teams := rfl
@[simp] theorem State.modSlice_launches (s : State) (t k : Nat) (f : Slice → Slice) : (s.modSlice t k f).launches = s.launches := rfl
@[simp] theorem State.modSlice_graphs (s : State) (t k : Nat) (f : Slice → Slice) : (s.modSlice t k f).graphs = s.graphs := rfl
@[simp] theorem State.modSlice_ctxs (s : State) (t k : Nat) (f : Slice → Slice) : (s.modSlice t k f).ctxs = s.ctxs := rfl
@[simp] theorem State.modSlice_queues (s : State) (t k : Nat) (f : Slice → Slice) : (s.modSlice t k f).queues = s.queues := rfl
@[simp] theorem State.modSlice_engines (s : State) (t k : Nat) (f : Slice → Slice) : (s.modSlice t k f).engines = s.engines := rfl
@[simp] theorem State.modSlice_groups (s : State) (t k : Nat) (f : Slice → Slice) : (s.modSlice t k f).groups = s.groups := rfl
@[simp] theorem State.modSlice_expanders (s : State) (t k : Nat) (f : Slice → Slice) : (s.modSlice t k f).expanders = s.expanders := rfl
@[simp] theorem State.modSlice_module (s : State) (t k : Nat) (f : Slice → Slice) : (s.modSlice t k f).module = s.module := rfl
@[simp] theorem State.modSlice_cur (s : State) (t k : Nat) (f : Slice → Slice) : (s.modSlice t k f).cur = s.cur := rfl
@[simp] theorem State.modSlice_tape (s : State) (t k : Nat) (f : Slice → Slice) : (s.modSlice t k f).tape = s.tape := rfl
@[simp] theorem State.modSlice_draws (s : State) (t k : Nat) (f : Slice → Slice) : (s.modSlice t k f).draws = s.draws := rfl
@[simp] theorem State.modSlice_idle (s : State) (t k : Nat) (f : Slice → Slice) : (s.modSlice t k f).idle = s.idle := rfl
@[simp] theorem State.modSlice_out (s : State) (t k : Nat) (f : Slice → Slice) : (s.modSlice t k f).out = s.out := rfl
@[simp] theorem State.modSlice_words (s : State) (t k : Nat) (f : Slice → Slice) : (s.modSlice t k f).words = s.words := rfl
@[simp] theorem State.modSlice_team_read (s : State) (t k : Nat) (f : Slice → Slice) (t' : Nat) : (s.modSlice t k f).team t' = s.team t' := rfl
@[simp] theorem State.modSlice_ctx_read (s : State) (t k : Nat) (f : Slice → Slice) (c' : Nat) : (s.modSlice t k f).ctx c' = s.ctx c' := rfl
@[simp] theorem State.modSlice_die_read (s : State) (t k : Nat) (f : Slice → Slice) (d' : Nat) : (s.modSlice t k f).die d' = s.die d' := rfl
@[simp] theorem State.modSlice_core_read (s : State) (t k : Nat) (f : Slice → Slice) (c' : Nat) : (s.modSlice t k f).core c' = s.core c' := rfl
@[simp] theorem State.modSlice_launch_read (s : State) (t k : Nat) (f : Slice → Slice) (l' : Nat) : (s.modSlice t k f).launch l' = s.launch l' := rfl
@[simp] theorem State.modSlice_engine_read (s : State) (t k : Nat) (f : Slice → Slice) (e' : Nat) : (s.modSlice t k f).engine e' = s.engine e' := rfl
@[simp] theorem State.modSlice_block_read (s : State) (t k : Nat) (f : Slice → Slice) (b' : Nat) : (s.modSlice t k f).block b' = s.block b' := rfl
@[simp] theorem State.modSlice_readByte_read (s : State) (t k : Nat) (f : Slice → Slice) (a' : Nat) : (s.modSlice t k f).readByte a' = s.readByte a' := rfl

/-! ### State.modTeam -/

@[simp] theorem State.modTeam_mem (s : State) (t : Nat) (f : Team → Team) : (s.modTeam t f).mem = s.mem := rfl
@[simp] theorem State.modTeam_blocks (s : State) (t : Nat) (f : Team → Team) : (s.modTeam t f).blocks = s.blocks := rfl
@[simp] theorem State.modTeam_llc (s : State) (t : Nat) (f : Team → Team) : (s.modTeam t f).llc = s.llc := rfl
@[simp] theorem State.modTeam_replicas (s : State) (t : Nat) (f : Team → Team) : (s.modTeam t f).replicas = s.replicas := rfl
@[simp] theorem State.modTeam_hostMem (s : State) (t : Nat) (f : Team → Team) : (s.modTeam t f).hostMem = s.hostMem := rfl
@[simp] theorem State.modTeam_clock (s : State) (t : Nat) (f : Team → Team) : (s.modTeam t f).clock = s.clock := rfl
@[simp] theorem State.modTeam_dies (s : State) (t : Nat) (f : Team → Team) : (s.modTeam t f).dies = s.dies := rfl
@[simp] theorem State.modTeam_cores (s : State) (t : Nat) (f : Team → Team) : (s.modTeam t f).cores = s.cores := rfl
@[simp] theorem State.modTeam_slices (s : State) (t : Nat) (f : Team → Team) : (s.modTeam t f).slices = s.slices := rfl
@[simp] theorem State.modTeam_gangs (s : State) (t : Nat) (f : Team → Team) : (s.modTeam t f).gangs = s.gangs := rfl
@[simp] theorem State.modTeam_launches (s : State) (t : Nat) (f : Team → Team) : (s.modTeam t f).launches = s.launches := rfl
@[simp] theorem State.modTeam_graphs (s : State) (t : Nat) (f : Team → Team) : (s.modTeam t f).graphs = s.graphs := rfl
@[simp] theorem State.modTeam_ctxs (s : State) (t : Nat) (f : Team → Team) : (s.modTeam t f).ctxs = s.ctxs := rfl
@[simp] theorem State.modTeam_queues (s : State) (t : Nat) (f : Team → Team) : (s.modTeam t f).queues = s.queues := rfl
@[simp] theorem State.modTeam_engines (s : State) (t : Nat) (f : Team → Team) : (s.modTeam t f).engines = s.engines := rfl
@[simp] theorem State.modTeam_groups (s : State) (t : Nat) (f : Team → Team) : (s.modTeam t f).groups = s.groups := rfl
@[simp] theorem State.modTeam_expanders (s : State) (t : Nat) (f : Team → Team) : (s.modTeam t f).expanders = s.expanders := rfl
@[simp] theorem State.modTeam_module (s : State) (t : Nat) (f : Team → Team) : (s.modTeam t f).module = s.module := rfl
@[simp] theorem State.modTeam_cur (s : State) (t : Nat) (f : Team → Team) : (s.modTeam t f).cur = s.cur := rfl
@[simp] theorem State.modTeam_tape (s : State) (t : Nat) (f : Team → Team) : (s.modTeam t f).tape = s.tape := rfl
@[simp] theorem State.modTeam_draws (s : State) (t : Nat) (f : Team → Team) : (s.modTeam t f).draws = s.draws := rfl
@[simp] theorem State.modTeam_idle (s : State) (t : Nat) (f : Team → Team) : (s.modTeam t f).idle = s.idle := rfl
@[simp] theorem State.modTeam_out (s : State) (t : Nat) (f : Team → Team) : (s.modTeam t f).out = s.out := rfl
@[simp] theorem State.modTeam_words (s : State) (t : Nat) (f : Team → Team) : (s.modTeam t f).words = s.words := rfl
@[simp] theorem State.modTeam_slice_read (s : State) (t : Nat) (f : Team → Team) (t' k' : Nat) : (s.modTeam t f).slice t' k' = s.slice t' k' := rfl
@[simp] theorem State.modTeam_ctx_read (s : State) (t : Nat) (f : Team → Team) (c' : Nat) : (s.modTeam t f).ctx c' = s.ctx c' := rfl
@[simp] theorem State.modTeam_die_read (s : State) (t : Nat) (f : Team → Team) (d' : Nat) : (s.modTeam t f).die d' = s.die d' := rfl
@[simp] theorem State.modTeam_core_read (s : State) (t : Nat) (f : Team → Team) (c' : Nat) : (s.modTeam t f).core c' = s.core c' := rfl
@[simp] theorem State.modTeam_launch_read (s : State) (t : Nat) (f : Team → Team) (l' : Nat) : (s.modTeam t f).launch l' = s.launch l' := rfl
@[simp] theorem State.modTeam_engine_read (s : State) (t : Nat) (f : Team → Team) (e' : Nat) : (s.modTeam t f).engine e' = s.engine e' := rfl
@[simp] theorem State.modTeam_block_read (s : State) (t : Nat) (f : Team → Team) (b' : Nat) : (s.modTeam t f).block b' = s.block b' := rfl
@[simp] theorem State.modTeam_readByte_read (s : State) (t : Nat) (f : Team → Team) (a' : Nat) : (s.modTeam t f).readByte a' = s.readByte a' := rfl

/-! ### State.modCtx -/

@[simp] theorem State.modCtx_mem (s : State) (c : Nat) (f : Ctx → Ctx) : (s.modCtx c f).mem = s.mem := rfl
@[simp] theorem State.modCtx_blocks (s : State) (c : Nat) (f : Ctx → Ctx) : (s.modCtx c f).blocks = s.blocks := rfl
@[simp] theorem State.modCtx_llc (s : State) (c : Nat) (f : Ctx → Ctx) : (s.modCtx c f).llc = s.llc := rfl
@[simp] theorem State.modCtx_replicas (s : State) (c : Nat) (f : Ctx → Ctx) : (s.modCtx c f).replicas = s.replicas := rfl
@[simp] theorem State.modCtx_hostMem (s : State) (c : Nat) (f : Ctx → Ctx) : (s.modCtx c f).hostMem = s.hostMem := rfl
@[simp] theorem State.modCtx_clock (s : State) (c : Nat) (f : Ctx → Ctx) : (s.modCtx c f).clock = s.clock := rfl
@[simp] theorem State.modCtx_dies (s : State) (c : Nat) (f : Ctx → Ctx) : (s.modCtx c f).dies = s.dies := rfl
@[simp] theorem State.modCtx_cores (s : State) (c : Nat) (f : Ctx → Ctx) : (s.modCtx c f).cores = s.cores := rfl
@[simp] theorem State.modCtx_slices (s : State) (c : Nat) (f : Ctx → Ctx) : (s.modCtx c f).slices = s.slices := rfl
@[simp] theorem State.modCtx_gangs (s : State) (c : Nat) (f : Ctx → Ctx) : (s.modCtx c f).gangs = s.gangs := rfl
@[simp] theorem State.modCtx_teams (s : State) (c : Nat) (f : Ctx → Ctx) : (s.modCtx c f).teams = s.teams := rfl
@[simp] theorem State.modCtx_launches (s : State) (c : Nat) (f : Ctx → Ctx) : (s.modCtx c f).launches = s.launches := rfl
@[simp] theorem State.modCtx_graphs (s : State) (c : Nat) (f : Ctx → Ctx) : (s.modCtx c f).graphs = s.graphs := rfl
@[simp] theorem State.modCtx_queues (s : State) (c : Nat) (f : Ctx → Ctx) : (s.modCtx c f).queues = s.queues := rfl
@[simp] theorem State.modCtx_engines (s : State) (c : Nat) (f : Ctx → Ctx) : (s.modCtx c f).engines = s.engines := rfl
@[simp] theorem State.modCtx_groups (s : State) (c : Nat) (f : Ctx → Ctx) : (s.modCtx c f).groups = s.groups := rfl
@[simp] theorem State.modCtx_expanders (s : State) (c : Nat) (f : Ctx → Ctx) : (s.modCtx c f).expanders = s.expanders := rfl
@[simp] theorem State.modCtx_module (s : State) (c : Nat) (f : Ctx → Ctx) : (s.modCtx c f).module = s.module := rfl
@[simp] theorem State.modCtx_cur (s : State) (c : Nat) (f : Ctx → Ctx) : (s.modCtx c f).cur = s.cur := rfl
@[simp] theorem State.modCtx_tape (s : State) (c : Nat) (f : Ctx → Ctx) : (s.modCtx c f).tape = s.tape := rfl
@[simp] theorem State.modCtx_draws (s : State) (c : Nat) (f : Ctx → Ctx) : (s.modCtx c f).draws = s.draws := rfl
@[simp] theorem State.modCtx_idle (s : State) (c : Nat) (f : Ctx → Ctx) : (s.modCtx c f).idle = s.idle := rfl
@[simp] theorem State.modCtx_out (s : State) (c : Nat) (f : Ctx → Ctx) : (s.modCtx c f).out = s.out := rfl
@[simp] theorem State.modCtx_words (s : State) (c : Nat) (f : Ctx → Ctx) : (s.modCtx c f).words = s.words := rfl
@[simp] theorem State.modCtx_slice_read (s : State) (c : Nat) (f : Ctx → Ctx) (t' k' : Nat) : (s.modCtx c f).slice t' k' = s.slice t' k' := rfl
@[simp] theorem State.modCtx_team_read (s : State) (c : Nat) (f : Ctx → Ctx) (t' : Nat) : (s.modCtx c f).team t' = s.team t' := rfl
@[simp] theorem State.modCtx_die_read (s : State) (c : Nat) (f : Ctx → Ctx) (d' : Nat) : (s.modCtx c f).die d' = s.die d' := rfl
@[simp] theorem State.modCtx_core_read (s : State) (c : Nat) (f : Ctx → Ctx) (c' : Nat) : (s.modCtx c f).core c' = s.core c' := rfl
@[simp] theorem State.modCtx_launch_read (s : State) (c : Nat) (f : Ctx → Ctx) (l' : Nat) : (s.modCtx c f).launch l' = s.launch l' := rfl
@[simp] theorem State.modCtx_engine_read (s : State) (c : Nat) (f : Ctx → Ctx) (e' : Nat) : (s.modCtx c f).engine e' = s.engine e' := rfl
@[simp] theorem State.modCtx_block_read (s : State) (c : Nat) (f : Ctx → Ctx) (b' : Nat) : (s.modCtx c f).block b' = s.block b' := rfl
@[simp] theorem State.modCtx_readByte_read (s : State) (c : Nat) (f : Ctx → Ctx) (a' : Nat) : (s.modCtx c f).readByte a' = s.readByte a' := rfl

/-! ### State.modDie -/

@[simp] theorem State.modDie_mem (s : State) (d : Nat) (f : Die → Die) : (s.modDie d f).mem = s.mem := rfl
@[simp] theorem State.modDie_blocks (s : State) (d : Nat) (f : Die → Die) : (s.modDie d f).blocks = s.blocks := rfl
@[simp] theorem State.modDie_llc (s : State) (d : Nat) (f : Die → Die) : (s.modDie d f).llc = s.llc := rfl
@[simp] theorem State.modDie_replicas (s : State) (d : Nat) (f : Die → Die) : (s.modDie d f).replicas = s.replicas := rfl
@[simp] theorem State.modDie_hostMem (s : State) (d : Nat) (f : Die → Die) : (s.modDie d f).hostMem = s.hostMem := rfl
@[simp] theorem State.modDie_clock (s : State) (d : Nat) (f : Die → Die) : (s.modDie d f).clock = s.clock := rfl
@[simp] theorem State.modDie_cores (s : State) (d : Nat) (f : Die → Die) : (s.modDie d f).cores = s.cores := rfl
@[simp] theorem State.modDie_slices (s : State) (d : Nat) (f : Die → Die) : (s.modDie d f).slices = s.slices := rfl
@[simp] theorem State.modDie_gangs (s : State) (d : Nat) (f : Die → Die) : (s.modDie d f).gangs = s.gangs := rfl
@[simp] theorem State.modDie_teams (s : State) (d : Nat) (f : Die → Die) : (s.modDie d f).teams = s.teams := rfl
@[simp] theorem State.modDie_launches (s : State) (d : Nat) (f : Die → Die) : (s.modDie d f).launches = s.launches := rfl
@[simp] theorem State.modDie_graphs (s : State) (d : Nat) (f : Die → Die) : (s.modDie d f).graphs = s.graphs := rfl
@[simp] theorem State.modDie_ctxs (s : State) (d : Nat) (f : Die → Die) : (s.modDie d f).ctxs = s.ctxs := rfl
@[simp] theorem State.modDie_queues (s : State) (d : Nat) (f : Die → Die) : (s.modDie d f).queues = s.queues := rfl
@[simp] theorem State.modDie_engines (s : State) (d : Nat) (f : Die → Die) : (s.modDie d f).engines = s.engines := rfl
@[simp] theorem State.modDie_groups (s : State) (d : Nat) (f : Die → Die) : (s.modDie d f).groups = s.groups := rfl
@[simp] theorem State.modDie_expanders (s : State) (d : Nat) (f : Die → Die) : (s.modDie d f).expanders = s.expanders := rfl
@[simp] theorem State.modDie_module (s : State) (d : Nat) (f : Die → Die) : (s.modDie d f).module = s.module := rfl
@[simp] theorem State.modDie_cur (s : State) (d : Nat) (f : Die → Die) : (s.modDie d f).cur = s.cur := rfl
@[simp] theorem State.modDie_tape (s : State) (d : Nat) (f : Die → Die) : (s.modDie d f).tape = s.tape := rfl
@[simp] theorem State.modDie_draws (s : State) (d : Nat) (f : Die → Die) : (s.modDie d f).draws = s.draws := rfl
@[simp] theorem State.modDie_idle (s : State) (d : Nat) (f : Die → Die) : (s.modDie d f).idle = s.idle := rfl
@[simp] theorem State.modDie_out (s : State) (d : Nat) (f : Die → Die) : (s.modDie d f).out = s.out := rfl
@[simp] theorem State.modDie_words (s : State) (d : Nat) (f : Die → Die) : (s.modDie d f).words = s.words := rfl
@[simp] theorem State.modDie_slice_read (s : State) (d : Nat) (f : Die → Die) (t' k' : Nat) : (s.modDie d f).slice t' k' = s.slice t' k' := rfl
@[simp] theorem State.modDie_team_read (s : State) (d : Nat) (f : Die → Die) (t' : Nat) : (s.modDie d f).team t' = s.team t' := rfl
@[simp] theorem State.modDie_ctx_read (s : State) (d : Nat) (f : Die → Die) (c' : Nat) : (s.modDie d f).ctx c' = s.ctx c' := rfl
@[simp] theorem State.modDie_core_read (s : State) (d : Nat) (f : Die → Die) (c' : Nat) : (s.modDie d f).core c' = s.core c' := rfl
@[simp] theorem State.modDie_launch_read (s : State) (d : Nat) (f : Die → Die) (l' : Nat) : (s.modDie d f).launch l' = s.launch l' := rfl
@[simp] theorem State.modDie_engine_read (s : State) (d : Nat) (f : Die → Die) (e' : Nat) : (s.modDie d f).engine e' = s.engine e' := rfl
@[simp] theorem State.modDie_block_read (s : State) (d : Nat) (f : Die → Die) (b' : Nat) : (s.modDie d f).block b' = s.block b' := rfl
@[simp] theorem State.modDie_readByte_read (s : State) (d : Nat) (f : Die → Die) (a' : Nat) : (s.modDie d f).readByte a' = s.readByte a' := rfl

/-! ### State.modCore -/

@[simp] theorem State.modCore_mem (s : State) (c : Nat) (f : Core → Core) : (s.modCore c f).mem = s.mem := rfl
@[simp] theorem State.modCore_blocks (s : State) (c : Nat) (f : Core → Core) : (s.modCore c f).blocks = s.blocks := rfl
@[simp] theorem State.modCore_llc (s : State) (c : Nat) (f : Core → Core) : (s.modCore c f).llc = s.llc := rfl
@[simp] theorem State.modCore_replicas (s : State) (c : Nat) (f : Core → Core) : (s.modCore c f).replicas = s.replicas := rfl
@[simp] theorem State.modCore_hostMem (s : State) (c : Nat) (f : Core → Core) : (s.modCore c f).hostMem = s.hostMem := rfl
@[simp] theorem State.modCore_clock (s : State) (c : Nat) (f : Core → Core) : (s.modCore c f).clock = s.clock := rfl
@[simp] theorem State.modCore_dies (s : State) (c : Nat) (f : Core → Core) : (s.modCore c f).dies = s.dies := rfl
@[simp] theorem State.modCore_slices (s : State) (c : Nat) (f : Core → Core) : (s.modCore c f).slices = s.slices := rfl
@[simp] theorem State.modCore_gangs (s : State) (c : Nat) (f : Core → Core) : (s.modCore c f).gangs = s.gangs := rfl
@[simp] theorem State.modCore_teams (s : State) (c : Nat) (f : Core → Core) : (s.modCore c f).teams = s.teams := rfl
@[simp] theorem State.modCore_launches (s : State) (c : Nat) (f : Core → Core) : (s.modCore c f).launches = s.launches := rfl
@[simp] theorem State.modCore_graphs (s : State) (c : Nat) (f : Core → Core) : (s.modCore c f).graphs = s.graphs := rfl
@[simp] theorem State.modCore_ctxs (s : State) (c : Nat) (f : Core → Core) : (s.modCore c f).ctxs = s.ctxs := rfl
@[simp] theorem State.modCore_queues (s : State) (c : Nat) (f : Core → Core) : (s.modCore c f).queues = s.queues := rfl
@[simp] theorem State.modCore_engines (s : State) (c : Nat) (f : Core → Core) : (s.modCore c f).engines = s.engines := rfl
@[simp] theorem State.modCore_groups (s : State) (c : Nat) (f : Core → Core) : (s.modCore c f).groups = s.groups := rfl
@[simp] theorem State.modCore_expanders (s : State) (c : Nat) (f : Core → Core) : (s.modCore c f).expanders = s.expanders := rfl
@[simp] theorem State.modCore_module (s : State) (c : Nat) (f : Core → Core) : (s.modCore c f).module = s.module := rfl
@[simp] theorem State.modCore_cur (s : State) (c : Nat) (f : Core → Core) : (s.modCore c f).cur = s.cur := rfl
@[simp] theorem State.modCore_tape (s : State) (c : Nat) (f : Core → Core) : (s.modCore c f).tape = s.tape := rfl
@[simp] theorem State.modCore_draws (s : State) (c : Nat) (f : Core → Core) : (s.modCore c f).draws = s.draws := rfl
@[simp] theorem State.modCore_idle (s : State) (c : Nat) (f : Core → Core) : (s.modCore c f).idle = s.idle := rfl
@[simp] theorem State.modCore_out (s : State) (c : Nat) (f : Core → Core) : (s.modCore c f).out = s.out := rfl
@[simp] theorem State.modCore_words (s : State) (c : Nat) (f : Core → Core) : (s.modCore c f).words = s.words := rfl
@[simp] theorem State.modCore_slice_read (s : State) (c : Nat) (f : Core → Core) (t' k' : Nat) : (s.modCore c f).slice t' k' = s.slice t' k' := rfl
@[simp] theorem State.modCore_team_read (s : State) (c : Nat) (f : Core → Core) (t' : Nat) : (s.modCore c f).team t' = s.team t' := rfl
@[simp] theorem State.modCore_ctx_read (s : State) (c : Nat) (f : Core → Core) (c' : Nat) : (s.modCore c f).ctx c' = s.ctx c' := rfl
@[simp] theorem State.modCore_die_read (s : State) (c : Nat) (f : Core → Core) (d' : Nat) : (s.modCore c f).die d' = s.die d' := rfl
@[simp] theorem State.modCore_launch_read (s : State) (c : Nat) (f : Core → Core) (l' : Nat) : (s.modCore c f).launch l' = s.launch l' := rfl
@[simp] theorem State.modCore_engine_read (s : State) (c : Nat) (f : Core → Core) (e' : Nat) : (s.modCore c f).engine e' = s.engine e' := rfl
@[simp] theorem State.modCore_block_read (s : State) (c : Nat) (f : Core → Core) (b' : Nat) : (s.modCore c f).block b' = s.block b' := rfl
@[simp] theorem State.modCore_readByte_read (s : State) (c : Nat) (f : Core → Core) (a' : Nat) : (s.modCore c f).readByte a' = s.readByte a' := rfl

/-! ### State.modLaunch -/

@[simp] theorem State.modLaunch_mem (s : State) (l : Nat) (f : Launch → Launch) : (s.modLaunch l f).mem = s.mem := rfl
@[simp] theorem State.modLaunch_blocks (s : State) (l : Nat) (f : Launch → Launch) : (s.modLaunch l f).blocks = s.blocks := rfl
@[simp] theorem State.modLaunch_llc (s : State) (l : Nat) (f : Launch → Launch) : (s.modLaunch l f).llc = s.llc := rfl
@[simp] theorem State.modLaunch_replicas (s : State) (l : Nat) (f : Launch → Launch) : (s.modLaunch l f).replicas = s.replicas := rfl
@[simp] theorem State.modLaunch_hostMem (s : State) (l : Nat) (f : Launch → Launch) : (s.modLaunch l f).hostMem = s.hostMem := rfl
@[simp] theorem State.modLaunch_clock (s : State) (l : Nat) (f : Launch → Launch) : (s.modLaunch l f).clock = s.clock := rfl
@[simp] theorem State.modLaunch_dies (s : State) (l : Nat) (f : Launch → Launch) : (s.modLaunch l f).dies = s.dies := rfl
@[simp] theorem State.modLaunch_cores (s : State) (l : Nat) (f : Launch → Launch) : (s.modLaunch l f).cores = s.cores := rfl
@[simp] theorem State.modLaunch_slices (s : State) (l : Nat) (f : Launch → Launch) : (s.modLaunch l f).slices = s.slices := rfl
@[simp] theorem State.modLaunch_gangs (s : State) (l : Nat) (f : Launch → Launch) : (s.modLaunch l f).gangs = s.gangs := rfl
@[simp] theorem State.modLaunch_teams (s : State) (l : Nat) (f : Launch → Launch) : (s.modLaunch l f).teams = s.teams := rfl
@[simp] theorem State.modLaunch_graphs (s : State) (l : Nat) (f : Launch → Launch) : (s.modLaunch l f).graphs = s.graphs := rfl
@[simp] theorem State.modLaunch_ctxs (s : State) (l : Nat) (f : Launch → Launch) : (s.modLaunch l f).ctxs = s.ctxs := rfl
@[simp] theorem State.modLaunch_queues (s : State) (l : Nat) (f : Launch → Launch) : (s.modLaunch l f).queues = s.queues := rfl
@[simp] theorem State.modLaunch_engines (s : State) (l : Nat) (f : Launch → Launch) : (s.modLaunch l f).engines = s.engines := rfl
@[simp] theorem State.modLaunch_groups (s : State) (l : Nat) (f : Launch → Launch) : (s.modLaunch l f).groups = s.groups := rfl
@[simp] theorem State.modLaunch_expanders (s : State) (l : Nat) (f : Launch → Launch) : (s.modLaunch l f).expanders = s.expanders := rfl
@[simp] theorem State.modLaunch_module (s : State) (l : Nat) (f : Launch → Launch) : (s.modLaunch l f).module = s.module := rfl
@[simp] theorem State.modLaunch_cur (s : State) (l : Nat) (f : Launch → Launch) : (s.modLaunch l f).cur = s.cur := rfl
@[simp] theorem State.modLaunch_tape (s : State) (l : Nat) (f : Launch → Launch) : (s.modLaunch l f).tape = s.tape := rfl
@[simp] theorem State.modLaunch_draws (s : State) (l : Nat) (f : Launch → Launch) : (s.modLaunch l f).draws = s.draws := rfl
@[simp] theorem State.modLaunch_idle (s : State) (l : Nat) (f : Launch → Launch) : (s.modLaunch l f).idle = s.idle := rfl
@[simp] theorem State.modLaunch_out (s : State) (l : Nat) (f : Launch → Launch) : (s.modLaunch l f).out = s.out := rfl
@[simp] theorem State.modLaunch_words (s : State) (l : Nat) (f : Launch → Launch) : (s.modLaunch l f).words = s.words := rfl
@[simp] theorem State.modLaunch_slice_read (s : State) (l : Nat) (f : Launch → Launch) (t' k' : Nat) : (s.modLaunch l f).slice t' k' = s.slice t' k' := rfl
@[simp] theorem State.modLaunch_team_read (s : State) (l : Nat) (f : Launch → Launch) (t' : Nat) : (s.modLaunch l f).team t' = s.team t' := rfl
@[simp] theorem State.modLaunch_ctx_read (s : State) (l : Nat) (f : Launch → Launch) (c' : Nat) : (s.modLaunch l f).ctx c' = s.ctx c' := rfl
@[simp] theorem State.modLaunch_die_read (s : State) (l : Nat) (f : Launch → Launch) (d' : Nat) : (s.modLaunch l f).die d' = s.die d' := rfl
@[simp] theorem State.modLaunch_core_read (s : State) (l : Nat) (f : Launch → Launch) (c' : Nat) : (s.modLaunch l f).core c' = s.core c' := rfl
@[simp] theorem State.modLaunch_engine_read (s : State) (l : Nat) (f : Launch → Launch) (e' : Nat) : (s.modLaunch l f).engine e' = s.engine e' := rfl
@[simp] theorem State.modLaunch_block_read (s : State) (l : Nat) (f : Launch → Launch) (b' : Nat) : (s.modLaunch l f).block b' = s.block b' := rfl
@[simp] theorem State.modLaunch_readByte_read (s : State) (l : Nat) (f : Launch → Launch) (a' : Nat) : (s.modLaunch l f).readByte a' = s.readByte a' := rfl

/-! ### State.modEngine -/

@[simp] theorem State.modEngine_mem (s : State) (e : Nat) (f : Engine → Engine) : (s.modEngine e f).mem = s.mem := rfl
@[simp] theorem State.modEngine_blocks (s : State) (e : Nat) (f : Engine → Engine) : (s.modEngine e f).blocks = s.blocks := rfl
@[simp] theorem State.modEngine_llc (s : State) (e : Nat) (f : Engine → Engine) : (s.modEngine e f).llc = s.llc := rfl
@[simp] theorem State.modEngine_replicas (s : State) (e : Nat) (f : Engine → Engine) : (s.modEngine e f).replicas = s.replicas := rfl
@[simp] theorem State.modEngine_hostMem (s : State) (e : Nat) (f : Engine → Engine) : (s.modEngine e f).hostMem = s.hostMem := rfl
@[simp] theorem State.modEngine_clock (s : State) (e : Nat) (f : Engine → Engine) : (s.modEngine e f).clock = s.clock := rfl
@[simp] theorem State.modEngine_dies (s : State) (e : Nat) (f : Engine → Engine) : (s.modEngine e f).dies = s.dies := rfl
@[simp] theorem State.modEngine_cores (s : State) (e : Nat) (f : Engine → Engine) : (s.modEngine e f).cores = s.cores := rfl
@[simp] theorem State.modEngine_slices (s : State) (e : Nat) (f : Engine → Engine) : (s.modEngine e f).slices = s.slices := rfl
@[simp] theorem State.modEngine_gangs (s : State) (e : Nat) (f : Engine → Engine) : (s.modEngine e f).gangs = s.gangs := rfl
@[simp] theorem State.modEngine_teams (s : State) (e : Nat) (f : Engine → Engine) : (s.modEngine e f).teams = s.teams := rfl
@[simp] theorem State.modEngine_launches (s : State) (e : Nat) (f : Engine → Engine) : (s.modEngine e f).launches = s.launches := rfl
@[simp] theorem State.modEngine_graphs (s : State) (e : Nat) (f : Engine → Engine) : (s.modEngine e f).graphs = s.graphs := rfl
@[simp] theorem State.modEngine_ctxs (s : State) (e : Nat) (f : Engine → Engine) : (s.modEngine e f).ctxs = s.ctxs := rfl
@[simp] theorem State.modEngine_queues (s : State) (e : Nat) (f : Engine → Engine) : (s.modEngine e f).queues = s.queues := rfl
@[simp] theorem State.modEngine_groups (s : State) (e : Nat) (f : Engine → Engine) : (s.modEngine e f).groups = s.groups := rfl
@[simp] theorem State.modEngine_expanders (s : State) (e : Nat) (f : Engine → Engine) : (s.modEngine e f).expanders = s.expanders := rfl
@[simp] theorem State.modEngine_module (s : State) (e : Nat) (f : Engine → Engine) : (s.modEngine e f).module = s.module := rfl
@[simp] theorem State.modEngine_cur (s : State) (e : Nat) (f : Engine → Engine) : (s.modEngine e f).cur = s.cur := rfl
@[simp] theorem State.modEngine_tape (s : State) (e : Nat) (f : Engine → Engine) : (s.modEngine e f).tape = s.tape := rfl
@[simp] theorem State.modEngine_draws (s : State) (e : Nat) (f : Engine → Engine) : (s.modEngine e f).draws = s.draws := rfl
@[simp] theorem State.modEngine_idle (s : State) (e : Nat) (f : Engine → Engine) : (s.modEngine e f).idle = s.idle := rfl
@[simp] theorem State.modEngine_out (s : State) (e : Nat) (f : Engine → Engine) : (s.modEngine e f).out = s.out := rfl
@[simp] theorem State.modEngine_words (s : State) (e : Nat) (f : Engine → Engine) : (s.modEngine e f).words = s.words := rfl
@[simp] theorem State.modEngine_slice_read (s : State) (e : Nat) (f : Engine → Engine) (t' k' : Nat) : (s.modEngine e f).slice t' k' = s.slice t' k' := rfl
@[simp] theorem State.modEngine_team_read (s : State) (e : Nat) (f : Engine → Engine) (t' : Nat) : (s.modEngine e f).team t' = s.team t' := rfl
@[simp] theorem State.modEngine_ctx_read (s : State) (e : Nat) (f : Engine → Engine) (c' : Nat) : (s.modEngine e f).ctx c' = s.ctx c' := rfl
@[simp] theorem State.modEngine_die_read (s : State) (e : Nat) (f : Engine → Engine) (d' : Nat) : (s.modEngine e f).die d' = s.die d' := rfl
@[simp] theorem State.modEngine_core_read (s : State) (e : Nat) (f : Engine → Engine) (c' : Nat) : (s.modEngine e f).core c' = s.core c' := rfl
@[simp] theorem State.modEngine_launch_read (s : State) (e : Nat) (f : Engine → Engine) (l' : Nat) : (s.modEngine e f).launch l' = s.launch l' := rfl
@[simp] theorem State.modEngine_block_read (s : State) (e : Nat) (f : Engine → Engine) (b' : Nat) : (s.modEngine e f).block b' = s.block b' := rfl
@[simp] theorem State.modEngine_readByte_read (s : State) (e : Nat) (f : Engine → Engine) (a' : Nat) : (s.modEngine e f).readByte a' = s.readByte a' := rfl

/-! ### State.setBlock -/

@[simp] theorem State.setBlock_mem (s : State) (b : Nat) (v : Block) : (s.setBlock b v).mem = s.mem := rfl
@[simp] theorem State.setBlock_llc (s : State) (b : Nat) (v : Block) : (s.setBlock b v).llc = s.llc := rfl
@[simp] theorem State.setBlock_replicas (s : State) (b : Nat) (v : Block) : (s.setBlock b v).replicas = s.replicas := rfl
@[simp] theorem State.setBlock_hostMem (s : State) (b : Nat) (v : Block) : (s.setBlock b v).hostMem = s.hostMem := rfl
@[simp] theorem State.setBlock_clock (s : State) (b : Nat) (v : Block) : (s.setBlock b v).clock = s.clock := rfl
@[simp] theorem State.setBlock_dies (s : State) (b : Nat) (v : Block) : (s.setBlock b v).dies = s.dies := rfl
@[simp] theorem State.setBlock_cores (s : State) (b : Nat) (v : Block) : (s.setBlock b v).cores = s.cores := rfl
@[simp] theorem State.setBlock_slices (s : State) (b : Nat) (v : Block) : (s.setBlock b v).slices = s.slices := rfl
@[simp] theorem State.setBlock_gangs (s : State) (b : Nat) (v : Block) : (s.setBlock b v).gangs = s.gangs := rfl
@[simp] theorem State.setBlock_teams (s : State) (b : Nat) (v : Block) : (s.setBlock b v).teams = s.teams := rfl
@[simp] theorem State.setBlock_launches (s : State) (b : Nat) (v : Block) : (s.setBlock b v).launches = s.launches := rfl
@[simp] theorem State.setBlock_graphs (s : State) (b : Nat) (v : Block) : (s.setBlock b v).graphs = s.graphs := rfl
@[simp] theorem State.setBlock_ctxs (s : State) (b : Nat) (v : Block) : (s.setBlock b v).ctxs = s.ctxs := rfl
@[simp] theorem State.setBlock_queues (s : State) (b : Nat) (v : Block) : (s.setBlock b v).queues = s.queues := rfl
@[simp] theorem State.setBlock_engines (s : State) (b : Nat) (v : Block) : (s.setBlock b v).engines = s.engines := rfl
@[simp] theorem State.setBlock_groups (s : State) (b : Nat) (v : Block) : (s.setBlock b v).groups = s.groups := rfl
@[simp] theorem State.setBlock_expanders (s : State) (b : Nat) (v : Block) : (s.setBlock b v).expanders = s.expanders := rfl
@[simp] theorem State.setBlock_module (s : State) (b : Nat) (v : Block) : (s.setBlock b v).module = s.module := rfl
@[simp] theorem State.setBlock_cur (s : State) (b : Nat) (v : Block) : (s.setBlock b v).cur = s.cur := rfl
@[simp] theorem State.setBlock_tape (s : State) (b : Nat) (v : Block) : (s.setBlock b v).tape = s.tape := rfl
@[simp] theorem State.setBlock_draws (s : State) (b : Nat) (v : Block) : (s.setBlock b v).draws = s.draws := rfl
@[simp] theorem State.setBlock_idle (s : State) (b : Nat) (v : Block) : (s.setBlock b v).idle = s.idle := rfl
@[simp] theorem State.setBlock_out (s : State) (b : Nat) (v : Block) : (s.setBlock b v).out = s.out := rfl
@[simp] theorem State.setBlock_words (s : State) (b : Nat) (v : Block) : (s.setBlock b v).words = s.words := rfl
@[simp] theorem State.setBlock_slice_read (s : State) (b : Nat) (v : Block) (t' k' : Nat) : (s.setBlock b v).slice t' k' = s.slice t' k' := rfl
@[simp] theorem State.setBlock_team_read (s : State) (b : Nat) (v : Block) (t' : Nat) : (s.setBlock b v).team t' = s.team t' := rfl
@[simp] theorem State.setBlock_ctx_read (s : State) (b : Nat) (v : Block) (c' : Nat) : (s.setBlock b v).ctx c' = s.ctx c' := rfl
@[simp] theorem State.setBlock_die_read (s : State) (b : Nat) (v : Block) (d' : Nat) : (s.setBlock b v).die d' = s.die d' := rfl
@[simp] theorem State.setBlock_core_read (s : State) (b : Nat) (v : Block) (c' : Nat) : (s.setBlock b v).core c' = s.core c' := rfl
@[simp] theorem State.setBlock_launch_read (s : State) (b : Nat) (v : Block) (l' : Nat) : (s.setBlock b v).launch l' = s.launch l' := rfl
@[simp] theorem State.setBlock_engine_read (s : State) (b : Nat) (v : Block) (e' : Nat) : (s.setBlock b v).engine e' = s.engine e' := rfl
@[simp] theorem State.setBlock_readByte_read (s : State) (b : Nat) (v : Block) (a' : Nat) : (s.setBlock b v).readByte a' = s.readByte a' := rfl

/-! ### State.pokeBytes -/

@[simp] theorem State.pokeBytes_blocks (s : State) (a : Nat) (bs : List Byte) : (s.pokeBytes a bs).blocks = s.blocks := rfl
@[simp] theorem State.pokeBytes_llc (s : State) (a : Nat) (bs : List Byte) : (s.pokeBytes a bs).llc = s.llc := rfl
@[simp] theorem State.pokeBytes_replicas (s : State) (a : Nat) (bs : List Byte) : (s.pokeBytes a bs).replicas = s.replicas := rfl
@[simp] theorem State.pokeBytes_hostMem (s : State) (a : Nat) (bs : List Byte) : (s.pokeBytes a bs).hostMem = s.hostMem := rfl
@[simp] theorem State.pokeBytes_clock (s : State) (a : Nat) (bs : List Byte) : (s.pokeBytes a bs).clock = s.clock := rfl
@[simp] theorem State.pokeBytes_dies (s : State) (a : Nat) (bs : List Byte) : (s.pokeBytes a bs).dies = s.dies := rfl
@[simp] theorem State.pokeBytes_cores (s : State) (a : Nat) (bs : List Byte) : (s.pokeBytes a bs).cores = s.cores := rfl
@[simp] theorem State.pokeBytes_slices (s : State) (a : Nat) (bs : List Byte) : (s.pokeBytes a bs).slices = s.slices := rfl
@[simp] theorem State.pokeBytes_gangs (s : State) (a : Nat) (bs : List Byte) : (s.pokeBytes a bs).gangs = s.gangs := rfl
@[simp] theorem State.pokeBytes_teams (s : State) (a : Nat) (bs : List Byte) : (s.pokeBytes a bs).teams = s.teams := rfl
@[simp] theorem State.pokeBytes_launches (s : State) (a : Nat) (bs : List Byte) : (s.pokeBytes a bs).launches = s.launches := rfl
@[simp] theorem State.pokeBytes_graphs (s : State) (a : Nat) (bs : List Byte) : (s.pokeBytes a bs).graphs = s.graphs := rfl
@[simp] theorem State.pokeBytes_ctxs (s : State) (a : Nat) (bs : List Byte) : (s.pokeBytes a bs).ctxs = s.ctxs := rfl
@[simp] theorem State.pokeBytes_queues (s : State) (a : Nat) (bs : List Byte) : (s.pokeBytes a bs).queues = s.queues := rfl
@[simp] theorem State.pokeBytes_engines (s : State) (a : Nat) (bs : List Byte) : (s.pokeBytes a bs).engines = s.engines := rfl
@[simp] theorem State.pokeBytes_groups (s : State) (a : Nat) (bs : List Byte) : (s.pokeBytes a bs).groups = s.groups := rfl
@[simp] theorem State.pokeBytes_expanders (s : State) (a : Nat) (bs : List Byte) : (s.pokeBytes a bs).expanders = s.expanders := rfl
@[simp] theorem State.pokeBytes_module (s : State) (a : Nat) (bs : List Byte) : (s.pokeBytes a bs).module = s.module := rfl
@[simp] theorem State.pokeBytes_cur (s : State) (a : Nat) (bs : List Byte) : (s.pokeBytes a bs).cur = s.cur := rfl
@[simp] theorem State.pokeBytes_tape (s : State) (a : Nat) (bs : List Byte) : (s.pokeBytes a bs).tape = s.tape := rfl
@[simp] theorem State.pokeBytes_draws (s : State) (a : Nat) (bs : List Byte) : (s.pokeBytes a bs).draws = s.draws := rfl
@[simp] theorem State.pokeBytes_idle (s : State) (a : Nat) (bs : List Byte) : (s.pokeBytes a bs).idle = s.idle := rfl
@[simp] theorem State.pokeBytes_out (s : State) (a : Nat) (bs : List Byte) : (s.pokeBytes a bs).out = s.out := rfl
@[simp] theorem State.pokeBytes_words (s : State) (a : Nat) (bs : List Byte) : (s.pokeBytes a bs).words = s.words := rfl
@[simp] theorem State.pokeBytes_slice_read (s : State) (a : Nat) (bs : List Byte) (t' k' : Nat) : (s.pokeBytes a bs).slice t' k' = s.slice t' k' := rfl
@[simp] theorem State.pokeBytes_team_read (s : State) (a : Nat) (bs : List Byte) (t' : Nat) : (s.pokeBytes a bs).team t' = s.team t' := rfl
@[simp] theorem State.pokeBytes_ctx_read (s : State) (a : Nat) (bs : List Byte) (c' : Nat) : (s.pokeBytes a bs).ctx c' = s.ctx c' := rfl
@[simp] theorem State.pokeBytes_die_read (s : State) (a : Nat) (bs : List Byte) (d' : Nat) : (s.pokeBytes a bs).die d' = s.die d' := rfl
@[simp] theorem State.pokeBytes_core_read (s : State) (a : Nat) (bs : List Byte) (c' : Nat) : (s.pokeBytes a bs).core c' = s.core c' := rfl
@[simp] theorem State.pokeBytes_launch_read (s : State) (a : Nat) (bs : List Byte) (l' : Nat) : (s.pokeBytes a bs).launch l' = s.launch l' := rfl
@[simp] theorem State.pokeBytes_engine_read (s : State) (a : Nat) (bs : List Byte) (e' : Nat) : (s.pokeBytes a bs).engine e' = s.engine e' := rfl
@[simp] theorem State.pokeBytes_block_read (s : State) (a : Nat) (bs : List Byte) (b' : Nat) : (s.pokeBytes a bs).block b' = s.block b' := rfl

/-! ### State.drawn -/

@[simp] theorem State.drawn_mem (s : State) : (s.drawn).mem = s.mem := rfl
@[simp] theorem State.drawn_blocks (s : State) : (s.drawn).blocks = s.blocks := rfl
@[simp] theorem State.drawn_llc (s : State) : (s.drawn).llc = s.llc := rfl
@[simp] theorem State.drawn_replicas (s : State) : (s.drawn).replicas = s.replicas := rfl
@[simp] theorem State.drawn_hostMem (s : State) : (s.drawn).hostMem = s.hostMem := rfl
@[simp] theorem State.drawn_clock (s : State) : (s.drawn).clock = s.clock := rfl
@[simp] theorem State.drawn_dies (s : State) : (s.drawn).dies = s.dies := rfl
@[simp] theorem State.drawn_cores (s : State) : (s.drawn).cores = s.cores := rfl
@[simp] theorem State.drawn_slices (s : State) : (s.drawn).slices = s.slices := rfl
@[simp] theorem State.drawn_gangs (s : State) : (s.drawn).gangs = s.gangs := rfl
@[simp] theorem State.drawn_teams (s : State) : (s.drawn).teams = s.teams := rfl
@[simp] theorem State.drawn_launches (s : State) : (s.drawn).launches = s.launches := rfl
@[simp] theorem State.drawn_graphs (s : State) : (s.drawn).graphs = s.graphs := rfl
@[simp] theorem State.drawn_ctxs (s : State) : (s.drawn).ctxs = s.ctxs := rfl
@[simp] theorem State.drawn_queues (s : State) : (s.drawn).queues = s.queues := rfl
@[simp] theorem State.drawn_engines (s : State) : (s.drawn).engines = s.engines := rfl
@[simp] theorem State.drawn_groups (s : State) : (s.drawn).groups = s.groups := rfl
@[simp] theorem State.drawn_expanders (s : State) : (s.drawn).expanders = s.expanders := rfl
@[simp] theorem State.drawn_module (s : State) : (s.drawn).module = s.module := rfl
@[simp] theorem State.drawn_cur (s : State) : (s.drawn).cur = s.cur := rfl
@[simp] theorem State.drawn_tape (s : State) : (s.drawn).tape = s.tape := rfl
@[simp] theorem State.drawn_idle (s : State) : (s.drawn).idle = s.idle := rfl
@[simp] theorem State.drawn_out (s : State) : (s.drawn).out = s.out := rfl
@[simp] theorem State.drawn_words (s : State) : (s.drawn).words = s.words := rfl
@[simp] theorem State.drawn_slice_read (s : State) (t' k' : Nat) : (s.drawn).slice t' k' = s.slice t' k' := rfl
@[simp] theorem State.drawn_team_read (s : State) (t' : Nat) : (s.drawn).team t' = s.team t' := rfl
@[simp] theorem State.drawn_ctx_read (s : State) (c' : Nat) : (s.drawn).ctx c' = s.ctx c' := rfl
@[simp] theorem State.drawn_die_read (s : State) (d' : Nat) : (s.drawn).die d' = s.die d' := rfl
@[simp] theorem State.drawn_core_read (s : State) (c' : Nat) : (s.drawn).core c' = s.core c' := rfl
@[simp] theorem State.drawn_launch_read (s : State) (l' : Nat) : (s.drawn).launch l' = s.launch l' := rfl
@[simp] theorem State.drawn_engine_read (s : State) (e' : Nat) : (s.drawn).engine e' = s.engine e' := rfl
@[simp] theorem State.drawn_block_read (s : State) (b' : Nat) : (s.drawn).block b' = s.block b' := rfl
@[simp] theorem State.drawn_readByte_read (s : State) (a' : Nat) : (s.drawn).readByte a' = s.readByte a' := rfl

/-! ### State.setRegs -/

@[simp] theorem State.setRegs_mem (s : State) (t k : Nat) (r : Regs) : (s.setRegs t k r).mem = s.mem := rfl
@[simp] theorem State.setRegs_blocks (s : State) (t k : Nat) (r : Regs) : (s.setRegs t k r).blocks = s.blocks := rfl
@[simp] theorem State.setRegs_llc (s : State) (t k : Nat) (r : Regs) : (s.setRegs t k r).llc = s.llc := rfl
@[simp] theorem State.setRegs_replicas (s : State) (t k : Nat) (r : Regs) : (s.setRegs t k r).replicas = s.replicas := rfl
@[simp] theorem State.setRegs_hostMem (s : State) (t k : Nat) (r : Regs) : (s.setRegs t k r).hostMem = s.hostMem := rfl
@[simp] theorem State.setRegs_clock (s : State) (t k : Nat) (r : Regs) : (s.setRegs t k r).clock = s.clock := rfl
@[simp] theorem State.setRegs_dies (s : State) (t k : Nat) (r : Regs) : (s.setRegs t k r).dies = s.dies := rfl
@[simp] theorem State.setRegs_cores (s : State) (t k : Nat) (r : Regs) : (s.setRegs t k r).cores = s.cores := rfl
@[simp] theorem State.setRegs_gangs (s : State) (t k : Nat) (r : Regs) : (s.setRegs t k r).gangs = s.gangs := rfl
@[simp] theorem State.setRegs_teams (s : State) (t k : Nat) (r : Regs) : (s.setRegs t k r).teams = s.teams := rfl
@[simp] theorem State.setRegs_launches (s : State) (t k : Nat) (r : Regs) : (s.setRegs t k r).launches = s.launches := rfl
@[simp] theorem State.setRegs_graphs (s : State) (t k : Nat) (r : Regs) : (s.setRegs t k r).graphs = s.graphs := rfl
@[simp] theorem State.setRegs_ctxs (s : State) (t k : Nat) (r : Regs) : (s.setRegs t k r).ctxs = s.ctxs := rfl
@[simp] theorem State.setRegs_queues (s : State) (t k : Nat) (r : Regs) : (s.setRegs t k r).queues = s.queues := rfl
@[simp] theorem State.setRegs_engines (s : State) (t k : Nat) (r : Regs) : (s.setRegs t k r).engines = s.engines := rfl
@[simp] theorem State.setRegs_groups (s : State) (t k : Nat) (r : Regs) : (s.setRegs t k r).groups = s.groups := rfl
@[simp] theorem State.setRegs_expanders (s : State) (t k : Nat) (r : Regs) : (s.setRegs t k r).expanders = s.expanders := rfl
@[simp] theorem State.setRegs_module (s : State) (t k : Nat) (r : Regs) : (s.setRegs t k r).module = s.module := rfl
@[simp] theorem State.setRegs_cur (s : State) (t k : Nat) (r : Regs) : (s.setRegs t k r).cur = s.cur := rfl
@[simp] theorem State.setRegs_tape (s : State) (t k : Nat) (r : Regs) : (s.setRegs t k r).tape = s.tape := rfl
@[simp] theorem State.setRegs_draws (s : State) (t k : Nat) (r : Regs) : (s.setRegs t k r).draws = s.draws := rfl
@[simp] theorem State.setRegs_idle (s : State) (t k : Nat) (r : Regs) : (s.setRegs t k r).idle = s.idle := rfl
@[simp] theorem State.setRegs_out (s : State) (t k : Nat) (r : Regs) : (s.setRegs t k r).out = s.out := rfl
@[simp] theorem State.setRegs_words (s : State) (t k : Nat) (r : Regs) : (s.setRegs t k r).words = s.words := rfl
@[simp] theorem State.setRegs_team_read (s : State) (t k : Nat) (r : Regs) (t' : Nat) : (s.setRegs t k r).team t' = s.team t' := rfl
@[simp] theorem State.setRegs_ctx_read (s : State) (t k : Nat) (r : Regs) (c' : Nat) : (s.setRegs t k r).ctx c' = s.ctx c' := rfl
@[simp] theorem State.setRegs_die_read (s : State) (t k : Nat) (r : Regs) (d' : Nat) : (s.setRegs t k r).die d' = s.die d' := rfl
@[simp] theorem State.setRegs_core_read (s : State) (t k : Nat) (r : Regs) (c' : Nat) : (s.setRegs t k r).core c' = s.core c' := rfl
@[simp] theorem State.setRegs_launch_read (s : State) (t k : Nat) (r : Regs) (l' : Nat) : (s.setRegs t k r).launch l' = s.launch l' := rfl
@[simp] theorem State.setRegs_engine_read (s : State) (t k : Nat) (r : Regs) (e' : Nat) : (s.setRegs t k r).engine e' = s.engine e' := rfl
@[simp] theorem State.setRegs_block_read (s : State) (t k : Nat) (r : Regs) (b' : Nat) : (s.setRegs t k r).block b' = s.block b' := rfl
@[simp] theorem State.setRegs_readByte_read (s : State) (t k : Nat) (r : Regs) (a' : Nat) : (s.setRegs t k r).readByte a' = s.readByte a' := rfl

/-! ### State.regroup -/

@[simp] theorem State.regroup_mem (s : State) (t : Nat) (ks alone : List Nat) : (s.regroup t ks alone).mem = s.mem := rfl
@[simp] theorem State.regroup_blocks (s : State) (t : Nat) (ks alone : List Nat) : (s.regroup t ks alone).blocks = s.blocks := rfl
@[simp] theorem State.regroup_llc (s : State) (t : Nat) (ks alone : List Nat) : (s.regroup t ks alone).llc = s.llc := rfl
@[simp] theorem State.regroup_replicas (s : State) (t : Nat) (ks alone : List Nat) : (s.regroup t ks alone).replicas = s.replicas := rfl
@[simp] theorem State.regroup_hostMem (s : State) (t : Nat) (ks alone : List Nat) : (s.regroup t ks alone).hostMem = s.hostMem := rfl
@[simp] theorem State.regroup_clock (s : State) (t : Nat) (ks alone : List Nat) : (s.regroup t ks alone).clock = s.clock := rfl
@[simp] theorem State.regroup_dies (s : State) (t : Nat) (ks alone : List Nat) : (s.regroup t ks alone).dies = s.dies := rfl
@[simp] theorem State.regroup_cores (s : State) (t : Nat) (ks alone : List Nat) : (s.regroup t ks alone).cores = s.cores := rfl
@[simp] theorem State.regroup_slices (s : State) (t : Nat) (ks alone : List Nat) : (s.regroup t ks alone).slices = s.slices := rfl
@[simp] theorem State.regroup_teams (s : State) (t : Nat) (ks alone : List Nat) : (s.regroup t ks alone).teams = s.teams := rfl
@[simp] theorem State.regroup_launches (s : State) (t : Nat) (ks alone : List Nat) : (s.regroup t ks alone).launches = s.launches := rfl
@[simp] theorem State.regroup_graphs (s : State) (t : Nat) (ks alone : List Nat) : (s.regroup t ks alone).graphs = s.graphs := rfl
@[simp] theorem State.regroup_ctxs (s : State) (t : Nat) (ks alone : List Nat) : (s.regroup t ks alone).ctxs = s.ctxs := rfl
@[simp] theorem State.regroup_queues (s : State) (t : Nat) (ks alone : List Nat) : (s.regroup t ks alone).queues = s.queues := rfl
@[simp] theorem State.regroup_engines (s : State) (t : Nat) (ks alone : List Nat) : (s.regroup t ks alone).engines = s.engines := rfl
@[simp] theorem State.regroup_groups (s : State) (t : Nat) (ks alone : List Nat) : (s.regroup t ks alone).groups = s.groups := rfl
@[simp] theorem State.regroup_expanders (s : State) (t : Nat) (ks alone : List Nat) : (s.regroup t ks alone).expanders = s.expanders := rfl
@[simp] theorem State.regroup_module (s : State) (t : Nat) (ks alone : List Nat) : (s.regroup t ks alone).module = s.module := rfl
@[simp] theorem State.regroup_cur (s : State) (t : Nat) (ks alone : List Nat) : (s.regroup t ks alone).cur = s.cur := rfl
@[simp] theorem State.regroup_tape (s : State) (t : Nat) (ks alone : List Nat) : (s.regroup t ks alone).tape = s.tape := rfl
@[simp] theorem State.regroup_draws (s : State) (t : Nat) (ks alone : List Nat) : (s.regroup t ks alone).draws = s.draws := rfl
@[simp] theorem State.regroup_idle (s : State) (t : Nat) (ks alone : List Nat) : (s.regroup t ks alone).idle = s.idle := rfl
@[simp] theorem State.regroup_out (s : State) (t : Nat) (ks alone : List Nat) : (s.regroup t ks alone).out = s.out := rfl
@[simp] theorem State.regroup_words (s : State) (t : Nat) (ks alone : List Nat) : (s.regroup t ks alone).words = s.words := rfl
@[simp] theorem State.regroup_slice_read (s : State) (t : Nat) (ks alone : List Nat) (t' k' : Nat) : (s.regroup t ks alone).slice t' k' = s.slice t' k' := rfl
@[simp] theorem State.regroup_team_read (s : State) (t : Nat) (ks alone : List Nat) (t' : Nat) : (s.regroup t ks alone).team t' = s.team t' := rfl
@[simp] theorem State.regroup_ctx_read (s : State) (t : Nat) (ks alone : List Nat) (c' : Nat) : (s.regroup t ks alone).ctx c' = s.ctx c' := rfl
@[simp] theorem State.regroup_die_read (s : State) (t : Nat) (ks alone : List Nat) (d' : Nat) : (s.regroup t ks alone).die d' = s.die d' := rfl
@[simp] theorem State.regroup_core_read (s : State) (t : Nat) (ks alone : List Nat) (c' : Nat) : (s.regroup t ks alone).core c' = s.core c' := rfl
@[simp] theorem State.regroup_launch_read (s : State) (t : Nat) (ks alone : List Nat) (l' : Nat) : (s.regroup t ks alone).launch l' = s.launch l' := rfl
@[simp] theorem State.regroup_engine_read (s : State) (t : Nat) (ks alone : List Nat) (e' : Nat) : (s.regroup t ks alone).engine e' = s.engine e' := rfl
@[simp] theorem State.regroup_block_read (s : State) (t : Nat) (ks alone : List Nat) (b' : Nat) : (s.regroup t ks alone).block b' = s.block b' := rfl
@[simp] theorem State.regroup_readByte_read (s : State) (t : Nat) (ks alone : List Nat) (a' : Nat) : (s.regroup t ks alone).readByte a' = s.readByte a' := rfl

end Sys2Proof.Machine
end

