-- ==== Sys2Proof/Laws/Ops.lean ====
section
/-! SUPPORT. What the shared operations of Machine/Ops.lean do: the issue of an instruction on registers. -/

namespace Sys2Proof.Machine

/-! ### Slices by key -/

theorem sliceKey_inj {t k j : Nat} (h : sliceKey t k = sliceKey t j) : k = j := by unfold sliceKey at h; omega

theorem sliceKey_div {t k : Nat} (h : k < 256) : sliceKey t k / 256 = t := by unfold sliceKey; omega
theorem sliceKey_mod {t k : Nat} (h : k < 256) : sliceKey t k % 256 = k := by unfold sliceKey; omega
theorem sliceKey_div_mod (i : Nat) : sliceKey (i / 256) (i % 256) = i := by unfold sliceKey; omega

theorem State.slice_modSlice_self {s : State} {t k : Nat} (f : Slice → Slice)
    (h : (FMap.find? s.slices (sliceKey t k)).isSome = true) : (s.modSlice t k f).slice t k = f (s.slice t k) :=
  FMap.get_modify_eq _ _ h

theorem State.slice_modSlice_ne (s : State) {t k j : Nat} (f : Slice → Slice) (h : j ≠ k) :
    (s.modSlice t k f).slice t j = s.slice t j :=
  FMap.get_modify_ne _ _ fun e => h (sliceKey_inj e)

/-- `u` is `s` with one slice changed by `G`. -/
structure Touched (s u : State) (key : Nat) (G : Slice → Slice) : Prop where
  at' : ∀ j, FMap.find? u.slices j = if j = key then (FMap.find? s.slices j).map G else FMap.find? s.slices j
  rest : u = { s with slices := u.slices }

theorem Touched.modSlice (s : State) (t k : Nat) (f : Slice → Slice) : Touched s (s.modSlice t k f) (sliceKey t k) f :=
  ⟨fun _ => FMap.find?_modify _ _ _ _, rfl⟩

theorem Touched.refl (s : State) (key : Nat) : Touched s s key id := ⟨fun _ => by split <;> simp, rfl⟩

theorem Touched.trans {s u v : State} {key : Nat} {F G : Slice → Slice} (h : Touched s u key F) (g : Touched u v key G) :
    Touched s v key (G ∘ F) := by
  refine ⟨fun j => ?_, ?_⟩
  · rw [g.at', h.at']
    by_cases hj : j = key <;> simp [hj]
  · rw [g.rest, h.rest]

/-- A fold that changes one slice after another, each once. -/
theorem touched_foldl {t : Nat} (step : State → Nat → State) (G : Nat → Slice → Slice) (P : Nat → Slice → Prop)
    (ks : List Nat) (hn : ks.Nodup)
    {s0 : State} (hstep : ∀ (v : State) k, k ∈ ks → v = { s0 with slices := v.slices } → (FMap.find? v.slices (sliceKey t k)).isSome = true →
      P k (v.slice t k) → ∃ F, Touched v (step v k) (sliceKey t k) F ∧ F (v.slice t k) = G k (v.slice t k))
    (s : State) (h0 : s = { s0 with slices := s.slices })
    (hs : ∀ k ∈ ks, (FMap.find? s.slices (sliceKey t k)).isSome = true ∧ P k (s.slice t k)) :
    (∀ k ∈ ks, FMap.find? (ks.foldl step s).slices (sliceKey t k) = some (G k (s.slice t k))) ∧
    (∀ j, (∀ k ∈ ks, j ≠ sliceKey t k) → FMap.find? (ks.foldl step s).slices j = FMap.find? s.slices j) ∧
    ks.foldl step s = { s with slices := (ks.foldl step s).slices } := by
  induction ks generalizing s with
  | nil => simp
  | cons k ks ih =>
    obtain ⟨hk, hn⟩ := List.nodup_cons.mp hn
    obtain ⟨F, hF, hG⟩ := hstep s k (List.mem_cons_self ..) h0 (hs k (List.mem_cons_self ..)).1 (hs k (List.mem_cons_self ..)).2
    have hne : ∀ j ∈ ks, j ≠ k := fun j hj e => hk (e ▸ hj)
    have hsl : ∀ j ∈ ks, (step s k).slice t j = s.slice t j := fun j hj => by
      unfold State.slice
      rw [FMap.get_eq_find?, FMap.get_eq_find?, hF.at', if_neg fun e => hne j hj (sliceKey_inj e)]
    have hs' : ∀ j ∈ ks, (FMap.find? (step s k).slices (sliceKey t j)).isSome = true ∧ P j ((step s k).slice t j) := fun j hj => by
      rw [hsl j hj, hF.at', if_neg fun e => hne j hj (sliceKey_inj e)]
      exact hs j (List.mem_cons_of_mem _ hj)
    obtain ⟨h1, h2, h3⟩ := ih hn (fun v j hj => hstep v j (List.mem_cons_of_mem _ hj)) (step s k) (by rw [hF.rest, h0]) hs'
    refine ⟨?_, ?_, ?_⟩
    · intro j hj
      rcases List.mem_cons.mp hj with rfl | hj
      · rw [List.foldl_cons, h2 _ fun i hi e => hne i hi (sliceKey_inj e).symm, hF.at', if_pos rfl, ← hG]
        obtain ⟨v, hv⟩ := Option.isSome_iff_exists.mp (hs j (List.mem_cons_self ..)).1
        rw [hv, State.slice, FMap.get_of_find? hv]; rfl
      · rw [List.foldl_cons, h1 j hj, hsl j hj]
    · intro j hj
      rw [List.foldl_cons, h2 j fun i hi => hj i (List.mem_cons_of_mem _ hi), hF.at', if_neg (hj k (List.mem_cons_self ..))]
    · rw [List.foldl_cons, h3, hF.rest]

/-! ### R61 -/

/-- Nothing halts a context while the contexts and the teams stay. -/
theorem State.haltedSince_same {s u : State} {t : Nat} (hc : u.ctxs = s.ctxs) (ht : u.teams = s.teams) : s.haltedSince u t = false := by
  have : u.ctx (u.team t).ctx = s.ctx (s.team t).ctx := by simp only [State.ctx, State.team, hc, ht]
  simp [State.haltedSince, this]

theorem State.admitted_of_lets {s : State} {t : Nat} {ks : List Nat} {i : Instr} (h : s.lets t ks i) : s.admitted i t ks = (s, ks) := by
  have hu : ∀ l : List Nat, (∀ k ∈ l, s.refusal i t k = none) →
      l.foldl (fun u k => match s.refusal i t k with
        | some x => if s.haltedSince u t then u else u.trapAt t k i { cause := x.1, sub := x.2, addr := 0, info := 0 }
        | none => u) s = s := by
    intro l hl
    induction l with
    | nil => rfl
    | cons k l ih =>
      rw [List.foldl_cons, hl k (List.mem_cons_self ..)]
      exact ih fun j hj => hl j (List.mem_cons_of_mem _ hj)
  have h1 : (s.admitted i t ks).1 = s := hu ks fun k hk => (h k hk).1
  refine Prod.ext h1 ?_
  change (if s.haltedSince (s.admitted i t ks).1 t then [] else ks.filter fun k => (s.refusal i t k).isNone) = ks
  rw [h1, State.haltedSince_same rfl rfl, if_neg (by simp)]
  exact List.filter_eq_self.mpr fun k hk => by rw [(h k hk).1]; rfl

theorem State.expose_of_lets {s : State} {t : Nat} {ks : List Nat} {i : Instr} (h : s.lets t ks i) :
    ks.foldl (s.exposeSlice i t) s = s := by
  suffices ∀ l : List Nat, (∀ k ∈ l, (s.slice t k).regs.wins = []) → l.foldl (s.exposeSlice i t) s = s from this ks fun k hk => (h k hk).2
  intro l hl
  induction l with
  | nil => rfl
  | cons k l ih =>
    rw [List.foldl_cons, State.exposeSlice, hl k (List.mem_cons_self ..)]
    exact ih fun j hj => hl j (List.mem_cons_of_mem _ hj)

/-- An instruction reads its registers as they are where no window is open. -/
theorem State.seen_of_wins {s : State} {i : Instr} {t k : Nat} (h : (s.slice t k).regs.wins = []) : s.seen i t k = (s.slice t k).regs := by
  simp [State.seen, h]

/-- The registers that an instruction settles, with no window open before it. -/
theorem State.settleRegs_of_wins {s : State} {i : Instr} {t k : Nat} {v : Slice} (h : (s.slice t k).regs.wins = []) :
    s.settleRegs i t k v =
      { v.regs with wins := (s.slice t k).regs.nextWins (s.slice t k).regs { v.regs with wins := [] } i s.cur.ks v.chunk.instrs (s.reads i t k) (s.writes i t k) } := by
  simp [State.settleRegs, h, State.seen_of_wins h]

/-! ### The end of an instruction -/

/-- The end of the open chunk at its limit, for an instruction without a memory operand, or below level 2. -/
theorem State.endChunk_touched (v : State) {i : Instr} {t k : Nat} (h : touchesMemory i = false ∨ (v.slice t k).level < 2) :
    ∃ F, Touched v (v.endChunk i t k) (sliceKey t k) F ∧ F (v.slice t k) = (v.slice t k).ending := by
  generalize hsl : v.slice t k = sl at *
  have ends : sl.ending.chunk.ended = true → ∃ F, Touched v (v.modSlice t k fun v => { v with chunk := { v.chunk with ended := true } }) (sliceKey t k) F ∧
      F sl = sl.ending :=
    fun he => ⟨_, Touched.modSlice _ _ _ _, congrArg (fun e => { sl with chunk := { sl.chunk with ended := e } }) he.symm⟩
  have keep : sl.ending.chunk.ended = sl.chunk.ended → ∃ F, Touched v v (sliceKey t k) F ∧ F sl = sl.ending :=
    fun he => ⟨id, Touched.refl _ _, congrArg (fun e => { sl with chunk := { sl.chunk with ended := e } }) he.symm⟩
  unfold State.endChunk
  simp only [hsl]
  split <;> rename_i hl
  · split <;> rename_i hi
    · exact ends (by simp [Slice.ending, hl, hi])
    · exact keep (by simp [Slice.ending, hl, hi])
  · split <;> rename_i hi
    · exact ends (by simp [Slice.ending, hl, hi])
    · exact keep (by simp [Slice.ending, hl, hi])
  · rename_i h0
    have h0' : (sl.level == 0) = false := beq_false_of_ne h0
    have h1' : (sl.level == 1) = false := beq_false_of_ne hl
    rcases h with h | h
    · simp only [h, Bool.false_and]
      exact keep (by simp [Slice.ending, h0', h1'])
    · exact absurd h (by have h0 : sl.level ≠ 0 := h0; have h1 : sl.level ≠ 1 := hl; omega)

/-! ### How gangs part (R97) -/

theorem addStand_map {β : Type} (st : β → Nat × Nat) (g : β → List Nat) (x : Nat × Nat) (a : Nat) (fs : List β) (hn : (fs.map st).Nodup) :
    addStand x a (fs.map fun k => (st k, g k)) =
      (fs.map fun k => (st k, if st k = x then g k ++ [a] else g k)) ++ if x ∈ fs.map st then [] else [(x, [a])] := by
  induction fs with
  | nil => rfl
  | cons f fs ih =>
    rw [List.map_cons, List.nodup_cons] at hn
    rw [List.map_cons, addStand]
    by_cases h : x = st f
    · subst h
      have : (fs.map fun k => (st k, if st k = st f then g k ++ [a] else g k)) = fs.map fun k => (st k, g k) :=
        List.map_congr_left fun k hk => by
          have hne : st k ≠ st f := fun e => hn.1 (e ▸ List.mem_map_of_mem (f := st) hk)
          rw [if_neg hne]
      simp [this]
    · have h' : st f ≠ x := fun e => h e.symm
      rw [if_neg h, ih hn.2]
      simp [h, h']

/-- The slices of a list put together by where they stand, those that stand at the first's place first. -/
theorem foldl_addStand (st : Nat → Nat × Nat) (ks : List Nat) (hn : ks.Nodup) :
    ks.foldl (fun g k => addStand (st k) k g) [] =
      (ks.filter fun k => ks.find? (fun j => st j == st k) == some k).map fun k => (st k, ks.filter fun j => st j == st k) := by
  induction ks using List.reverseRecOn with
  | nil => rfl
  | append_singleton ks a ih =>
    have hn' := List.nodup_append.mp hn
    have ha : a ∉ ks := fun h => hn'.2.2 a h a (List.mem_singleton_self a) rfl
    let fs := ks.filter fun k => ks.find? (fun j => st j == st k) == some k
    have hfirst : ∀ k ∈ fs, ks.find? (fun j => st j == st k) = some k := fun k hk => by simpa using (List.mem_filter.mp hk).2
    have hfs : (fs.map st).Nodup := (hn'.1.filter _).map_on fun j hj k hk e => by
      have h1 := hfirst j hj
      have h2 := hfirst k hk
      rw [e, h2] at h1
      exact (Option.some.inj h1).symm
    have hmem : st a ∈ fs.map st ↔ (ks.find? fun j => st j == st a).isSome = true := by
      rw [List.mem_map]
      constructor
      · rintro ⟨k, hk, e⟩
        rw [← e, hfirst k hk]; rfl
      · intro h
        obtain ⟨k, hk⟩ := Option.isSome_iff_exists.mp h
        have e : st k = st a := by simpa using List.find?_some hk
        refine ⟨k, List.mem_filter.mpr ⟨List.mem_of_find?_eq_some hk, ?_⟩, e⟩
        rw [e, hk]; simp
    have hfind : ∀ k ∈ ks, (ks ++ [a]).find? (fun j => st j == st k) = ks.find? fun j => st j == st k := fun k hk => by
      rw [List.find?_append]
      cases h : ks.find? fun j => st j == st k with
      | some _ => rfl
      | none => exact absurd (List.find?_eq_none.mp h k hk) (by simp)
    have hkept : ((ks ++ [a]).filter fun k => (ks ++ [a]).find? (fun j => st j == st k) == some k) = fs ++ if st a ∈ fs.map st then [] else [a] := by
      rw [List.filter_append]
      congr 1
      · exact List.filter_congr fun k hk => by rw [hfind k hk]
      · rw [List.filter_cons, List.filter_nil, List.find?_append]
        by_cases h : st a ∈ fs.map st
        · obtain ⟨k, hk⟩ := Option.isSome_iff_exists.mp (hmem.mp h)
          have : k ≠ a := fun e => ha (e ▸ List.mem_of_find?_eq_some hk)
          simp [h, hk, this]
        · have hno : ks.find? (fun j => st j == st a) = none := by
            rw [← Option.not_isSome_iff_eq_none]
            exact fun e => h (hmem.mpr e)
          rw [hno]
          simp [h]
    rw [List.foldl_append, ih hn'.1, List.foldl_cons, List.foldl_nil, addStand_map st _ _ _ fs hfs, hkept, List.map_append]
    congr 1
    · refine List.map_congr_left fun k _ => ?_
      rw [List.filter_append]
      by_cases h : st k = st a
      · simp [h]
      · have : st a ≠ st k := fun e => h e.symm
        simp [h, this]
    · by_cases h : st a ∈ fs.map st
      · simp [h]
      · rw [if_neg h, if_neg h]
        have : ks.filter (fun j => st j == st a) = [] := List.filter_eq_nil_iff.mpr fun j hj e => by
          refine h (hmem.mpr (List.find?_isSome.mpr ⟨j, hj, e⟩))
        rw [List.map_cons, List.map_nil, List.filter_append, this]
        simp

/-- Slices that all stand at one place are together. -/
theorem foldl_addStand_alike (st : Nat → Nat × Nat) (k : Nat) (ks : List Nat) (h : ∀ j ∈ ks, st j = st k) :
    ∀ l, ks.foldl (fun g j => addStand (st j) j g) [(st k, l)] = [(st k, l ++ ks)] := by
  induction ks with
  | nil => simp
  | cons j ks ih =>
    intro l
    rw [List.foldl_cons, h j (List.mem_cons_self ..), addStand, if_pos rfl, ih fun i hi => h i (List.mem_cons_of_mem _ hi)]
    simp

theorem State.parts_none (s : State) (t : Nat) (ks : List Nat) (h : ∀ k ∈ ks, (s.slice t k).status ≠ .exited) : s.parts t ks [] = s.byStand t ks := by
  have : ks.filter (fun k => (s.slice t k).status != .exited) = ks := List.filter_eq_self.mpr fun k hk => by simpa using h k hk
  unfold State.parts
  simp [this, State.byStand]

/-- A gang whose slices stand alike stays whole. -/
theorem State.regroup_alike {s : State} {t : Nat} {ks : List Nat} (h0 : ks ≠ []) (h : ∀ k ∈ ks, (s.slice t k).status ≠ .exited)
    (ha : ∀ j ∈ ks, ∀ k ∈ ks, (s.slice t j).stand = (s.slice t k).stand) : s.regroup t ks [] = s := by
  have hp : s.parts t ks [] = [ks] := by
    obtain ⟨k, l, rfl⟩ := List.exists_cons_of_ne_nil h0
    rw [State.parts_none s t _ h, State.byStand, List.foldl_cons, addStand,
      foldl_addStand_alike (fun j => (s.slice t j).stand) k l (fun j hj => ha j (List.mem_cons_of_mem _ hj) k (List.mem_cons_self ..))]
    simp
  have : (s.gangs.flatMap fun g => if g.team = t ∧ g.ks = ks then
      (s.parts t ks []).map fun p => { g with ks := p, wait := if p.any fun k => List.contains [] k then none else g.wait } else [g]) = s.gangs := by
    rw [hp]
    refine Eq.trans ?_ (List.flatMap_singleton' s.gangs)
    congr 1
    funext g
    split
    · rename_i e
      rw [← e.2]; simp
    · rfl
  unfold State.regroup
  rw [this]

/-- How a gang parts whose slices go on running. -/
theorem State.regroup_parted {s u : State} {t : Nat} {ks : List Nat} {F : Nat → Slice} (hn : ks.Nodup) (hg : u.gangs = s.gangs)
    (hF : ∀ k ∈ ks, (u.slice t k).status = (F k).status ∧ (u.slice t k).park = (F k).park ∧ (u.slice t k).regs.pc = (F k).regs.pc ∧
      (u.slice t k).regs.mode = (F k).regs.mode) : s.parted (u.regroup t ks []) t ks F := by
  intro hr
  let at' : Nat → W64 × BitVec 16 := fun k => ((F k).regs.pc, (F k).regs.mode)
  have hst : ∀ k ∈ ks, (u.slice t k).stand = ((at' k).1.toNat, (at' k).2.toNat) := fun k hk => by
    obtain ⟨e1, e2, e3, e4⟩ := hF k hk
    unfold Slice.stand Slice.finished
    rw [e1, (hr k hk).1, e2, (hr k hk).2, e3, e4]
    rfl
  have hb : ∀ j ∈ ks, ∀ k ∈ ks, ((u.slice t j).stand == (u.slice t k).stand) = (at' j == at' k) := fun j hj k hk => by
    rw [hst j hj, hst k hk, Bool.eq_iff_iff, beq_iff_eq, beq_iff_eq, Prod.mk.injEq, Prod.ext_iff, BitVec.toNat_inj, BitVec.toNat_inj]
  have hp : u.parts t ks [] = standParts at' ks := by
    rw [State.parts_none u t ks fun k hk => by rw [(hF k hk).1, (hr k hk).1]; simp]
    rw [State.byStand, foldl_addStand _ ks hn, List.map_map]
    have hf : ks.filter (fun k => ks.find? (fun j => (u.slice t j).stand == (u.slice t k).stand) == some k) =
        ks.filter fun k => ks.find? (fun j => at' j == at' k) == some k := by
      refine List.filter_congr fun k hk => ?_
      rw [List.find?_congr fun j hj => hb j hj k hk]
    rw [hf]
    exact List.map_congr_left fun k hk => List.filter_congr fun j hj => hb j hj k (List.mem_of_mem_filter hk)
  unfold State.regroup
  simp only [hp, hg]
  congr 1
  funext g
  split
  · simp [at']
  · rfl

theorem eachSlice_ok {t : Nat} {ks : List Nat} {f : State → Nat → Nat → State × Did} {g : Nat → Regs}
    (h : ∀ k ∈ ks, ∀ v, f v t k = (v.setRegs t k (g k), .plain)) (u : State) :
    eachSlice f u t ks = (ks.foldl (fun v k => v.setRegs t k (g k)) u, ks.map fun k => (k, .plain)) := by
  suffices ∀ (l : List Nat) (a : State × List (Nat × Did)), a.1.ctxs = u.ctxs → a.1.teams = u.teams →
      (∀ k ∈ l, ∀ v, f v t k = (v.setRegs t k (g k), .plain)) →
      l.foldl (fun (a : State × List (Nat × Did)) k =>
        if u.haltedSince a.1 t then (a.1, a.2 ++ [(k, .gone)]) else ((f a.1 t k).1, a.2 ++ [(k, (f a.1 t k).2)])) a =
        (l.foldl (fun v k => v.setRegs t k (g k)) a.1, a.2 ++ l.map fun k => (k, .plain)) by
    simpa [eachSlice] using this ks (u, []) rfl rfl h
  intro l
  induction l with
  | nil => intro a _ _ _; simp
  | cons k l ih =>
    intro a hc ht hl
    rw [List.foldl_cons, State.haltedSince_same hc ht, if_neg (by simp), hl k (List.mem_cons_self ..)]
    refine (ih (a.1.setRegs t k (g k), a.2 ++ [(k, .plain)]) hc ht fun j hj => hl j (List.mem_cons_of_mem _ hj)).trans ?_
    simp

/-- A gang none of whose slices is newly in its handler does not part for that. -/
theorem State.partTrapped_of_same {s u : State}
    (h : ∀ key, (FMap.find? u.slices key).isSome = true → (FMap.get (Slice.start Ctx.blank 0) u.slices key).handler = (FMap.get (Slice.start Ctx.blank 0) s.slices key).handler) :
    s.partTrapped u = u := by
  have hn : ∀ g, s.trapped u g = [] := fun g => List.filter_eq_nil_iff.mpr fun k _ => by
    unfold State.slice
    cases hf : FMap.find? u.slices (sliceKey g.team k) with
    | none => rw [FMap.get_eq_find?, hf]; simp [Slice.start]
    | some v => rw [h _ (by rw [hf]; rfl)]; simp
  have : u.gangs.filter (fun g => !(s.trapped u g).isEmpty) = [] := List.filter_eq_nil_iff.mpr fun g _ => by simp [hn g]
  unfold State.partTrapped
  rw [this]; rfl

/-- The slices' chunks, or what they hold, have not been committed so that the instruction would wait (R203, R259). -/
theorem State.orLater_of {s u : State} {t : Nat} {ks : List Nat}
    (h : ∀ k ∈ ks, (u.slice t k).commits = (s.slice t k).commits ∨ ((s.slice t k).heldAll = [] ∧ (u.team t).released = (s.team t).released)) :
    s.orLater u t ks = u := by
  have h1 : s.overfills u t ks = false := by
    unfold State.overfills
    rw [List.any_eq_false.mpr, Bool.false_and]
    intro k hk
    rcases h k hk with e | ⟨e, r⟩ <;> simp [*]
  have h2 : ks.filter (s.commitsLate u t) = [] := by
    rw [List.filter_eq_nil_iff]
    intro k hk
    rcases h k hk with e | e
    · simp [State.commitsLate, e]
    · have : (s.slice t k).chunk.held = [] := (List.append_eq_nil_iff.mp e.1).2
      simp [State.commitsLate, this]
  unfold State.orLater
  simp only [h1, h2, Bool.false_eq_true, if_false, List.isEmpty_nil, if_true]

/-- What `issue` does where every slice may execute: the body, the end of the instruction in each slice, and the parting of the gang
(R61, R97). No slice enters its handler. -/
theorem issue_of_body {s v1 v2 : State} {t : Nat} {ks : List Nat} {i : Instr} {ds : List (Nat × Did)}
    {body : State → State → Nat → List Nat → State × List (Nat × Did)} (ha : s.acts t ks) (hl : s.lets t ks i)
    (hb : body s s t ks = (v1, ds)) (hf : s.finishAll i t (v1, ds) = v2)
    (hh : ∀ key, (FMap.find? v2.slices key).isSome = true →
      (FMap.get (Slice.start Ctx.blank 0) v2.slices key).handler = (FMap.get (Slice.start Ctx.blank 0) s.slices key).handler)
    (hq : ∀ k ∈ ks, (v2.slice t k).commits = (s.slice t k).commits ∨ ((s.slice t k).heldAll = [] ∧ (v2.team t).released = (s.team t).released)) :
    issue i body s = .next (v2.regroup t ks []) := by
  obtain ⟨hc, hn, hk⟩ := ha
  have hgone : ks.filter (fun k => (v2.slice t k).handler && !(s.slice t k).handler) = [] := by
    rw [List.filter_eq_nil_iff]
    intro k _
    unfold State.slice
    cases hx : FMap.find? v2.slices (sliceKey t k) with
    | none => rw [FMap.get_eq_find?, hx]; simp [Slice.start]
    | some v => rw [hh _ (by rw [hx]; rfl)]; simp
  have hpart : s.partTrapped (v2.regroup t ks []) = v2.regroup t ks [] := State.partTrapped_of_same hh
  have hw : (ks.all fun k => (s.slice t k).regs.wins.isEmpty) = true :=
    List.all_eq_true.mpr fun k hk' => by rw [(hl k hk').2]; rfl
  unfold issue
  simp only [hc, State.admitted_of_lets hl, State.expose_of_lets hl, hb, hf, hgone, hpart, hw, if_true]
  exact congrArg _ (State.orLater_of (u := v2.regroup t ks []) hq)

theorem State.parted.congr {s u : State} {t : Nat} {ks : List Nat} {F G : Nat → Slice} (h : s.parted u t ks F) (hG : ∀ k ∈ ks, G k = F k) :
    s.parted u t ks G := by
  intro hr
  have := h fun k hk => by rw [← hG k hk]; exact hr k hk
  rw [this]
  have e : standParts (fun k => ((G k).regs.pc, (G k).regs.mode)) ks = standParts (fun k => ((F k).regs.pc, (F k).regs.mode)) ks := by
    have hb : ∀ k ∈ ks, ∀ j ∈ ks, ((((G j).regs.pc, (G j).regs.mode) : W64 × BitVec 16) == ((G k).regs.pc, (G k).regs.mode)) =
        (((F j).regs.pc, (F j).regs.mode) == ((F k).regs.pc, (F k).regs.mode)) := fun k hk j hj => by rw [hG j hj, hG k hk]
    unfold standParts
    rw [List.filter_congr (q := fun k => ks.find? (fun j => (((F j).regs.pc, (F j).regs.mode) : W64 × BitVec 16) == ((F k).regs.pc, (F k).regs.mode)) == some k)
      fun k hk => by rw [List.find?_congr (hb k hk)]]
    exact List.map_congr_left fun k hk => List.filter_congr (hb k (List.mem_of_mem_filter hk))
  rw [e]

/-- What `issue` does where every slice completes the instruction and nothing but the gang's slices has changed. -/
theorem issue_effect {s v1 : State} {t : Nat} {ks : List Nat} {i : Instr} {X : Nat → Slice}
    {body : State → State → Nat → List Nat → State × List (Nat × Did)} (ha : s.acts t ks) (hl : s.lets t ks i)
    (hb : body s s t ks = (v1, ks.map fun k => (k, .plain)))
    (a1 : ∀ k ∈ ks, FMap.find? v1.slices (sliceKey t k) = some (X k))
    (a2 : ∀ j, (∀ k ∈ ks, j ≠ sliceKey t k) → FMap.find? v1.slices j = FMap.find? s.slices j)
    (a3 : v1 = { s with slices := v1.slices })
    (hx : ∀ k ∈ ks, (X k).handler = (s.slice t k).handler ∧ (touchesMemory i = false ∨ (X k).level < 2) ∧ (X k).commits = (s.slice t k).commits) :
    s.runs t ks (issue i body s) fun k => s.ran i t k (X k) (X k).regs := by
  obtain ⟨hc, hn, hk⟩ := id ha
  let R : Nat → Slice → Slice := fun k _ => (s.ran i t k (X k) (X k).regs).ending
  have hfin : ∀ (v : State) k, k ∈ ks → v = { s with slices := v.slices } → (FMap.find? v.slices (sliceKey t k)).isSome = true → v.slice t k = X k →
      ∃ F, Touched v (if s.haltedSince v t then v else State.finishSlice s i t v (k, .plain)) (sliceKey t k) F ∧ F (v.slice t k) = R k (v.slice t k) := by
    intro v k hmem hv0 hex hv
    rw [State.haltedSince_same (by rw [hv0]) (by rw [hv0]), if_neg (by simp)]
    let x : Slice → Slice := fun v => { v with regs := s.settleRegs i t k v, park := none, mark := none, chunk := { v.chunk with instrs := v.chunk.instrs + 1 } }
    have hx2 : touchesMemory i = false ∨ ((v.modSlice t k x).slice t k).level < 2 := by
      rw [State.slice_modSlice_self x hex, hv]; exact (hx k hmem).2.1
    obtain ⟨F, hF, hE⟩ := State.endChunk_touched (v.modSlice t k x) hx2
    refine ⟨F ∘ x, (Touched.modSlice v t k x).trans hF, ?_⟩
    rw [State.slice_modSlice_self x hex] at hE
    rw [Function.comp_apply, hE, hv]
    simp only [x]
    rw [State.settleRegs_of_wins (hl k hmem).2]
    rfl
  obtain ⟨b1, b2, b3⟩ := touched_foldl (t := t) (fun v k => if s.haltedSince v t then v else State.finishSlice s i t v (k, .plain)) R
    (fun k x => x = X k) ks hn hfin v1 a3 fun k hk' => by
      rw [State.slice, FMap.get_of_find? (a1 k hk'), a1 k hk']; exact ⟨rfl, rfl⟩
  generalize hv2 : ks.foldl (fun v k => if s.haltedSince v t then v else State.finishSlice s i t v (k, .plain)) v1 = v2 at *
  have hslice : ∀ k ∈ ks, v2.slice t k = R k (X k) := fun k hk' => by
    rw [State.slice, FMap.get_of_find? (b1 k hk')]
  have hother : ∀ j, (∀ k ∈ ks, j ≠ sliceKey t k) → FMap.find? v2.slices j = FMap.find? s.slices j := fun j hj => by
    rw [b2 j hj, a2 j hj]
  have hsame : v2 = { s with slices := v2.slices } := by rw [b3, a3]
  have hh : ∀ key, (FMap.find? v2.slices key).isSome = true →
      (FMap.get (Slice.start Ctx.blank 0) v2.slices key).handler = (FMap.get (Slice.start Ctx.blank 0) s.slices key).handler := by
    intro key _
    by_cases hj : ∀ k ∈ ks, key ≠ sliceKey t k
    · rw [FMap.get_eq_find?, FMap.get_eq_find?, hother key hj]
    · obtain ⟨k, hk', hkey⟩ : ∃ k ∈ ks, key = sliceKey t k := by
        by_contra hne
        exact hj fun k hk' e => hne ⟨k, hk', e⟩
      rw [hkey]
      change (v2.slice t k).handler = (s.slice t k).handler
      rw [hslice k hk']; exact (hx k hk').1
  have hu := issue_of_body (i := i) (v1 := v1) (ds := ks.map fun k => (k, .plain)) ha hl hb (by rw [State.finishAll, List.foldl_map]; exact hv2) hh
    fun k hk' => .inl (by rw [hslice k hk']; exact (hx k hk').2.2)
  refine ⟨_, hu, ⟨hslice, hother, ?_⟩, State.regroup_parted hn (by rw [hsame]) fun k hk' => by rw [hslice k hk']; exact ⟨rfl, rfl, rfl, rfl⟩⟩
  rw [hsame]
  simp [State.regroup]

/-- What `issueRegs` does where every slice may execute and none traps: each slice goes on with the registers that the function answers,
and nothing else changes but the gangs (R61, R101). -/
theorem issueRegs_effect {s : State} {t : Nat} {ks : List Nat} {i : Instr} {f : State → Nat → Nat → Regs → Except Trap Regs}
    {F : Nat → Slice} (ha : s.acts t ks) (hl : s.lets t ks i) (hm : touchesMemory i = false)
    (hf : ∀ k ∈ ks, ∃ r, f s t k (s.slice t k).regs = .ok r ∧ F k = s.ran i t k (s.slice t k) r) :
    s.runs t ks (issueRegs i f s) F := by
  obtain ⟨G, hG⟩ : ∃ G : Nat → Regs, ∀ k ∈ ks, f s t k (s.slice t k).regs = .ok (G k) ∧ F k = s.ran i t k (s.slice t k) (G k) :=
    ⟨fun k => if h : k ∈ ks then (hf k h).choose else Regs.blank, fun k hk => by simpa only [hk, dif_pos] using (hf k hk).choose_spec⟩
  obtain ⟨a1, a2, a3⟩ := touched_foldl (t := t) (fun v k => v.setRegs t k (G k)) (fun k v => { v with regs := G k }) (fun _ _ => True)
    ks ha.2.1 (s0 := s) (fun v k _ _ _ _ => ⟨_, Touched.modSlice v t k _, rfl⟩) s rfl fun k hk' => ⟨(ha.2.2 k hk').2, trivial⟩
  obtain ⟨u, hu, he, hp⟩ := issue_effect (i := i) (X := fun k => { s.slice t k with regs := G k })
    (body := fun st u t ks => eachSlice (fun v t k => match f st t k (u.slice t k).regs with
      | .ok r => (v.setRegs t k r, .plain)
      | .error x => (st.trapIn v t k i x, .gone)) u t ks) ha hl
    (eachSlice_ok (g := G) (fun k hk' v => by simp only [(hG k hk').1]) s) a1 a2 a3 fun k _ => ⟨rfl, .inl hm, rfl⟩
  have hF : ∀ k ∈ ks, F k = s.ran i t k { s.slice t k with regs := G k } (G k) := fun k hk => (hG k hk).2
  exact ⟨u, hu, ⟨fun k hk => by rw [hF k hk]; exact he.slices k hk, he.others, he.rest⟩, hp.congr hF⟩

end Sys2Proof.Machine
end

