-- ==== Sys2Proof/Laws/Access.lean ====
section
/-! SUPPORT. What an instruction of one slice comes to: effects held, accesses of a slice and of its lanes that pass their checks. -/
namespace Sys2Proof.Machine

/-- The slice with other registers. -/
def Slice.withRegs (sl : Slice) (r : Regs) : Slice := { sl with regs := r }

theorem dedup_dedup_append {α : Type} [DecidableEq α] (a b : List α) : (a ++ b.dedup).dedup = (a ++ b).dedup := by
  rw [List.dedup_append, List.dedup_append, List.dedup_idem]

theorem dedup_append_dedup {α : Type} [DecidableEq α] (a b : List α) : (a.dedup ++ b).dedup = (a ++ b).dedup := by
  rw [List.dedup_append, List.dedup_append]
  induction a with
  | nil => simp
  | cons x a ih =>
    by_cases h : x ∈ a
    · rw [List.dedup_cons_of_mem h, ih, List.cons_union, List.insert_of_mem (List.mem_union_left h _)]
    · rw [List.dedup_cons_of_notMem h, List.cons_union, List.cons_union, ih]

/-- Lanes that all pass are no trap. -/
theorem worst_of_ok (fs : List (Acc × Fate)) (h : ∀ e ∈ fs, ∃ l a, e.2 = .ok l a) : worst fs = none := by
  have : ∀ l : List (Acc × Fate), (∀ e ∈ l, ∃ x a, e.2 = Fate.ok x a) → l.foldl lowerTrap none = none := by
    intro l hl
    induction l with
    | nil => rfl
    | cons e l ih =>
      obtain ⟨x, a, he⟩ := hl e (List.mem_cons_self ..)
      rw [List.foldl_cons, lowerTrap, he]
      exact ih fun y hy => hl y (List.mem_cons_of_mem _ hy)
  rw [worst, this fs h]; rfl

theorem oksOf_ok (oks : List (Acc × Leaf × Nat)) : oksOf (oks.map fun x => (x.1, Fate.ok x.2.1 x.2.2)) = oks := by
  unfold oksOf; rw [List.filterMap_map]
  induction oks with
  | nil => rfl
  | cons x l _ => rw [List.filterMap_cons]; simp

theorem missesOf_ok (oks : List (Acc × Leaf × Nat)) : missesOf (oks.map fun x => (x.1, Fate.ok x.2.1 x.2.2)) = [] := by
  unfold missesOf; rw [List.filterMap_map]
  induction oks with
  | nil => rfl
  | cons x l _ => rw [List.filterMap_cons]; simp

/-- The accesses of lanes that pass are their slice's. -/
theorem State.lanesPass_k {s : State} {t k : Nat} {w : Want} {addr : Regs → Nat → W64} {oks : List (Acc × Leaf × Nat)}
    (h : s.lanesPass t k w addr oks) : ∀ x ∈ oks, x.1.k = k := by
  obtain ⟨_, _, h3, _⟩ := h
  intro x hx
  have hm : x.1 ∈ s.laneAccs t [k] addr := h3 ▸ List.mem_map_of_mem (f := (·.1)) hx
  unfold State.laneAccs at hm
  rw [List.flatMap_cons, List.flatMap_nil, List.append_nil] at hm
  dsimp only at hm
  split at hm <;> (obtain ⟨y, _, he⟩ := List.mem_map.mp hm; rw [← he])

/-- The checks of a lane instruction whose lanes all pass (R150). -/
theorem State.gangCheck_of_lanesPass {s : State} {t k : Nat} {i : Instr} {w : Want} {addr : Regs → Nat → W64} {oks : List (Acc × Leaf × Nat)}
    (h : s.lanesPass t k w addr oks) :
    s.gangCheck s t [k] i w addr false = .ok (s, [k], oks.map fun x => (x.1, Fate.ok x.2.1 x.2.2)) := by
  obtain ⟨h1, h2, h3, h4⟩ := h
  have hl : (s.laneAccs t [k] addr).map (fun x => (x, s.fateOf t w x)) = oks.map fun x => (x.1, Fate.ok x.2.1 x.2.2) := by
    rw [← h3, List.map_map] at h2 ⊢
    rw [List.map_inj_left] at h2
    exact List.map_congr_left fun x hx => by rw [Function.comp_apply, ← h2 x hx]; rfl
  have hw := worst_of_ok (oks.map fun x => (x.1, Fate.ok x.2.1 x.2.2)) fun e he => by
    obtain ⟨x, _, rfl⟩ := List.mem_map.mp he; exact ⟨_, _, rfl⟩
  have hr : remoteSlices (oks.map fun x => (x.1, Fate.ok x.2.1 x.2.2)) [k] = [] := by
    unfold remoteSlices
    rw [oksOf_ok, List.filter_eq_nil_iff]
    intro j _
    rw [Bool.not_eq_true, List.any_eq_false]
    intro x hx; rw [(h4 x hx).1]; simp
  unfold State.gangCheck
  simp only [h1, hl, hw, hr, Option.isSome_none, Bool.false_eq_true, if_false, preEach, List.foldl_nil, Option.isNone_none, Bool.true_and, Bool.false_or,
    List.contains_nil, Bool.not_false, Bool.or_true, List.filter_true, State.haltedSince_same]

theorem State.modSlice_modSlice (s : State) (t k : Nat) (f g : Slice → Slice) : (s.modSlice t k f).modSlice t k g = s.modSlice t k (g ∘ f) := by
  unfold State.modSlice; rw [FMap.modify_modify]

/-- A change of a slice is what it makes of the slice. -/
theorem State.modSlice_congr {s : State} {t k : Nat} {f g : Slice → Slice} (h : f (s.slice t k) = g (s.slice t k)) :
    s.modSlice t k f = s.modSlice t k g := by
  unfold State.modSlice
  rw [FMap.modify_congr fun v hv => ?_]
  rwa [State.slice, FMap.get_of_find? hv] at h

/-- `u` is `s` with slice k of team t become `X`. -/
structure Became (s u : State) (t k : Nat) (X : Slice) : Prop where
  self   : FMap.find? u.slices (sliceKey t k) = some X
  others : ∀ key, key ≠ sliceKey t k → FMap.find? u.slices key = FMap.find? s.slices key
  rest   : u = { s with slices := u.slices }

theorem Became.slice {s u : State} {t k : Nat} {X : Slice} (h : Became s u t k X) : u.slice t k = X := FMap.get_of_find? h.self

theorem Became.refl {s : State} {t k : Nat} (h : (FMap.find? s.slices (sliceKey t k)).isSome = true) : Became s s t k (s.slice t k) := by
  obtain ⟨v, hv⟩ := Option.isSome_iff_exists.mp h
  exact ⟨by rw [State.slice, FMap.get_of_find? hv, hv], fun _ _ => rfl, rfl⟩

theorem Became.modSlice {s u : State} {t k : Nat} {X : Slice} (h : Became s u t k X) (f : Slice → Slice) : Became s (u.modSlice t k f) t k (f X) := by
  refine ⟨(FMap.find?_modify ..).trans ?_, fun j hj => (FMap.find?_modify_ne _ hj).trans (h.others j hj), ?_⟩
  · rw [if_pos rfl, h.self]; rfl
  · exact (congrArg (fun v : State => v.modSlice t k f) h.rest).trans (by rfl)

theorem solo_some {s : State} {t k : Nat} {i : Instr} (h : s.solo t k i) : (FMap.find? s.slices (sliceKey t k)).isSome = true := (h.1.2.2 k (List.mem_singleton_self k)).2

theorem Became.congr {s u : State} {t k : Nat} {X Y : Slice} (h : Became s u t k X) (e : X = Y) : Became s u t k Y := e ▸ h

/-- What an instruction whose body holds effects for one slice comes to. -/
theorem issue_holds {s v1 : State} {t k : Nat} {i : Instr} {es : List Held} {wl rl : List LineId} {r : Regs}
    {body : State → State → Nat → List Nat → State × List (Nat × Did)} (ho : s.solo t k i)
    (hb : body s s t [k] = (v1, [(k, .plain)])) (ht : Became s v1 t k (((s.slice t k).hold es wl rl).withRegs r)) :
    s.runs t [k] (issue i body s) fun _ => s.ran i t k ((s.slice t k).hold es wl rl) r := by
  obtain ⟨ha, hl, hv, hp, hm⟩ := ho
  obtain ⟨u, hu, he, hg⟩ := issue_effect (body := body) (i := i) (X := fun _ => ((s.slice t k).hold es wl rl).withRegs r)
    (v1 := v1) ha hl (by rw [hb]; rfl) (fun j hj => by rw [List.mem_singleton.mp hj]; exact ht.self)
    (fun j hj => ht.others j (hj k (List.mem_singleton_self k))) ht.rest
    (fun j hj => by rw [List.mem_singleton.mp hj]; exact ⟨rfl, .inr hv, rfl⟩)
  refine ⟨u, hu, ⟨fun j hj => ?_, he.others, he.rest⟩, hg.congr fun j hj => ?_⟩
  · have h := he.slices j hj
    rw [List.mem_singleton.mp hj] at h ⊢
    exact h
  · rw [List.mem_singleton.mp hj]; rfl

/-- The lines fit: the chunk does not end before the instruction. -/
theorem State.room_of_fits {st v : State} {t k : Nat} {wl rl : List LineId} (h : v.fits2 t k wl rl) : st.room v t k wl rl = .ok v := by
  unfold State.room; exact if_pos h

theorem State.holdAndGo_of_fits {st v : State} {t k : Nat} {es : List Held} {wl rl : List LineId} (h : v.fits2 t k wl rl) :
    st.holdAndGo v t k es wl rl = (v.modSlice t k fun sl => { sl.hold es wl rl with regs := sl.regs.adv }, .plain) := by
  unfold State.holdAndGo; rw [State.room_of_fits h]; rfl

/-- A per-slice effect of one slice. -/
theorem eachSlice_one (f : State → Nat → Nat → State × Did) (u : State) (t k : Nat) :
    eachSlice f u t [k] = ((f u t k).1, [(k, (f u t k).2)]) := by
  simp [eachSlice, State.haltedSince_same]

/-- A slice instruction over accesses that pass: its act, once. -/
theorem sliceAccess_of_passes {s : State} {t k : Nat} {i : Instr} {kind : Nat} {look : State → Nat → Nat → List (W64 × Want)}
    {act : State → State → Nat → Nat → List (Acc × Leaf × Nat) → State × Did} {oks : List (Acc × Leaf × Nat)}
    (h : s.passes t k (look s t k) oks) (hp : (s.slice t k).park = none) :
    sliceAccess i kind false look act s s t [k] = ((act s s t k oks).1, [(k, (act s s t k oks).2)]) := by
  obtain ⟨h1, h2, h3⟩ := h
  have hr : (oks.any fun o => isRemote o.2.1 o.2.2) = false := by
    rw [List.any_eq_false]; intro x hx; rw [(h3 x hx).1]; simp
  have hd : (s.slice t k).finished = false := by simp [Slice.finished, hp]
  have hc : checkSlice i false look s s t k = .ok (s, oks, []) := by
    unfold checkSlice
    simp only [h1, h2, hr, Bool.or_false, Bool.false_eq_true, if_false]
  unfold sliceAccess
  simp [hd, h2, hc, State.haltedSince_same, State.postMisses, pageCounts]

/-- An instruction of one slice that holds effects and goes on. -/
theorem issue_holdAndGo {s : State} {t k : Nat} {i : Instr} {es : List Held} {wl rl : List LineId}
    {body : State → State → Nat → List Nat → State × List (Nat × Did)}
    (hb : body s s t [k] = ((s.holdAndGo s t k es wl rl).1, [(k, (s.holdAndGo s t k es wl rl).2)]))
    (ho : s.solo t k i) (hf : s.fits2 t k wl rl) :
    s.runs t [k] (issue i body s) fun _ => s.ran i t k ((s.slice t k).hold es wl rl) (s.slice t k).regs.adv := by
  rw [State.holdAndGo_of_fits hf] at hb
  exact issue_holds ho hb ((Became.refl (solo_some ho)).modSlice _)

/-- What the effects past a slice's open chunk leave does not depend on the slices' registers. -/
theorem State.pastBytes_slices {s u : State} {t k : Nat} (hu : u = { s with slices := u.slices }) (h1 : (u.slice t k).post = (s.slice t k).post)
    (h2 : (u.slice t k).prev = (s.slice t k).prev) : u.pastBytes t k = s.pastBytes t k := by
  simp only [State.pastBytes, h1, h2]
  rw [hu]
  rfl

/-- A load of a page of this module that is not NC changes nothing; its bytes do not depend on the slice's registers. -/
theorem State.load_local {s : State} {t k : Nat} {l : Leaf} {npa n : Nat} (hr : isRemote l npa = false) (hn : l.cc ≠ .nc) :
    s.load t k l npa n = (s, overlay (s.landsOn (s.teamDie t)) (s.slice t k).chunk.held (s.loadAddr (s.teamDie t) l npa)
      (replaceBytes (s.pastBytes t k) (s.loadAddr (s.teamDie t) l npa) (s.readBytes (s.loadAddr (s.teamDie t) l npa) n))) := by
  have : (l.cc == Cc.nc) = false := by simpa using hn
  unfold State.load
  simp only [hr, this, Bool.false_eq_true, if_false]

/-- The loads of a slice's lanes change its registers alone. -/
theorem State.loadLanes_local {s : State} {t k n : Nat} {put : Regs → Nat → Nat → Regs} {oks : List (Acc × Leaf × Nat)}
    (hs : (FMap.find? s.slices (sliceKey t k)).isSome = true) (h : ∀ x ∈ oks, isRemote x.2.1 x.2.2 = false ∧ x.2.1.cc ≠ .nc) :
    Became s (s.loadLanes t k n put oks) t k
      ((s.slice t k).withRegs (oks.foldl (fun q y => put q y.1.l (s.loaded t k n y)) (s.slice t k).regs)) := by
  suffices ∀ (l : List (Acc × Leaf × Nat)) (v : State) (r : Regs), (∀ x ∈ l, x ∈ oks) → Became s v t k ((s.slice t k).withRegs r) →
      Became s (v.loadLanes t k n put l) t k ((s.slice t k).withRegs (l.foldl (fun q y => put q y.1.l (s.loaded t k n y)) r)) from
    this oks s _ (fun _ h => h) (Became.refl hs)
  intro l
  induction l with
  | nil => intro v r _ ht; exact ht
  | cons x l ih =>
    intro v r hm ht
    obtain ⟨hr, hn⟩ := h x (hm x (List.mem_cons_self ..))
    have hload : v.load t k x.2.1 x.2.2 n = (v, (s.load t k x.2.1 x.2.2 n).2) := by
      rw [State.load_local hr hn, State.load_local hr hn, State.pastBytes_slices (u := v) ht.rest (by rw [ht.slice]; rfl) (by rw [ht.slice]; rfl), ht.slice,
        ht.rest]
      rfl
    have := ih (v.modSlice t k fun sl => { sl with regs := put sl.regs x.1.l (s.loaded t k n x) }) (put r x.1.l (s.loaded t k n x))
      (fun y hy => hm y (List.mem_cons_of_mem _ hy)) (ht.modSlice _)
    unfold State.loadLanes at this ⊢
    rw [List.foldl_cons, hload]
    exact this

/-- A lane instruction whose lanes all pass, in one slice: its act, once. -/
theorem laneBody_of_lanesPass {s : State} {t k : Nat} {i : Instr} {w : State → Nat → Want} {addr : Regs → Nat → W64}
    {act : State → Nat → List (Acc × Fate) → State → Nat → State × Did} {oks : List (Acc × Leaf × Nat)} (h : s.lanesPass t k (w s t) addr oks) :
    laneBody i w addr act s s t [k] =
      ((act s t (oks.map fun x => (x.1, Fate.ok x.2.1 x.2.2)) s k).1, [(k, (act s t (oks.map fun x => (x.1, Fate.ok x.2.1 x.2.2)) s k).2)]) := by
  unfold laneBody
  rw [State.gangCheck_of_lanesPass h]
  simp only [missesOf_ok, eachSlice_one, List.filter_nil, List.map_nil]
  simp [State.postMisses, pageCounts]

/-- What lanes that all pass are to their slice: all its own, none missing, none at another agent. -/
theorem lanesPass_lists {s : State} {t k : Nat} {w : Want} {addr : Regs → Nat → W64} {oks : List (Acc × Leaf × Nat)} (h : s.lanesPass t k w addr oks) :
    ofSlice k oks = oks ∧ earlyOks oks = oks ∧ oks.filter (fun x => isRemote x.2.1 x.2.2) = [] ∧ (oks.any fun x => isRemote x.2.1 x.2.2) = false ∧
    missesOf ((oks.map fun x => (x.1, Fate.ok x.2.1 x.2.2)).filter fun f => f.1.k == k) = [] := by
  refine ⟨List.filter_eq_self.mpr fun x hx => by rw [State.lanesPass_k h x hx]; simp,
    List.filter_eq_self.mpr fun x hx => by rw [(h.2.2.2 x hx).1]; simp,
    List.filter_eq_nil_iff.mpr fun x hx => by rw [(h.2.2.2 x hx).1]; simp,
    List.any_eq_false.mpr fun x hx => by rw [(h.2.2.2 x hx).1]; simp, ?_⟩
  rw [List.filter_eq_self.mpr, missesOf_ok]
  intro e he; obtain ⟨x, hx, rfl⟩ := List.mem_map.mp he
  simp [State.lanesPass_k h x hx]

/-- One slice of a load by lanes that all pass. -/
theorem loadSlice_of_lanesPass {s : State} {t k n : Nat} {i : Instr} {w : Want} {addr : Regs → Nat → W64} {put : Regs → Nat → Nat → Regs}
    {oks : List (Acc × Leaf × Nat)} (ho : s.solo t k i) (h : s.lanesPass t k w addr oks) (hf : s.fits2 t k [] (s.loadLines t oks)) :
    ∃ v, loadSlice i n put s t (oks.map fun x => (x.1, Fate.ok x.2.1 x.2.2)) s k = (v, .plain) ∧
      Became s v t k (((s.slice t k).hold [] [] (s.loadLines t oks)).withRegs
        (oks.foldl (fun q y => put q y.1.l (s.loaded t k n y)) (s.slice t k).regs).adv) := by
  have hG := State.loadLanes_local (put := put) (n := n) (solo_some ho) h.2.2.2
  obtain ⟨hk, -, -, hr, hm⟩ := lanesPass_lists h
  have hp := ho.2.2.2.1
  have hw : (s.slice t k).wentFar = false := by simp [Slice.wentFar, hp]
  refine ⟨_, ?_, (hG.modSlice fun sl =>
    let h := sl.hold [] [] (s.loadLines t oks ++ (sl.park.map (·.rset)).getD [])
    { h with regs := h.regs.adv }).congr (by simp [Slice.hold, Slice.withRegs, hp])⟩
  unfold loadSlice
  simp only [missesOf_ok, oksOf_ok, hk, hm, hp, Option.isSome_none, Bool.false_eq_true, if_false,
    List.map_nil, List.dedup_nil, List.append_nil, State.room_of_fits hf, List.isEmpty_nil, if_true, hr, hw, Bool.or_false]

/-- One slice of a store or a reduction by lanes that all pass. -/
theorem storeSlice_of_lanesPass {s : State} {t k : Nat} {i : Instr} {w : Want} {addr : Regs → Nat → W64} {bytes : Regs → Nat → List Byte}
    {buf : Regs → Acc → Leaf → Nat → Buffered} {red : Regs → List RedLane → List Nat → Held}
    {oks : List (Acc × Leaf × Nat)} (ho : s.solo t k i) (h : s.lanesPass t k w addr oks)
    (hb : bufferedLines (oks.map fun x => buf (s.slice t k).regs x.1 x.2.1 x.2.2) = oks.flatMap fun x => writeLine x.2.1 x.2.2)
    (hf : s.fits2 t k (oks.flatMap fun x => writeLine x.2.1 x.2.2) []) :
    ∃ v, storeSlice i bytes buf red s t (oks.map fun x => (x.1, Fate.ok x.2.1 x.2.2)) s k = (v, .plain) ∧
      Became s v t k (((s.slice t k).hold (bufferedHeld (oks.map fun x => buf (s.slice t k).regs x.1 x.2.1 x.2.2) (red (s.slice t k).regs))
        (oks.flatMap fun x => writeLine x.2.1 x.2.2) []).withRegs (s.slice t k).regs.adv) := by
  obtain ⟨hk, he, hr, -, hm⟩ := lanesPass_lists h
  have hp := ho.2.2.2.1
  refine ⟨_, ?_, ((Became.refl (solo_some ho)).modSlice fun sl =>
    let all := (sl.park.map (·.buf)).getD [] ++ oks.map fun x => buf (s.slice t k).regs x.1 x.2.1 x.2.2
    let h := sl.hold (bufferedHeld all (red (s.slice t k).regs)) (bufferedLines all) []
    { h with regs := h.regs.adv }).congr (by simp [hp, hb, Slice.hold, Slice.withRegs])⟩
  unfold storeSlice
  simp only [missesOf_ok, oksOf_ok, hk, hm, he, hr, hp, Option.isSome_none, Bool.false_eq_true, if_false,
    List.map_nil, List.dedup_nil, List.append_nil, State.room_of_fits hf, List.isEmpty_nil, if_true]

/-- Below level 2 a slice does not commit its memory instruction at once (R211). -/
theorem State.atOnce_of_level {st : State} {i : Instr} {t k : Nat} {x : State × Did} (h : (x.1.slice t k).level ≠ 2) : st.atOnce i t k x = x := by
  unfold State.atOnce; exact if_neg fun e => h e.2

theorem State.atOnce_solo {s : State} {t k : Nat} {i : Instr} (h : s.solo t k i) {G : Slice → Slice} {d : Did}
    (hG : (G (s.slice t k)).level = (s.slice t k).level) : s.atOnce i t k (s.modSlice t k G, d) = (s.modSlice t k G, d) := by
  refine State.atOnce_of_level ?_
  have := h.2.2.1
  show ((s.modSlice t k G).slice t k).level ≠ 2
  rw [State.slice_modSlice_self _ (solo_some h), hG]; omega

/-- The load of a descriptor changes nothing. -/
theorem State.descBytes_local {s : State} {t k n : Nat} {xs : List (W64 × Want)} {oks : List (Acc × Leaf × Nat)} (h : s.passes t k xs oks) :
    s.descBytes t k n oks = (s, (s.descBytes t k n oks).2) := by
  cases oks with
  | nil => rfl
  | cons x l =>
    have hx := h.2.2 x (List.mem_cons_self ..)
    have : s.descBytes t k n (x :: l) = s.load t k x.2.1 x.2.2 n := rfl
    rw [this, State.load_local hx.1 hx.2]

/-- The load of a record changes nothing. -/
theorem State.recordBytes_local {s : State} {t k n : Nat} {xs : List (W64 × Want)} {oks : List (Acc × Leaf × Nat)} (h : s.passes t k xs oks) :
    s.recordBytes t k n oks = (s, (s.recordBytes t k n oks).2) := by
  unfold State.recordBytes
  suffices ∀ (l : List (Acc × Leaf × Nat)) b, (∀ x ∈ l, x ∈ oks) →
      (l.foldl (fun (a : State × List Byte) x => let r := a.1.load t k x.2.1 x.2.2 (min n 128); (r.1, a.2 ++ r.2)) (s, b)).1 = s from
    Prod.ext (this oks [] fun _ h => h) rfl
  intro l
  induction l with
  | nil => intro b _; rfl
  | cons x l ih =>
    intro b hm
    have hx := h.2.2 x (hm x (List.mem_cons_self ..))
    rw [List.foldl_cons, State.load_local hx.1 hx.2]
    exact ih _ fun y hy => hm y (List.mem_cons_of_mem _ hy)

end Sys2Proof.Machine
end

