-- ==== Sys2Proof/Laws/Closers.lean ====
section
/-! SUPPORT. What a closer comes to in one slice whose open chunk holds no effect (R203). -/

namespace Sys2Proof.Machine

theorem Regs.raise_zero (r : Regs) : r.raise 0 = r := by
  unfold Regs.raise; simp

theorem Regs.complete_of_wins {r : Regs} (h : r.wins = []) : r.complete = r := by
  unfold Regs.complete; rw [h, List.map_nil, ← h]

@[simp] theorem Regs.complete_complete (r : Regs) : r.complete.complete = r.complete := by simp [Regs.complete]

theorem State.charge_nil (s : State) (c : Nat) : s.charge c [] [] [] = .ok s := by
  have h1 : s.growOwnerless [] = s := rfl
  have h2 : s.needs [] [] = [] := rfl
  unfold State.charge; simp only [h1, h2]; rfl

/-- A trial that writes nothing changes nothing. -/
theorem State.makeTrial_nil {s : State} {t k c : Nat} {tr : Trial} {b : Bool} (h : tr.ws = []) : s.makeTrial t k c tr b = s := by
  unfold State.makeTrial State.poisonRecords
  simp only [h]
  cases b <;> rfl

theorem State.stepSix_nil (s : State) (t k c : Nat) : s.stepSix t k c [] = s := rfl

/-- A chunk that holds no effect, up to its commit point. -/
theorem State.perform_nil (s : State) (t k : Nat) : s.perform t k [] = .ok (s, 0) := by
  have h1 : s.chargeCodes (s.trial allSorts (s.team t).ctx []) (s.trial charged (s.team t).ctx []) = [] := rfl
  have h2 : (s.trial allSorts (s.team t).ctx []).pins = [] := rfl
  have h3 : (s.trial allSorts (s.team t).ctx []).marks = [] := rfl
  unfold State.perform
  simp only [h1, h2, h3, State.charge_nil, List.flatMap_nil, List.append_nil, List.foldl_nil]
  rw [State.makeTrial_nil rfl, State.makeTrial_nil rfl]
  rfl

/-- A chunk that holds no effect commits, and nothing but its slice changes (R204). -/
theorem State.commitChunk_nil {s : State} {t k : Nat} (h : (s.slice t k).chunk.held = []) :
    s.commitChunk t k true = .ok (s.modSlice t k (Slice.committed (s.ctx (s.team t).ctx))) := by
  unfold State.commitChunk
  simp only [h, State.perform_nil, List.filter_nil, if_true, State.stepSix_nil, Regs.raise_zero]
  rfl

/-- No commit is under way. -/
theorem State.settlePrev_of_idle {s : State} {t k : Nat} (hp : (s.slice t k).prev = none) (hq : (s.slice t k).post = []) : s.settlePrev t k = .ok s := by
  have hf : s.finishPost t k = s := by simp [State.finishPost, hq]
  unfold State.settlePrev State.commitPrev
  simp only [hf, hp]

theorem Became.of_modSlice {s : State} {t k : Nat} (h : (FMap.find? s.slices (sliceKey t k)).isSome = true) (f : Slice → Slice) :
    Became s (s.modSlice t k f) t k (f (s.slice t k)) := (Became.refl h).modSlice f

theorem State.recordFlags_calm {s : State} {t k : Nat} {pc : W64} (h : (s.slice t k).regs.fpx &&& ~~~ (s.slice t k).regs.delivered = 0) :
    s.recordFlags t k pc = (s.modSlice t k fun v => { v with chunk := { v.chunk with ckpt := v.regs } }, 0) := by
  unfold State.recordFlags
  have e : flagBits 0#6 = [] := by decide
  simp [h, e]

/-- A delivery point with no new flag (R83). -/
theorem State.deliver_calm {s : State} {t k : Nat} {en : BitVec 6} {pc resume : W64} (h : (s.slice t k).regs.fpx &&& ~~~ (s.slice t k).regs.delivered = 0) :
    s.deliver t k en pc resume = s.modSlice t k fun v => { v with chunk := { v.chunk with ckpt := v.regs } } := by
  unfold State.deliver
  simp [State.recordFlags_calm h]

theorem Slice.countCommit_held (v : Slice) : v.countCommit.regs = v.regs ∧ v.countCommit.hit = v.hit := by
  exact ⟨rfl, rfl⟩

/-- The commit before a closer, of a chunk that holds no effect (R203). -/
theorem State.preIn_calm {s : State} {t k : Nat} (hk : (FMap.find? s.slices (sliceKey t k)).isSome = true) (hi : (s.slice t k).idle)
    (hwin : (s.slice t k).regs.wins = []) :
    ∃ v, s.preIn s t k = .ok v ∧ Became s v t k (if (s.slice t k).chunk.instrs = 0 then s.slice t k else (s.slice t k).committed (s.ctx (s.team t).ctx)) := by
  obtain ⟨hh, hx, hp, hph, hq, -⟩ := hi
  generalize hw : s.trueRegs s t k = w
  have hb : Became s w t k (s.slice t k) := hw ▸ (Became.of_modSlice hk _)
  have hteam : w.ctx (w.team t).ctx = s.ctx (s.team t).ctx := by rw [← hw]; rfl
  unfold State.preIn
  simp only [hw]
  unfold State.preCommit
  simp only [hb.slice, hph, Bool.false_eq_true, if_false, State.settlePrev_of_idle (s := w) (by rw [hb.slice]; exact hp) (by rw [hb.slice]; exact hq), hx]
  by_cases hn : (s.slice t k).chunk.instrs = 0
  · simp only [hn, if_true]
    exact ⟨_, rfl, (hb.modSlice _).congr (by rw [Regs.complete_of_wins hwin])⟩
  · simp only [hn, if_false]
    rw [State.commitChunk_nil (by rw [hb.slice]; exact hh), hteam]
    exact ⟨_, rfl, ((hb.modSlice _).modSlice _).congr (by simp [Slice.committed])⟩

/-- A closer in one calm slice: its body leaves the slice as `X` in a state that is otherwise `base`; then its own chunk commits. -/
theorem issue_closer {s base v1 : State} {t k : Nat} {i : Instr} {X : Slice} {body : State → State → Nat → List Nat → State × List (Nat × Did)}
    (hc : s.calm t k i) (hla : lookaheadOf i = 0) (hb : body s s t [k] = (v1, [(k, .closer)])) (ht : Became base v1 t k X)
    (hX : X = (if (s.slice t k).chunk.instrs = 0 then s.slice t k else (s.slice t k).committed (base.ctx (base.team t).ctx)).withRegs X.regs)
    (hfx : X.regs.fpx &&& ~~~ X.regs.delivered = 0)
    (hh : ∀ key, (FMap.find? base.slices key).map Slice.handler = (FMap.find? s.slices key).map Slice.handler)
    (hrel : (base.team t).released = (s.team t).released) (hhalt : (base.ctx (base.team t).ctx).halted = (s.ctx (s.team t).ctx).halted) :
    ∃ u, issue i body s = .next u ∧ Leaves base u t k ((s.slice t k).closed (base.ctx (base.team t).ctx) X.regs) ∧ u.gangs = base.gangs := by
  obtain ⟨ha, hl, ⟨hheld, hhit, hprev, -, hpost, -⟩, -, hrun, -⟩ := hc
  have hk := (ha.2.2 k (List.mem_singleton_self k)).2
  have hw := (hl k (List.mem_singleton_self k)).2
  -- the closer's own chunk
  generalize hc0 : base.ctx (base.team t).ctx = c at *
  let r : Regs := { X.regs with wins := [] }
  have hset : ∀ v : Slice, s.settleRegs i t k v = { v.regs with wins := [] } := fun v => by
    rw [State.settleRegs_of_wins hw]; simp [Regs.nextWins, hla]
  have hXh : X.chunk.held = [] ∧ X.handler = (s.slice t k).handler ∧ X.status = .run := by
    rw [hX]; unfold Slice.withRegs; split
    · exact ⟨hheld, rfl, hrun⟩
    · exact ⟨rfl, rfl, hrun⟩
  let close : Slice → Slice := fun v => let w := s.settled i t k v; { w with regs := w.regs.complete }
  have b1 := ht.modSlice close
  generalize hv : v1.modSlice t k close = v at b1
  have hcv : ∀ {w : State} {Y : Slice}, Became base w t k Y → w.ctx (w.team t).ctx = c := fun h => by rw [h.rest]; exact hc0
  have hgo : s.haltedSince v1 t = false := by
    have : (v1.ctx (v1.team t).ctx).halted = (s.ctx (s.team t).ctx).halted := by rw [hcv ht, hhalt]
    simp [State.haltedSince, this]
  have hcommit := State.commitChunk_nil (s := v) (t := t) (k := k) (by rw [b1.slice]; exact hXh.1)
  rw [hcv b1] at hcommit
  have b2 := b1.modSlice (Slice.committed c)
  have hfin : State.finishSlice s i t v1 (k, .closer) = (v.modSlice t k (Slice.committed c)).modSlice t k fun v => { v with chunk := { v.chunk with ckpt := v.regs } } := by
    have hfl : ((v.modSlice t k (Slice.committed c)).slice t k).regs.fpx &&& ~~~ ((v.modSlice t k (Slice.committed c)).slice t k).regs.delivered = 0 := by
      rw [b2.slice]
      show (s.settleRegs i t k X).fpx &&& ~~~ (s.settleRegs i t k X).delivered = 0
      rw [hset]; exact hfx
    have e : State.finishSlice s i t v1 (k, .closer) = (v1.modSlice t k close).closeOwn t k (s.slice t k).regs.pc (v1.slice t k).regs.pc := rfl
    rw [e, hv, State.closeOwn, hcommit]
    exact State.deliver_calm hfl
  have b3 := b2.modSlice fun v => { v with chunk := { v.chunk with ckpt := v.regs } }
  generalize hv2 : ((v.modSlice t k (Slice.committed c)).modSlice t k fun v => { v with chunk := { v.chunk with ckpt := v.regs } }) = v2 at b3 hfin
  have hres := b3.slice
  have hu := issue_of_body (i := i) (v1 := v1) (v2 := v2) (ds := [(k, .closer)]) ha hl hb
    (by rw [State.finishAll, List.foldl_cons, List.foldl_nil, hgo, if_neg (by simp), hfin]) (by
    intro key hkey
    by_cases he : key = sliceKey t k
    · subst he
      show (v2.slice t k).handler = (s.slice t k).handler
      rw [hres, ← hXh.2.1]
      rfl
    · have h1 := hh key
      rw [← b3.others key he] at h1
      rw [FMap.get_eq_find?, FMap.get_eq_find?]
      cases hf : FMap.find? v2.slices key with
      | none => rw [hf] at hkey; simp at hkey
      | some a =>
        rw [hf] at h1
        cases hf' : FMap.find? s.slices key with
        | none => rw [hf'] at h1; simp at h1
        | some b => rw [hf'] at h1; simpa using h1)
    fun j hj => .inr ⟨by rw [List.mem_singleton.mp hj]; simp [Slice.heldAll, hpost, hprev, hheld], by rw [b3.rest]; exact hrel⟩
  rw [State.regroup_alike (s := v2) (by simp) (fun j hj => by
    rw [List.mem_singleton.mp hj, hres]
    show X.status ≠ _
    rw [hXh.2.2]; simp) fun i hi j hj => by rw [List.mem_singleton.mp hi, List.mem_singleton.mp hj]] at hu
  refine ⟨_, hu, ⟨?_, b3.others, ?_⟩, by rw [b3.rest]⟩
  · show v2.slice t k = _
    rw [hres, hX]
    simp only [close, State.settled, hset]
    unfold Slice.closed Slice.withRegs Slice.committed
    split <;> rfl
  · rw [b3.rest]
theorem calm_some {s : State} {t k : Nat} {i : Instr} (h : s.calm t k i) : (FMap.find? s.slices (sliceKey t k)).isSome = true := (h.1.2.2 k (List.mem_singleton_self k)).2

/-- A closer that `issueCloser` issues in one calm slice: from any state in which the chunk before it has committed, its function leaves the slice
with the registers `g` in a state that is otherwise `base`. -/
theorem issueCloser_calm {s base : State} {t k : Nat} {i : Instr} {f : State → Nat → Nat → State × Did} {g : Regs → Regs} (hc : s.calm t k i) (hla : lookaheadOf i = 0)
   (hf : ∀ v, Became s v t k (if (s.slice t k).chunk.instrs = 0 then s.slice t k else (s.slice t k).committed (s.ctx (s.team t).ctx)) →
      ∃ w, f v t k = (w, .closer) ∧ Became base w t k ((v.slice t k).withRegs (g (v.slice t k).regs)))
   (hctx : base.ctx (base.team t).ctx = s.ctx (s.team t).ctx)
   (hfx : (g (s.slice t k).regs).fpx &&& ~~~ (g (s.slice t k).regs).delivered = 0)
   (hh : ∀ key, (FMap.find? base.slices key).map Slice.handler = (FMap.find? s.slices key).map Slice.handler)
   (hrel : (base.team t).released = (s.team t).released) :
   ∃ u, issueCloser i f s = .next u ∧ Leaves base u t k ((s.slice t k).closed (base.ctx (base.team t).ctx) (g (s.slice t k).regs)) ∧ u.gangs = base.gangs := by
  obtain ⟨v, hv, hb⟩ := State.preIn_calm (calm_some hc) hc.2.2.1 (hc.2.1 k (List.mem_singleton_self k)).2
  obtain ⟨w, hw, hb2⟩ := hf v hb
  have hr : (v.slice t k).regs = (s.slice t k).regs := by
    rw [hb.slice]
    split
    · rfl
    · exact Regs.complete_of_wins (hc.2.1 k (List.mem_singleton_self k)).2
  have hX : ((v.slice t k).withRegs (g (v.slice t k).regs)) = (if (s.slice t k).chunk.instrs = 0 then s.slice t k else (s.slice t k).committed (base.ctx (base.team t).ctx)).withRegs (g (s.slice t k).regs) := by
    rw [hr, hctx, hb.slice]
  have := issue_closer (body := fun st u t ks => eachSlice (fun v t k =>
    match st.preIn v t k with
    | .ok v1 => f v1 t k
    | .left v1 => (v1, .gone)) u t ks) hc hla (by simp only [eachSlice_one, hv, hw]) hb2 (by rw [hX]; rfl) (by rw [hX]; exact hfx) hh hrel (by rw [hctx])
  rw [hX] at this
  exact this

end Sys2Proof.Machine
end

