-- ==== Sys2Proof/Laws/Events.lean ====
section
/-! SUPPORT. What an event comes to: what its function makes of the state, the gangs apart (R329). -/

namespace Sys2Proof.Machine

theorem State.regroup_rest (s : State) (t : Nat) (ks alone : List Nat) :
    s.regroup t ks alone = { s with gangs := (s.regroup t ks alone).gangs } := rfl

/-- Gangs that part change nothing but the gangs. -/
theorem State.partAll_rest (s v : State) : s.partAll v = { v with gangs := (s.partAll v).gangs } := by
  unfold State.partAll
  have h (l : List Gang) (u : State) (hu : u = { v with gangs := u.gangs }) :
      l.foldl (fun w g => w.regroup g.team g.ks (s.trapped v g)) u =
        { v with gangs := (l.foldl (fun w g => w.regroup g.team g.ks (s.trapped v g)) u).gangs } := by
    induction l generalizing u with
    | nil => exact hu
    | cons x l ih => rw [List.foldl_cons]; apply ih; rw [State.regroup_rest, hu]
  exact h _ v rfl

/-- Gangs whose slices stand alike do not part. -/
theorem State.partAll_whole {s v : State} (h : s.whole v) : s.partAll v = v := by
  unfold State.partAll
  suffices ∀ l : List Gang, (∀ g ∈ l, g ∈ v.gangs) → l.foldl (fun w g => w.regroup g.team g.ks (s.trapped v g)) v = v from this _ fun _ => id
  intro l hl
  induction l with
  | nil => rfl
  | cons g l ih =>
    obtain ⟨h0, h1, h2, h3⟩ := h g (hl g (List.mem_cons_self ..))
    rw [List.foldl_cons, h1, State.regroup_alike h0 h2 h3]
    exact ih fun x hx => hl x (List.mem_cons_of_mem _ hx)

/-- An event's next state is what its function makes of the state, the gangs parted. -/
theorem State.gives_of {s v : State} {i : Instr} (f : State → State) (he : exec i s = event f s) (h : f s = v) : s.gives i v :=
  ⟨_, he, by rw [State.partAll_rest s (f s), h], fun hw => by rw [h, State.partAll_whole hw]⟩

theorem State.touch_nil (s : State) (c : Nat) : s.touch c [] = s := rfl

end Sys2Proof.Machine
end

