-- ==== Sys2Proof/Laws/Memory.lean ====
section
/-! SUPPORT. The laws of memory: a read after a write, and that every operation on memory keeps its canonical form. -/

namespace Sys2Proof.Machine

@[simp] theorem Memory.read_write (m : Memory) (a i : Nat) (b : Byte) :
    Memory.read (Memory.write m a b) i = if i = a then b else Memory.read m i := FMap.get_set _ m a i b

theorem Memory.read_write_ne {m : Memory} {a i : Nat} (b : Byte) (h : i ≠ a) :
    Memory.read (Memory.write m a b) i = Memory.read m i := by simp [h]

theorem Memory.read_writeBytes_out (bs : List Byte) (m : Memory) (a i : Nat) (h : i < a ∨ a + bs.length ≤ i) :
    Memory.read (Memory.writeBytes m a bs) i = Memory.read m i := by
  induction bs generalizing m a with
  | nil => rfl
  | cons b bs ih =>
    simp only [List.length_cons] at h
    rw [Memory.writeBytes, ih _ _ (by omega), Memory.read_write_ne _ (by omega)]

theorem Memory.readBytes_writeBytes (bs : List Byte) (m : Memory) (a : Nat) :
    Memory.readBytes (Memory.writeBytes m a bs) a bs.length = bs := by
  induction bs generalizing m a with
  | nil => rfl
  | cons b bs ih =>
    simp only [List.length_cons, Memory.readBytes, Memory.writeBytes, ih]
    rw [Memory.read_writeBytes_out _ _ _ _ (by omega)]; simp

theorem Memory.wf_write {m : Memory} (a : Nat) (b : Byte) (h : Memory.wf m = true) :
    Memory.wf (Memory.write m a b) = true := FMap.wf_set a b h

theorem Memory.wf_writeBytes (bs : List Byte) {m : Memory} (a : Nat) (h : Memory.wf m = true) :
    Memory.wf (Memory.writeBytes m a bs) = true := by
  induction bs generalizing m a with
  | nil => exact h
  | cons b bs ih => exact ih _ (Memory.wf_write a b h)

theorem Memory.wf_filter {m : Memory} (p : Nat × Byte → Bool) (h : Memory.wf m = true) : Memory.wf (m.filter p) = true :=
  FMap.wf_filter p h

theorem Memory.wf_clear {m : Memory} (a n : Nat) (h : Memory.wf m = true) : Memory.wf (m.clear a n) = true :=
  FMap.wf_filter _ h

theorem Memory.wf_foldl {α : Type} (f : Memory → α → Memory) (hf : ∀ m x, Memory.wf m = true → Memory.wf (f m x) = true) (xs : List α)
    {m : Memory} (h : Memory.wf m = true) : Memory.wf (xs.foldl f m) = true := by
  induction xs generalizing m with
  | nil => exact h
  | cons x xs ih => exact ih (hf m x h)

theorem State.wf_pokeBytes (s : State) (a : Nat) (bs : List Byte) (h : Memory.wf s.mem = true) :
    Memory.wf (s.pokeBytes a bs).mem = true := Memory.wf_writeBytes bs a h

theorem State.wf_applyBytes (s : State) (ws : List (Nat × Byte)) (h : Memory.wf s.mem = true) :
    Memory.wf (s.applyBytes ws).mem = true := by
  refine Memory.wf_foldl _ ?_ ws h
  intro m w hm
  split
  · exact hm
  · exact Memory.wf_write _ _ hm

theorem State.reset_memory_wf : Memory.wf State.reset.mem = true := rfl

end Sys2Proof.Machine
end

