-- ==== Sys2Proof/Laws/TeamMemory.lean ====
section
/-! SUPPORT. Team-memory instructions of one slice (R157, R231). -/

namespace Sys2Proof.Machine

/-- A team-memory instruction of one slice whose lanes are all aligned and inside the team's memory: what its action makes of the slice, with the lines that it
writes and reads, and the PC moved on (R157, R231). -/
theorem teamBody_of_inside {s : State} {t k : Nat} {i : Instr} {n : Nat} {addr : Regs → Nat → W64} {wr rd : Bool} {act : State → Nat → Nat → List Acc → State} {X : Slice}
   (ho : s.solo t k i) (h : ∀ y ∈ s.laneAccs t [k] addr, y.va.toNat % n = 0 ∧ y.va.toNat + n ≤ (s.params t).tmem)
   (hf : s.fits2 t k (if wr then ((s.laneAccs t [k] addr).map fun y => LineId.team t (y.va.toNat / 128)).dedup else []) (if rd then ((s.laneAccs t [k] addr).map fun y => LineId.team t (y.va.toNat / 128)).dedup else []))
   (ha : Became s (act s t k (s.laneAccs t [k] addr)) t k X) (hl : X.level = (s.slice t k).level) :
   ∃ v, teamBody i n addr wr rd act s s t [k] = (v, [(k, .plain)]) ∧ Became s v t k
     ((X.hold [] (if wr then ((s.laneAccs t [k] addr).map fun y => LineId.team t (y.va.toNat / 128)).dedup else []) (if rd then ((s.laneAccs t [k] addr).map fun y => LineId.team t (y.va.toNat / 128)).dedup else [])).withRegs X.regs.adv) := by
  have hw : worst ((s.laneAccs t [k] addr).map fun x => (x, teamFate (s.params t).tmem n x)) = none := by
    apply worst_of_ok
    intro e he
    obtain ⟨x, hx, rfl⟩ := List.mem_map.mp he
    obtain ⟨h1, h2⟩ := h x hx
    exact ⟨_, _, by rw [teamFate, if_neg (by simp [h1]), if_neg (by omega)]⟩
  have hk : (s.laneAccs t [k] addr).filter (fun x => x.k == k) = s.laneAccs t [k] addr := by
    apply List.filter_eq_self.mpr
    intro x hx
    unfold State.laneAccs at hx
    rw [List.flatMap_cons, List.flatMap_nil, List.append_nil] at hx
    dsimp only at hx
    split at hx <;> (obtain ⟨y, _, he⟩ := List.mem_map.mp hx; rw [← he]; simp)
  let ls := ((s.laneAccs t [k] addr).map fun y => LineId.team t (y.va.toNat / 128)).dedup
  have hm := ha.modSlice fun sl : Slice => (sl.hold [] (if wr then ls else []) (if rd then ls else [])).withRegs sl.regs.adv
  refine ⟨_, ?_, hm⟩
  unfold teamBody
  simp only [hw, eachSlice_one, hk, State.room_of_fits hf]
  rw [State.atOnce_of_level]
  · rfl
  · rw [(ha.modSlice _).slice]; show X.level ≠ 2; rw [hl]; have := ho.2.2.1; omega

end Sys2Proof.Machine
end

