-- ==== Sys2Proof/Tests/Slice0.lean ====
section
/-! SUPPORT. Small tests of the model, with results taken from the spec or worked out by hand from it, and for each statement of
Certificates/Slice0/Obligations.lean that has hypotheses a witness that meets them. -/

namespace Sys2Proof.Tests

open Sys2Proof Sys2Proof.Machine

set_option maxRecDepth 100000

/-! ### A small state: one context, one team of one slice, one page of code -/

/-- The slice's word is `w`, and the slice is the one the next instruction acts on. -/
def at32 (w : Nat) : State := { State.reset.withFetchWord 32 w with cur := { team := 0, ks := [0] } }

/-- The same with the word 0. -/
def placed : State := at32 0

/-- `placed` with its slice's registers as `f` makes them. -/
def withR (f : Regs → Regs) : State := placed.modSlice 0 0 fun v => { v with regs := f v.regs }

/-- The registers of slice 0 after an outcome. -/
def regsOf (o : Host.Outcome State Fault Refusal) : Regs :=
  match o with
  | .next u => (u.slice 0 0).regs
  | .fault _ | .refused _ => Regs.blank

/-- The state after an outcome. -/
def after (o : Host.Outcome State Fault Refusal) : State :=
  match o with
  | .next u => u
  | .fault _ | .refused _ => State.reset

/-- Scalar registers 1 and 2 set. -/
def ss (x y : W64) : State := withR fun r => (r.setS 1 x).setS 2 y

/-- Vector registers 1 and 2 set in every lane, register 3 in every lane too, under MODE `m`. -/
def vv (m : BitVec 16) (x y z : W32) : State := withR fun r =>
  let q := (List.range 4).foldl (fun q l => ((q.setV 1 l x).setV 2 l y).setV 3 l z) r
  q.setMode m

/-! ### Ill-formed terms: one for each check of WellFormed -/

theorem test_wf_sreg : (Instr.sadd 64 0 0).wellFormed = false ∧ (Instr.sadd 63 63 63).wellFormed = true := by decide
theorem test_wf_vreg : (Instr.vadd 0 128 0).wellFormed = false ∧ (Instr.vadd 127 127 127).wellFormed = true := by decide
theorem test_wf_preg : (Instr.pand 0 0 8).wellFormed = false ∧ (Instr.pand 7 7 7).wellFormed = true := by decide
theorem test_wf_inField : (Instr.vrdl 1 2 4).wellFormed = false ∧ (Instr.trap 1024).wellFormed = false ∧ (Instr.vbcast 1 2 31).wellFormed = true := by decide
theorem test_wf_srdListed : (Instr.srd 1 0x011).wellFormed = false ∧ (Instr.srd 1 0x010).wellFormed = true := by decide
theorem test_wf_csrListed : (Instr.csrr 1 0x003).wellFormed = false ∧ (Instr.csrr 1 0x015).wellFormed = true := by decide
theorem test_wf_specListed : (Instr.specrd 1 4).wellFormed = false ∧ (Instr.specrd 1 3).wellFormed = true := by decide
theorem test_wf_pcrListed : (Instr.pcrd 1 0x150).wellFormed = false ∧ (Instr.pcrd 1 0x2FF).wellFormed = true := by decide
theorem test_wf_logListed : (Instr.logrd 1 2).wellFormed = false ∧ (Instr.logrd 1 1).wellFormed = true := by decide
theorem test_wf_barListed : (Instr.bar 257).wellFormed = false ∧ (Instr.bar 256).wellFormed = true := by decide
theorem test_wf_reduces : (Instr.red .cas 1 2 3 false).wellFormed = false ∧ (Instr.redt .exch 1 2 3 false).wellFormed = false ∧
    (Instr.red .fadd 1 2 3 false).wellFormed = true := by decide
theorem test_wf_copy : (Instr.copy .none 1 2 3).wellFormed = false ∧ (Instr.copy .gate 1 2 3).wellFormed = true := by decide

/-! ### Decoding: a word of each row of the opcode table, from the spec's field tables (R26 to R66) -/

theorem test_decode_scalar :
  decode 0x02294980 = .ok (.sadd 5 10 19) ∧ decode 0x02294981 = .ok (.ssub 5 10 19) ∧ decode 0x02294982 = .ok (.smul 5 10 19) ∧
  decode 0x02294983 = .ok (.smulh 5 10 19) ∧ decode 0x02294984 = .ok (.smulhN 5 10 19) ∧ decode 0x02294985 = .ok (.sdiv 5 10 19) ∧
  decode 0x02294986 = .ok (.sdivN 5 10 19) ∧ decode 0x02294987 = .ok (.srem 5 10 19) ∧ decode 0x02294988 = .ok (.sremN 5 10 19) ∧
  decode 0x02294989 = .ok (.sand 5 10 19) ∧ decode 0x0229498A = .ok (.sor 5 10 19) ∧ decode 0x0229498B = .ok (.sxor 5 10 19) ∧
  decode 0x0229498C = .ok (.sshl 5 10 19) ∧ decode 0x0229498D = .ok (.sshr 5 10 19) ∧ decode 0x0229498E = .ok (.ssra 5 10 19) ∧
  decode 0x0229498F = .ok (.smin 5 10 19) ∧ decode 0x02294990 = .ok (.sminN 5 10 19) ∧ decode 0x02294991 = .ok (.smax 5 10 19) ∧
  decode 0x02294992 = .ok (.smaxN 5 10 19) ∧ decode 0x02294993 = .ok (.sslt 5 10 19) ∧ decode 0x02294994 = .ok (.ssltn 5 10 19) ∧
  decode 0x02294995 = .ok (.ssel 5 10 19) ∧ decode 0x04295FFE = .ok (.saddi 5 10 0x1ffe) ∧ decode 0x06295FFE = .ok (.sandi 5 10 0x1ffe) ∧
  decode 0x08295FFE = .ok (.sori 5 10 0x1ffe) ∧ decode 0x0A295FFE = .ok (.sxori 5 10 0x1ffe) ∧ decode 0x0C29403E = .ok (.sshli 5 10 0x3e) ∧
  decode 0x0E2FFFFE = .ok (.slui 5 0x7fffe) := by decide

theorem test_decode_special_and_control :
  decode 0x10280010 = .ok (.srd 5 16) ∧ decode 0x1200A010 = .ok (.swr 5 16) ∧ decode 0x14145000 = .ok (.smovv 5 10) ∧
  decode 0x14160000 = .ok (.smovvLane 5) ∧ decode 0x14160800 = .ok (.smovvTlane 5) ∧ decode 0x16145003 = .ok (.vrdl 5 10 3) ∧
  decode 0x203FFFFE = .ok (.br 0x3ffffe) ∧ decode 0x22115FFE = .ok (.brCc .lz 10 0x1ffe) ∧ decode 0x257FFFFE = .ok (.bany 5 0x3ffffe) ∧
  decode 0x277FFFFE = .ok (.ball 5 0x3ffffe) ∧ decode 0x297FFFFE = .ok (.bnone 5 0x3ffffe) ∧ decode 0x2A3FFFFE = .ok (.call 0x3ffffe) ∧
  decode 0x2C000000 = .ok .nop ∧ decode 0x2C000001 = .ok .ret ∧ decode 0x2C00A002 = .ok (.jmpr 5) ∧ decode 0x2C000003 = .ok .regang ∧
  decode 0x2C000004 = .ok .exit ∧ decode 0x2E00FFFE = .ok (.mode 0xfffe) ∧ decode 0x2E290000 = .ok (.moder 5) := by decide

theorem test_decode_vector_integer :
  decode 0x30145130 = .ok (.vadd 5 10 19) ∧ decode 0x30145131 = .ok (.vsub 5 10 19) ∧ decode 0x30145132 = .ok (.vmul 5 10 19) ∧
  decode 0x30145133 = .ok (.vmulh 5 10 19) ∧ decode 0x30145134 = .ok (.vmad 5 10 19) ∧ decode 0x30145135 = .ok (.vmin 5 10 19) ∧
  decode 0x30145136 = .ok (.vmax 5 10 19) ∧ decode 0x30145137 = .ok (.vand 5 10 19) ∧ decode 0x30145138 = .ok (.vor 5 10 19) ∧
  decode 0x30145139 = .ok (.vxor 5 10 19) ∧ decode 0x3014513A = .ok (.vshl 5 10 19) ∧ decode 0x3014513B = .ok (.vshr 5 10 19) ∧
  decode 0x3014500C = .ok (.vabs 5 10) ∧ decode 0x3014500D = .ok (.vneg 5 10) ∧ decode 0x3014500E = .ok (.vnot 5 10) ∧
  decode 0x32145132 = .ok (.vsel 5 10 19 2) ∧ decode 0x34089822 = .ok (.vcmp .lt 2 19 2) ∧ decode 0x361457FE = .ok (.vaddi 5 10 0x7fe) ∧
  decode 0x3817FFFE = .ok (.vmovi 5 0x3fffe) := by decide

theorem test_decode_vector_float :
  decode 0x3A145130 = .ok (.vfadd 5 10 19) ∧ decode 0x3A145131 = .ok (.vfsub 5 10 19) ∧ decode 0x3A145132 = .ok (.vfmul 5 10 19) ∧
  decode 0x3A145133 = .ok (.vfma 5 10 19) ∧ decode 0x3A145134 = .ok (.vfmin 5 10 19) ∧ decode 0x3A145135 = .ok (.vfmax 5 10 19) ∧
  decode 0x3A145006 = .ok (.vfabs 5 10) ∧ decode 0x3A145007 = .ok (.vfneg 5 10) ∧ decode 0x3C089824 = .ok (.vfcmp .un 2 19 2) ∧
  decode 0x3E145003 = .ok (.vrcp 5 10 3) ∧ decode 0x40145003 = .ok (.vrsq 5 10 3) := by decide

theorem test_decode_special_functions :
  decode 0x42145003 = .ok (.vsqrt 5 10 3) ∧ decode 0x44145003 = .ok (.vexp2 5 10 3) ∧ decode 0x46145003 = .ok (.vlog2 5 10 3) ∧
  decode 0x48145003 = .ok (.vsin 5 10 3) ∧ decode 0x4A145003 = .ok (.vcos 5 10 3) ∧ decode 0x4C141030 = .ok (.pand 5 2 3) ∧
  decode 0x4C141031 = .ok (.por 5 2 3) ∧ decode 0x4C141032 = .ok (.pxor 5 2 3) ∧ decode 0x4C141003 = .ok (.pnot 5 2) ∧
  decode 0x4C145004 = .ok (.pset 5 10) := by decide

theorem test_decode_conversion :
  decode 0x581453E1 = .ok (.vcvt 5 10 3 0xe 1) ∧ decode 0x5A145032 = .ok (.vqnt 5 10 3 2) ∧ decode 0x5C145132 = .ok (.vdqnt 5 10 19 2) ∧
  decode 0x5E145130 = .ok (.vpack 5 10 19) ∧ decode 0x5E289802 = .ok (.vunpk .hi 10 19) ∧ decode 0x5E145003 = .ok (.vclass 5 10) := by decide

theorem test_decode_cross_lane :
  decode 0x60145130 = .ok (.vperm 5 10 19) ∧ decode 0x60145131 = .ok (.vbperm 5 10 19) ∧ decode 0x62145132 = .ok (.vslide 5 10 19 2) ∧
  decode 0x64289C02 = .ok (.vshfl .down 10 19 2) ∧ decode 0x64145613 = .ok (.vbcast 5 10 19) ∧ decode 0x66289802 = .ok (.vred .max 10 19) ∧
  decode 0x66289804 = .ok (.vscan .min 10 19) ∧ decode 0x66141006 = .ok (.vballot 5 2) ∧ decode 0x66141007 = .ok (.vcount 5 2) := by decide

theorem test_decode_memory :
  decode 0x68145271 = .ok (.vld 5 10 19 true 1) ∧ decode 0x6A145271 = .ok (.vst 5 10 19 true 1) ∧ decode 0x6C14A7FE = .ok (.vldc 5 10 true 0x3fe) ∧
  decode 0x6E14A7FE = .ok (.vstc 5 10 true 0x3fe) ∧ decode 0x7014ABFE = .ok (.sld 5 10 .w 0x3fe) ∧ decode 0x7214ABFE = .ok (.sst 5 10 .w 0x3fe) ∧
  decode 0x74145271 = .ok (.tld 5 10 19 true 1) ∧ decode 0x76145271 = .ok (.tst 5 10 19 true 1) ∧ decode 0x780053FE = .ok (.pref 5 0x3fe) ∧
  decode 0x7A00A500 = .ok (.cwb 5 10) ∧ decode 0x7C00A500 = .ok (.cinv 5 10) ∧ decode 0x7E00A500 = .ok (.cdisc 5 10) ∧
  decode 0x80294000 = .ok (.rdnpa 5 10) := by decide

theorem test_decode_atomics_and_waits :
  decode 0x88289857 = .ok (.atom .cas 10 19 2 true) ∧ decode 0x8A289855 = .ok (.red .xor 10 19 2 true) ∧
  decode 0x8C289857 = .ok (.atomt .cas 10 19 2 true) ∧ decode 0x8E289855 = .ok (.redt .xor 10 19 2 true) ∧
  decode 0x90014985 = .ok (.wait .geN 10 19) ∧ decode 0x92000100 = .ok (.bar 256) ∧ decode 0x9400A500 = .ok (.ginit 5 10) ∧
  decode 0x9400A501 = .ok (.gexpect 5 10) ∧ decode 0x9400A002 = .ok (.garrive 5) ∧ decode 0x94294983 = .ok (.gwait 5 10 19) := by decide

theorem test_decode_channels_and_commits :
  decode 0x96294000 = .ok (.chacq 5 10) ∧ decode 0x96294001 = .ok (.chacqNb 5 10) ∧ decode 0x9600A002 = .ok (.chpub 5) ∧
  decode 0x96294003 = .ok (.chtake 5 10) ∧ decode 0x96294004 = .ok (.chtakeNb 5 10) ∧ decode 0x9600A005 = .ok (.chfree 5) ∧
  decode 0xA4000000 = .ok .cmit ∧ decode 0xA6280003 = .ok (.specrd 5 3) ∧ decode 0xA8280000 = .ok (.rsvrd 5) ∧
  decode 0xAA00A500 = .ok (.rsvpin 5 10) ∧ decode 0xAA00A501 = .ok (.rsvunpin 5 10) ∧ decode 0xAC294980 = .ok (.forfeit 5 10 19) ∧
  decode 0xAE280000 = .ok (.balrd 5) ∧ decode 0xAE00A501 = .ok (.balack 5 10) ∧ decode 0xB000A500 = .ok (.czero 5 10) ∧
  decode 0xB2526001 = .ok (.csize true 10 19) := by decide

theorem test_decode_matrix :
  decode 0xB42A7013 = .ok (.mloop 5 2 3 2 true 3) ∧ decode 0xB6000800 = .ok (.mzero 1) ∧ decode 0xB8000000 = .ok .mwait ∧
  decode 0xBA145032 = .ok (.mrd 5 10 3 2) ∧ decode 0xBC145032 = .ok (.mwr 5 10 3 2) ∧ decode 0xBE281000 = .ok (.mdrain 5 2) ∧
  decode 0xC000A513 = .ok (.mscl 5 10 19) := by decide

theorem test_decode_engines_and_launches :
  decode 0xC4526102 = .ok (.copy .channel 10 19 2) ∧ decode 0xC600A000 = .ok (.cwait 5) ∧ decode 0xC8280000 = .ok (.cseq 5) ∧
  decode 0xCA294000 = .ok (.allred 5 10) ∧ decode 0xCC294980 = .ok (.repsync 5 10 19) ∧ decode 0xCE280000 = .ok (.cspill 5) ∧
  decode 0xD000A000 = .ok (.launchN 5) ∧ decode 0xD000A400 = .ok (.launchT 5) ∧ decode 0xD200A000 = .ok (.graphgo 5) ∧
  decode 0xD2294400 = .ok (.signal 5 10) := by decide

theorem test_decode_system :
  decode 0xD4000005 = .ok (.trap 5) ∧ decode 0xD4000405 = .ok (.brk 5) ∧ decode 0xD6000000 = .ok .rte ∧ decode 0xD8280002 = .ok (.rdcap 5 2) ∧
  decode 0xDA280010 = .ok (.csrr 5 16) ∧ decode 0xDA00A410 = .ok (.csrw 5 16) ∧ decode 0xDC280002 = .ok (.pcrd 5 2) ∧
  decode 0xDC280401 = .ok (.logrd 5 1) ∧ decode 0xDE000000 = .ok .fenceio ∧ decode 0xE0145003 = .ok (.vtanh 5 10 3) ∧
  decode 0xE2145003 = .ok (.verf 5 10 3) ∧ decode 0xE4145003 = .ok (.vsigm 5 10 3) ∧ decode 0xE6145003 = .ok (.vpopc 5 10 3) ∧
  decode 0xE8145003 = .ok (.vclz 5 10 3) ∧ decode 0xEA145003 = .ok (.vbrev 5 10 3) := by decide


/-- R61, R62, R64: words that are no instruction; the first four are the spec's own examples, the last one is opcode 0. -/
theorem test_decode_refuses :
    decode 0x021882FF = .error .unassignedFunction ∧ decode 0x2C080004 = .error .reservedField ∧ decode 0xEC000000 = .error .extension ∧
    decode 0x2E00EABA = .ok (.mode 0xEABA) ∧ decode 0x00000000 = .error .unassignedOpcode := by decide

theorem test_decodeTableWord : decodeTableWord 32 0x0428BABC = some (.saddi 5 5 0x1ABC) ∧ decodeTableWord 32 0xEC000000 = none := by decide

/-! ### Steps and control -/

/-- R26, R90: the first step fetches `SADDI s5, s5, -0x544` and runs it. -/
theorem test_step_saddi : (regsOf (step (State.reset.withFetchWord 32 0x0428BABC))).getS 5 = 0xFFFFFFFFFFFFFABC := by decide
/-- R359: a module held in reset does nothing of itself. -/
theorem test_step_held : step { State.reset with module := { State.reset.module with inReset := true } } = .fault .heldInReset := rfl
/-- R13, R14, R85: two opportunities with one gang at hand, the first marking it not ready: nothing issues. -/
theorem test_step_busy : (regsOf (step { State.reset.withFetchWord 32 0x0428BABC with tape := [.opp 0 0 [(0, 0)]] })).pc = 0 := by decide
/-- R94: BR by 2^22 − 1 words is one back, to itself. -/
theorem test_br_back : (regsOf (exec (.br 0x3FFFFF) placed)).pc = 0 := by decide
/-- R96: CALL leaves the address after itself in s63. -/
theorem test_call : (regsOf (exec (.call 5) placed)).pc = 24 ∧ (regsOf (exec (.call 5) placed)).getS 63 = 4 := by decide
/-- R94: BR.lz of the most negative number is taken, BR.gez is not. -/
theorem test_brCc : (regsOf (exec (.brCc .lz 1 3) (ss 0x8000000000000000 0))).pc = 16 ∧ (regsOf (exec (.brCc .gez 1 3) (ss 0x8000000000000000 0))).pc = 4 := by decide
/-- R94: BALL of a predicate clear in lane 2. -/
theorem test_ball : (regsOf (exec (.ball 1 3) (withR fun r => r.setP 1 0xB))).pc = 4 ∧ (regsOf (exec (.bany 1 3) (withR fun r => r.setP 1 0xB))).pc = 16 := by decide
/-- R37, the spec's example: MODE with imm16 bits 15 and 14 set takes the illegal-instruction trap and MODE stays; with no handler that is a context fault. -/
theorem test_mode_reserved : (regsOf (exec (.mode 0xEABA) placed)).mode = (placed.slice 0 0).regs.mode := by decide

/-! ### Scalars -/

/-- R88: the most negative number by −1 wraps to itself; its remainder is 0. -/
theorem test_sdiv_wraps : (regsOf (exec (.sdiv 3 1 2) (ss 0x8000000000000000 0xFFFFFFFFFFFFFFFF))).getS 3 = 0x8000000000000000 ∧
    (regsOf (exec (.srem 3 1 2) (ss 0x8000000000000000 0xFFFFFFFFFFFFFFFF))).getS 3 = 0 := by decide
/-- R88: division by 0 gives all ones, the remainder the dividend. -/
theorem test_sdiv_zero : (regsOf (exec (.sdiv 3 1 2) (ss 7 0))).getS 3 = 0xFFFFFFFFFFFFFFFF ∧ (regsOf (exec (.sremN 3 1 2) (ss 7 0))).getS 3 = 7 := by decide
/-- R88: a quotient is rounded toward zero, a remainder has the dividend's sign: −7 by 2. -/
theorem test_sdiv_sign : (regsOf (exec (.sdiv 3 1 2) (ss 0xFFFFFFFFFFFFFFF9 2))).getS 3 = 0xFFFFFFFFFFFFFFFD ∧
    (regsOf (exec (.srem 3 1 2) (ss 0xFFFFFFFFFFFFFFF9 2))).getS 3 = 0xFFFFFFFFFFFFFFFF := by decide
/-- R88: the high half of −1 by −1, signed and unsigned. -/
theorem test_smulh : (regsOf (exec (.smulh 3 1 2) (ss 0xFFFFFFFFFFFFFFFF 0xFFFFFFFFFFFFFFFF))).getS 3 = 0 ∧
    (regsOf (exec (.smulhN 3 1 2) (ss 0xFFFFFFFFFFFFFFFF 0xFFFFFFFFFFFFFFFF))).getS 3 = 0xFFFFFFFFFFFFFFFE := by decide
/-- R88: a shift counts by the low six bits. -/
theorem test_sshl : (regsOf (exec (.sshl 3 1 2) (ss 3 65))).getS 3 = 6 ∧ (regsOf (exec (.ssra 3 1 2) (ss 0x8000000000000000 63))).getS 3 = 0xFFFFFFFFFFFFFFFF := by decide
theorem test_sslt : (regsOf (exec (.sslt 3 1 2) (ss 0xFFFFFFFFFFFFFFFF 1))).getS 3 = 1 ∧ (regsOf (exec (.ssltn 3 1 2) (ss 0xFFFFFFFFFFFFFFFF 1))).getS 3 = 0 := by decide
/-- R88: SSEL chooses by its own destination, read before it is written. -/
theorem test_ssel : (regsOf (exec (.ssel 3 1 2) (ss 5 6))).getS 3 = 6 ∧ (regsOf (exec (.ssel 1 1 2) (ss 5 6))).getS 1 = 5 := by decide
/-- R90: 0x12345ABC is built as 0x12346000 less 0x544. -/
theorem test_slui : (regsOf (exec (.slui 5 0x91A3) placed)).getS 5 = 0x12346000 ∧
    (regsOf (exec (.saddi 5 5 0x1ABC) (withR fun r => r.setS 5 0x12346000))).getS 5 = 0x12345ABC := by decide
/-- R90: an SLUI of a value with bit 18 set is sign-extended. -/
theorem test_slui_sign : (regsOf (exec (.slui 5 0x40000) placed)).getS 5 = 0xFFFFFFFF80000000 := by decide
/-- R44, R92: the lane's number, and its number in the team. -/
theorem test_smovvTlane : (regsOf (exec (.smovvTlane 5) placed)).getV 5 3 = 3 := by decide
/-- R45: SWR of %fpx writes it whole. -/
theorem test_swr_fpx : (regsOf (exec (.swr 1 0x010) (ss 0xFFFF 0))).fpx = 0x3F := by decide

/-! ### Vectors -/

/-- R104, the spec's example: i8 with sat. -/
theorem test_vadd_i8_sat : (regsOf (exec (.vadd 4 1 2) (vv 0x0800 0x7F800102 0x0180FF7F 0))).getV 4 2 = 0x7F80007F ∧
    (regsOf (exec (.vadd 4 1 2) (vv 0x0800 0x7F800102 0x0180FF7F 0))).fpx = 0x20 := by decide
/-- R104: without sat each element wraps, and no flag rises. -/
theorem test_vadd_i8 : (regsOf (exec (.vadd 4 1 2) (vv 0x0000 0x7F800102 0x0180FF7F 0))).getV 4 0 = 0x80000081 ∧
    (regsOf (exec (.vadd 4 1 2) (vv 0x0000 0x7F800102 0x0180FF7F 0))).fpx = 0 := by decide
/-- R33, R104: a 64-bit element is a pair of registers, the carry going into the second. -/
theorem test_vadd_n64 : (regsOf (exec (.vadd 6 2 4) ((vv 0x0007 0 0xFFFFFFFF 1).modSlice 0 0 fun v => { v with regs := v.regs.setV 4 0 1 }))).getV 7 0 = 2 := by decide
/-- R36: a lane that the guard refuses keeps its destination. -/
theorem test_vadd_guard : (regsOf (exec (.vadd 3 1 2) ((vv 0x0092 1 2 9).modSlice 0 0 fun v => { v with regs := v.regs.setP 1 0x5 }))).getV 3 0 = 3 ∧
    (regsOf (exec (.vadd 3 1 2) ((vv 0x0092 1 2 9).modSlice 0 0 fun v => { v with regs := v.regs.setP 1 0x5 }))).getV 3 1 = 9 := by decide
/-- The worked scanner of the vector chapter: VSHR under n32 and under n8. -/
theorem test_vshr : (regsOf (exec (.vshr 4 1 2) (vv 0x0006 0x0A000000 24 0))).getV 4 0 = 0x0000000A ∧
    (regsOf (exec (.vshr 4 1 2) (vv 0x0004 0x21A9C341 0x04040404 0))).getV 4 0 = 0x020A0C04 := by decide
/-- The worked scanner: VBPERM. -/
theorem test_vbperm : (regsOf (exec (.vbperm 4 1 2) ((vv 0x0004 0x020A0C04 0 0).modSlice 0 0 fun v =>
    { v with regs := (((v.regs.setV 2 0 0x01010101).setV 2 1 0x01010101).setV 2 2 0x02020202).setV 2 3 0x10080404 }))).getV 4 0 = 0x01020401 := by decide
/-- R107: signed under i16, each element of the lane. -/
theorem test_vcmp : (regsOf (exec (.vcmp .lt 3 1 2) (vv 0x0001 0xFFFFFFFF 0x00000001 0))).getP 3 = 0xF ∧
    (regsOf (exec (.vcmp .lt 3 1 2) (vv 0x0005 0xFFFFFFFF 0x00000001 0))).getP 3 = 0 := by decide
/-- R108: VMOVI writes its sign-extended immediate whatever the type. -/
theorem test_vmovi : (regsOf (exec (.vmovi 6 0x3FFFF) (vv 0x0007 0 0 0))).getV 6 1 = 0xFFFFFFFF ∧ (regsOf (exec (.vmovi 6 0x3FFFF) (vv 0x0007 0 0 0))).getV 7 1 = 0 := by decide
/-- R132: bits counted, leading zeros counted, bits turned round. -/
theorem test_vclz : (regsOf (exec (.vclz 4 1 0) (vv 0x0006 0x00010000 0 0))).getV 4 0 = 15 ∧ (regsOf (exec (.vbrev 4 1 0) (vv 0x0006 0x00000001 0 0))).getV 4 0 = 0x80000000 := by decide
/-- R109: 1.5 and 2.25 in f32. -/
theorem test_vfadd : (regsOf (exec (.vfadd 4 1 2) (vv 0x000A 0x3FC00000 0x40100000 0))).getV 4 0 = 0x40700000 ∧
    (regsOf (exec (.vfadd 4 1 2) (vv 0x000A 0x3FC00000 0x40100000 0))).fpx = 0 := by decide
/-- R78: infinity less infinity is the canonical NaN, invalid. -/
theorem test_vfsub_invalid : (regsOf (exec (.vfsub 4 1 2) (vv 0x000A 0x7F800000 0x7F800000 0))).getV 4 0 = 0x7FC00000 ∧
    (regsOf (exec (.vfsub 4 1 2) (vv 0x000A 0x7F800000 0x7F800000 0))).fpx = 0x01 := by decide

/-- R110: VFMA rounds once: (1 + 2^-23)² − (1 + 2^-22) = 2^-46. -/
theorem test_vfma : (regsOf (exec (.vfma 3 1 2) (vv 0x000A 0x3F800001 0x3F800001 0xBF800002))).getV 3 0 = 0x28800000 := by decide
/-- R111: −0 equals +0; a quiet NaN is unordered, and invalid for .lt. -/
theorem test_vfcmp : (regsOf (exec (.vfcmp .eq 3 1 2) (vv 0x000A 0x80000000 0 0))).getP 3 = 0xF ∧
    (regsOf (exec (.vfcmp .lt 3 1 2) (vv 0x000A 0x7FC00000 0 0))).fpx = 0x01 := by decide
/-- R112: the root of 4 is exact; of −1 a NaN. -/
theorem test_vsqrt : (regsOf (exec (.vsqrt 4 1 0) (vv 0x000A 0x40800000 0 0))).getV 4 0 = 0x40000000 ∧
    (regsOf (exec (.vsqrt 4 1 0) (vv 0x000A 0xBF800000 0 0))).getV 4 0 = 0x7FC00000 := by decide

/-- R113: the root of 2 and pi, whose f32 codes are well known; within 1 ulp of a third lie the codes on each side of it. -/
theorem test_special_values : (Fmt.f32.encode .rne false false (exp2Ex (fxOf false 1 2 300))).1 = 0x3FB504F3 ∧
    (Fmt.f32.encode .rne false false (fxEx fxPi)).1 = 0x40490FDB ∧
    placesNear .f32 (.fin false 1 3) (Fmt.f32.ulpsOf 1 (.fin false 1 3)) 0 0x7F800000 = (0x3EAAAAAA, 0x3EAAAAAB) := by decide
/-- R112, R113: 2 to the 3 raises nothing; the inverse of 2 in bf16, and the logarithm of 1, are exact. -/
theorem test_special_exact : specialFloat .exp2 .f32 .rne false false 0 0x40400000 0 = (0x41000000, 0) ∧
    specialFloat .rcp .bf16 .rne false false 0 0x4000 0 = (0x3F00, 0) ∧ specialFloat .log2 .f32 .rne false false 0 0x3F800000 0 = (0, 0) := by decide
/-- R117, the spec's example: `VCVT v12, v4, e4m3` spreads four codes over a quad. -/
theorem test_vcvt_spread : (regsOf (exec (.vcvt 12 1 0 0xB 0) (vv 0x000A 0xC0403801 0 0))).getV 12 0 = 0x3B000000 ∧
    (regsOf (exec (.vcvt 12 1 0 0xB 0) (vv 0x000A 0xC0403801 0 0))).getV 15 0 = 0xC0000000 := by decide
/-- R78: 470 is infinity in e4m3 without sat: its NaN, in each of the four elements. -/
theorem test_encode_e4m3 : (regsOf (exec (.vcvt 12 4 0 0xA 0) (withR fun r => (List.range 4).foldl (fun q i => q.setV (4 + i) 0 0x43EB0000) (r.setMode 0x000B)))).getV 12 0 =
    0x7F7F7F7F := by decide
/-- R120: the spec's VPACK of 16-bit types. -/
theorem test_vpack : (regsOf (exec (.vpack 4 1 2) (vv 0x0001 0x11112222 0x33334444 0))).getV 4 0 = 0x44442222 := by decide
theorem test_vunpk : (regsOf (exec (.vunpk .hi 4 1) (vv 0x0000 0x80FF0102 0 0))).getV 4 0 = 0xFF80FFFF := by decide
/-- R121: −0 is class 3, a signalling NaN class 8. -/
theorem test_vclass : (regsOf (exec (.vclass 4 1) (vv 0x000A 0x80000000 0 0))).getV 4 0 = 3 ∧ (regsOf (exec (.vclass 4 1) (vv 0x000A 0x7F800001 0 0))).getV 4 0 = 8 := by decide
/-- R126: the source of lane 1 is lane 0. -/
theorem test_vshfl : (regsOf (exec (.vshfl .xor 4 1 1) ((vv 0x000A 7 0 0).modSlice 0 0 fun v => { v with regs := v.regs.setV 1 0 9 }))).getV 4 1 = 9 ∧
    (regsOf (exec (.vshfl .up 3 1 1) (vv 0x000A 7 0 5))).getV 3 0 = 5 := by decide
/-- R127: lane 0 of a slide by 1 comes from gang lane 31 of vb, which a gang of one slice has not. -/
theorem test_vslide : (regsOf (exec (.vslide 3 1 2 1) (vv 0x000A 7 8 5))).getV 3 0 = 5 ∧ (regsOf (exec (.vslide 3 1 2 1) (vv 0x000A 7 8 5))).getV 3 1 = 7 := by decide
/-- R128: the sum over the active lanes. -/
theorem test_vred : (regsOf (exec (.vred .sum 3 1) (vv 0x0002 0xFFFFFFFF 0 0))).getS 3 = 0xFFFFFFFFFFFFFFFC ∧
    (regsOf (exec (.vred .sum 3 1) (vv 0x000A 0x3F800000 0 0))).getS 3 = 0x40800000 := by decide
/-- R129: an inclusive prefix, each output clamped from its exact prefix. -/
theorem test_vscan : (regsOf (exec (.vscan .sum 4 1) (vv 0x0006 3 0 0))).getV 4 3 = 12 := by decide
theorem test_vballot : (regsOf (exec (.vballot 3 1) (withR fun r => r.setP 1 0xB))).getS 3 = 0xB ∧ (regsOf (exec (.vcount 3 1) (withR fun r => r.setP 1 0xB))).getS 3 = 3 := by decide
/-- R80, the spec's example: a block quantised into E2M1 under RNE. -/
theorem test_quantise : ((quantiseBlock ([Ex.fin false 5 1, Ex.fin false 1 1, Ex.fin true 13 5, Ex.fin false 1 5, Ex.fin false 1 4, Ex.fin false 35 32] ++
      List.replicate 26 (Ex.fin false 0 1)) (.q4 .e2m1) .rne).1.map (·.1)).take 6 = [0x7, 0x2, 0xD, 0x0, 0x1, 0x2] := by decide

/-! ### Memory and capacity -/

/-- R166: the spec's six lines. -/
theorem test_encodeLine : encodeLine (List.replicate 32 0x3F800000) = codeRep ∧ encodeLine (5 :: List.replicate 31 0) = codeB8 ∧
    encodeLine ((List.range 32).map fun i => BitVec.ofNat 32 (1000 * i)) = codeB4D2 ∧
    encodeLine ((List.range 32).map fun i => if i = 7 then 0x00010000 else BitVec.ofInt 32 (i - 16 : Int)) = codeB4D1 := by decide
/-- R145: SLD of a half is zero-extended, in little-endian order (R16). -/
theorem test_sld : (regsOf (exec (.sld 3 1 .h 0) (at32 0xFFEEDDCC))).getS 3 = 0xDDCC ∧ (regsOf (exec (.sld 3 1 .b 3) (at32 0xFFEEDDCC))).getS 3 = 0xFF := by decide
/-- R144: VLDC's lane l reads the word at the base plus 4 × l. -/
theorem test_vldc : (regsOf (exec (.vldc 3 1 false 0) (at32 0xFFEEDDCC))).getV 3 0 = 0xFFEEDDCC ∧ (regsOf (exec (.vldc 3 1 false 0) (at32 0xFFEEDDCC))).getV 3 1 = 0 := by decide
/-- R201: a store is held; memory is as it was. -/
theorem test_sst_held : Memory.read (after (exec (.sst 2 1 .w 0) (ss 0x100 0x11223344))).mem (placePage + 0x100) = 0 ∧
    ((after (exec (.sst 2 1 .w 0) (ss 0x100 0x11223344))).slice 0 0).chunk.held.length = 1 := by decide
/-- R143: the slice's own later load sees it. -/
theorem test_sld_own : (regsOf (exec (.sld 3 1 .w 0) (after (exec (.sst 2 1 .w 0) (ss 0x100 0x11223344))))).getS 3 = 0x11223344 := by decide
/-- R204, R214: CMIT ends the chunk, whose commit makes it visible, its least significant byte first. -/
theorem test_cmit : Memory.read (after (exec (.chunkCommit 0 0) (after (exec .cmit (after (exec (.sst 2 1 .w 0) (ss 0x100 0x11223344))))))).mem (placePage + 0x100) = 0x44 ∧
    Memory.read (after (exec (.chunkCommit 0 0) (after (exec .cmit (after (exec (.sst 2 1 .w 0) (ss 0x100 0x11223344))))))).mem (placePage + 0x103) = 0x11 := by decide
/-- R201: a rollback discards it. -/
theorem test_rollback : ((after (exec (.sst 2 1 .w 0) (ss 0x100 0x11223344))).rollbackSlice 0 0 |>.slice 0 0).chunk.held = [] := by decide
/-- R225: ATOM.add returns the old word and writes the sum. -/
theorem test_atom : (regsOf (exec (.atom .add 3 4 5 false) ((at32 7).modSlice 0 0 fun v => { v with regs := (v.regs.setP 0 1).setMode 0x0082 |>.setV 3 0 5 }))).getV 3 0 = 7 ∧
    Memory.read (after (exec (.atom .add 3 4 5 false) ((at32 7).modSlice 0 0 fun v => { v with regs := (v.regs.setP 0 1).setMode 0x0082 |>.setV 3 0 5 }))).mem placePage = 12 := by decide
/-- R135: team memory starts at zero and TLD reads the slice's own held TST. -/
theorem test_tld : (regsOf (exec (.tld 4 3 0 false 0) (after (exec (.tst 1 3 0 false 0) (vv 0x000A 9 0 0))))).getV 4 0 = 9 := by decide
/-- R191: the reserve is the quota less what is occupied. -/
theorem test_rsvrd : (regsOf (exec (.rsvrd 3) placed)).getS 3 = 0x100000 := by decide

/-! ### Waiting, gates, channels, matrix, system -/

/-- R232: the word at 0 is 0, as s2 is. -/
theorem test_wait : (regsOf (exec (.wait .eq 1 2) placed)).pc = 4 ∧ ((after (exec (.wait .ne 1 2) placed)).slice 0 0).status = .asleep (.wait (.wait .ne 1 2)) := by decide
/-- R240: a take of the first of two filled slots answers slot 0; the non-blocking take holds it. -/
theorem test_chtake : (regsOf (exec (.chtake 3 1) placed)).getS 3 = 0 ∧ ((after (exec (.chtake 3 1) placed)).team 0).chans.map (·.filled) = [1, 2] := by decide
/-- R235: a gate's phase not yet over. -/
theorem test_gwait_sleeps : ((after (exec (.gwait 1 1 2) (ss 0 0))).slice 0 0).status = .asleep (.gate (.gwait 1 1 2)) := by decide
/-- R43: the launch's registers. -/
theorem test_srd : (regsOf (exec (.srd 3 0x001) placed)).getS 3 = 1 ∧ (regsOf (exec (.srd 3 0x00A) placed)).getS 3 = 1 := by decide
/-- R62: SWR of a read-only register: subcode 6. -/
theorem test_swr_readonly : placed.refusal (.swr 1 0x000) 0 0 = some (1, 6) := by decide
/-- R62: a register outside the allocation is subcode 3, a type that the form does not accept subcode 4. -/
theorem test_refusals : placed.refusal (.vadd 1 2 3) 0 0 = some (1, 4) ∧ (vv 0x0007 0 0 0).refusal (.vadd 1 2 4) 0 0 = some (1, 3) := by decide
/-- R259: the B-store, the scales and the tiles of a new team are zero: an MRD of element (0, 0). -/
theorem test_mrd : (regsOf (exec (.mrd 3 1 0 0) (vv 0x000A 0 0 5))).getV 3 0 = 0 := by decide

/-! ### Traps -/

/-- A handler at 0x200, its frames from 0x1000. -/
def armed : State := placed.modCtx 0 fun c => { c with tvec := 0x200, trapbase := 0x1000 }

/-- The entry's bytes by the table of R339. -/
theorem test_fault_entry :
    FaultEntry.bytes { seq := 9, merged := 1, core := 3, tslot := 7, mtx := true, eng := false, mal := true, kind := 1, lanes := 2, ctx := 5, page := 0x123 } =
      [0x23, 1, 0, 0, 0, 0, 0, 0, 0, 0, 0, 0, 5, 0, 0, 0, 2, 0, 1, 5, 7, 0, 3, 0, 1, 0, 0, 0, 9, 0, 0, 0] := by decide

/-- R325, R328, R331: TRAP 5 enters the handler with s0 the frame's address, MODE 0x000A, and the cause and the resume PC in the frame. -/
theorem test_trap : (regsOf (exec (.trap 5) armed)).pc = 0x200 ∧ (regsOf (exec (.trap 5) armed)).mode = 0x000A ∧ (regsOf (exec (.trap 5) armed)).getS 0 = 0x1000 ∧
    Memory.read (after (exec (.trap 5) armed)).mem (placePage + 0x1000 + 99) = 11 ∧ Memory.read (after (exec (.trap 5) armed)).mem (placePage + 0x1000 + 64) = 4 := by decide
/-- R330: RTE goes back to the frame's PC and leaves the handler. -/
theorem test_rte : (regsOf (exec .rte { after (exec (.trap 5) armed) with cur := armed.cur })).pc = 4 ∧
    ((after (exec .rte { after (exec (.trap 5) armed) with cur := armed.cur })).slice 0 0).handler = false := by decide
/-- R334: with no handler a trap halts the context and the driver is told. -/
theorem test_context_fault : (after (exec (.trap 5) placed)).out = [.driver 0 1] ∧ ((after (exec (.trap 5) placed)).ctx 0).halted = true := by decide
/-- R62, R95: a jump to a misaligned address: cause 3, the address in the frame. -/
theorem test_jmpr_misaligned : Memory.read (after (exec (.jmpr 1) (armed.modSlice 0 0 fun v => { v with regs := v.regs.setS 1 0x102 }))).mem (placePage + 0x1000 + 99) = 3 := by decide

/-- R81, the worked element (5, 9): 2^24 after K-step 0, 2^24 + 4 after K-step 1. -/
theorem test_kblock : (kblockAccumulate 0 (List.replicate 32 (6, 0x78)) 0x17F 0x3B 0x0158 0x0060).1 = 0x4B800000 ∧
    (kblockAccumulate 0x4B800000 ((5, 0x38) :: List.replicate 31 (0, 0)) 0x17F 0x3B 0x0138 0x0038).1 = 0x4B800002 := by decide
/-- R268, the worked element's drain: 2^21 + 2 rounds to 2^21 in bf16; under f16 it overflows. -/
theorem test_drainElement :
    (drainElement [0, 0, 0, 0, 0, 0x3E8000003F000000, 0, 0] (List.replicate 40 0 ++ leBytes 8 0x000000FF007F1809 ++ List.replicate 16 0) 0x4B800002 0x3E00 5 9).1 = 0x4A00 ∧
    (drainElement [0, 0, 0, 0, 0, 0x3E8000003F000000, 0, 0] (List.replicate 40 0 ++ leBytes 8 0x000000FF007F1808 ++ List.replicate 16 0) 0x4B800002 0x3E00 5 9).1 = 0x7C00 := by decide

/-! ### Witnesses: states and operands that meet the hypotheses of the statements -/

/-- The page of `placed`, and an access of slice 0 to it. -/
def page : Leaf := { addr := placeRoot + 16384, lvl := 0, bits := 0x1000001605D }
def acc (va : W64) : Acc := { k := 0, l := 0, gl := 0, va := va }
/-- A slice under an integer type with every lane active. -/
def ints : State := vv 0x0002 7 2 3
/-- No slice waits, and the slice's chunk has an instruction in it already. -/
def begun : State := placed.modSlice 0 0 fun v => { v with chunk := { v.chunk with instrs := 3 } }

theorem witness_EncodeThenDecode : (Instr.sadd 63 0 63).wellFormed = true ∧ encode (.sadd 63 0 63) = some 0x03F81F80 := by decide
theorem witness_DecodeThenEncode : (0x02294980 : Nat) < 2 ^ 32 ∧ decode 0x02294980 = .ok (.sadd 5 10 19) ∧ decode 0xEC000000 = .error .extension := by decide

/-- The gang that the first opportunity takes. -/
theorem witness_StepRunsDecoded_issue :
    let s := State.reset.withFetchWord 32 0x0428BABC
    s.tape = [.opp 0 0 []] ∧ s.module.inReset = false ∧ (s.core 0).gated = false ∧ (s.core 0).num.isSome = true ∧
    s.dieHeld 0 = false ∧ bestOf (s.readyGangs 0 0 []) = some { team := 0, ks := [0], age := 0, wait := none } ∧ s.joins 0 0 = [] := by decide
/-- The state of the opportunity, and every premise of the fetch. -/
def issued : State := ((State.reset.withFetchWord 32 0x0428BABC).opportunity 0 0 []).1
theorem witness_StepRunsDecoded_fetch : (State.reset.withFetchWord 32 0x0428BABC).opportunity 0 0 [] = (issued, true) ∧ issued.walk 0 0 = .leaf page ∧
    page.x = true ∧ issued.fate 0 0 wantFetch issued.draws 0 = .ok page placePage ∧ isRemote page placePage = false ∧ issued.touch 0 [0] = issued :=
  ⟨Prod.ext rfl (by decide), rfl, by decide, rfl, by decide, by decide⟩
theorem witness_StepRunsDecoded_word : issued.cur = { team := 0, ks := [0] } ∧
    (∀ v ∈ issued.fetchable 0 0 placePage placePage, v = issued.readNat placePage 4) ∧
    (issued.slice 0 0).regs.wins = [] ∧ decode (leNat (issued.readBytes placePage 4)) = .ok (.saddi 5 5 0x1ABC) := by decide

theorem witness_StepMakesEvents : let s : State := { State.reset with tape := [.event .getHealth] }
    s.tape = [.event .getHealth] ∧ isEvent .getHealth = true ∧ s.module.inReset = false ∧ availableInReset .getHealth = false ∧
    availableInReset .moduleReset = true ∧ isEvent .nop = false := by decide
theorem witness_MemoryFormKept : Memory.wf placed.mem = true ∧ ∃ u, step placed = .next u := ⟨by decide, _, rfl⟩

theorem witness_acts : placed.acts 0 [0] ∧ ints.acts 0 [0] := by unfold State.acts; decide
theorem witness_RegisterFiles : placed.lets 0 [0] (.call 7) ∧ placed.lets 0 [0] .ret ∧ ((placed.slice 0 0).regs.getS 63).toNat % 4 = 0 := by
  unfold State.lets; decide
theorem witness_LaunchPlaces : placeRecord.nx = 1 ∧ placeRecord.ny = 1 ∧ 0 < placeRecord.nx * placeRecord.ny * placeRecord.nz ∧ placed.coreFor 0 = some 1 := by decide
theorem witness_NewStorage : State.reset.grantable 3 false false 0 5 = true ∧ State.reset.grantable 3 true true 0 5 = true ∧ (State.reset.block 5).owner = none ∧
    (State.reset.block 5).lent = none ∧ page.gp = false := by decide
theorem witness_ScalarResults : ∀ i ∈ [Instr.sadd 63 1 2, .ssub 3 1 2, .smul 3 1 2, .smulh 3 1 2, .smulhN 3 1 2, .sdiv 3 1 2, .sdivN 3 1 2, .srem 3 1 2, .sremN 3 1 2,
    .sand 3 1 2, .sor 3 1 2, .sxor 3 1 2, .sshl 3 1 2, .sshr 3 1 2, .ssra 3 1 2, .smin 3 1 2, .sminN 3 1 2, .smax 3 1 2, .smaxN 3 1 2, .sslt 3 1 2, .ssltn 3 1 2,
    .ssel 3 1 2, .saddi 3 1 0x1FFF, .sandi 3 1 0x1FFF, .sori 3 1 0x1FFF, .sxori 3 1 0x1FFF, .sshli 3 1 63, .slui 3 0x7FFFF], placed.lets 0 [0] i := by
  unfold State.lets; decide
theorem witness_BranchResults : ∀ i ∈ [Instr.nop, .br 1, .brCc .z 1 2, .brCc .nz 1 2, .brCc .lz 1 2, .brCc .gez 1 2, .bany 7 1, .ball 7 1, .bnone 7 1, .call 1, .ret,
    .jmpr 63], placed.lets 0 [0] i := by unfold State.lets; decide
/-- A gang of two slices, one of which a BR.z of s1 takes along. -/
def forked : State :=
  { placed.modTeam 0 (fun v => { v with slices := 2 }) with
    slices := FMap.put placed.slices 1 { Slice.start (placed.ctx 0) 0 with regs := (placed.slice 0 0).regs.setS 1 5 },
    gangs := [{ team := 0, ks := [0, 1], age := 7, wait := none }], cur := { team := 0, ks := [0, 1] } }
theorem witness_BranchResults_parts : forked.acts 0 [0, 1] ∧ forked.lets 0 [0, 1] (.brCc .z 1 2) ∧
    (∀ k ∈ [0, 1], (forked.slice 0 k).status = .run ∧ (forked.slice 0 k).regs.pc = 0 ∧ (forked.slice 0 k).regs.mode = 0x000A) ∧
    ([0, 1].filter fun k => (forked.slice 0 k).regs.getS 1 == 0) = [0] ∧ (after (exec (.brCc .z 1 2) forked)).gangs =
      [{ team := 0, ks := [0], age := 7, wait := none }, { team := 0, ks := [1], age := 7, wait := none }] ∧
    (after (exec (.brCc .z 2 2) forked)).gangs = forked.gangs := by unfold State.acts State.lets; decide
theorem witness_MoveResults : (∀ i ∈ [Instr.smovv 127 1, .smovvLane 5, .smovvTlane 5, .vrdl 5 1 3, .mode 0x1FFF, .moder 1, .regang], placed.lets 0 [0] i) ∧
    [0] = placed.homeLive 0 0 := by unfold State.lets; decide
theorem witness_SpecialRegisterAccess : (∀ i ∈ [Instr.srd 3 0x000, .srd 3 0x010, .swr 3 0x010], placed.lets 0 [0] i) ∧
    (FMap.find? placed.slices (sliceKey 0 0)).isSome = true ∧ placed.teamCore 0 = some 0 ∧ (placed.core 0).num = some 0 := by unfold State.lets; decide
theorem witness_ClockReading : begun.calm 0 0 (.srd 3 0x00F) ∧ (FMap.find? begun.cores 0).isSome = true ∧ begun.cur = { team := 0, ks := [0] } ∧
    (begun.team 0).place = .resident 0 [0] 0 0 := by unfold State.calm State.acts State.lets; decide
theorem witness_VectorIntegerResults : ∀ i ∈ [Instr.vadd 127 1 2, .vsub 4 1 2, .vmul 4 1 2, .vmulh 4 1 2, .vmad 4 1 2, .vmin 4 1 2, .vmax 4 1 2, .vshl 4 1 2, .vshr 4 1 2,
    .vabs 4 1, .vneg 4 1, .vaddi 4 1 0x7FF, .vpopc 4 1 0, .vclz 4 1 0, .vbrev 4 1 0], ints.lets 0 [0] i := by unfold State.lets; decide
theorem witness_IntegerLaneValues : (ints.slice 0 0).regs.active.getLsbD 3 = true ∧ typeInt (modeType 0x0807) = true ∧ typePair (modeType 0x0807) = true ∧
    modeSat 0x0807 = true ∧ typeInt (modeType 0x0002) = true ∧ modeSat 0x0002 = false := by decide
theorem witness_VectorLogicResults : ∀ i ∈ [Instr.vand 4 1 2, .vor 4 1 2, .vxor 4 1 2, .vnot 4 1, .vsel 4 1 2 7, .vcmp .lt 7 1 2, .vmovi 4 1, .pand 7 1 2, .por 7 1 2,
    .pxor 7 1 2, .pnot 7 1, .pset 7 1], ints.lets 0 [0] i := by unfold State.lets; decide
theorem witness_VectorLogicResults_lanes : (ints.slice 0 0).regs.active.getLsbD 3 = true ∧ ((withR fun r => (r.setP 0 1).setMode 0x0082).slice 0 0).regs.active.getLsbD 3 = false ∧ typePair (modeType 7) = true := by decide
theorem witness_VectorFloatResults : ∀ i ∈ [Instr.vfadd 4 1 2, .vfsub 4 1 2, .vfmul 4 1 2, .vfma 4 1 2, .vfmin 4 1 2, .vfmax 4 1 2, .vfabs 4 1, .vfneg 4 1, .vfcmp .un 7 1 2,
    .vrcp 4 1 0, .vrsq 4 1 0, .vsqrt 4 1 0, .vexp2 4 1 0, .vlog2 4 1 0, .vsin 4 1 0, .vcos 4 1 0, .vtanh 4 1 0, .verf 4 1 0, .vsigm 4 1 0],
    placed.lets 0 [0] i := by unfold State.lets; decide
/-- f16 codes: 2 and its exponent in VEXP2's reach, a NaN, an infinity; a sum that overflows, a value that is tiny. -/
theorem witness_VectorFloatResults_codes : modeType 0x0008 = 8 ∧ modeType 0x0009 = 9 ∧ modeType 0x000A = 10 ∧ (0x4000 : Nat) < 2 ^ Fmt.f16.width ∧ 0x4000 ≤ Fmt.f16.maxCode ∧
    Fmt.f16.infCode < 0x7E00 ∧ (0x7C00 : Nat) % Fmt.f16.signBit = Fmt.f16.infCode := by decide
theorem witness_VectorFloatResults_values : Fmt.f16.value 0x4000 = 2 ∧ Fmt.f16.overflows .rz 65536 ∧ Fmt.f16.tiny .rz (1 / 65536) := by
  norm_num [Fmt.value, Fmt.overflows, Fmt.tiny, Fmt.signBit, Fmt.width, Fmt.frac, Fmt.bias, Fmt.maxCode, Fmt.narrow]
/-- The same slice with a block format in its first slot: e4m3 with scales, valid. -/
def slotted : State := placed.modLaunch 0 fun l => { l with params := { l.params with slots := 0x403B :: List.replicate 7 0 } }
theorem witness_VectorConversionResults : slotted.acts 0 [0] ∧ ∀ i ∈ [Instr.vcvt 4 1 0 0x2 0, .vqnt 4 1 0 0, .vdqnt 4 2 1 0, .vclass 4 1],
    slotted.lets 0 [0] i := by unfold State.acts State.lets; decide
theorem witness_VectorConversionResults_pack : ∀ i ∈ [Instr.vpack 4 1 2, .vunpk .lo 4 1, .vunpk .hi 4 1], (vv 0x0001 0 0 0).lets 0 [0] i := by unfold State.lets; decide
theorem witness_VectorConversionResults_types : (elemType 0xA).bits ≤ 32 ∧ (elemType 0xB).bits ≤ 32 ∧ (elemType 3).bits = 64 ∧ (elemType 6).bits = 32 ∧
    blockSlot 0x403B = true ∧ blockSlot 0x403F = true ∧ Fmt.e4m3.wide = false ∧ Rnd.whole .rne (5 / 2) 2 := by
  refine ⟨by decide, by decide, by decide, by decide, by decide, by decide, by decide, ?_⟩
  norm_num [Rnd.whole]
theorem witness_VectorConversionResults_block : (∃ x ∈ [(1 : ℚ), 0], x ≠ 0) ∧ (∀ x ∈ [(1 : ℚ), 0], |x| ≤ 448 * 7) ∧ (∃ x ∈ [(4000 : ℚ)], 448 * 7 < |x|) ∧
    [Ex.nan false].any Ex.isNan = true := by
  refine ⟨⟨1, by simp, by norm_num⟩, ?_, ⟨4000, by simp, by norm_num⟩, rfl⟩
  intro x hx
  simp only [List.mem_cons, List.not_mem_nil, or_false] at hx
  rcases hx with rfl | rfl <;> norm_num
theorem witness_CrossLaneResults_values : (List.replicate 32 (some 5)).length = 32 ∧ (none : Option Nat) ∉ List.replicate 32 (some 5) ∧ modeType 2 = 2 ∧ modeType 6 = 6 ∧
    modeType 10 = 10 ∧ (List.replicate 32 (some 5))[31]? = some (some 5) ∧ forked.cur = { team := 0, ks := [0, 1] } := by decide
theorem witness_CrossLaneResults : ∀ i ∈ [Instr.vperm 4 1 2, .vbperm 4 1 2, .vslide 4 1 2 15, .vshfl .xor 4 1 31, .vshfl .up 4 1 31, .vshfl .down 4 1 31, .vbcast 4 1 31,
    .vred .sum 3 1, .vscan .max 4 1, .vballot 3 7, .vcount 3 7], ints.lets 0 [0] i := by unfold State.lets; decide

/-- Registers 4 and 5 as addresses: s4 = 0x100, s5 = 0x80, s6 = 64; one active lane under p0. -/
def reg4 : State := withR fun r => ((((r.setS 4 0x100).setS 5 0x80).setS 6 64).setP 0 1).setMode 0x0082
def ok4 : List (Acc × Leaf × Nat) := [(acc 0x100, page, placePage + 0x100)]

theorem witness_LoadResults : (∀ i ∈ [Instr.vld 8 1 4 false 0, .vldc 8 4 false 0, .sld 8 4 .d 0], reg4.solo 0 0 i) ∧ (∀ i ∈ [Instr.pref 4 0, .rdnpa 8 4], reg4.lets 0 [0] i) ∧
    reg4.fits2 0 0 [] (reg4.loadLines 0 ok4) := by unfold State.solo State.acts State.lets State.fits2; decide
theorem witness_LoadResults_pass : reg4.lanesPass 0 0 (wantLoad 4) (laneAddr 4 1) ok4 ∧ reg4.lanesPass 0 0 (wantLoad 4) (blockAddr 4 4 0) ok4 ∧
    reg4.passes 0 0 [(msBase 4 8 0 (reg4.slice 0 0).regs, wantLoad 8)] ok4 :=
  ⟨⟨by decide, rfl, rfl, by decide⟩, ⟨by decide, rfl, rfl, by decide⟩, by decide, rfl, by decide⟩
/-- A gang of two slices, alike. -/
def pair : State :=
  { reg4.modTeam 0 (fun v => { v with slices := 2 }) with
    slices := FMap.put reg4.slices 1 (reg4.slice 0 0), gangs := [{ team := 0, ks := [0, 1], age := 0, wait := none }], cur := { team := 0, ks := [0, 1] } }
def okPair : List (Acc × Leaf × Nat) := [(acc 0x100, page, placePage + 0x100), ({ k := 1, l := 0, gl := 4, va := 0x100 }, page, placePage + 0x100)]
theorem witness_LoadResults_gang : pair.acts 0 [0, 1] ∧ pair.lets 0 [0, 1] (.vld 8 1 4 false 0) ∧ pair.lets 0 [0, 1] (.vst 8 1 4 false 0) ∧
    (∀ k ∈ [0, 1], (pair.slice 0 k).level < 2 ∧ (pair.slice 0 k).park = none ∧ (pair.slice 0 k).mark = none ∧
      pair.fits2 0 k (okPair.flatMap fun y => writeLine y.2.1 y.2.2) (pair.loadLines 0 okPair)) := by unfold State.acts State.lets State.fits2; decide
theorem witness_LoadResults_gangPass : pair.gangPass 0 [0, 1] (wantLoad 4) (laneAddr 4 1) okPair ∧ pair.gangPass 0 [0, 1] (wantStore 4) (laneAddr 4 1) okPair :=
  ⟨⟨by decide, rfl, rfl, by decide⟩, by decide, rfl, rfl, by decide⟩
/-- The slice at level 2. -/
def level2 : State := reg4.modSlice 0 0 fun v => { v with level := 2 }
theorem witness_LoadResults_level2 : level2.calm 0 0 (.sld 8 4 .d 0) ∧ level2.calm 0 0 (.sst 8 4 .d 0) ∧ (level2.slice 0 0).level = 2 ∧
    level2.fits2 0 0 (ok4.flatMap fun y => writeLine y.2.1 y.2.2) (level2.loadLines 0 ok4) := by unfold State.calm State.acts State.lets State.fits2; decide
theorem witness_LoadResults_level2_pass : level2.passes 0 0 [(msBase 4 8 0 (level2.slice 0 0).regs, wantLoad 8)] ok4 ∧
    level2.passes 0 0 [(msBase 4 8 0 (level2.slice 0 0).regs, wantStore 8)] ok4 ∧ (match level2.commitChunk 0 0 false with
      | .ok _ => true
      | _ => false) = true := ⟨⟨by decide, rfl, by decide⟩, ⟨by decide, rfl, by decide⟩, by decide⟩
/-- Lane 0 reads the last word of the placed page, lane 1 the first of the next, which is missing. -/
def half : State := withR fun r => (((r.setS 4 0xFFFC).setP 0 3).setMode 0x0082).setV 1 1 4
theorem witness_LoadResults_park : half.solo 0 0 (.vld 8 1 4 false 0) ∧ (half.slice 0 0).status = .run ∧
    (half.laneAccs 0 [0] (laneAddr 4 1)).map (·.va) = [0xFFFC, 0x10000] ∧ half.touch 0 [0xFFFC, 0x10000] = half ∧ half.awaits 0 0 1 = false ∧
    half.fits2 0 0 [] [.mem (lineOf (placePage + 0xFFFC)), missingLine 0x10000] := by unfold State.solo State.acts State.lets State.fits2; decide
theorem witness_LoadResults_park_fates : half.fateOf 0 (wantLoad 4) (acc 0xFFFC) = .ok page (placePage + 0xFFFC) ∧ half.walk 0 0x10000 = .none false := ⟨rfl, by decide⟩
/-- `reg4` with another leaf entry for its page: NC with ns, IO with ns, of another module. -/
def withLeaf (e : Nat) : State := { reg4 with mem := (byteRun (placeRoot + 16384) (leBytes 8 e)).foldl (fun m x => Memory.write m x.1 x.2) reg4.mem }
def leafOf (e : Nat) : Leaf := { addr := placeRoot + 16384, lvl := 0, bits := BitVec.ofNat 64 e }
def okLeaf (e : Nat) : Acc × Leaf × Nat := (acc 0x100, leafOf e, placePage + 0x100)
theorem witness_LoadResults_nc : let s := withLeaf (placePage + 0x635D)
    s.solo 0 0 (.sld 8 4 .d 0) ∧ s.solo 0 0 (.sst 8 4 .d 0) ∧ (leafOf (placePage + 0x635D)).cc = .nc ∧ s.touch 0 [0x100] = s ∧ (s.slice 0 0).heldAll = [] := by
  unfold State.solo State.acts State.lets; decide
theorem witness_LoadResults_nc_check : (withLeaf (placePage + 0x635D)).aloneCheck 0 0 [(0x100, wantLoad 8)] = .go [okLeaf (placePage + 0x635D)] ∧
    (withLeaf (placePage + 0x635D)).aloneCheck 0 0 [(0x100, wantStore 8)] = .go [okLeaf (placePage + 0x635D)] := ⟨rfl, rfl⟩
theorem witness_LoadResults_io : let s := withLeaf (placePage + 0x63DD)
    s.calm 0 0 (.sld 8 4 .d 0) ∧ s.calm 0 0 (.sst 8 4 .d 0) ∧ (leafOf (placePage + 0x63DD)).cc = .io ∧ s.touch 0 [0x100] = s ∧
    (s.readWord64 (leafOf (placePage + 0x63DD)).addr).getLsbD 14 = true := by unfold State.calm State.acts State.lets; decide
theorem witness_LoadResults_io_check : (withLeaf (placePage + 0x63DD)).aloneCheck 0 0 [(0x100, wantLoad 8)] = .go [okLeaf (placePage + 0x63DD)] ∧
    (withLeaf (placePage + 0x63DD)).aloneCheck 0 0 [(0x100, wantStore 8)] = .go [okLeaf (placePage + 0x63DD)] := ⟨rfl, rfl⟩
theorem witness_LoadResults_far : let s := withLeaf (2 ^ 47 + 0x605D)
    s.calm 0 0 (.sld 8 4 .d 0) ∧ isFabric (2 ^ 47 + 0x100) = true ∧ s.touch 0 [0x100] = { s with draws := s.draws + 64 } ∧
    s.walk 0 0x100 = .leaf (leafOf (2 ^ 47 + 0x605D)) ∧ (leafOf (2 ^ 47 + 0x605D)).npa 0x100 = 2 ^ 47 + 0x100 := by
  unfold State.calm State.acts State.lets; decide
theorem witness_StoreResults : (∀ i ∈ [Instr.vst 8 1 4 false 0, .vstc 8 4 false 0, .sst 8 4 .d 0, .red .add 8 1 4 false], reg4.solo 0 0 i) ∧
    reg4.fits2 0 0 (ok4.flatMap fun y => writeLine y.2.1 y.2.2) [] := by unfold State.solo State.acts State.lets State.fits2; decide
theorem witness_StoreResults_pass : reg4.lanesPass 0 0 (wantStore 4) (laneAddr 4 1) ok4 ∧ reg4.lanesPass 0 0 (wantStore 4) (blockAddr 4 4 0) ok4 ∧
    reg4.passes 0 0 [(msBase 4 8 0 (reg4.slice 0 0).regs, wantStore 8)] ok4 ∧ reg4.lanesPass 0 0 (wantAtom .add false false reg4 0) (laneAddr 4 1) ok4 :=
  ⟨⟨by decide, rfl, rfl, by decide⟩, ⟨by decide, rfl, rfl, by decide⟩, ⟨by decide, rfl, by decide⟩, by decide, rfl, rfl, by decide⟩
theorem witness_TeamMemoryResults : (∀ i ∈ [Instr.tld 8 1 4 false 0, .tst 8 1 4 false 0, .redt .add 8 1 4 false, .atomt .add 8 1 4 false], reg4.solo 0 0 i) ∧
    (∀ y ∈ reg4.laneAccs 0 [0] (laneAddr 4 1), y.va.toNat % 4 = 0 ∧ y.va.toNat + 4 ≤ (reg4.params 0).tmem) := by unfold State.solo State.acts State.lets; decide
/-- A chunk that holds one effect. -/
def holding (e : Held) : State := placed.modSlice 0 0 fun v => { v with chunk := { v.chunk with held := [{ pc := 0, num := 0, eff := e }], instrs := 1 } }
/-- Whether its commit goes through. -/
def commitGoes (s : State) : Bool :=
  match s.commitChunk 0 0 true with
  | .ok _ => true
  | .error _ => false
/-- The premise of the statements about commits. -/
theorem witness_commits (e : Held) : ((holding e).slice 0 0).chunk.held = [{ pc := 0, num := 0, eff := e }] := rfl
theorem witness_TeamMemoryResults_atomt : reg4.laneAccs 0 [0] (laneAddr 4 1) = [acc 0x100] := rfl
theorem witness_RangeResults : (∀ i ∈ [Instr.cwb 4 6, .cinv 4 6, .cdisc 4 6, .rsvpin 4 6, .rsvunpin 4 6, .czero 4 6, .csize false 8 4, .csize true 8 4], reg4.solo 0 0 i) ∧
    rangeBad false 0x100 64 = false ∧ rangeBad true 0x100 64 = false ∧ reg4.fits2 0 0 [.range 0] [] := by unfold State.solo State.acts State.lets State.fits2; decide
theorem witness_RangeResults_disc : reg4.rangeLeavesAt 0 0x100 64 = [(0x100, page)] ∧ page.w = true ∧ page.cc = .dev ∧ isFabric (page.npa 0) = false ∧
    reg4.touch 0 ((reg4.rangeLeavesAt 0 0x100 64).map (·.1)) = reg4 := by decide
theorem witness_RangeResults_pass :
    reg4.passes 0 0 ((rangePieces 0x100 64).map fun p => (BitVec.ofNat 64 p.1, wantRange (fun c => c == .io) true)) ok4 ∧
    reg4.passes 0 0 ((rangePieces 0x100 64).map fun p => (BitVec.ofNat 64 p.1, wantRange (fun c => c == .io) false)) ok4 ∧
    reg4.passes 0 0 [(0x100, wantSize false)] ok4 := ⟨⟨by decide, rfl, by decide⟩, ⟨by decide, rfl, by decide⟩, by decide, rfl, by decide⟩
theorem witness_RangeResults_empty : placed.acts 0 [0] ∧ (placed.slice 0 0).level < 2 ∧ (placed.slice 0 0).park = none ∧ (placed.slice 0 0).mark = none ∧
    (placed.slice 0 0).regs.getS 6 = 0 ∧ ∀ i ∈ [Instr.cwb 4 6, .cinv 4 6, .cdisc 4 6, .rsvpin 4 6, .rsvunpin 4 6, .czero 4 6], placed.lets 0 [0] i := by
  unfold State.acts State.lets; decide
theorem witness_RangeResults_commits : (∀ o ∈ [RangeOp.zero, .disc, .wb, .inv, .pin, .unpin], commitGoes (holding (.range o 0x100 64 0)) = true) ∧
    (∀ r ∈ placed.rangeLines 0 0x100 64, r.leaf.cc = .dev ∧ (placed.readWord64 r.leaf.addr).getLsbD 14 = true ∧ placed.lineKept r = true ∧
      ∀ x ∈ placed.copies r.leaf.rep r.npa, placed.sound x ∧ (placed.block (blockOf x)).bad = false ∧ placed.expanderDown x = false) ∧ (placed.rangeLines 0 0x100 64).length = 1 ∧
    placed.touch 0 ((placed.rangePages 0 0x100 64).map fun e => BitVec.ofNat 64 e.1.1) = placed := by unfold State.sound; decide
theorem witness_ReadingResults : (∀ i ∈ [Instr.balrd 8, .logrd 8 0, .logrd 8 1, .cseq 8, .cspill 8], placed.solo 0 0 i ∧ placed.fits2 0 0 [] [.mailbox 0]) ∧
    (∀ i ∈ [Instr.rsvrd 8, .specrd 8 3, .rdcap 8 1023, .csrr 8 0x015, .pcrd 8 0x2FF, .pcrd 8 0x10F], placed.lets 0 [0] i) ∧ (placed.slice 0 0).prev = none ∧
    (placed.slice 0 0).post = [] := by unfold State.solo State.acts State.lets State.fits2; decide
theorem witness_ReadingResults_values : (placed.ctx 0).shared = false ∧ ((placed.modCtx 0 fun c => { c with shared := true }).ctx 0).shared = true ∧
    (FMap.find? placed.dies (placed.teamDie 0)).isSome = true ∧ (placed.team 0).place = .resident 0 [0] 0 0 ∧ (placed.slice 0 0).level < 4 ∧
    (readLines (placed.slice 0 0).chunk.rlines).length < 2 ^ 9 ∧ (placed.slice 0 0).chunk.wlines.length < 2 ^ 7 ∧ (placed.slice 0 0).chunk.instrs < 2 ^ 9 ∧
    ((holding (.csr 0x010 0x200)).slice 0 0).heldAll = [] ++ { pc := 0, num := 0, eff := .csr 0x010 0x200 } :: [] ∧ (placed.slice 0 0).heldAll = [] := by decide
theorem witness_GateChannelResults : (∀ i ∈ [Instr.ginit 4 5, .gexpect 4 5, .garrive 4, .chpub 1, .chfree 1, .chacqNb 8 1, .chtakeNb 8 1, .csrw 4 0x010, .csrw 4 0x013],
    reg4.solo 0 0 i) ∧ (0x100 : Nat) + 16 ≤ (reg4.params 0).tmem ∧ reg4.handle 0 0 = some (0, 0) ∧
    (reg4.chanSeen 0 0 0 0).map (fun v => (v.free, v.filled)) = some (2, 2) := by unfold State.solo State.acts State.lets; decide
/-- The same with a channel whose counters are both 0. -/
theorem witness_GateChannelResults_empty : (((placed.modTeam 0 fun v => { v with chans := v.chans.map fun c => { c with free := 0, filled := 0 } }).chanSeen 0 0 0 0).map
    fun v => (v.free, v.filled)) = some (0, 0) := by decide

theorem witness_GateChannelResults_commits : (∀ e ∈ [Held.gate 0x100 .arrive, .gate 0x100 (.init 3), .chan 0 0 .pub, .csr 0x010 0x200, .csr 0x012 1, .csr 0x013 63],
      commitGoes (holding e) = true) ∧ ((placed.team 0).chans[0]?.map fun v => v.pub == v.acq) = some true ∧ (placed.team 0).chans[0]?.isSome = true ∧
    ((placed.team 0).chans[1]?.map fun v => (v.rel, v.take)) = some (0, 0) ∧
    ((((placed.modTeam 0 fun v => { v with chans := v.chans.map fun c => { c with acq := 1 } }).team 0).chans[0]?).map fun v => v.pub != v.acq) = some true := by decide
/-- A parameter block in s16 to s23 for one K-step, i8 slots, and at 0x200 a drain descriptor: f32, one element, to team memory. -/
def matrixState (de : Bool) : State :=
  let s := withR fun r => (((r.setS 16 0x400).setS 20 (if de then 0x200000001 else 1)).setS 23 0x200).setS 4 0x100
  { s.modLaunch 0 fun l => { l with params := { l.params with slots := List.replicate 8 0x4010 } } with
    mem := Memory.write (Memory.write s.mem (placePage + 0x228) 0x8A) (placePage + 0x229) 0x0A }
theorem witness_MatrixCommandResults : (∀ i ∈ [Instr.mzero 3, .mwr 8 1 3 0, .mscl 4 5 0, .mloop 16 0 0 3 false 0], (matrixState false).solo 0 0 i) ∧
    (∀ i ∈ [Instr.mloop 16 0 0 3 true 0, .mdrain 16 3], (matrixState true).solo 0 0 i) ∧ placed.lets 0 [0] (.mrd 8 1 3 0) ∧ (placed.slice 0 0).mark = none ∧
    (placed.team 0).pending (placed.team 0).released (some 3) = false := by unfold State.solo State.acts State.lets; decide
theorem witness_MatrixCommandResults_params : (sclFault ((matrixState false).params 0) 0x100 0 1 ((matrixState false).firstLane 0)).isNone = true ∧
    (loopFault ((matrixState false).params 0) 0x4010 0x4010 false (blockRegs 16 ((matrixState false).slice 0 0).regs) 0).isNone = true ∧
    pDe (blockRegs 16 ((matrixState false).slice 0 0).regs) = false ∧
    (loopFault ((matrixState true).params 0) 0x4010 0x4010 true (blockRegs 16 ((matrixState true).slice 0 0).regs) 0).isNone = true ∧
    pDe (blockRegs 16 ((matrixState true).slice 0 0).regs) = true := by decide
def okDesc : List (Acc × Leaf × Nat) := [(acc 0x200, page, placePage + 0x200)]
theorem witness_MatrixCommandResults_desc : (matrixState true).passes 0 0 [(0x200, wantDesc 64 fun c => c == .nc || c == .io)] okDesc ∧
    drainFault ((matrixState true).params 0).tmem (blockRegs 16 ((matrixState true).slice 0 0).regs) 0x200 ((matrixState true).descBytes 0 0 64 okDesc).2 0 = none ∧
    (matrixState true).fits2 0 0 [] ((matrixState true).loadLines 0 okDesc) :=
  ⟨⟨by decide, rfl, by decide⟩, rfl, by unfold State.fits2; decide⟩

theorem witness_EngineCommandResults : ∀ i ∈ [Instr.copy .none 8 4 0, .copy .gate 8 4 5, .repsync 8 4 6], reg4.solo 0 0 i ∧
    reg4.fits2 0 0 [] (.issued 0 :: reg4.loadLines 0 ok4) := by unfold State.solo State.acts State.lets State.fits2; decide
theorem witness_EngineCommandResults_copy : reg4.passes 0 0 [(0x100, wantDesc 128 fun c => c == .io)] ok4 ∧
    reg4.copyTrap 0 .none 0 0x100 (reg4.descBytes 0 0 128 ok4).2 0 = none ∧ reg4.copyTrap 0 .gate 0x80 0x100 (reg4.descBytes 0 0 128 ok4).2 0 = none :=
  ⟨⟨by decide, rfl, by decide⟩, rfl, rfl⟩
/-- A descriptor with dkind 4, for a COPY that is bound to a channel. -/
def toChannel : State := { reg4 with mem := Memory.write reg4.mem (placePage + 0x111) 0x40 }
theorem witness_EngineCommandResults_channel : toChannel.passes 0 0 [(0x100, wantDesc 128 fun c => c == .io)] ok4 ∧
    toChannel.copyTrap 0 .channel 0 0x100 (toChannel.descBytes 0 0 128 ok4).2 0 = none ∧ toChannel.handle 0 0 = some (0, 0) := ⟨⟨by decide, rfl, by decide⟩, rfl, by decide⟩
/-- A group of one, and a descriptor of one i32 element. -/
def reducing : State :=
  { reg4 with groups := [(0, { members := [{ module := 0, ctx := 0, rank := 0 }], round := 0, isOpen := false })],
              mem := Memory.write (Memory.write reg4.mem (placePage + 0x120) 1) (placePage + 0x124) 2 }
theorem witness_EngineCommandResults_allred : reducing.solo 0 0 (.allred 8 4) ∧ reducing.passes 0 0 [(0x100, wantDesc 64 fun c => c == .io)] ok4 ∧
    reducing.allredTrap 0x100 (reducing.descBytes 0 0 64 ok4).2 0 = none :=
  ⟨by unfold State.solo State.acts State.lets; decide, ⟨by decide, rfl, by decide⟩, rfl⟩
theorem witness_EngineCommandResults_repsync : repRangeBad 0x100 64 = false ∧ (repsyncTrap (reg4.rangeLeavesAt 0 0x100 64) 0).isNone = true ∧
    reg4.touch 0 ((reg4.rangeLeavesAt 0 0x100 64).map (·.1)) = reg4 := by decide

theorem witness_LaunchCommandResults : ∀ i ∈ [Instr.launchN 4, .launchT 4, .graphgo 4, .signal 8 4], reg4.solo 0 0 i := by
  unfold State.solo State.acts State.lets; decide
theorem witness_LaunchCommandResults_pass :
    reg4.passes 0 0 (wantRecord 256 0x100) [(acc 0x100, page, placePage + 0x100), (acc 0x180, page, placePage + 0x180)] ∧
    reg4.passes 0 0 (wantRecord 64 0x100) ok4 ∧ reg4.passes 0 0 [(0x100, wantSignal)] ok4 :=
  ⟨⟨by decide, rfl, by decide⟩, ⟨by decide, rfl, by decide⟩, by decide, rfl, by decide⟩

theorem witness_CloserResults : (∀ i ∈ [Instr.fenceio, .cwait 1, .mwait, .balack 1 2], begun.calm 0 0 i) ∧
    min ((begun.slice 0 0).regs.getS 1).toNat (begun.team 0).issued ≤ (begun.team 0).doneCount ∧ (begun.team 0).pending (begun.team 0).released none = false ∧
    FMap.get 0 (begun.team 0).conds 0 = 0 ∧ (begun.ctx 0).mailbox.id = 0 := by unfold State.calm State.acts State.lets; decide
/-- An open balloon request, number 7, and s1 = 7. -/
def asked : State := (ss 7 5).modCtx 0 fun c => { c with mailbox := { c.mailbox with id := 7, wanted := 3, owed := 3 } }
theorem witness_CloserResults_balack : asked.calm 0 0 (.balack 1 2) ∧ (asked.ctx 0).mailbox.id ≠ 0 ∧ (asked.slice 0 0).regs.getS 1 = (asked.ctx 0).mailbox.id := by
  unfold State.calm State.acts State.lets; decide

/-- A chunk that holds one store. -/
def stored : State := after (exec (.sst 2 1 .w 0) (ss 0x100 0x11223344))
theorem witness_CommitResults : stored.acts 0 [0] ∧ stored.lets 0 [0] .cmit ∧ (stored.slice 0 0).hit = false ∧
    (stored.slice 0 0).chunk.held = [{ pc := 0, num := 0, eff := .store false ([0x44, 0x33, 0x22, 0x11].zipIdx.map fun e =>
      { va := 0x100 + e.2, npa := placePage + 0x100 + e.2, rep := false, val := e.1 }) [page.addr] }] ∧
    (stored.readWord64 page.addr).getLsbD 14 = true ∧ (stored.block (blockOf (placePage + 0x100))).bad = false ∧
    codePoisoned (stored.lineCode (lineOf (placePage + 0x100))) = false := by unfold State.acts State.lets; decide
theorem witness_CommitResults_commits : (match stored.commitChunk 0 0 true with
    | .ok w => ((w.slice 0 0).regs.fpx &&& ~~~ (w.slice 0 0).regs.delivered) == 0 && !(w.slice 0 0).handler
    | _ => false) = true := by decide
theorem witness_CommitResults_cmit : begun.calm 0 0 .cmit ∧ (stored.slice 0 0).heldAll ≠ [] := by unfold State.calm State.acts State.lets; decide
/-- CloserResults on FENCEIO over a chunk that holds a store. -/
theorem witness_CloserResults_fence : stored.lets 0 [0] .fenceio ∧ (stored.slice 0 0).hit = false ∧ (stored.slice 0 0).prev = none ∧ (stored.slice 0 0).prevHit = false ∧
    (stored.slice 0 0).post = [] ∧ (stored.slice 0 0).status = .run ∧ (stored.slice 0 0).park = none ∧ (stored.slice 0 0).mark = none ∧ (stored.slice 0 0).tell = none ∧
    (stored.slice 0 0).chunk.instrs ≠ 0 ∧ ∀ it ∈ (stored.slice 0 0).chunk.held, it.late = false ∧ it.isMatrix = false := by unfold State.lets; decide
/-- Two reductions of words apart, a store to an NC page, a SIGNAL. -/
theorem witness_CommitResults_red : (∀ e ∈ [Held.red .add false 2 [{ va := 0x100, npa := placePage + 0x100, rep := false, val := 1 },
      { va := 0x104, npa := placePage + 0x104, rep := false, val := 2 }] [page.addr], .store true [{ va := 0x100, npa := placePage + 0x100, rep := false, val := 1 }] [page.addr],
      .signal [{ va := 0x100, npa := placePage + 0x100, rep := false, val := 1 }] [page.addr]], commitGoes (holding e) = true) ∧
    (∀ i < 8, placed.sound (placePage + 0x100 + i)) ∧ placePage + 0x100 + 4 ≤ placePage + 0x104 := by unfold State.sound; decide
/-- A context without a quota, a die without a granule: RESERVE and POOL. -/
theorem witness_CommitResults_fails : (match (stored.modCtx 0 fun c => { c with quota := 0 }).commitChunk 0 0 true with
    | .error f => (f.kind, f.g)
    | _ => (9, 9)) = (0, 1) ∧ (match (stored.modDie 0 fun d => { d with pool := [], antes := [] }).commitChunk 0 0 true with
    | .error f => (f.kind, f.g)
    | _ => (9, 9)) = (1, 1) := by decide

theorem witness_WaitResults : (ss 0x100 0).calm 0 0 (.wait .geN 1 2) ∧ (ss 0x100 0).passes 0 0 [(0x100, wantWait)] ok4 ∧
    condOn .geN ((ss 0x100 0).readWord64 (placePage + 0x100)) 0 = true :=
  ⟨by unfold State.calm State.acts State.lets; decide, ⟨by decide, rfl, by decide⟩, by decide⟩
theorem witness_SyncResults : (∀ i ∈ [Instr.bar 0, .chacq 8 1, .chtake 8 1], begun.calm 0 0 i) ∧ (begun.team 0).arrivals = 0 ∧ begun.live 0 = [0] ∧ begun.handle 0 0 = some (0, 0) ∧
    ((begun.chan 0 0).map fun v => (v.free, v.filled)) = some (2, 2) ∧ (begun.teamCore 0).isSome = true := by unfold State.calm State.acts State.lets; decide
theorem witness_SyncResults_gate : (ss 0x100 1).calm 0 0 (.gwait 7 1 2) ∧ (0x100 : Nat) + 16 ≤ ((ss 0x100 1).params 0).tmem ∧
    (((ss 0x100 1).team 0).gate 0x100).passed 0xFFFF = true := by unfold State.calm State.acts State.lets; decide
theorem witness_ExitResults : begun.calm 0 0 .exit ∧ (begun.team 0).arrivals = 0 := by unfold State.calm State.acts State.lets; decide
theorem witness_AtomicResults : reg4.calm 0 0 (.atom .add 8 1 4 false) ∧ reg4.lanesPass 0 0 (wantAtom .add false true reg4 0) (laneAddr 4 1) ok4 :=
  ⟨by unfold State.calm State.acts State.lets; decide, by decide, rfl, rfl, by decide⟩
theorem witness_ForfeitResults : (ss 0 0x10000).calm 0 0 (.forfeit 8 1 2) ∧ (ss 0 0x10000).rangeLeavesAt 0 0 0x10000 = [(0, page)] ∧ rangeBad true 0 0x10000 = false ∧
    pageOut 0 0x10000 (0, page) = false ∧ page.ff = false ∧ page.w = true ∧ page.cc = .dev ∧ isFabric (page.npa 0) = false ∧ (ss 0 0x10000).touch 0 [0] = ss 0 0x10000 := by
  unfold State.calm State.acts State.lets; decide
theorem witness_ForfeitResults_empty : placed.calm 0 0 (.forfeit 8 1 2) ∧ (placed.slice 0 0).regs.getS 2 = 0 := by unfold State.calm State.acts State.lets; decide

theorem witness_ForfeitResults_account : (ss 0 0x10000).calm 0 0 (.forfeit 8 1 2) ∧ (FMap.find? placed.ctxs 0).isSome = true ∧ page.addr % 8 = 0 ∧
    placed.discards page.addr = false ∧ blockOf page.addr ∉ placed.pageBlocks page ∧ ∀ e ∈ (ss 0 0x10000).slices, e.2.post = [] := by unfold State.calm State.acts State.lets; decide
/-- The slice asleep in a closer. -/
def asleep (s : State) (z : Sleep) : State := s.modSlice 0 0 fun v => { v with status := .asleep z }
theorem witness_WakeResults : let s := asleep (ss 0x100 0) (.wait (.wait .eq 1 2))
    s.dozes 0 0 (.wait (.wait .eq 1 2)) ∧ (s.atGang 0 0).passes 0 0 [((s.slice 0 0).regs.getS 1, wantWait)] ok4 ∧
    condOn .eq (s.readWord64 (placePage + 0x100)) ((s.slice 0 0).regs.getS 2) = true :=
  ⟨by unfold State.dozes; decide, ⟨by decide, rfl, by decide⟩, by decide⟩
theorem witness_WakeResults_gate : let s := asleep (ss 0x100 1) (.gate (.gwait 7 1 2))
    s.dozes 0 0 (.gate (.gwait 7 1 2)) ∧ ((s.team 0).gate 0x100).passed 0xFFFF = true := by unfold State.dozes; decide
theorem witness_WakeResults_channel : (asleep placed (.chan (.chacq 8 1))).dozes 0 0 (.chan (.chacq 8 1)) ∧ (asleep placed (.chan (.chtake 8 1))).dozes 0 0 (.chan (.chtake 8 1)) ∧
    (asleep placed (.chan (.chacq 8 1))).handle 0 0 = some (0, 0) := by unfold State.dozes; decide
theorem witness_WakeResults_counts : (asleep placed (.cwait 0)).dozes 0 0 (.cwait 0) ∧ 0 ≤ ((asleep placed (.cwait 0)).team 0).doneCount ∧
    (asleep placed (.mwait 0)).dozes 0 0 (.mwait 0) ∧ ((asleep placed (.mwait 0)).team 0).pending 0 none = false := by unfold State.dozes; decide

theorem witness_SoftwareTraps : armed.handles 0 0 ∧ armed.calm 0 0 (.trap 1023) ∧ armed.calm 0 0 (.brk 0) := by
  unfold State.handles State.calm State.acts State.lets; decide
theorem witness_ReturnResults : let s : State := { after (exec (.trap 5) armed) with cur := armed.cur }
    s.calm 0 0 .rte ∧ (s.slice 0 0).handler = true ∧ s.frameAddr 0 0 = 0x1000 ∧ (FMap.find? s.ctxs 0).isSome = true := by
  unfold State.calm State.acts State.lets; decide
def okFrame : List (Acc × Leaf × Nat) := [(acc 0x1000, page, placePage + 0x1000)]
theorem witness_ReturnResults_frame : let s : State := { after (exec (.trap 5) armed) with cur := armed.cur }
    let bad : State := { s with mem := Memory.write s.mem (placePage + 0x1000 + 64) 6 }
    s.passes 0 0 [(0x1000, wantDesc 128 fun c => c == .io)] okFrame ∧ field (s.descBytes 0 0 128 okFrame).2 96 2 < 2 ^ 13 ∧ field (s.descBytes 0 0 128 okFrame).2 64 8 % 4 = 0 ∧
    bad.passes 0 0 [(0x1000, wantDesc 128 fun c => c == .io)] okFrame ∧ field (bad.descBytes 0 0 128 okFrame).2 64 8 % 4 ≠ 0 :=
  ⟨⟨by decide, rfl, by decide⟩, by decide, by decide, ⟨by decide, rfl, by decide⟩, by decide⟩
theorem witness_InstructionTraps : armed.handles 0 0 ∧ (∀ i ∈ [Instr.extensionEmulation 0xEC000000, .illegalInstruction 0x021882FF 1, .rte], armed.calm 0 0 i) ∧
    ∀ i ∈ [Instr.jmpr 63, .ret], (armed.modSlice 0 0 fun v => { v with regs := v.regs.setS 63 0x102 }).calm 0 0 i := by
  unfold State.handles State.calm State.acts State.lets; decide
/-- A handler, and s4 = `va` in a page whose leaf entry is `e`. -/
def reaching (e : Nat) (va : W64) : State :=
  let s := (withR fun r => ((r.setS 4 va).setP 0 1).setMode 0x0082).modCtx 0 fun c => { c with tvec := 0x200, trapbase := 0x20000 }
  { s with mem := (byteRun (placeRoot + 16384) (leBytes 8 e)).foldl (fun m x => Memory.write m x.1 x.2) s.mem }
theorem witness_InstructionTraps_memory : ∀ x ∈ [(placePage + 0x605D, (0x102 : W64)), (placePage + 0x605D, 0x100000000000000), (placePage + 0x685D, 0x100), (placePage + 0x6059, 0x100)],
    (reaching x.1 x.2).handles 0 0 ∧ (reaching x.1 x.2).calm 0 0 (.sld 8 4 .d 0) ∧ (reaching x.1 x.2).calm 0 0 (.vld 8 1 4 false 0) ∧ (reaching x.1 x.2).touch 0 [x.2] = reaching x.1 x.2 := by
  unfold State.handles State.calm State.acts State.lets; decide
/-- Misaligned, not canonical, forfeited, not readable, poisoned. -/
theorem witness_InstructionTraps_fails : (reaching (placePage + 0x605D) 0x102).fails 0 (wantLoad 8) 0x102 1 3 0 0x102 ∧
    (reaching (placePage + 0x605D) 0x100000000000000).fails 0 (wantLoad 8) 0x100000000000000 2 4 2 0x100000000000000 ∧
    (reaching (placePage + 0x685D) 0x100).fails 0 (wantLoad 8) 0x100 4 5 0 0x100 ∧ (reaching (placePage + 0x6059) 0x100).fails 0 (wantLoad 8) 0x100 5 4 1 0x100 ∧
    State.fails { reaching (placePage + 0x605D) 0x188 with llc := [((placePage + 0x180) / 128, { dirty := true, code := codePoison, sectors := [], pin := false, stamp := 0 })] }
      0 (wantLoad 8) 0x188 7 8 0 0x180 :=
  ⟨.inl (by decide), .inr (.inl (by decide)), .inr (.inr ⟨by decide, by decide, leafOf (placePage + 0x685D), rfl, .inl (by decide)⟩),
    .inr (.inr ⟨by decide, by decide, leafOf (placePage + 0x6059), rfl, .inr (.inr (.inl (by decide)))⟩),
    .inr (.inr ⟨by decide, by decide, leafOf (placePage + 0x605D), rfl, .inr (.inr (.inr (.inr
      ⟨by decide, by decide, ⟨fun _ => by decide, fun h => by cases h⟩, .inr ⟨by decide, by decide, by decide⟩, by decide, by decide, by decide, by decide⟩)))⟩)⟩
theorem witness_InstructionTraps_lane : (reaching (placePage + 0x605D) 0x102).laneAccs 0 [0] (laneAddr 4 1) = [acc 0x102] ∧
    ∀ row cause sub named, (reaching (placePage + 0x605D) 0x102).fails 0 (wantLoad 4) 0x102 row cause sub named → 1 < row ∨ (1 = row ∧ (acc 0x102).gl ≤ (acc 0x102).gl) := by
  refine ⟨rfl, fun row cause sub named h => ?_⟩
  rcases h with ⟨-, rfl, -⟩ | ⟨h, -⟩ | ⟨h, -⟩
  · exact .inr ⟨rfl, Nat.le_refl _⟩
  · exact absurd h (by decide)
  · exact absurd h (by decide)
theorem witness_RefusedOperands : armed.handles 0 0 ∧ armed.acts 0 [0] ∧ armed.refusal (.vadd 1 2 3) 0 0 = some (1, 4) ∧ (armed.slice 0 0).regs.wins = [] ∧
    (armed.slice 0 0).idle ∧ (encode (.vadd 1 2 3)).isSome = true := by unfold State.handles State.acts; decide
theorem witness_RefusedOperands_forms :
    let s := armed.modLaunch 0 fun l => { l with params := { l.params with sregs := 16, vregs := 16, acc := 1 } }
    s.refusal (.sadd 16 0 0) 0 0 = some (1, 3) ∧ s.refusal (.vld 16 0 0 false 0) 0 0 = some (1, 3) ∧ (s.refusal (.mloop 0 0 0 1 false 0) 0 0).isSome = true ∧
    s.refusal (.wait .eq 16 0) 0 0 = some (1, 3) ∧ s.refusal (.ginit 0 16) 0 0 = some (1, 3) ∧ s.refusal (.ginit 0 15) 0 0 = some (1, 2) := by decide
/-- The lookahead check on, and a promise open whose instruction reads v6 and reads and writes v5. -/
def watchful : State := placed.modSlice 0 0 fun v => { v with chunk := { v.chunk with lachk := true }, regs := { v.regs with
  wins := [{ instr := .vmovi 5 0, pc := 0, mode := 0, ks := [0], wrote := [(.v 5, 0)], read := [(.v 6, 0), (.v 5, 0)], lost := [], num := 0, old := false, complete := false, own := none, rest := 0, left := 3 }] } }
theorem witness_RefusedOperands_breach : (watchful.slice 0 0).lachk = true ∧ watchful.refusal (.vrdl 8 5 0) 0 0 = some (9, 0) ∧ watchful.refusal (.vmovi 6 0) 0 0 = some (9, 0) ∧
    watchful.refusal (.vmovi 5 0) 0 0 = none := by decide
theorem witness_FrameLayout : (FMap.find? placed.slices (sliceKey 0 0)).isSome = true ∧ (11 : Nat) < 256 ∧
    ((withR fun r => { r with fpx := 1 }).slice 0 0).regs.fpx &&& ~~~ ((withR fun r => { r with fpx := 1 }).slice 0 0).regs.delivered &&& 1 ≠ 0 := by decide
theorem witness_HandlerAbsent_refusal : placed.refusal (.vadd 1 2 3) 0 0 = some (1, 4) ∧ (encode (.vadd 1 2 3)).isSome = true ∧ (placed.slice 0 0).idle ∧
    (placed.slice 0 0).regs.wins = [] ∧ (∀ e ∈ placed.slices, (placed.team (e.1 / 256)).ctx = 0 → e.2.post = [] ∧ e.2.tell = none) ∧
    ((placed.modSlice 0 0 fun v => { v with handler := true }).slice 0 0).handler = true := by decide
theorem witness_HandlerAbsent : placed.calm 0 0 (.trap 0) ∧ (placed.ctx (placed.team 0).ctx).tvec = 0 ∧ (FMap.find? placed.ctxs 0).isSome = true := by
  unfold State.calm State.acts State.lets; decide

/-! ### Witnesses for the events -/

/-- `placed` with its slice changed. -/
def withSlice (f : Slice → Slice) : State := placed.modSlice 0 0 f
theorem witness_ChunkEventResults_level : ((withSlice fun v => { v with rb := 4 }).slice 0 0).level = 0 ∧
    ((withSlice fun v => { v with level := 1, rb := 8, cm := 63 }).slice 0 0).level = 1 ∧ ((withSlice fun v => { v with level := 2, cm := 64 }).slice 0 0).cm = 64 := by decide
theorem witness_ChunkEventResults_rollback : let s := withSlice fun v => { v with hit := true, rb := 3 }
    s.gangOf 0 0 = some { team := 0, ks := [0], age := 0, wait := none } ∧ (s.slice 0 0).hit = true ∧ (s.slice 0 0).prevHit = false ∧ (s.slice 0 0).due = none ∧
    s.teamCore 0 = some 0 := by decide
/-- The chunk is in commit, and the next one is open. -/
def inCommit (s : State) : State := s.modSlice 0 0 fun v =>
  { v with prev := some { v.chunk with ended := true }, chunk := { v.chunk with ckpt := v.regs, instrs := 0, held := [], wlines := [], rlines := [], code := [], ended := false } }
theorem witness_ChunkEventResults_prev : let s := inCommit stored
    (s.slice 0 0).prev.isSome = true ∧ (s.slice 0 0).prevHit = false ∧ (s.slice 0 0).tell = none ∧ (s.slice 0 0).status = .run ∧ (s.slice 0 0).post = [] ∧
    s.queueRoom 0 (stored.slice 0 0).chunk.held = true ∧ (match s.perform 0 0 (stored.slice 0 0).chunk.held with
      | .ok _ => true
      | .error _ => false) = true ∧ (match (s.modCtx 0 fun c => { c with quota := 0 }).perform 0 0 (stored.slice 0 0).chunk.held with
      | .ok _ => true
      | .error _ => false) = false := by decide
theorem witness_ChunkEventResults_prevHit : let s := (inCommit stored).modSlice 0 0 fun v => { v with prevHit := true }
    (s.slice 0 0).prev.isSome = true ∧ (s.slice 0 0).prevHit = true ∧ s.gangOf 0 0 = some { team := 0, ks := [0], age := 0, wait := none } ∧ (s.slice 0 0).due = none := by decide
theorem witness_ChunkEventResults_commit : let s := stored.modSlice 0 0 fun v => { v with chunk := { v.chunk with ended := true } }
    (s.teamCore 0).isSome = true ∧ (s.slice 0 0).hit = false ∧ (s.slice 0 0).status = .run ∧ (s.slice 0 0).tell = none ∧ (s.slice 0 0).post = [] ∧ (s.slice 0 0).prev = none ∧
    s.queueRoom 0 (s.slice 0 0).chunk.held = true ∧ (match s.commitChunk 0 0 false with
      | .ok _ => true
      | _ => false) = true ∧ (match (s.modCtx 0 fun c => { c with quota := 0 }).commitChunk 0 0 false with
      | .ok _ => true
      | _ => false) = false := by decide
theorem witness_ChunkEventResults_six : ((withSlice fun v => { v with post := [{ pc := 0, num := 0, eff := .range .wb 0 64 0 }] }).slice 0 0).post ≠ [] ∧
    ((withSlice fun v => { v with chunk := { v.chunk with ended := true } }).slice 0 0).chunk.held = [] ∧
    (let sl := (withSlice fun v => { v with tell := some 0 }).slice 0 0
     sl.tell = some 0 ∧ sl.post = [] ∧ sl.prev = none ∧ sl.chunk.ended = false) := by decide
/-- A home gang of two slices: the second has the status `st`, and the gangs are `gs`. -/
def twoOf (st : Status) (gs : List Gang) : State := { placed.modTeam 0 (fun v => { v with slices := 2 }) with
  slices := FMap.put placed.slices 1 { Slice.start (placed.ctx 0) 0 with status := st }, gangs := gs }
def alone0 : Gang := { team := 0, ks := [0], age := 5, wait := none }
def alone1 (w : Option Nat) : Gang := { team := 0, ks := [1], age := 0, wait := w }
/-- The sibling runs on, sleeps, or waits already. -/
theorem witness_RegangWaits : (∀ s ∈ [twoOf .run [alone0, alone1 none], twoOf .run [alone0, alone1 (some 7)]],
      s.acts 0 [0] ∧ s.lets 0 [0] .regang ∧ (∃ g, s.gangs = [] ++ alone0 :: [g] ∧ g.ks ≠ [] ∧ ∀ k ∈ [0], k ∉ g.ks) ∧ (s.slice 0 0).hit = false ∧ (s.slice 0 0).prevHit = false ∧
      (s.slice 0 0).park = none ∧ (s.slice 0 0).status = .run ∧ s.homeLive 0 0 = [0, 1]) ∧
    1 ∉ (twoOf .run [alone0, alone1 none]).arrived 0 0 0 ∧ 1 ∈ (twoOf .run [alone0, alone1 (some 7)]).arrived 0 0 0 ∧
    ((twoOf .run [alone0, alone1 (some 7)]).slice 0 1).hit = false := by
  refine ⟨fun s hs => ?_, by decide, by decide, by decide⟩
  simp only [List.mem_cons, List.not_mem_nil, or_false] at hs
  obtain rfl | rfl := hs
  · exact ⟨by unfold State.acts; decide, by unfold State.lets; decide, ⟨alone1 none, rfl, by decide⟩, by decide⟩
  · exact ⟨by unfold State.acts; decide, by unfold State.lets; decide, ⟨alone1 (some 7), rfl, by decide⟩, by decide⟩
/-- The first has waited 1,024 opportunities; the second runs elsewhere. -/
theorem witness_RegangWaits_limit : let s := twoOf .run [{ alone0 with wait := some 1024 }, alone1 none]
    s.arrived 0 0 0 = [0] ∧ 1 ∈ s.homeLive 0 0 ∧ (∀ g ∈ s.gangs, ∀ g' ∈ s.gangs, g.team = g'.team → (∃ k ∈ g.ks, k ∈ g'.ks) → g = g') ∧
    (∀ g ∈ s.gangs, g.ks ≠ [] ∧ g.ks.Nodup ∧ ∀ k ∈ g.ks, k < 256 ∧ (FMap.find? s.slices (sliceKey g.team k)).isSome = true ∧
      (s.slice g.team k).status ≠ .exited ∧ (s.slice g.team k).stand = (s.slice g.team (g.ks.headD 0)).stand) := by decide


/-- A command of the team's queue. -/
def command (o : MatOp) : MatCmd :=
  { num := 1, slice := 0, core := 0, op := o, steps := 0, wrapped := false, drained := false, flags := 0, bad := none, asked := [], gone := [] }
def queued (o : MatOp) : State := placed.modTeam 0 fun v => { v with queue := [command o], released := 1 }
theorem witness_MatrixEventResults : ∀ o ∈ [MatOp.zero 3, .write 3 127 252 [(3, 7)], .scale 0 0 1], ((queued o).team 0).queue[0]? = some (command o) ∧
    (queued o).mayRun 0 0 = true ∧ (command o).wrapped = false ∧ (command o).bad = none := by decide
/-- A loop of one K-step over e4m3 slots, and a drain of one f32 element to team memory. -/
def oneStep : LoopCmd := { tile := 0, fa := 0x401B, fb := 0x401B, ka := false, params := [0, 0, 0, 0, 1, 0, 0, 0], desc := [] }
def oneElement : List Byte := List.replicate 40 0 ++ [0x8A] ++ List.replicate 23 0
theorem witness_MatrixEventResults_step : (queued (.loop oneStep)).mayRun 0 0 = true ∧ (0 : Nat) < pCount oneStep.params ∧ pDe oneStep.params = false ∧
    (queued (.loop oneStep)).turnOf 0 = true := by decide
/-- Another team of the core has its K-step of this turn to do. -/
theorem witness_MatrixEventResults_turn : let s := (queued (.loop oneStep)).modCore 0 fun c => { c with stepped := [0] }
    ({ s with teams := FMap.put s.teams 1 (s.team 0), launches := s.launches } : State).turnOf 0 = false := by decide
theorem witness_MatrixEventResults_sums : ∀ x ∈ ((queued (.loop oneStep)).team 0).kStep oneStep 0, x.2 = false := by
  intro x hx
  simp only [Team.kStep, List.mem_flatMap, List.mem_map] at hx
  obtain ⟨r, -, q, -, rfl⟩ := hx
  have h : slotFmtCode oneStep.fa ≠ 0 := by decide
  simp [kblockAccumulate, h]
theorem witness_MatrixEventResults_drain : (queued (.drain 0 (List.replicate 8 0) oneElement)).mayRun 0 0 = true ∧
    (command (.drain 0 (List.replicate 8 0) oneElement)).drainOf = some (0, List.replicate 8 0, oneElement) ∧ dDtm oneElement = true ∧ dRes oneElement = false := by decide

/-- A copy of one byte from address 0 to address 0; `b` is byte 17 of its descriptor, with the kinds of its ends. -/
def copying (b : Byte) (f : Engine → Engine) : State :=
  { placed with engines := [(0, f { Engine.blank with team := some 0, ticket := 1, desc := List.replicate 17 0 ++ [b] ++ List.replicate 110 0, done := false })] }
theorem witness_EngineEventResults_read : let s := copying 0 id
    (s.engine 0).done = false ∧ (s.engine 0).stopped = false ∧ (s.engine 0).kind = .copy ∧ (s.engine 0).chan = none ∧ (s.engine 0).bind = .none ∧ (s.engine 0).void = false ∧
    cConv (s.engine 0).desc ≠ 2 ∧ 0 < dataUnits (s.engine 0).desc 0 ∧ (keySectors (s.engine 0).desc 0 0)[0]? = some 0 ∧ cSkind (s.engine 0).desc = false ∧
    s.touch 0 [0] = s ∧ s.poisoned placePage = false ∧ cSkind ((copying 0x80 id).engine 0).desc = true ∧ (copying 0x80 id).resident 0 = true := by decide
theorem witness_EngineEventResults_page : (copying 0 id).threadPage ((copying 0 id).engineWho ((copying 0 id).engine 0)) [] false 0 = .ok page placePage ∧
    isFabric placePage = false := ⟨rfl, by decide⟩
/-- The source sector has been read. -/
def hasSector (v : Engine) : Engine := { v with got := [(0, List.replicate 32 5)] }
theorem witness_EngineEventResults_write : let s := copying 0 hasSector
    0 < unitCount (s.engine 0).desc 0 ∧ (s.engine 0).hasRead 0 = true ∧ (s.engine 0).unitBytes 0 = (.global, [(0, 0xFF, 5)]) ∧ unitSpace (s.engine 0).desc 0 0 = .global ∧
    (match (s.reach (s.engineWho (s.engine 0)) [(0, 0xFF, 5)]).threadWrite (s.engineWho (s.engine 0)) [] [(0, 0xFF, 5)] with
      | .ok w => (w.engine 0).bind == .none
      | _ => false) = true := by decide
theorem witness_EngineEventResults_team : let s := copying 0x10 hasSector
    (s.engine 0).unitBytes 0 = (.team, [(0, 0xFF, 5)]) ∧ unitSpace (s.engine 0).desc 0 0 = .team ∧ s.copyTargets (s.engine 0) = [0] ∧ s.resident 0 = true := by decide
theorem witness_EngineEventResults_done : let s := copying 0 fun v => { v with perf := [0] }
    (s.engine 0).team = some 0 ∧ (s.engine 0).failed = none ∧ s.engineWritten (s.engine 0) = true ∧ s.engineSpilled 0 = false := by decide
theorem witness_EngineEventResults_spill : let s := (copying 0 id).modDie 0 fun d => { d with spill := [{ ctx := 0, engine := some 0, team := none, cmd := 0, bytes := [(0, 0xFF, 5)] }] }
    ((s.die 0).spill[0]?).isSome = true ∧ (match (s.reach (s.engineWho (s.engine 0)) [(0, 0xFF, 5)]).threadWrite (s.engineWho (s.engine 0)) [] [(0, 0xFF, 5)] with
      | .ok w => (w.engine 0).bind == .none
      | _ => false) = true := by decide

/-- A round of a group of one, its contribution read. -/
def round1 : State :=
  { placed with groups := [(0, { members := [{ module := 0, ctx := 0, rank := 0 }], round := 0, isOpen := true })],
                engines := [(0, { Engine.blank with kind := .allred, team := some 0, joined := true, done := false, got := [(0, List.replicate 32 5)],
                                                    desc := List.replicate 32 0 ++ [1, 0, 0, 0, 2] ++ List.replicate 27 0 })] }
theorem witness_AllredRounds : (round1.roundOf 0 0).map (fun e => aRank e.2.desc) = [0] ∧ ((round1.roundOf 0 0).all fun e => e.2.contributed && e.2.failed.isNone) = true ∧
    (∀ m ∈ [({ module := 0, ctx := 0, rank := 0 } : Member)], m.module = round1.module.domain) := by decide

/-- The next page's leaf entry, of the frame after the placed one. -/
def mapNext : LeafMap := { ctx := 0, va := 0x10000, lvl := 0, entry := 0x1000002605D, nodes := [], uio := false, replicas := [] }
def leafNext : Leaf := { addr := placeRoot + 16392, lvl := 0, bits := mapNext.entry }
/-- The trap area and the error log elsewhere. -/
def apart : State := placed.modCtx 0 fun c => { c with trapbase := 0x100000000, logbase := 0x200000000 }
theorem witness_MappingResults : (FMap.find? apart.ctxs 0).isSome = true ∧ canonical mapNext.va = true ∧ entryFrom apart 0x10000 0 4 (apart.ctx 0).root = some (placeRoot + 16392) ∧
    (apart.readWord64 (placeRoot + 16392)).getLsbD 0 = false ∧ mapNext.entry.getLsbD 0 = true ∧ mapNext.entry.getLsbD 6 = true ∧ leafOk apart 0 mapNext.entry = true ∧
    replicasOk leafNext [] = true ∧ (apart.ctx 0).leafFits 0x10000 leafNext = true ∧ ((apart.ctx 0).deviceOwned 0x10000 0x10000) = false ∧ mapNext.nodes = [] ∧
    (apart.ctx 0).mapped + (apart.ctx 0).pagesCounted 0x10000 0 ≤ (apart.ctx 0).promise ∧
    (∀ b ∈ leafBlocks leafNext [], apart.grantable 0 false false b.1 b.2 = true ∧ apart.isHost (4096 * b.2) = false) ∧ apart.grantPays 0 leafNext false (leafBlocks leafNext []) = true ∧
    apart.finishPosts 0 = apart := by decide
theorem witness_MappingResults_unmap : entryFrom placed 0 0 4 (placed.ctx 0).root = some page.addr ∧ (placed.readWord64 page.addr).getLsbD 0 = true ∧
    (placed.readWord64 page.addr).getLsbD 6 = true ∧ placed.finishPosts 0 = placed ∧ (placed.ctx 0).mapped - (placed.ctx 0).pagesCounted 0 0 ≤ (placed.ctx 0).promise := by decide
def missing : State := placed.modDie 0 fun d => { d with fq :=
  [{ seq := 9, merged := 0, core := 0, tslot := 0, mtx := false, eng := false, mal := false, kind := 0, lanes := 1, ctx := 0, page := 1 }] }
theorem witness_MappingResults_answer : (((missing.die 0).fq.find? fun e => e.seq == 9).map (coversFault mapNext)) = some true ∧ (missing.mapLeaf mapNext).isSome = true := by decide

theorem witness_CapacityRequests : (placed.ctx 0).mapped ≤ 1 ∧ placed.promised 0 + 1 ≤ promiseMax ∧ (FMap.find? placed.ctxs 0).isSome = true ∧ placed.askOf 0 = none ∧
    (placed.ctx 0).mailbox.id = 0 ∧ asked.askOf 0 = none ∧ (asked.ctx 0).mailbox.id = 7 ∧ (asked.ctx 0).mailbox.urgency < 3 := by decide
theorem witness_CapacityRequests_pool : (placed.modDie 2 fun d => { d with asks := [(0, 5)] }).askOf 0 = some (2, 5) := by decide
theorem witness_CapacityRequests_raise : let s := (asked.modCtx 0 fun c => { c with openDie := some 1, openFor := 16 }).modDie 1 fun d => { d with poolFail := some 16 }
    (s.ctx 0).openDie = some 1 ∧ (s.ctx 0).mailbox.id ≠ 0 ∧ 16 ≤ (s.ctx 0).openFor ∧ (s.die 1).poolFail = some 16 := by decide
theorem witness_CapacityRequests_expiry : let s := asked.modCtx 0 fun c => { c with openFor := 64, mailbox := { c.mailbox with urgency := 3 } }
    (s.ctx 0).mailbox.id ≠ 0 ∧ (s.ctx 0).mailbox.urgency = 3 ∧ 64 ≤ (s.ctx 0).openFor := by decide

/-- Line 0 of the placed page in the LLC. -/
def line0 : Nat := placePage / 128
def cached (dirty pin : Bool) : State := { placed with llc := [(line0, { dirty := dirty, code := codeB8, sectors := [], pin := pin, stamp := 0 })] }
theorem witness_MemorySystemResults_writeBack : ((FMap.find? (cached false false).llc line0).map fun l => (l.dirty, l.pin)) = some (false, false) ∧
    ((FMap.find? (cached true false).llc line0).map fun l => (l.dirty, l.pin)) = some (true, false) ∧ ((cached true false).block (blockOfLine line0)).bad = false ∧ (cached true false).expanderDown (line0 * 128) = false := by decide
theorem witness_MemorySystemResults_ante : ((State.reset.modDie 0 fun d => { d with antes := [[(0, 127)]] }).die 0).antes.map Pool.size = [127] ∧
    ((State.reset.modDie 0 fun d => { d with antes := [[(0, 1025)]] }).die 0).antes.map Pool.size = [1025] := by decide
/-- The line stored in one sector of a granule. -/
def storedLine : State := placed.setBlock (blockOfLine line0) { placed.block (blockOfLine line0) with codes := [(0, codeB8)], count := 1, ptrs := [77] }
theorem witness_MemorySystemResults_capture : FMap.find? storedLine.llc line0 = none ∧ storedLine.rowLines 0 line0 = [line0] ∧
    (let w : State := { storedLine with llc := FMap.put storedLine.llc line0 { dirty := false, code := codeB8, sectors := [], pin := true, stamp := 0 }, clock := 1 }
     (w.setUse line0).1 ≤ 48 ∧ (w.setUse line0).2 ≤ 64 ∧ (w.placeLine line0).pinnedIn line0 ≤ 4) := by decide
theorem witness_MemorySystemResults_unpin : ((FMap.find? (cached false true).llc line0).map (·.pin)) = some true ∧ ((cached false true).block (blockOfLine line0)).home = 0 ∧
    ((cached false true).rowLines 0 line0).filter (· ≠ line0) = [] := by decide
theorem witness_MemorySystemResults_poison : (placed.block (blockOfLine line0)).bad = false ∧ (placed.block (blockOfLine line0)).owner = some 0 ∧
    ((placed.setBlock 5 { placed.block 5 with bad := true }).block 5).bad = true := by decide

/-- The team before its start, and swapped out. -/
def unstarted : State := (placed.modTeam 0 fun v => { v with place := .ready, started := false, slot := none }).modLaunch 0 fun l => { l with params := { l.params with chan := 0 } }
theorem witness_TeamResults_place : (placed.modTeam 0 fun v => { v with place := .ready }).nextTeam 0 = some 0 ∧
    (placed.modTeam 0 fun v => { v with place := .ready }).coreFor 0 = some 0 ∧ unstarted.nextTeam 0 = some 0 ∧ unstarted.coreFor 0 = some 0 ∧ (unstarted.params 0).chan = 0 := by decide
theorem witness_TeamResults_swap : let s := placed.modCore 0 fun c => { c with worn := true }
    (s.teamCore 0).isSome = true ∧ s.maySwap 0 = true ∧ s.slicer 0 = none ∧ (s.slice 0 0).post = [] ∧ (s.slice 0 0).tell = none ∧ (FMap.find? s.slices (sliceKey 0 0)).isSome = true := by decide
theorem witness_TeamResults_ready : let s := placed.modTeam 0 fun v => { v with place := .swapped }
    (s.team 0).place = .swapped ∧ (s.team 0).awaited = [] ∧ (s.team 0).watch = [] ∧ (s.ctx 0).halted = false ∧ s.watched 0 0 (.cwait 1) ≠ [7] := by decide
/-- A die of one core, whose accumulators the placed team holds; another team of the launch has waited for a quantum. -/
def contended : State :=
  let s := placed.modLaunch 0 fun l => { l with params := { l.params with acc := 4 } }
  { s with cores := [(0, s.core 0)], teams := [(0, { s.team 0 with place := .resident 0 [0] 0 8 }), (1, { s.team 0 with place := .ready, passed := 1 })] }
theorem witness_TeamResults_slice : (contended.teamCore 0).isSome = true ∧ contended.maySwap 0 = true ∧ contended.slicer 0 = some 1 ∧
    (contended.swapAway 0).coreFor 1 = some 0 ∧ (contended.team 1).started = true ∧ (contended.modTeam 1 fun v => { v with passed := 0 }).slicer 0 = none := by decide
theorem witness_TeamResults_retire : (withSlice fun v => { v with status := .exited }).teamOver 0 = true ∧ ((withSlice fun v => { v with status := .exited }).team 0).conds = [] := by decide
theorem witness_TeamResults_floor : let s := (placed.modTeam 0 fun v => { v with place := .ready }).modCtx 0 fun c => { c with absent := [(0, 63)] }
    63 ≤ FMap.get 0 (s.ctx 0).absent 0 ∧ (s.die 0).opps = 0 ∧ ((List.range 8).reverse.flatMap fun p => s.pool 0 p).find? (fun r => (s.team r).ctx == 0 && !s.tableWaits r) = some 0 ∧
    s.coreFor 0 = some 0 := by decide
theorem witness_QuantumResults : 65536 ≤ ((placed.modDie 0 fun d => { d with opps := 65536 }).die 0).opps ∧ placed.teamDie 0 = 0 ∧ (placed.team 0).place = .resident 0 [0] 0 0 := by decide

/-- A queue at 0x400 whose one posted packet has type `k`, with its read-index word at 0x300; its address is 0x800. -/
def hostQueue (ps : List PacketRun) (read : Nat) (w : Option Nat) : HostQueue :=
  { ctx := 0, base := 0x400, exp := 4, rix := 0x300, read := read, posted := 1, packets := ps, waiting := w }
def posted (k : Byte) (v : HostQueue) : State :=
  { placed with queues := [(0, v)], mem := Memory.write (Memory.write placed.mem (placePage + 0x400) k) (placePage + 0x409) 8 }
theorem witness_QueueResults_notify : let v := hostQueue [] 0 none
    v.ahead 16 ≤ 2 ^ v.exp ∧ v.ahead v.posted < v.ahead 16 ∧ 2 ^ v.exp < v.ahead 17 := by decide
theorem witness_QueueResults_packet : ∀ k ∈ [(1 : Byte), 2, 3, 4], (posted k (hostQueue [] 0 none)).queueOpen (hostQueue [] 0 none) = true ∧
    packetOk ((posted k (hostQueue [] 0 none)).vaRun 0 0x400 64) = true ∧ pType ((posted k (hostQueue [] 0 none)).vaRun 0 0x400 64) = k.toNat ∧
    pAfter ((posted k (hostQueue [] 0 none)).vaRun 0 0x400 64) = false := by decide
theorem witness_QueueResults_access : (posted 1 (hostQueue [] 0 none)).cpAccess 0 0x400 64 false = .ok ∧ (posted 1 (hostQueue [] 0 none)).cpAccess 0 0x300 8 true = .ok ∧
    (posted 1 (hostQueue [] 0 none)).targetAccess 0 ((posted 1 (hostQueue [] 0 none)).vaRun 0 0x400 64) = .ok ∧
    (posted 3 (hostQueue [] 0 none)).targetAccess 0 ((posted 3 (hostQueue [] 0 none)).vaRun 0 0x400 64) = .ok := ⟨rfl, rfl, rfl, rfl⟩
theorem witness_QueueResults_refused : packetOk ((posted 9 (hostQueue [] 0 none)).vaRun 0 0x400 64) = false ∧
    ((posted 9 (hostQueue [] 0 none)).appendLog 0 (LogRec.plain 0x0021 3 0x400 0)).queue 0 = hostQueue [] 0 none := by decide
/-- A SIGNAL packet, and a WAITSIG one, consumed. -/
def signalRun (k : Nat) : PacketRun := { idx := 0, kind := k, addr := 0x800, value := 0, cond := 0 }
theorem witness_QueueResults_signal : (hostQueue [signalRun 4] 1 none).signalReady = some (signalRun 4) ∧ (hostQueue [] 0 none).signalReady = none := by decide
theorem witness_QueueResults_reread : let s := (posted 1 (hostQueue [signalRun 3] 1 (some 0))).modCtx 0 fun c => { c with notified := 1 }
    s.queuesOf 0 = [0] ∧ s.graphsOf 0 = [] ∧ codeHolds 0 (s.vaWord 0 0x800) 0 = true ∧ 0 < (s.ctx 0).notified := by decide

/-- A run of a graph whose only node, ready, is `x`, or a LOOP with its body of one node. -/
def graphOf (x : Node) (st : NodeState) : State :=
  { placed with graphs := [(0, { ctx := 0, header := 0, signal := 0, value := 0, sigadd := false, nodes := [x, { Node.blank with kind := 3, deps := 1 }], counts := [0, 1],
                                 states := [st, .done], iters := [0, 0], entered := [true, false], start := none, seen := [0, 0], refused := false, origin := .slice, done := false })] }
def nodeOf (k : Nat) (v : W64) : Node := { Node.blank with kind := k, p0 := 0x800, p1 := v, first := 1, last := 1, max := 3 }
theorem witness_NodeResults : ∀ k ∈ [1, 2, 3, 4, 5, 6], (((graphOf (nodeOf k 0) .idle).graph 0).map fun v => (v.ready 0, (v.node 0).kind)) = some (true, k) := by decide
theorem witness_NodeResults_access : ∀ k ∈ [1, 2, 3, 4, 5, 6], (match (graphOf (nodeOf k 0) .idle).nodeAccess 0 (nodeOf k 0) with
    | .ok => true
    | _ => false) = true := by decide
theorem witness_NodeResults_conditions : (placed.ctx 0).stopped = false ∧ copyNodeOk (placed.vaRun 0 0x800 128) = true ∧ codeHolds 0 (placed.vaWord 0 0x800) 0 = true ∧
    codeHolds 0 (placed.vaWord 0 0x800) 1 = false := by decide
theorem witness_NodeResults_iteration : (((graphOf (nodeOf 6 0) .running).graph 0).map fun v => (v.running 0, v.bodyStill 0, v.refused)) = some (true, true, false) := by decide

def newContext : CtxSpec := { num := 4095, quota := 128, promise := none, prio := 7, root := placeRoot, trapbase := 0, logbase := 0, logExp := 16, shared := false }
theorem witness_ContextResults : FMap.find? State.reset.ctxs newContext.num = none ∧ State.reset.promised newContext.num + (newContext.quota + 127) / 128 ≤ promiseMax ∧
    newContext.root % 4096 = 0 ∧ (∀ b ∈ State.reset.readBytes newContext.root 64, b = 0) ∧ canonical newContext.trapbase = true := by decide
theorem witness_ContextResults_root : ∀ b ∈ State.reset.readBytes newContext.root 4096, b = 0 := by
  have h : ∀ n a, ∀ b ∈ Memory.readBytes [] a n, b = 0 := fun n => by
    induction n with
    | zero => intro a b hb; simp [Memory.readBytes] at hb
    | succ n ih =>
      intro a b hb
      simp only [Memory.readBytes, List.mem_cons] at hb
      exact hb.elim (fun e => e ▸ rfl) (ih _ b)
  exact h 4096 newContext.root
def newQueue : QueueSpec := { num := 131071, ctx := 0, base := 0x400, exp := 4, rix := 0x300 }
theorem witness_ContextResults_queue : FMap.find? placed.queues newQueue.num = none ∧ (FMap.find? placed.ctxs newQueue.ctx).isSome = true ∧
    newQueue.base.toNat % (64 * 2 ^ newQueue.exp) = 0 ∧ canonical newQueue.base = true ∧ newQueue.rix.toNat % 8 = 0 := by decide

/-- The placed block mapped SYS, or its NPA range below the module's own memory. -/
def sysBlock (sys : Nat) : State := State.reset.setBlock 3 { Block.blank with owner := some 0, sys := sys }
theorem witness_HostResults : (12288 : Nat) % 64 = 0 ∧ (12288 : Nat) < 1536000000000 ∧ (sysBlock 1).hostMay 12288 = true ∧ ((sysBlock 0).block (blockOf 12288)).owner = some 0 ∧
    ((sysBlock 0).block (blockOf 12288)).sys = 0 ∧ ((sysBlock 1).block (blockOf 12288)).bad = false ∧ codePoisoned ((sysBlock 1).lineCode (lineOf 12288)) = false ∧
    State.reset.isHost 12288 = false := by decide

theorem witness_ModuleEventResults : State.reset.groups.length < 256 ∧ FMap.find? State.reset.groups 0xFFFFFFFF = none ∧ State.reset.coreOf 3 15 = some 69 ∧
    State.reset.residents 69 = [] ∧ State.reset.spareOf 3 = some 70 ∧ ((State.reset.modCore 69 fun c => { c with worn := true }).core 69).worn = true := by decide
/-- An LLC set's counter of errors, and a worn core's; a group of spares used. -/
theorem witness_ModuleEventResults_health :
    (FMap.get 0 State.reset.module.health (partKey false 0 (.llcSet 65))) ≤ (State.reset.module.boot.getD defaultBoot).health.getD (partKind (.llcSet 65)) 0 ∧
    (∀ o ∈ State.reset.module.latestMap.llcSets, o / 64 ≠ 65 / 64) ∧ State.reset.coreOf 0 3 = some 3 ∧
    (State.reset.spareOf 0).isSome = true ∧ ({ State.reset.module.latestMap with llcSets := [64] } : RepairMap).llcSets ≠ [] := by decide
theorem witness_ModuleEventResults_group : let s : State := { State.reset with groups := [(5, { members := [{ module := 0, ctx := 0, rank := 0 }], round := 0, isOpen := false })] }
    (FMap.find? s.groups 5).isSome = true ∧ s.inFlight 5 = [] := by decide
theorem witness_ModuleEventResults_expander : let s : State := { State.reset with expanders := [(2, { first := 0, blocks := 16, pool := [], failed := false })] }
    ((FMap.find? s.expanders 2).map (·.failed)) = some false := by decide

theorem witness_ManagementResults : (1600 : Nat) ≤ 2550 ∧ (2550 : Nat) ≤ 2600 ∧ 2550 % 50 = 0 ∧ State.reset.module.inReset = false ∧
    ({ State.reset.module with bootA := none, bootB := none } : Module).chooseBoot = none := by decide
/-- Images are accepted where their signatures are good under the module's keys, which the model leaves open. -/
theorem witness_ManagementResults_images (h : State.reset.module.acceptsBoot defaultBoot = true) (h' : State.reset.module.acceptsMap defaultMap = true) :
    State.reset.module.chooseBoot = some defaultBoot ∧ State.reset.module.chooseMap = some defaultMap :=
  ⟨by simp [Module.chooseBoot, newer, olderA, Option.filter, show State.reset.module.bootA = some defaultBoot from rfl, show State.reset.module.bootB = none from rfl, h],
    by simp [Module.chooseMap, newer, olderA, Option.filter, show State.reset.module.mapA = some defaultMap from rfl, show State.reset.module.mapB = none from rfl, h']⟩

end Sys2Proof.Tests
end

section
/-! SUPPORT. Storage granted to a new owner (R23, R188): what a table holds at the keys that a filter keeps, memory after a range is
cleared, the entry of a block after granules are drawn and attached, and the grant of a block that nobody has. -/

namespace Sys2Proof.Machine

/-! ### Tables by their keys -/

/-- A key that no entry has reads as the default. -/
theorem FMap.get_of_forall_ne {α : Type} (d : α) {m : FMap α} {i : Nat} (h : ∀ e ∈ m, e.1 ≠ i) : FMap.get d m i = d := by
  induction m with
  | nil => rfl
  | cons e m ih =>
    rw [FMap.get, if_neg (h e List.mem_cons_self)]
    exact ih fun e' he' => h e' (List.mem_cons_of_mem _ he')

/-- A filter by key leaves the kept keys' values and blanks the others, whatever the order of the entries. -/
theorem FMap.get_filter_key {α : Type} (d : α) (m : FMap α) (p : Nat → Bool) (i : Nat) :
    FMap.get d (m.filter fun e => p e.1) i = if p i = true then FMap.get d m i else d := by
  induction m with
  | nil => simp
  | cons e m ih =>
    obtain ⟨k, v⟩ := e
    by_cases hk : k = i
    · subst hk
      by_cases hp : p k = true <;> simp [FMap.get, hp, ih]
    · by_cases hp : p k = true <;> simp [FMap.get, hk, hp, ih]

/-- The table that gives every listed key one value. -/
theorem FMap.get_map_const {α : Type} (d v : α) {ks : List Nat} {i : Nat} (h : i ∈ ks) :
    FMap.get d (ks.map fun k => (k, v)) i = v := by
  induction ks with
  | nil => cases h
  | cons k ks ih =>
    by_cases hk : k = i
    · simp [FMap.get, hk]
    · have hi : i ∈ ks := (List.mem_cons.mp h).resolve_left (Ne.symm hk)
      simp [FMap.get, hk, ih hi]

/-! ### Memory after a range is cleared -/

theorem Memory.read_clear (m : Memory) (lo n a : Nat) :
    Memory.read (m.clear lo n) a = if lo ≤ a ∧ a < lo + n then 0 else Memory.read m a := by
  have hkey := FMap.get_filter_key Memory.blank m (fun k => !(decide (lo ≤ k) && decide (k < lo + n))) a
  rw [Memory.read, Memory.clear, hkey]
  by_cases h : lo ≤ a ∧ a < lo + n
  · rw [if_pos h, if_neg (by simp [h])]
    rfl
  · rw [if_neg h, if_pos (by simp only [← Bool.decide_and, h]; rfl)]
    rfl

/-! ### Granules drawn and attached -/

@[simp] theorem State.setBlock_block_same (s : State) (b : Nat) (v : Block) : (s.setBlock b v).block b = v :=
  FMap.get_set_eq Block.blank s.blocks b v

@[simp] theorem Pool.take_zero (p : Pool) : (p.take 0).1 = [] := by
  cases p <;> rfl

@[simp] theorem takeAntes_zero (ps : List Pool) : (takeAntes ps 0).1 = [] := by
  induction ps with
  | nil => rfl
  | cons p ps ih => simp [takeAntes, ih]

/-- A draw takes from pools alone, and no granule where none is needed. -/
theorem State.draw_spec (s : State) (b n : Nat) :
    (s.draw b n).2.mem = s.mem ∧ (s.draw b n).2.blocks = s.blocks ∧ (n = 0 → (s.draw b n).1 = []) := by
  unfold State.draw
  cases s.expanderOf b with
  | none => exact ⟨rfl, rfl, by rintro rfl; simp⟩
  | some x =>
    cases hx : FMap.find? s.expanders x with
    | none => simp [hx]
    | some e =>
      by_cases hf : e.failed = true
      · simp [hx, hf]
      · simp only [hx, hf, Bool.false_eq_true, if_false, true_and]
        rintro rfl
        exact e.pool.take_zero

@[simp] theorem State.draw_mem (s : State) (b n : Nat) : (s.draw b n).2.mem = s.mem := (s.draw_spec b n).1

@[simp] theorem State.draw_block_read (s : State) (b n b' : Nat) : (s.draw b n).2.block b' = s.block b' := by
  obtain ⟨-, hblocks, -⟩ := s.draw_spec b n
  rw [State.block, hblocks]
  rfl

@[simp] theorem State.draw_zero (s : State) (b : Nat) : (s.draw b 0).1 = [] := by
  obtain ⟨-, -, hzero⟩ := s.draw_spec b 0
  exact hzero rfl

@[simp] theorem State.occupy_mem (s : State) (o : Option Nat) (up down : Nat) : (s.occupy o up down).mem = s.mem := by
  cases o <;> rfl

@[simp] theorem State.occupy_block_read (s : State) (o : Option Nat) (up down b : Nat) : (s.occupy o up down).block b = s.block b := by
  cases o <;> rfl

@[simp] theorem State.attach_mem (s : State) (b : Nat) (gs : List Nat) : (s.attach b gs).mem = s.mem := by
  unfold State.attach
  by_cases h : gs.isEmpty = true <;> simp [h]

/-- Granules attached change a block's count and pointers and no other part of its entry. -/
theorem State.attach_block_same (s : State) (b : Nat) (gs : List Nat) :
    (s.attach b gs).block b = { s.block b with count := (s.block b).count + gs.length, ptrs := (s.block b).ptrs ++ gs } := by
  unfold State.attach
  cases gs with
  | nil => simp
  | cons g gs => simp

/-! ### A block that nobody has -/

theorem State.unused_iff (s : State) (b : Nat) :
    s.unused b = true ↔ (s.block b).owner = none ∧ (s.block b).lent = none ∧ (s.block b).count = 0 ∧ (s.block b).codes = [] ∧
      (s.block b).bad = false ∧ ∀ e ∈ s.mem, e.1 / 4096 ≠ b := by
  simp [State.unused, and_assoc]

/-- A block without an owner, and lent to no context, may be mapped only where nothing is held in it. -/
theorem State.unused_of_grantable {s : State} {c d b : Nat} {own uio : Bool} (hg : s.grantable c own uio d b = true)
    (ho : (s.block b).owner = none) (hl : (s.block b).lent = none) : s.unused b = true := by
  cases own <;> simpa [State.grantable, ho, hl] using hg

theorem State.read_of_unused {s : State} {b : Nat} (h : s.unused b = true) {a : Nat} (ha : a / 4096 = b) : Memory.read s.mem a = 0 := by
  obtain ⟨-, -, -, -, -, hmem⟩ := (s.unused_iff b).mp h
  exact FMap.get_of_forall_ne Memory.blank fun e he hea => hmem e he (hea ▸ ha)

/-- The entry that a block nobody has is given before granules are attached to it. -/
def Block.granted (c : Nat) (own : Bool) (l : Leaf) (uio : Bool) (d : Nat) : Block :=
  { Block.blank with owner := if own then none else some c, lent := if own then some c else none, home := d, gp := l.gp, rep := l.rep,
                     sys := if l.cc == Cc.sys then 1 else 0, uio := uio, pinned := l.gp,
                     codes := if uio then (List.range 32).map fun i => (i, codeRaw) else [] }

theorem Block.granted_code (c : Nat) (own : Bool) (l : Leaf) (uio : Bool) (d : Nat) {i : Nat} (hi : i < 32) :
    FMap.get 0 (Block.granted c own l uio d).codes i = if uio then codeRaw else codeZero := by
  cases uio with
  | false => rfl
  | true => exact FMap.get_map_const 0 codeRaw (List.mem_range.mpr hi)

/-- The state in which a block nobody has is cleared and given its entry. -/
def State.entered (s : State) (c : Nat) (own : Bool) (l : Leaf) (uio : Bool) (d b : Nat) : State :=
  { s with mem := s.mem.clear (b * 4096) 4096 }.setBlock b (Block.granted c own l uio d)

/-- The granules that the grant of a block nobody has draws. -/
def State.grantDraw (s : State) (c : Nat) (own : Bool) (l : Leaf) (uio : Bool) (d b : Nat) : List Nat × State :=
  (s.entered c own l uio d b).draw b (s.grantNeed l uio b)

theorem State.grantBlock_of_unused {s : State} {b : Nat} (h : s.unused b = true) (c : Nat) (own : Bool) (l : Leaf) (uio : Bool) (d : Nat) :
    s.grantBlock c own l uio d b = (s.grantDraw c own l uio d b).2.attach b (s.grantDraw c own l uio d b).1 := by
  unfold State.grantBlock
  rw [if_pos h]
  rfl

theorem State.grantBlock_mem {s : State} {b : Nat} (h : s.unused b = true) (c : Nat) (own : Bool) (l : Leaf) (uio : Bool) (d : Nat) :
    (s.grantBlock c own l uio d b).mem = s.mem.clear (b * 4096) 4096 := by
  rw [State.grantBlock_of_unused h]
  simp [State.grantDraw, State.entered]

theorem State.grantBlock_block {s : State} {b : Nat} (h : s.unused b = true) (c : Nat) (own : Bool) (l : Leaf) (uio : Bool) (d : Nat) :
    (s.grantBlock c own l uio d b).block b =
      { Block.granted c own l uio d with count := (s.grantDraw c own l uio d b).1.length, ptrs := (s.grantDraw c own l uio d b).1 } := by
  rw [State.grantBlock_of_unused h, State.attach_block_same]
  simp [State.grantDraw, State.entered, Block.granted, Block.blank]

/-- A block that is neither to be pinned nor uncompressible-IO is granted without a granule. -/
theorem State.grantDraw_plain (s : State) (c : Nat) (own : Bool) (l : Leaf) (d b : Nat) (hgp : l.gp = false) :
    (s.grantDraw c own l false d b).1 = [] := by
  simp [State.grantDraw, State.grantNeed, hgp]

/-! ### Teams and slices before they start -/

@[simp] theorem Team.ofLaunch_tmem (l c : Nat) (r : LaunchRec) (i stage : Nat) : (Team.ofLaunch l c r i stage).tmem = [] := rfl
@[simp] theorem Team.ofLaunch_acc (l c : Nat) (r : LaunchRec) (i stage : Nat) : (Team.ofLaunch l c r i stage).acc = [] := rfl
@[simp] theorem Team.ofLaunch_scale (l c : Nat) (r : LaunchRec) (i stage : Nat) : (Team.ofLaunch l c r i stage).scale = [] := rfl
@[simp] theorem Team.ofLaunch_bstore (l c : Nat) (r : LaunchRec) (i stage : Nat) : (Team.ofLaunch l c r i stage).bstore = [] := rfl

@[simp] theorem Slice.start_regs (c : Ctx) (pc : W64) : (Slice.start c pc).regs = { Regs.blank with pc := pc } := rfl

/-! ### The statement -/

/-- What the grant of a block that nobody has leaves in it, and that no other block's bytes change (R188). -/
theorem State.grantBlock_fresh {s : State} {b : Nat} (h : s.unused b = true) (c : Nat) (own uio : Bool) (d : Nat) (l : Leaf) :
    let w := s.grantBlock c own l uio d b
    (∀ i < 32, FMap.get 0 (w.block b).codes i = if uio then codeRaw else codeZero) ∧ (∀ a, a / 4096 = b → Memory.read w.mem a = 0) ∧
      (∀ a, a / 4096 ≠ b → Memory.read w.mem a = Memory.read s.mem a) ∧ (w.block b).owner = (if own then none else some c) ∧
      (w.block b).home = d ∧ (w.block b).bad = false ∧ (l.gp = false → uio = false → (w.block b).count = 0) := by
  simp only [State.grantBlock_mem h, State.grantBlock_block h]
  refine ⟨fun i hi => Block.granted_code c own l uio d hi, ?_, ?_, rfl, rfl, rfl, ?_⟩
  · intro a ha
    rw [Memory.read_clear, if_pos (by omega)]
  · intro a ha
    rw [Memory.read_clear, if_neg (by omega)]
  · rintro hgp rfl
    simp [State.grantDraw_plain s c own l d b hgp]

/-- A team of a launch holds nothing in its memories before it starts (R23). -/
theorem Team.ofLaunch_zero (l c : Nat) (r : LaunchRec) (i stage : Nat) :
    let v := Team.ofLaunch l c r i stage
    (∀ a n, v.readBytes a n = List.replicate n 0) ∧ (∀ x m n, v.element x m n = 0) ∧ (∀ a, FMap.get 0 v.scale a = 0) ∧
      ∀ a, FMap.get 0 v.bstore a = 0 :=
  ⟨fun a n => by simp [Team.readBytes], fun x m n => by simp [Team.element], fun a => by simp, fun a => by simp⟩

/-- Settles O9. An ownerless, unlent block is grantable only if `unused`, so its grant takes the first branch of `grantBlock`;
a team's memories and a slice's registers are empty tables. -/
theorem newStorage : Obligations.NewStorage := by
  refine ⟨fun s c d b own uio hg ho hl => ?_, Team.ofLaunch_zero, fun c pc => ?_⟩
  · have hu : s.unused b = true := State.unused_of_grantable hg ho hl
    obtain ⟨-, -, hcount, hcodes, -, -⟩ := (s.unused_iff b).mp hu
    exact ⟨hcount, fun i => by rw [hcodes]; rfl, fun a ha => State.read_of_unused hu ha, State.grantBlock_fresh hu c own uio d⟩
  · exact ⟨fun _ _ => rfl, fun _ _ _ _ => rfl, fun _ _ => rfl, rfl, rfl⟩

end Sys2Proof.Machine
end

section
/-! SUPPORT. Register files (R31) and special registers (R43, R45, R91): a register read after a write, an instruction on registers
alone as `State.sets`, the checkpoint that a rollback puts back, and the SRD of %clk as a closer. -/

namespace Sys2Proof.Machine

/-! ### A register read after a write (R31) -/

@[simp] theorem Regs.getS_setS (r : Regs) (n m : Nat) (x : W64) : (r.setS n x).getS m = if m = n then x else r.getS m :=
  FMap.get_set 0 r.s n m x

@[simp] theorem Regs.getP_setP (r : Regs) (n m : Nat) (x : Lanes) : (r.setP n x).getP m = if m = n then x else r.getP m :=
  FMap.get_set 0 r.p n m x

/-- A lane of a vector register has a key of its own. -/
theorem laneKey_inj {n l m j : Nat} (hl : l < 4) (hj : j < 4) : 4 * m + j = 4 * n + l ↔ m = n ∧ j = l := by omega

theorem Regs.getV_setV (r : Regs) {n l m j : Nat} (x : W32) (hl : l < 4) (hj : j < 4) :
    (r.setV n l x).getV m j = if m = n ∧ j = l then x else r.getV m j := by
  simp only [← laneKey_inj hl hj]
  exact FMap.get_set 0 r.v (4 * n + l) (4 * m + j) x

/-! ### Instructions on registers alone -/

/-- An instruction issued on registers alone, without a memory operand, sets each slice's registers to what its function answers. -/
theorem State.sets_of_issueRegs {s : State} {t : Nat} {ks : List Nat} {i : Instr} {f : Nat → Regs → Regs}
    {g : State → Nat → Nat → Regs → Except Trap Regs} (ha : s.acts t ks) (hm : touchesMemory i = false)
    (he : exec i s = issueRegs i g s) (hg : ∀ k ∈ ks, g s t k (s.slice t k).regs = .ok (f k (s.slice t k).regs)) :
    s.sets t ks i f := by
  intro hl
  rw [he]
  exact issueRegs_effect ha hl hm fun k hk => ⟨_, hg k hk, rfl⟩

theorem branchTarget_eq (pc : W64) {n : Nat} (d : BitVec n) : branchTarget pc d = pc + 4 + 4 * d.signExtend 64 := by
  rw [branchTarget, BitVec.mul_comm]

theorem exec_call (d : BitVec 22) (s : State) :
    exec (.call d) s = issueRegs (.call d) (fun _ _ _ r => .ok ((r.setS 63 (r.pc + 4)).setPc (branchTarget r.pc d))) s := rfl

/-- CALL writes the return address to s63 and branches (R95). -/
theorem State.call_sets {s : State} {t : Nat} {ks : List Nat} (ha : s.acts t ks) (d : BitVec 22) :
    s.sets t ks (.call d) fun _ r => (r.setS 63 (r.pc + 4)).setPc (r.pc + 4 + 4 * d.signExtend 64) :=
  State.sets_of_issueRegs ha rfl (exec_call d s) fun _ _ => by rw [branchTarget_eq]

theorem exec_ret (s : State) : exec .ret s = jumpOp .ret 63 s := rfl

/-- RET jumps to s63, where that is aligned in every slice (R27, R95). -/
theorem State.ret_sets {s : State} {t : Nat} {ks : List Nat} (ha : s.acts t ks)
    (hal : ∀ k ∈ ks, ((s.slice t k).regs.getS 63).toNat % 4 = 0) : s.sets t ks .ret fun _ r => r.setPc (r.getS 63) := by
  refine State.sets_of_issueRegs ha rfl (exec_ret s) fun k hk => ?_
  exact if_neg (not_not.mpr (hal k hk))

/-- SRD of a special register that is not %clk. -/
theorem State.srd_sets {s : State} {t : Nat} {ks : List Nat} (ha : s.acts t ks) (d : Nat) {n : Nat} (hn : n ≠ 0x00F) :
    s.sets t ks (.srd d n) fun k r => (r.setS d (specialValue s t k r n)).adv :=
  State.sets_of_issueRegs ha rfl (if_neg hn) fun _ _ => rfl

theorem exec_swr (a n : Nat) (s : State) :
    exec (.swr a n) s = issueRegs (.swr a n) (fun _ _ _ r => .ok
      { r with fpx := (r.getS a).setWidth 6, delivered := r.delivered &&& (r.getS a).setWidth 6, pc := r.pc + 4 }) s := rfl

/-- SWR writes the flags and narrows the delivered mask of each slice of its gang, and of no other (R45). -/
theorem State.swr_sets {s : State} {t : Nat} {ks : List Nat} (ha : s.acts t ks) (a n : Nat) :
    s.sets t ks (.swr a n) fun _ r =>
      { r with fpx := (r.getS a).setWidth 6, delivered := r.delivered &&& (r.getS a).setWidth 6, pc := r.pc + 4 } :=
  State.sets_of_issueRegs ha rfl (exec_swr a n s) fun _ _ => rfl

/-- %core reads as the number of the team's core on its die (R43). -/
theorem specialValue_coreNum {s : State} {t c m : Nat} (k : Nat) (r : Regs) (hc : s.teamCore t = some c) (hm : (s.core c).num = some m) :
    specialValue s t k r 0x00C = BitVec.ofNat 64 m := by
  have hnum : s.coreNum t = m := by simp [State.coreNum, hc, hm]
  rw [← hnum]
  rfl

/-! ### Rollback (R20, R205) -/

/-- A rollback puts back the registers that the checkpoint of the undone chunk saved: that of the chunk in commit where it has been
hit and there is one, else that of the open chunk. -/
theorem Slice.rolledBack_regs (v : Slice) : v.rolledBack.regs = v.undone.ckpt := by
  have hr : v.rolledBack.regs = (if v.prevHit then v.fallBack else v).chunk.ckpt := rfl
  rw [hr, Slice.undone]
  cases v.prevHit with
  | false => rfl
  | true => cases hp : v.prev <;> simp [Slice.fallBack, hp]

theorem State.rollbackSlice_slice (s : State) (t k : Nat) :
    (s.rollbackSlice t k).slice t k = (s.modSlice t k Slice.rolledBack).slice t k := by
  unfold State.rollbackSlice
  cases s.teamCore t <;> rfl

theorem State.rollbackSlice_regs {s : State} {t k : Nat} (hk : (FMap.find? s.slices (sliceKey t k)).isSome = true) :
    ((s.rollbackSlice t k).slice t k).regs = (s.slice t k).undone.ckpt := by
  rw [State.rollbackSlice_slice, State.slice_modSlice_self _ hk, Slice.rolledBack_regs]

/-! ### %clk (R91) -/

/-- The clock that goes on is a core's, and its number of clocks a free value: nothing else changes. -/
theorem State.clockOn_rest (s : State) : s.clockOn = { s with cores := s.clockOn.cores, draws := s.clockOn.draws } := by
  unfold State.clockOn
  split <;> rfl

/-- No core's clock and no free value decides whether a slice is calm. -/
theorem State.calm.clockOn {s : State} {t k : Nat} {i : Instr} (h : s.calm t k i) : s.clockOn.calm t k i := by
  rw [s.clockOn_rest]
  exact h

/-- The clock is read off the core, whatever becomes of a slice. -/
theorem Became.clockValue {s u : State} {t k : Nat} {X : Slice} (h : Became s u t k X) (t' : Nat) : u.clockValue t' = s.clockValue t' := by
  rw [h.rest]
  rfl

/-- SRD of %clk in a calm slice: its closer writes the value of the clock that has gone on (R91, log entry 27). -/
theorem State.srdClk_closes (s : State) (t k d : Nat) :
    s.closes t k (.srd d 0x00F) s.clockOn fun r => (r.setS d (s.clockOn.clockValue t)).adv := by
  intro hc
  have hslice : s.clockOn.slice t k = s.slice t k := by rw [s.clockOn_rest]; rfl
  obtain ⟨-, -, -, hflags, -⟩ := hc.clockOn
  rw [← hslice]
  refine issueCloser_calm (g := fun r => (r.setS d (s.clockOn.clockValue t)).adv) hc.clockOn rfl (fun v hv => ⟨_, rfl, ?_⟩)
    rfl hflags (fun _ => rfl) rfl
  refine (hv.modSlice _).congr ?_
  rw [hv.clockValue, hv.slice]
  rfl

/-! ### The statements -/

/-- Settles O7. A write to a table of registers is read at its own key alone; CALL and RET are issued on registers alone. -/
theorem registerFiles : Obligations.RegisterFiles :=
  ⟨fun r n m x _ _ => r.getS_setS n m x, fun r _ _ _ _ x _ hl _ hj => r.getV_setV x hl hj, fun r n m x _ _ => r.getP_setP n m x,
    fun _ _ _ ha d => ⟨State.call_sets ha d, State.ret_sets ha⟩⟩

/-- Settles O14. SRD and SWR are issued on registers alone, but for %clk, a closer that first lets the clock go on; a rollback
restores the registers of the undone chunk's checkpoint, %fpx among them. -/
theorem specialRegisterAccess : Obligations.SpecialRegisterAccess := by
  refine ⟨fun s t ks ha d a n => ⟨State.srd_sets ha d, State.swr_sets ha a n⟩, fun s t k d hc => ?_, fun s t k hk => ?_, fun s t k r n => ?_⟩
  · obtain ⟨u, hu, hleaves, -⟩ := s.srdClk_closes t k d hc
    exact ⟨u, hu, congrArg Slice.regs hleaves.slice⟩
  · rw [State.rollbackSlice_regs hk]
  · refine ⟨?_, ?_, ?_, ?_, ?_, ?_, ?_, ?_, ?_, ?_, ?_, ?_, ?coreNum, ?_, ?_, ?_⟩
    case coreNum =>
      rintro c m rfl hc hm
      exact specialValue_coreNum k r hc hm
    all_goals
      rintro rfl
      rfl

end Sys2Proof.Machine
end

section
/-! SUPPORT. Where a launch's teams stand (R317): coordinates and linear index, the die of a team, the cores of a die. -/

namespace Sys2Proof.Machine

/-! ### The coordinates of a linear index -/

@[simp] theorem Team.ofLaunch_x (l c : Nat) (r : LaunchRec) (i stage : Nat) : (Team.ofLaunch l c r i stage).x = i % r.nx := rfl
@[simp] theorem Team.ofLaunch_y (l c : Nat) (r : LaunchRec) (i stage : Nat) : (Team.ofLaunch l c r i stage).y = i / r.nx % r.ny := rfl
@[simp] theorem Team.ofLaunch_z (l c : Nat) (r : LaunchRec) (i stage : Nat) : (Team.ofLaunch l c r i stage).z = i / (r.nx * r.ny) := rfl
@[simp] theorem Team.ofLaunch_stage (l c : Nat) (r : LaunchRec) (i stage : Nat) : (Team.ofLaunch l c r i stage).stage = stage := rfl

/-- The linear index of the coordinates that a team gets is the one it was made from: a number in the mixed base (nx, ny). -/
theorem Team.ofLaunch_linear (l c : Nat) (r : LaunchRec) (i stage : Nat) :
    let v := Team.ofLaunch l c r i stage
    v.x + r.nx * (v.y + r.ny * v.z) = i := by
  have hy : i / r.nx % r.ny + r.ny * (i / (r.nx * r.ny)) = i / r.nx := by
    rw [← Nat.div_div_eq_div_mul, Nat.mod_add_div]
  simp only [Team.ofLaunch_x, Team.ofLaunch_y, Team.ofLaunch_z, hy, Nat.mod_add_div]

/-! ### The cores of a die -/

/-- A core that has a number on a die is one of the die's 18 as fabricated. -/
theorem State.coreOf_die {s : State} {d n c : Nat} (h : s.coreOf d n = some c) : c / 18 = d := by
  obtain ⟨e, he, rfl⟩ := Option.map_eq_some_iff.mp h
  have hfound := List.find?_some he
  simp only [Bool.and_eq_true, beq_iff_eq] at hfound
  exact hfound.1

theorem State.coresOf_die {s : State} {d c : Nat} (h : c ∈ s.coresOf d) : c / 18 = d := by
  obtain ⟨n, -, hn⟩ := List.mem_filterMap.mp (List.mem_of_mem_filter h)
  exact State.coreOf_die hn

/-- A team is placed on a core of its own die. -/
theorem State.coreFor_die {s : State} {t c : Nat} (h : s.coreFor t = some c) : c / 18 = s.teamDie t :=
  State.coresOf_die (List.mem_of_find?_eq_some h)

/-! ### The statement -/

/-- Settles O8. The coordinates are the digits of the linear index; the core found for a team is one of its die's; the die of a
team and the priority of a launch are defined as R317 gives them. -/
theorem launchPlaces : Obligations.LaunchPlaces := by
  refine ⟨fun l c r i stage hx hy hi => ?_, fun s t => ⟨rfl, fun c => State.coreFor_die⟩, fun _ _ => rfl⟩
  have hz : i / (r.nx * r.ny) < r.nz := Nat.div_lt_of_lt_mul hi
  exact ⟨Team.ofLaunch_linear l c r i stage, Nat.mod_lt i hx, Nat.mod_lt (i / r.nx) hy, hz, Team.ofLaunch_stage l c r i stage⟩

end Sys2Proof.Machine
end

section
/-! SUPPORT. The trap frame (R328): its fields, each a width in bytes and a number, and where they lie in its bytes; the frames of a
capacity fault (R180) and of a floating-point trap (R83). -/

namespace Sys2Proof.Machine

/-! ### Little-endian fields in a row (R3) -/

@[simp] theorem leBytes_length (k n : Nat) : (leBytes k n).length = k := by
  induction k generalizing n with
  | zero => rfl
  | succ k ih => simp [leBytes, ih]

theorem leNat_leBytes (k n : Nat) : leNat (leBytes k n) = n % 256 ^ k := by
  induction k generalizing n with
  | zero => simp [leBytes, leNat, Nat.mod_one]
  | succ k ih => rw [leBytes, leNat, ih, BitVec.toNat_ofNat, Nat.pow_succ' (m := 256), Nat.mod_mul]

/-- Numbers one after another, each in its own width of bytes. -/
def packed (fs : List (Nat × Nat)) : List Byte := fs.flatMap fun x => leBytes x.1 x.2

@[simp] theorem packed_length (fs : List (Nat × Nat)) : (packed fs).length = (fs.map Prod.fst).sum := by
  simp [packed, List.length_flatMap]

/-- A field lies behind the widths of the fields before it. -/
theorem field_packed {fs : List (Nat × Nat)} {j n x : Nat} (h : fs[j]? = some (n, x)) (rest : List Byte) :
    field (packed fs ++ rest) ((fs.map Prod.fst).take j).sum n = x % 256 ^ n := by
  obtain ⟨hj, hx⟩ := List.getElem?_eq_some_iff.mp h
  have hsplit : packed fs ++ rest = packed (fs.take j) ++ (leBytes n x ++ (packed (fs.drop (j + 1)) ++ rest)) := by
    conv_lhs => rw [← List.take_append_drop j fs, List.drop_eq_getElem_cons hj, hx]
    simp [packed]
  rw [field, hsplit, ← List.map_take, List.drop_left' (packed_length _), List.take_left' (leBytes_length n x), leNat_leBytes]

/-! ### The bytes of a frame (R328) -/

/-- The fields of a frame in the order of their addresses, the reserved bytes apart. -/
def Frame.fields (f : Frame) (r : Regs) : List (Nat × Nat) :=
  ((List.range 8).map fun i => (8, (r.getS i).toNat)) ++
  [(8, f.pc.toNat), (8, f.cpc.toNat), (8, f.addr.toNat), (4, f.word.toNat), (4, f.info.toNat), (2, r.mode.toNat),
   (1, (r.getP 0).toNat + 16 * (r.getP 1).toNat), (1, f.cause), (1, f.sub), (1, f.lane)]

theorem Frame.bytes_eq (f : Frame) (r : Regs) : f.bytes r = packed (f.fields r) ++ List.replicate 26 0 := by
  simp [Frame.bytes, Frame.fields, packed, List.flatMap_append, List.flatMap_map]

/-- The widths of a frame's fields, the same for every frame. -/
def frameWidths : List Nat := [8, 8, 8, 8, 8, 8, 8, 8, 8, 8, 8, 4, 4, 2, 1, 1, 1, 1]

theorem Frame.fields_widths (f : Frame) (r : Regs) : (f.fields r).map Prod.fst = frameWidths := rfl

theorem Frame.packed_fields_length (f : Frame) (r : Regs) : (packed (f.fields r)).length = 102 := by
  rw [packed_length, f.fields_widths]
  rfl

theorem Frame.bytes_length (f : Frame) (r : Regs) : (f.bytes r).length = 128 := by
  rw [f.bytes_eq, List.length_append, f.packed_fields_length, List.length_replicate]

theorem Frame.bytes_reserved (f : Frame) (r : Regs) : (f.bytes r).drop 102 = List.replicate 26 0 := by
  rw [f.bytes_eq, List.drop_left' (f.packed_fields_length r)]

/-- A number that fits its field reads back. -/
theorem Frame.field_bytes (f : Frame) (r : Regs) (j : Nat) {n x : Nat} (h : (f.fields r)[j]? = some (n, x)) (hx : x < 256 ^ n) :
    field (f.bytes r) (frameWidths.take j).sum n = x := by
  rw [f.bytes_eq, ← f.fields_widths r, field_packed h, Nat.mod_eq_of_lt hx]

/-- A word of 64 bits reads back. -/
theorem Frame.field64_bytes (f : Frame) (r : Regs) (j : Nat) {x : W64} (h : (f.fields r)[j]? = some (8, x.toNat)) :
    field64 (f.bytes r) (frameWidths.take j).sum = x := by
  rw [field64, f.field_bytes r j h x.isLt, BitVec.ofNat_toNat, BitVec.setWidth_eq]

/-- The registers s0 to s7 come first. -/
theorem Frame.fields_reg (f : Frame) (r : Regs) {i : Nat} (hi : i < 8) : (f.fields r)[i]? = some (8, (r.getS i).toNat) := by
  simp [Frame.fields, List.getElem?_append_left, hi]

theorem frameWidths_reg : ∀ i < 8, (frameWidths.take i).sum = 8 * i := by decide

theorem Frame.field64_reg (f : Frame) (r : Regs) {i : Nat} (hi : i < 8) : field64 (f.bytes r) (8 * i) = r.getS i := by
  rw [← frameWidths_reg i hi]
  exact f.field64_bytes r i (f.fields_reg r hi)

/-- The predicates p0 and p1 share a byte. -/
theorem Regs.predicates_lt (r : Regs) : (r.getP 0).toNat + 16 * (r.getP 1).toNat < 256 ^ 1 := by
  have h0 := (r.getP 0).isLt
  have h1 := (r.getP 1).isLt
  omega

theorem Frame.lane_lt (f : Frame) : f.lane < 256 ^ 1 := by
  unfold Frame.lane
  split <;> omega

/-! ### The frame of a capacity fault (R180, R328) -/

/-- A failed pool is told to the dies, and to nothing else. -/
theorem State.poolFailed_rest (s : State) (c g : Nat) (dies : List Nat) : s.poolFailed c g dies = { s with dies := (s.poolFailed c g dies).dies } := by
  unfold State.poolFailed
  induction dies generalizing s with
  | nil => rfl
  | cons d ds ih => rw [List.foldl_cons, ih]; rfl

@[simp] theorem State.poolFailed_mem (s : State) (c g : Nat) (dies : List Nat) : (s.poolFailed c g dies).mem = s.mem := by
  rw [State.poolFailed_rest]

@[simp] theorem State.poolFailed_slices (s : State) (c g : Nat) (dies : List Nat) : (s.poolFailed c g dies).slices = s.slices := by
  rw [State.poolFailed_rest]

theorem Slice.fallBack_chunk (v : Slice) : v.fallBack.chunk = v.prev.getD v.chunk := by
  unfold Slice.fallBack
  cases v.prev <;> rfl

@[simp] theorem Slice.atCheckpoint_regs (c : Ctx) (v : Slice) : (v.atCheckpoint c).regs = v.chunk.ckpt := rfl
@[simp] theorem Slice.atCheckpoint_held (c : Ctx) (v : Slice) : (v.atCheckpoint c).chunk.held = [] := rfl

/-- The state in which a capacity fault enters the handler: the slice at its checkpoint, its chunk without effect. -/
def State.faulted (s : State) (t k : Nat) (f : CapFail) : State :=
  let c := (s.team t).ctx
  ((s.poolFailed c f.g f.dies).modCtx c fun v => { v with capFaults := v.capFaults + 1 }).modSlice t k fun v =>
    v.fallBack.atCheckpoint (s.ctx c)

theorem State.capacityFault_eq (s : State) (t k : Nat) (f : CapFail) :
    s.capacityFault t k f = (s.faulted t k f).enterHandler t k
      { cause := 6, sub := f.kind, pc := ((s.faulted t k f).slice t k).regs.pc, cpc := f.pc, addr := f.addr, word := 0, info := BitVec.ofNat 32 f.g } := rfl

@[simp] theorem State.faulted_mem (s : State) (t k : Nat) (f : CapFail) : (s.faulted t k f).mem = s.mem := by
  simp [State.faulted]

theorem State.faulted_slice {s : State} {t k : Nat} (h : (FMap.find? s.slices (sliceKey t k)).isSome = true) (f : CapFail) :
    (s.faulted t k f).slice t k = (s.slice t k).fallBack.atCheckpoint (s.ctx (s.team t).ctx) := by
  have hslice : (s.poolFailed (s.team t).ctx f.g f.dies).slice t k = s.slice t k := by simp [State.slice]
  rw [State.faulted, State.slice_modSlice_self _ (by simpa using h), State.modCtx_slice_read, hslice]

/-! ### The frame of a floating-point trap (R83, R328) -/

/-- A delivery point with a new flag that is enabled takes the trap, once the new flags are recorded. -/
theorem State.deliver_traps {s : State} {t k : Nat} {en : BitVec 6}
    (h : (s.slice t k).regs.fpx &&& ~~~ (s.slice t k).regs.delivered &&& en ≠ 0) (pc resume : W64) :
    s.deliver t k en pc resume = (s.recordFlags t k pc).1.enterHandler t k
      (fpFrame ((s.slice t k).regs.fpx &&& ~~~ (s.slice t k).regs.delivered) en pc resume) :=
  if_neg h

/-! ### The statement -/

/-- Settles O43. A frame's bytes are its fields in a row; a capacity fault enters the handler from `State.faulted`, a floating-point
trap once its flags are recorded. -/
theorem frameLayout : Obligations.FrameLayout := by
  refine ⟨fun f r hcause hsub => ?layout, fun s t k f hk => ⟨s.faulted t k f, ?capacity⟩,
    fun s t k en pc resume hnew => ⟨_, State.deliver_traps hnew pc resume⟩⟩
  case layout =>
    exact ⟨f.bytes_length r, fun _ => f.field64_reg r, f.field64_bytes r 8 rfl, f.field64_bytes r 9 rfl, f.field64_bytes r 10 rfl,
      f.field_bytes r 11 rfl f.word.isLt, f.field_bytes r 12 rfl f.info.isLt, f.field_bytes r 13 rfl r.mode.isLt,
      f.field_bytes r 14 rfl r.predicates_lt, f.field_bytes r 15 rfl hcause, f.field_bytes r 16 rfl hsub,
      f.field_bytes r 17 rfl f.lane_lt, f.bytes_reserved r⟩
  case capacity =>
    have hregs : ((s.faulted t k f).slice t k).regs = ((s.slice t k).prev.getD (s.slice t k).chunk).ckpt := by
      rw [State.faulted_slice hk, Slice.atCheckpoint_regs, Slice.fallBack_chunk]
    refine ⟨hregs, ?_, s.faulted_mem t k f, ?_⟩
    · rw [State.faulted_slice hk, Slice.atCheckpoint_held]
    · rw [State.capacityFault_eq, hregs]

end Sys2Proof.Machine
end

section
/-! SUPPORT. The words that the spec writes out (R26 to R66). -/

namespace Sys2Proof

/-- Settles O1. The decoder, run on each word. -/
theorem decodeWords : Obligations.DecodeWords := by
  unfold Obligations.DecodeWords
  and_intros
  all_goals rfl

end Sys2Proof
end

section
/-! SUPPORT. Decoding and encoding undo each other (R26 to R66): the fields of a word of each format, the codes of conditions and operations,
each instruction's own word decoded, and the walk of the decoder's branches. -/

namespace Sys2Proof

/-! ### The fields of a word of each format (R28) -/

theorem fld_wS3 {op d a b fn : Nat} (hop : op < 128) (hd : d < 64) (ha : a < 64) (hb : b < 64) (hfn : fn < 128) :
    let w := wS3 op d a b fn
    fld w 25 7 = op ∧ fld w 19 6 = d ∧ fld w 13 6 = a ∧ fld w 7 6 = b ∧ fld w 0 7 = fn ∧ fld w 0 25 = d * 524288 + a * 8192 + b * 128 + fn ∧
    fld w 7 18 = d * 4096 + a * 64 + b ∧ fld w 7 12 = a * 64 + b ∧ fld w 0 13 = b * 128 + fn ∧ fld w 0 19 = a * 8192 + b * 128 + fn ∧
    fld w 19 3 = d % 8 ∧ fld w 22 3 = d / 8 := by
  simp only [fld, wS3]
  omega

theorem fld_wSI {op d a imm : Nat} (hop : op < 128) (hd : d < 64) (ha : a < 64) (hi : imm < 8192) :
    let w := wSI op d a imm
    fld w 25 7 = op ∧ fld w 19 6 = d ∧ fld w 13 6 = a ∧ fld w 0 13 = imm ∧ fld w 0 6 = imm % 64 ∧ fld w 6 7 = imm / 64 ∧
    fld w 13 12 = d * 64 + a ∧ fld w 0 19 = a * 8192 + imm := by
  simp only [fld, wSI]
  omega

theorem fld_wV3 {op d a b fn : Nat} (hop : op < 128) (hd : d < 128) (ha : a < 128) (hb : b < 128) (hfn : fn < 16) :
    let w := wV3 op d a b fn
    fld w 25 7 = op ∧ fld w 18 7 = d ∧ fld w 11 7 = a ∧ fld w 4 7 = b ∧ fld w 0 4 = fn ∧ fld w 17 1 = a / 64 ∧ fld w 11 6 = a % 64 ∧
    fld w 0 11 = b * 16 + fn ∧ fld w 3 1 = fn / 8 ∧ fld w 0 3 = fn % 8 ∧ fld w 21 4 = d / 8 ∧ fld w 18 3 = d % 8 ∧ fld w 14 4 = a / 8 ∧
    fld w 11 3 = a % 8 ∧ fld w 7 4 = b / 8 ∧ fld w 4 3 = b % 8 ∧ fld w 8 3 = b / 16 ∧ fld w 4 4 = b % 16 ∧ fld w 24 1 = d / 64 ∧
    fld w 18 6 = d % 64 ∧ fld w 6 5 = b / 4 ∧ fld w 4 2 = b % 4 := by
  simp only [fld, wV3]
  omega

theorem fld_wVI {op d a imm : Nat} (hop : op < 128) (hd : d < 128) (ha : a < 128) (hi : imm < 2048) :
    let w := wVI op d a imm
    fld w 25 7 = op ∧ fld w 18 7 = d ∧ fld w 11 7 = a ∧ fld w 0 11 = imm ∧ fld w 2 9 = imm / 4 ∧ fld w 0 2 = imm % 4 ∧ fld w 24 1 = d / 64 ∧
    fld w 18 6 = d % 64 ∧ fld w 9 2 = imm / 512 ∧ fld w 5 4 = imm / 32 % 16 ∧ fld w 0 5 = imm % 32 := by
  simp only [fld, wVI]
  omega

theorem fld_wB {op c disp : Nat} (hop : op < 128) (hc : c < 8) (hd : disp < 4194304) :
    let w := wB op c disp
    fld w 25 7 = op ∧ fld w 22 3 = c ∧ fld w 0 22 = disp := by
  simp only [fld, wB]
  omega

theorem fld_wM {op t x b z lo : Nat} (hop : op < 128) (ht : t < 128) (hx : x < 128) (hb : b < 64) (hz : z < 2) (hl : lo < 16) :
    let w := wM op t x b z lo
    fld w 25 7 = op ∧ fld w 18 7 = t ∧ fld w 11 7 = x ∧ fld w 5 6 = b ∧ fld w 4 1 = z ∧ fld w 0 4 = lo := by
  simp only [fld, wM]
  omega

theorem fld_wMS {op t b m off : Nat} (hop : op < 128) (ht : t < 128) (hb : b < 64) (hm : m < 4) (ho : off < 1024) :
    let w := wMS op t b m off
    fld w 25 7 = op ∧ fld w 18 7 = t ∧ fld w 12 6 = b ∧ fld w 10 2 = m ∧ fld w 0 10 = off ∧ fld w 10 1 = m % 2 ∧ fld w 18 6 = t % 64 ∧
    fld w 24 1 = t / 64 := by
  simp only [fld, wMS]
  omega

theorem fld_wMX {op d fa fb t fl la : Nat} (hop : op < 128) (hd : d < 64) (hfa : fa < 8) (hfb : fb < 8) (ht : t < 4) (hfl : fl < 128) (hla : la < 16) :
    let w := wMX op d fa fb t fl la
    fld w 25 7 = op ∧ fld w 19 6 = d ∧ fld w 16 3 = fa ∧ fld w 13 3 = fb ∧ fld w 11 2 = t ∧ fld w 4 1 = fl % 2 ∧ fld w 0 4 = la ∧
    fld w 5 6 = fl / 2 ∧ fld w 0 11 = fl * 16 + la ∧ fld w 13 12 = d * 64 + fa * 8 + fb ∧ fld w 13 6 = fa * 8 + fb ∧
    fld w 0 25 = d * 524288 + fa * 65536 + fb * 8192 + t * 2048 + fl * 16 + la := by
  simp only [fld, wMX]
  omega

theorem fld_wMode {op a fn imm : Nat} (hop : op < 128) (ha : a < 64) (hfn : fn < 8) (hi : imm < 65536) :
    let w := wMode op a fn imm
    fld w 25 7 = op ∧ fld w 19 6 = a ∧ fld w 16 3 = fn ∧ fld w 0 16 = imm := by
  simp only [fld, wMode]
  omega

theorem fld_wSys {op d a fn imm : Nat} (hop : op < 128) (hd : d < 64) (ha : a < 64) (hfn : fn < 8) (hi : imm < 1024) :
    let w := wSys op d a fn imm
    fld w 25 7 = op ∧ fld w 19 6 = d ∧ fld w 13 6 = a ∧ fld w 10 3 = fn ∧ fld w 0 10 = imm ∧ fld w 13 12 = d * 64 + a := by
  simp only [fld, wSys]
  omega

theorem fld_wImm19 {op d imm : Nat} (hop : op < 128) (hd : d < 64) (hi : imm < 524288) :
    let w := wImm19 op d imm
    fld w 25 7 = op ∧ fld w 19 6 = d ∧ fld w 0 19 = imm := by
  simp only [fld, wImm19]
  omega

theorem fld_wImm18 {op d imm : Nat} (hop : op < 128) (hd : d < 128) (hi : imm < 262144) :
    let w := wImm18 op d imm
    fld w 25 7 = op ∧ fld w 18 7 = d ∧ fld w 0 18 = imm := by
  simp only [fld, wImm18]
  omega

@[simp] theorem BrCond.ofCode_code (c : BrCond) : BrCond.ofCode c.code = some c := by cases c <;> rfl
@[simp] theorem CmpCond.ofCode_code (c : CmpCond) : CmpCond.ofCode c.code = some c := by cases c <;> rfl
@[simp] theorem FcmpCond.ofCode_code (c : FcmpCond) : FcmpCond.ofCode c.code = some c := by cases c <;> rfl
@[simp] theorem ShflKind.ofCode_code (c : ShflKind) : ShflKind.ofCode c.code = some c := by cases c <;> rfl
@[simp] theorem AtomOp.ofCode_code (c : AtomOp) : AtomOp.ofCode c.code = some c := by cases c <;> rfl
@[simp] theorem WaitCond.ofCode_code (c : WaitCond) : WaitCond.ofCode c.code = some c := by cases c <;> rfl
@[simp] theorem Width.ofCode_code (c : Width) : Width.ofCode c.code = some c := by cases c <;> rfl
@[simp] theorem Binding.ofCode_code (c : Binding) : Binding.ofCode c.code = some c := by cases c <;> rfl

theorem ShflKind.ofCode_three : ShflKind.ofCode 3 = none := rfl

theorem BrCond.code_lt (c : BrCond) : c.code < 4 := by cases c <;> decide
theorem CmpCond.code_lt (c : CmpCond) : c.code < 4 := by cases c <;> decide
theorem FcmpCond.code_lt (c : FcmpCond) : c.code < 5 := by cases c <;> decide
theorem ShflKind.code_lt (c : ShflKind) : c.code < 3 := by cases c <;> decide
theorem AtomOp.code_lt (c : AtomOp) : c.code < 9 := by cases c <;> decide
theorem WaitCond.code_lt (c : WaitCond) : c.code < 6 := by cases c <;> decide
theorem Width.code_lt (c : Width) : c.code < 4 := by cases c <;> decide
theorem Binding.code_lt (c : Binding) : c.code < 3 := by cases c <;> decide

theorem Binding.code_eq_zero {f : Binding} : f.code = 0 ↔ f = .none := by cases f <;> simp [Binding.code]

theorem withMod_some {α : Type} (a : α) (k : α → Except DecodeError Instr) : withMod (some a) k = k a := rfl

/-- The word of the instruction, where it has one, decodes to it. -/
def Instr.RoundTrips (i : Instr) : Prop := ∀ w, encode i = some w → w < 2 ^ 32 ∧ decode w = .ok i

theorem roundTrips_of {i : Instr} {x : Nat} (he : encode i = some x) (hx : x < 2 ^ 32) (hd : decode x = .ok i) : i.RoundTrips := by
  intro w hw
  obtain rfl : x = w := Option.some.inj (he.symm.trans hw)
  exact ⟨hx, hd⟩

theorem roundTrips_alu {d a b : Nat} (hd : d < 64) (ha : a < 64) (hb : b < 64) :
    (Instr.sadd d a b).RoundTrips ∧ (Instr.ssub d a b).RoundTrips ∧ (Instr.smul d a b).RoundTrips ∧ (Instr.smulh d a b).RoundTrips ∧
    (Instr.smulhN d a b).RoundTrips ∧ (Instr.sdiv d a b).RoundTrips ∧ (Instr.sdivN d a b).RoundTrips ∧ (Instr.srem d a b).RoundTrips ∧
    (Instr.sremN d a b).RoundTrips ∧ (Instr.sand d a b).RoundTrips ∧ (Instr.sor d a b).RoundTrips ∧ (Instr.sxor d a b).RoundTrips ∧
    (Instr.sshl d a b).RoundTrips ∧ (Instr.sshr d a b).RoundTrips ∧ (Instr.ssra d a b).RoundTrips ∧ (Instr.smin d a b).RoundTrips ∧
    (Instr.sminN d a b).RoundTrips ∧ (Instr.smax d a b).RoundTrips ∧ (Instr.smaxN d a b).RoundTrips ∧ (Instr.sslt d a b).RoundTrips ∧
    (Instr.ssltn d a b).RoundTrips ∧ (Instr.ssel d a b).RoundTrips := by
  and_intros
  all_goals
    refine roundTrips_of rfl (by simp only [wS3]; omega) ?_
    simp (disch := omega) [decode, decodeScalar, fld_wS3]

theorem roundTrips_control_none :
    (Instr.nop).RoundTrips ∧ (Instr.ret).RoundTrips ∧ (Instr.regang).RoundTrips ∧ (Instr.exit).RoundTrips := by
  and_intros
  all_goals
    refine roundTrips_of rfl (by simp only [wS3]; omega) ?_
    simp (disch := omega) [decode, decodeScalar, fld_wS3, resv]

theorem roundTrips_control_a {a : Nat} (ha : a < 64) :
    (Instr.jmpr a).RoundTrips := by
  refine roundTrips_of rfl (by simp only [wS3]; omega) ?_
  simp (disch := omega) [decode, decodeScalar, fld_wS3, resv]

theorem roundTrips_immediate_dai {d a : Nat} (hd : d < 64) (ha : a < 64) (i : BitVec 13) :
    (Instr.saddi d a i).RoundTrips ∧ (Instr.sandi d a i).RoundTrips ∧ (Instr.sori d a i).RoundTrips ∧ (Instr.sxori d a i).RoundTrips := by
  have hi := i.isLt
  and_intros
  all_goals
    refine roundTrips_of rfl (by simp only [wSI]; omega) ?_
    simp (disch := omega) [decode, decodeScalar, fld_wSI]

theorem roundTrips_immediate_dan {d a : Nat} (hd : d < 64) (ha : a < 64) (n : BitVec 6) :
    (Instr.sshli d a n).RoundTrips := by
  have hn := n.isLt
  refine roundTrips_of rfl (by simp only [wSI]; omega) ?_
  simp (disch := omega) [decode, decodeScalar, fld_wSI, resv, Nat.div_eq_of_lt, Nat.mod_eq_of_lt]

theorem roundTrips_special_dn {d n : Nat} (hd : d < 64) (hn : n ≤ 0x010) :
    (Instr.srd d n).RoundTrips := by
  refine roundTrips_of rfl (by simp only [wSI]; omega) ?_
  simp (disch := omega) [decode, decodeScalar, fld_wSI, resv, listed, srdListed, hn]

theorem roundTrips_special_an {a n : Nat} (ha : a < 64) (hn : n ≤ 0x010) :
    (Instr.swr a n).RoundTrips := by
  refine roundTrips_of rfl (by simp only [wSI]; omega) ?_
  simp (disch := omega) [decode, decodeScalar, fld_wSI, resv, listed, srdListed, hn]

theorem roundTrips_brCc {a : Nat} (ha : a < 64) (c : BrCond) (i : BitVec 13) :
    (Instr.brCc c a i).RoundTrips := by
  have hc := c.code_lt
  have hi := i.isLt
  refine roundTrips_of rfl (by simp only [wSI]; omega) ?_
  simp (disch := omega) [decode, decodeScalar, fld_wSI, withMod_some]

theorem roundTrips_branch_i (i : BitVec 22) :
    (Instr.br i).RoundTrips ∧ (Instr.call i).RoundTrips := by
  have hi := i.isLt
  and_intros
  all_goals
    refine roundTrips_of rfl (by simp only [wB]; omega) ?_
    simp (disch := omega) [decode, decodeScalar, fld_wB, resv]

theorem roundTrips_branch_pi {p : Nat} (hp : p < 8) (i : BitVec 22) :
    (Instr.bany p i).RoundTrips ∧ (Instr.ball p i).RoundTrips ∧ (Instr.bnone p i).RoundTrips := by
  have hi := i.isLt
  and_intros
  all_goals
    refine roundTrips_of rfl (by simp only [wB]; omega) ?_
    simp (disch := omega) [decode, decodeScalar, fld_wB]

theorem roundTrips_slui {d : Nat} (hd : d < 64) (i : BitVec 19) :
    (Instr.slui d i).RoundTrips := by
  have hi := i.isLt
  refine roundTrips_of rfl (by simp only [wImm19]; omega) ?_
  simp (disch := omega) [decode, decodeScalar, fld_wImm19]

theorem roundTrips_vmovi {d : Nat} (hd : d < 128) (i : BitVec 18) :
    (Instr.vmovi d i).RoundTrips := by
  have hi := i.isLt
  refine roundTrips_of rfl (by simp only [wImm18]; omega) ?_
  simp (disch := omega) [decode, decodeScalar, fld_wImm18]

theorem roundTrips_mode_i (i : BitVec 16) :
    (Instr.mode i).RoundTrips := by
  have hi := i.isLt
  refine roundTrips_of rfl (by simp only [wMode]; omega) ?_
  simp (disch := omega) [decode, decodeScalar, fld_wMode, resv]

theorem roundTrips_mode_a {a : Nat} (ha : a < 64) :
    (Instr.moder a).RoundTrips := by
  refine roundTrips_of rfl (by simp only [wMode]; omega) ?_
  simp (disch := omega) [decode, decodeScalar, fld_wMode, resv]

theorem roundTrips_smovv_da {d a : Nat} (hd : d < 128) (ha : a < 64) :
    (Instr.smovv d a).RoundTrips := by
  refine roundTrips_of rfl (by simp only [wV3]; omega) ?_
  simp (disch := omega) [decode, decodeScalar, fld_wV3, resv, Nat.div_eq_of_lt, Nat.mod_eq_of_lt]

theorem roundTrips_smovv_d {d : Nat} (hd : d < 128) :
    (Instr.smovvLane d).RoundTrips ∧ (Instr.smovvTlane d).RoundTrips := by
  and_intros
  all_goals
    refine roundTrips_of rfl (by simp only [wV3]; omega) ?_
    simp (disch := omega) [decode, decodeScalar, fld_wV3, resv]

theorem roundTrips_vector_dab {d a b : Nat} (hd : d < 128) (ha : a < 128) (hb : b < 128) :
    (Instr.vadd d a b).RoundTrips ∧ (Instr.vsub d a b).RoundTrips ∧ (Instr.vmul d a b).RoundTrips ∧ (Instr.vmulh d a b).RoundTrips ∧
    (Instr.vmad d a b).RoundTrips ∧ (Instr.vmin d a b).RoundTrips ∧ (Instr.vmax d a b).RoundTrips ∧ (Instr.vand d a b).RoundTrips ∧
    (Instr.vor d a b).RoundTrips ∧ (Instr.vxor d a b).RoundTrips ∧ (Instr.vshl d a b).RoundTrips ∧ (Instr.vshr d a b).RoundTrips ∧
    (Instr.vfadd d a b).RoundTrips ∧ (Instr.vfsub d a b).RoundTrips ∧ (Instr.vfmul d a b).RoundTrips ∧ (Instr.vfma d a b).RoundTrips ∧
    (Instr.vfmin d a b).RoundTrips ∧ (Instr.vfmax d a b).RoundTrips := by
  and_intros
  all_goals
    refine roundTrips_of rfl (by simp only [wV3]; omega) ?_
    simp (disch := omega) [decode, decodeScalar, fld_wV3]

theorem roundTrips_vector_da {d a : Nat} (hd : d < 128) (ha : a < 128) :
    (Instr.vabs d a).RoundTrips ∧ (Instr.vneg d a).RoundTrips ∧ (Instr.vnot d a).RoundTrips ∧ (Instr.vfabs d a).RoundTrips ∧
    (Instr.vfneg d a).RoundTrips := by
  and_intros
  all_goals
    refine roundTrips_of rfl (by simp only [wV3]; omega) ?_
    simp (disch := omega) [decode, decodeScalar, fld_wV3, resv]

theorem roundTrips_vsel {d a b p : Nat} (hd : d < 128) (ha : a < 128) (hb : b < 128) (hp : p < 8) :
    (Instr.vsel d a b p).RoundTrips := by
  refine roundTrips_of rfl (by simp only [wV3]; omega) ?_
  simp (disch := omega) [decode, decodeScalar, fld_wV3, resv, Nat.div_eq_of_lt, Nat.mod_eq_of_lt]

theorem roundTrips_compare_pabc {p a b : Nat} (hp : p < 8) (ha : a < 128) (hb : b < 128) (c : CmpCond) :
    (Instr.vcmp c p a b).RoundTrips := by
  have hc := c.code_lt
  refine roundTrips_of rfl (by simp only [wV3]; omega) ?_
  simp (disch := omega) [decode, decodeScalar, fld_wV3, resv, withMod_some, Nat.div_eq_of_lt, Nat.mod_eq_of_lt]

theorem roundTrips_compare_pabf {p a b : Nat} (hp : p < 8) (ha : a < 128) (hb : b < 128) (f : FcmpCond) :
    (Instr.vfcmp f p a b).RoundTrips := by
  have hf := f.code_lt
  refine roundTrips_of rfl (by simp only [wV3]; omega) ?_
  simp (disch := omega) [decode, decodeScalar, fld_wV3, resv, withMod_some, Nat.div_eq_of_lt, Nat.mod_eq_of_lt]

theorem roundTrips_vaddi {d a : Nat} (hd : d < 128) (ha : a < 128) (i : BitVec 11) :
    (Instr.vaddi d a i).RoundTrips := by
  have hi := i.isLt
  refine roundTrips_of rfl (by simp only [wVI]; omega) ?_
  simp (disch := omega) [decode, decodeScalar, fld_wVI]

theorem roundTrips_vrdl {d a l : Nat} (hd : d < 64) (ha : a < 128) (hl : l < 4) :
    (Instr.vrdl d a l).RoundTrips := by
  refine roundTrips_of rfl (by simp only [wVI]; omega) ?_
  simp (disch := omega) [decode, decodeScalar, fld_wVI, resv, Nat.div_eq_of_lt, Nat.mod_eq_of_lt]


theorem roundTrips_special_functions {d a l : Nat} (hd : d < 128) (ha : a < 128) (hl : l < 16) :
    (Instr.vrcp d a l).RoundTrips ∧ (Instr.vrsq d a l).RoundTrips ∧ (Instr.vsqrt d a l).RoundTrips ∧ (Instr.vexp2 d a l).RoundTrips ∧
    (Instr.vlog2 d a l).RoundTrips ∧ (Instr.vsin d a l).RoundTrips ∧ (Instr.vcos d a l).RoundTrips ∧ (Instr.vtanh d a l).RoundTrips ∧
    (Instr.verf d a l).RoundTrips ∧ (Instr.vsigm d a l).RoundTrips ∧ (Instr.vpopc d a l).RoundTrips ∧ (Instr.vclz d a l).RoundTrips ∧
    (Instr.vbrev d a l).RoundTrips := by
  and_intros
  all_goals
    refine roundTrips_of rfl (by simp only [wV3]; omega) ?_
    simp (disch := omega) [decode, decodeScalar, decodeVector, decodeSystem, fld_wV3, resv]

theorem roundTrips_predicate_dab {d a b : Nat} (hd : d < 8) (ha : a < 8) (hb : b < 8) :
    (Instr.pand d a b).RoundTrips ∧ (Instr.por d a b).RoundTrips ∧ (Instr.pxor d a b).RoundTrips := by
  and_intros
  all_goals
    refine roundTrips_of rfl (by simp only [wV3]; omega) ?_
    simp (disch := omega) [decode, decodeVector, fld_wV3, resv, Nat.div_eq_of_lt, Nat.mod_eq_of_lt]

theorem roundTrips_predicate_da {d a : Nat} (hd : d < 8) (ha : a < 8) :
    (Instr.pnot d a).RoundTrips := by
  refine roundTrips_of rfl (by simp only [wV3]; omega) ?_
  simp (disch := omega) [decode, decodeVector, fld_wV3, resv, Nat.div_eq_of_lt, Nat.mod_eq_of_lt]

theorem roundTrips_pset {d a : Nat} (hd : d < 8) (ha : a < 64) :
    (Instr.pset d a).RoundTrips := by
  refine roundTrips_of rfl (by simp only [wV3]; omega) ?_
  simp (disch := omega) [decode, decodeVector, fld_wV3, resv, Nat.div_eq_of_lt, Nat.mod_eq_of_lt]

theorem roundTrips_vcvt {d a k l : Nat} (hd : d < 128) (ha : a < 128) (hk : k < 8) (hl : l < 16) (t : BitVec 4) :
    (Instr.vcvt d a k t l).RoundTrips := by
  have ht := t.isLt
  have hdiv : (k * 16 + t.toNat) / 16 = k := by omega
  have hmod : (k * 16 + t.toNat) % 16 = t.toNat := by omega
  refine roundTrips_of rfl (by simp only [wV3]; omega) ?_
  simp (disch := omega) [decode, decodeVector, fld_wV3, hdiv, hmod]

theorem roundTrips_quantise_dakl {d a k l : Nat} (hd : d < 128) (ha : a < 128) (hk : k < 8) (hl : l < 16) :
    (Instr.vqnt d a k l).RoundTrips := by
  refine roundTrips_of rfl (by simp only [wV3]; omega) ?_
  simp (disch := omega) [decode, decodeVector, fld_wV3, resv, Nat.div_eq_of_lt, Nat.mod_eq_of_lt]

theorem roundTrips_quantise_dabk {d a b k : Nat} (hd : d < 128) (ha : a < 128) (hb : b < 128) (hk : k < 8) :
    (Instr.vdqnt d a b k).RoundTrips := by
  refine roundTrips_of rfl (by simp only [wV3]; omega) ?_
  simp (disch := omega) [decode, decodeVector, fld_wV3, resv, Nat.div_eq_of_lt, Nat.mod_eq_of_lt]

theorem roundTrips_pack_dab {d a b : Nat} (hd : d < 128) (ha : a < 128) (hb : b < 128) :
    (Instr.vpack d a b).RoundTrips ∧ (Instr.vperm d a b).RoundTrips ∧ (Instr.vbperm d a b).RoundTrips := by
  and_intros
  all_goals
    refine roundTrips_of rfl (by simp only [wV3]; omega) ?_
    simp (disch := omega) [decode, decodeVector, fld_wV3]

theorem roundTrips_pack_da {d a : Nat} (hd : d < 128) (ha : a < 128) :
    (Instr.vunpk .lo d a).RoundTrips ∧ (Instr.vunpk .hi d a).RoundTrips ∧ (Instr.vclass d a).RoundTrips := by
  and_intros
  all_goals
    refine roundTrips_of rfl (by simp only [wV3, Half.code]; omega) ?_
    simp (disch := omega) [decode, decodeVector, fld_wV3, resv, Half.code]

theorem roundTrips_pack_dabn {d a b n : Nat} (hd : d < 128) (ha : a < 128) (hb : b < 128) (hn : n < 16) :
    (Instr.vslide d a b n).RoundTrips := by
  refine roundTrips_of rfl (by simp only [wV3]; omega) ?_
  simp (disch := omega) [decode, decodeVector, fld_wV3]

theorem roundTrips_shuffle_damc {d a m : Nat} (hd : d < 128) (ha : a < 128) (hm : m < 32) (c : ShflKind) :
    (Instr.vshfl c d a m).RoundTrips := by
  have hc := c.code_lt
  have hdiv : (c.code * 512 + m) / 512 = c.code := by omega
  have hkind : (c.code * 512 + m) / 32 % 16 = 0 := by omega
  have hmod : (c.code * 512 + m) % 32 = m := by omega
  refine roundTrips_of rfl (by simp only [wVI]; omega) ?_
  simp (disch := omega) [decode, decodeVector, fld_wVI, resv, hdiv, hkind, hmod]

theorem roundTrips_shuffle_dam {d a m : Nat} (hd : d < 128) (ha : a < 128) (hm : m < 32) :
    (Instr.vbcast d a m).RoundTrips := by
  have hdiv3 : (1536 + m) / 512 = 3 := by omega
  have hkind3 : (1536 + m) / 32 % 16 = 0 := by omega
  have hmod3 : (1536 + m) % 32 = m := by omega
  refine roundTrips_of rfl (by simp only [wVI]; omega) ?_
  simp (disch := omega) [decode, decodeVector, fld_wVI, resv, hdiv3, hkind3, hmod3, ShflKind.ofCode_three]

theorem roundTrips_vred {d a : Nat} (hd : d < 64) (ha : a < 128) (o : RedOp) :
    (Instr.vred o d a).RoundTrips := by
  cases o
  all_goals
    refine roundTrips_of rfl (by simp only [wV3, RedOp.code]; omega) ?_
    simp (disch := omega) [decode, decodeVector, fld_wV3, resv, RedOp.code, Nat.div_eq_of_lt, Nat.mod_eq_of_lt]

theorem roundTrips_vscan {d a : Nat} (hd : d < 128) (ha : a < 128) (o : RedOp) :
    (Instr.vscan o d a).RoundTrips := by
  cases o
  all_goals
    refine roundTrips_of rfl (by simp only [wV3, RedOp.scanCode]; omega) ?_
    simp (disch := omega) [decode, decodeVector, fld_wV3, resv, RedOp.scanCode]

theorem roundTrips_ballot {d p : Nat} (hd : d < 64) (hp : p < 8) :
    (Instr.vballot d p).RoundTrips ∧ (Instr.vcount d p).RoundTrips := by
  and_intros
  all_goals
    refine roundTrips_of rfl (by simp only [wV3]; omega) ?_
    simp (disch := omega) [decode, decodeVector, fld_wV3, resv, Nat.div_eq_of_lt, Nat.mod_eq_of_lt]

theorem roundTrips_gather {t x b l : Nat} (ht : t < 128) (hx : x < 128) (hb : b < 64) (hl : l < 16) (z : Bool) :
    (Instr.vld t x b z l).RoundTrips ∧ (Instr.vst t x b z l).RoundTrips ∧ (Instr.tld t x b z l).RoundTrips ∧ (Instr.tst t x b z l).RoundTrips := by
  have hz := z.toNat_lt
  and_intros
  all_goals
    refine roundTrips_of rfl (by simp only [wM]; omega) ?_
    simp (disch := omega) [decode, decodeVector, fld_wM]

theorem roundTrips_contiguous {t b : Nat} (ht : t < 128) (hb : b < 64) (z : Bool) (o : BitVec 10) :
    (Instr.vldc t b z o).RoundTrips ∧ (Instr.vstc t b z o).RoundTrips := by
  have hz := z.toNat_lt
  have ho := o.isLt
  and_intros
  all_goals
    refine roundTrips_of rfl (by simp only [wMS]; omega) ?_
    simp (disch := omega) [decode, decodeVector, fld_wMS, listed, Nat.mod_eq_of_lt, hz]

theorem roundTrips_scalar_access_dbmo {d b : Nat} (hd : d < 64) (hb : b < 64) (m : Width) (o : BitVec 10) :
    (Instr.sld d b m o).RoundTrips ∧ (Instr.sst d b m o).RoundTrips := by
  have hm := m.code_lt
  have ho := o.isLt
  and_intros
  all_goals
    refine roundTrips_of rfl (by simp only [wMS]; omega) ?_
    simp (disch := omega) [decode, decodeVector, fld_wMS, resv, withMod_some, Nat.div_eq_of_lt, Nat.mod_eq_of_lt]

theorem roundTrips_scalar_access_bo {b : Nat} (hb : b < 64) (o : BitVec 10) :
    (Instr.pref b o).RoundTrips := by
  have ho := o.isLt
  refine roundTrips_of rfl (by simp only [wMS]; omega) ?_
  simp (disch := omega) [decode, decodeVector, fld_wMS, resv]

theorem roundTrips_range_ab {a b : Nat} (ha : a < 64) (hb : b < 64) :
    (Instr.cwb a b).RoundTrips ∧ (Instr.cinv a b).RoundTrips ∧ (Instr.cdisc a b).RoundTrips ∧ (Instr.rsvpin a b).RoundTrips ∧
    (Instr.rsvunpin a b).RoundTrips ∧ (Instr.balack a b).RoundTrips ∧ (Instr.czero a b).RoundTrips := by
  and_intros
  all_goals
    refine roundTrips_of rfl (by simp only [wS3]; omega) ?_
    simp (disch := omega) [decode, decodeVector, decodeSync, fld_wS3, resv]

theorem roundTrips_range_dab {d a b : Nat} (hd : d < 64) (ha : a < 64) (hb : b < 64) :
    (Instr.forfeit d a b).RoundTrips ∧ (Instr.repsync d a b).RoundTrips := by
  and_intros
  all_goals
    refine roundTrips_of rfl (by simp only [wS3]; omega) ?_
    simp (disch := omega) [decode, decodeSync, decodeSystem, fld_wS3, resv]

theorem roundTrips_range_da {d a : Nat} (hd : d < 64) (ha : a < 64) :
    (Instr.rdnpa d a).RoundTrips := by
  refine roundTrips_of rfl (by simp only [wS3]; omega) ?_
  simp (disch := omega) [decode, decodeSync, fld_wS3, resv]

theorem roundTrips_range_d {d : Nat} (hd : d < 64) :
    (Instr.balrd d).RoundTrips := by
  refine roundTrips_of rfl (by simp only [wS3]; omega) ?_
  simp (disch := omega) [decode, decodeSync, fld_wS3, resv]

theorem roundTrips_atomic {t x b : Nat} (ht : t < 128) (hx : x < 128) (hb : b < 64) (o : AtomOp) (z : Bool) :
    (Instr.atom o t x b z).RoundTrips ∧ (Instr.atomt o t x b z).RoundTrips := by
  have hz := z.toNat_lt
  have ho := o.code_lt
  and_intros
  all_goals
    refine roundTrips_of rfl (by simp only [wM]; omega) ?_
    simp (disch := omega) [decode, decodeSync, fld_wM, withMod_some]

theorem roundTrips_reduction {t x b : Nat} (ht : t < 128) (hx : x < 128) (hb : b < 64) {o : AtomOp} (z : Bool) (hr : o.reduces = true) :
    (Instr.red o t x b z).RoundTrips ∧ (Instr.redt o t x b z).RoundTrips := by
  have hz := z.toNat_lt
  have ho := o.code_lt
  and_intros
  all_goals
    refine roundTrips_of rfl (by simp only [wM]; omega) ?_
    simp (disch := omega) [decode, decodeSync, fld_wM, withMod_some, listed, hr]

theorem roundTrips_wait {a b : Nat} (ha : a < 64) (hb : b < 64) (c : WaitCond) :
    (Instr.wait c a b).RoundTrips := by
  have hc := c.code_lt
  refine roundTrips_of rfl (by simp only [wS3]; omega) ?_
  simp (disch := omega) [decode, decodeSync, fld_wS3, resv, withMod_some]

theorem roundTrips_gate_ab {a b : Nat} (ha : a < 64) (hb : b < 64) :
    (Instr.ginit a b).RoundTrips ∧ (Instr.gexpect a b).RoundTrips := by
  and_intros
  all_goals
    refine roundTrips_of rfl (by simp only [wS3]; omega) ?_
    simp (disch := omega) [decode, decodeSync, fld_wS3, resv]

theorem roundTrips_gate_a {a : Nat} (ha : a < 64) :
    (Instr.garrive a).RoundTrips ∧ (Instr.chpub a).RoundTrips ∧ (Instr.chfree a).RoundTrips := by
  and_intros
  all_goals
    refine roundTrips_of rfl (by simp only [wS3]; omega) ?_
    simp (disch := omega) [decode, decodeSync, fld_wS3, resv]

theorem roundTrips_gate_pab {p a b : Nat} (hp : p < 8) (ha : a < 64) (hb : b < 64) :
    (Instr.gwait p a b).RoundTrips := by
  refine roundTrips_of rfl (by simp only [wS3]; omega) ?_
  simp (disch := omega) [decode, decodeSync, fld_wS3, resv, Nat.div_eq_of_lt, Nat.mod_eq_of_lt]

theorem roundTrips_gate_da {d a : Nat} (hd : d < 64) (ha : a < 64) :
    (Instr.chacq d a).RoundTrips ∧ (Instr.chacqNb d a).RoundTrips ∧ (Instr.chtake d a).RoundTrips ∧ (Instr.chtakeNb d a).RoundTrips := by
  and_intros
  all_goals
    refine roundTrips_of rfl (by simp only [wS3]; omega) ?_
    simp (disch := omega) [decode, decodeSync, fld_wS3, resv]

theorem roundTrips_bar {n : Nat} (hn : n ≤ 256) :
    (Instr.bar n).RoundTrips := by
  refine roundTrips_of rfl (by simp only [wSI]; omega) ?_
  simp (disch := omega) [decode, decodeSync, fld_wSI, resv, listed, barListed, hn]

theorem roundTrips_reading_dn {d n : Nat} (hd : d < 64) (hn : n < 4) :
    (Instr.specrd d n).RoundTrips := by
  refine roundTrips_of rfl (by simp only [wSI]; omega) ?_
  simp (disch := omega) [decode, decodeSync, fld_wSI, resv, listed, specListed, hn]

theorem roundTrips_reading_d {d : Nat} (hd : d < 64) :
    (Instr.rsvrd d).RoundTrips := by
  refine roundTrips_of rfl (by simp only [wSI]; omega) ?_
  simp (disch := omega) [decode, decodeSync, fld_wSI, resv]

theorem roundTrips_cmit :
    (Instr.cmit).RoundTrips := by
  refine roundTrips_of rfl (by simp only [wS3]; omega) ?_
  simp (disch := omega) [decode, decodeSync, fld_wS3, resv]

theorem roundTrips_csize {d a : Nat} (hd : d < 64) (ha : a < 64) (z : Bool) :
    (Instr.csize z d a).RoundTrips := by
  cases z
  all_goals
    refine roundTrips_of rfl (by simp only [wS3, Bool.toNat_true, Bool.toNat_false]; omega) ?_
    simp (disch := omega) [decode, decodeSync, fld_wS3, resv]

theorem roundTrips_matrix_dabtlz {d a b t l : Nat} (hd : d < 64) (ha : a < 8) (hb : b < 8) (ht : t < 4) (hl : l < 16) (z : Bool) :
    (Instr.mloop d a b t z l).RoundTrips := by
  have hz := z.toNat_lt
  refine roundTrips_of rfl (by simp only [wMX]; omega) ?_
  simp (disch := omega) [decode, decodeSync, fld_wMX, resv, Nat.div_eq_of_lt, Nat.mod_eq_of_lt]

theorem roundTrips_matrix_t {t : Nat} (ht : t < 4) :
    (Instr.mzero t).RoundTrips := by
  refine roundTrips_of rfl (by simp only [wMX]; omega) ?_
  simp (disch := omega) [decode, decodeSync, fld_wMX, resv]

theorem roundTrips_matrix_none :
    (Instr.mwait).RoundTrips := by
  refine roundTrips_of rfl (by simp only [wMX]; omega) ?_
  simp (disch := omega) [decode, decodeSync, fld_wMX, resv]

theorem roundTrips_matrix_dt {d t : Nat} (hd : d < 64) (ht : t < 4) :
    (Instr.mdrain d t).RoundTrips := by
  refine roundTrips_of rfl (by simp only [wMX]; omega) ?_
  simp (disch := omega) [decode, decodeSync, fld_wMX, resv]

theorem roundTrips_tile {d a t l : Nat} (hd : d < 128) (ha : a < 64) (ht : t < 4) (hl : l < 16) :
    (Instr.mrd d a t l).RoundTrips ∧ (Instr.mwr d a t l).RoundTrips := by
  and_intros
  all_goals
    refine roundTrips_of rfl (by simp only [wV3]; omega) ?_
    simp (disch := omega) [decode, decodeSync, fld_wV3, resv, Nat.div_eq_of_lt, Nat.mod_eq_of_lt]

theorem roundTrips_engine_abn {a b n : Nat} (ha : a < 64) (hb : b < 64) (hn : n < 128) :
    (Instr.mscl a b n).RoundTrips := by
  refine roundTrips_of rfl (by simp only [wS3]; omega) ?_
  simp (disch := omega) [decode, decodeSystem, fld_wS3, resv]

theorem roundTrips_engine_a {a : Nat} (ha : a < 64) :
    (Instr.cwait a).RoundTrips := by
  refine roundTrips_of rfl (by simp only [wS3]; omega) ?_
  simp (disch := omega) [decode, decodeSystem, fld_wS3, resv]

theorem roundTrips_engine_d {d : Nat} (hd : d < 64) :
    (Instr.cseq d).RoundTrips ∧ (Instr.cspill d).RoundTrips := by
  and_intros
  all_goals
    refine roundTrips_of rfl (by simp only [wS3]; omega) ?_
    simp (disch := omega) [decode, decodeSystem, fld_wS3, resv]

theorem roundTrips_engine_da {d a : Nat} (hd : d < 64) (ha : a < 64) :
    (Instr.allred d a).RoundTrips := by
  refine roundTrips_of rfl (by simp only [wS3]; omega) ?_
  simp (disch := omega) [decode, decodeSystem, fld_wS3, resv]

theorem roundTrips_copy {d a b : Nat} (hd : d < 64) (ha : a < 64) (hb : b < 64) {f : Binding} (h : f = .none → b = 0) :
    (Instr.copy f d a b).RoundTrips := by
  have hf := f.code_lt
  have hz : f.code = 0 → b = 0 := fun e => h (Binding.code_eq_zero.mp e)
  refine roundTrips_of rfl (by simp only [wS3]; omega) ?_
  simp (disch := omega) [decode, decodeSystem, fld_wS3, resv, withMod_some]
  exact hz

theorem roundTrips_system_a {a : Nat} (ha : a < 64) :
    (Instr.launchN a).RoundTrips ∧ (Instr.launchT a).RoundTrips ∧ (Instr.graphgo a).RoundTrips := by
  and_intros
  all_goals
    refine roundTrips_of rfl (by simp only [wSys]; omega) ?_
    simp (disch := omega) [decode, decodeSystem, fld_wSys, resv]

theorem roundTrips_system_da {d a : Nat} (hd : d < 64) (ha : a < 64) :
    (Instr.signal d a).RoundTrips := by
  refine roundTrips_of rfl (by simp only [wSys]; omega) ?_
  simp (disch := omega) [decode, decodeSystem, fld_wSys, resv]

theorem roundTrips_system_n {n : Nat} (hn : n < 1024) :
    (Instr.trap n).RoundTrips ∧ (Instr.brk n).RoundTrips := by
  and_intros
  all_goals
    refine roundTrips_of rfl (by simp only [wSys]; omega) ?_
    simp (disch := omega) [decode, decodeSystem, fld_wSys, resv]

theorem roundTrips_system_none :
    (Instr.rte).RoundTrips ∧ (Instr.fenceio).RoundTrips := by
  and_intros
  all_goals
    refine roundTrips_of rfl (by simp only [wSys]; omega) ?_
    simp (disch := omega) [decode, decodeSystem, fld_wSys, resv]

theorem roundTrips_system_dn {d n : Nat} (hd : d < 64) (hn : n < 1024) :
    (Instr.rdcap d n).RoundTrips := by
  refine roundTrips_of rfl (by simp only [wSys]; omega) ?_
  simp (disch := omega) [decode, decodeSystem, fld_wSys, resv]

theorem roundTrips_csr {d n : Nat} (hd : d < 64) (hn : n < 1024) (hl : csrListed n = true) :
    (Instr.csrr d n).RoundTrips ∧ (Instr.csrw d n).RoundTrips := by
  and_intros
  all_goals
    refine roundTrips_of rfl (by simp only [wSys]; omega) ?_
    simp (disch := omega) [decode, decodeSystem, fld_wSys, resv, listed, hl]

theorem roundTrips_pcrd {d n : Nat} (hd : d < 64) (hn : n < 1024) (hl : pcrListed n = true) :
    (Instr.pcrd d n).RoundTrips := by
  refine roundTrips_of rfl (by simp only [wSys]; omega) ?_
  simp (disch := omega) [decode, decodeSystem, fld_wSys, resv, listed, hl]

theorem roundTrips_logrd {d n : Nat} (hd : d < 64) (hn : n < 2) :
    (Instr.logrd d n).RoundTrips := by
  refine roundTrips_of rfl (by simp only [wSys]; omega) ?_
  simp (disch := omega) [decode, decodeSystem, fld_wSys, resv, listed, logListed, hn]

theorem csrListed_lt {n : Nat} (h : csrListed n = true) : n < 1024 := by
  simp only [csrListed, Bool.or_eq_true, beq_iff_eq] at h
  omega

theorem pcrListed_lt {n : Nat} (h : pcrListed n = true) : n < 1024 := by
  simp only [pcrListed, Bool.or_eq_true, Bool.and_eq_true, decide_eq_true_eq] at h
  omega

theorem Instr.roundTrips_of_wellFormed {i : Instr} (hwf : i.wellFormed = true) : i.RoundTrips := by
  intro w hw
  suffices h : i.RoundTrips from h w hw
  cases i
  all_goals simp only [encode, reduceCtorEq] at hw
  all_goals
    simp only [Instr.wellFormed, sreg, vreg, preg, inField, srdListed, barListed, specListed, logListed, Bool.and_eq_true, decide_eq_true_eq] at hwf
  case red o t x b z | redt o t x b z =>
    obtain ⟨⟨⟨ho, ht⟩, hx⟩, hb⟩ := hwf
    simp [roundTrips_reduction ht hx hb z ho]
  case copy f d a b =>
    obtain ⟨⟨⟨hd, ha⟩, hb⟩, hf⟩ := hwf
    exact roundTrips_copy hd ha hb (by rintro rfl; simpa using hf)
  case vunpk h d a =>
    cases h <;> simp [roundTrips_pack_da hwf.1 hwf.2]
  case csrr d n | csrw d n =>
    simp [roundTrips_csr hwf.1 (csrListed_lt hwf.2) hwf.2]
  case pcrd d n => exact roundTrips_pcrd hwf.1 (pcrListed_lt hwf.2) hwf.2
  all_goals simp (disch := omega) [roundTrips_alu, roundTrips_control_none, roundTrips_control_a, roundTrips_immediate_dai, roundTrips_immediate_dan,
    roundTrips_special_dn, roundTrips_special_an, roundTrips_brCc, roundTrips_branch_i, roundTrips_branch_pi, roundTrips_slui, roundTrips_vmovi,
    roundTrips_mode_i, roundTrips_mode_a, roundTrips_smovv_da, roundTrips_smovv_d, roundTrips_vector_dab, roundTrips_vector_da, roundTrips_vsel,
    roundTrips_compare_pabc, roundTrips_compare_pabf, roundTrips_vaddi, roundTrips_vrdl, roundTrips_special_functions, roundTrips_predicate_dab,
    roundTrips_predicate_da, roundTrips_pset, roundTrips_vcvt, roundTrips_quantise_dakl, roundTrips_quantise_dabk, roundTrips_pack_dab,
    roundTrips_pack_da, roundTrips_pack_dabn, roundTrips_shuffle_damc, roundTrips_shuffle_dam, roundTrips_vred, roundTrips_vscan, roundTrips_ballot,
    roundTrips_gather, roundTrips_contiguous, roundTrips_scalar_access_dbmo, roundTrips_scalar_access_bo, roundTrips_range_ab, roundTrips_range_dab,
    roundTrips_range_da, roundTrips_range_d, roundTrips_atomic, roundTrips_wait, roundTrips_gate_ab, roundTrips_gate_a, roundTrips_gate_pab,
    roundTrips_gate_da, roundTrips_bar, roundTrips_reading_dn, roundTrips_reading_d, roundTrips_cmit, roundTrips_csize, roundTrips_matrix_dabtlz,
    roundTrips_matrix_t, roundTrips_matrix_none, roundTrips_matrix_dt, roundTrips_tile, roundTrips_engine_abn, roundTrips_engine_a,
    roundTrips_engine_d, roundTrips_engine_da, roundTrips_system_a, roundTrips_system_da, roundTrips_system_n, roundTrips_system_none,
    roundTrips_system_dn, roundTrips_logrd]
/-- Settles O2. The fields of an instruction's word are its operands, and the decoder's branch at them is the instruction's own. -/
theorem encodeThenDecode : Obligations.EncodeThenDecode :=
  fun _ w hwf hw => Instr.roundTrips_of_wellFormed hwf w hw

theorem BrCond.code_of_ofCode {n : Nat} {c : BrCond} (h : BrCond.ofCode n = some c) : c.code = n := by
  unfold BrCond.ofCode at h
  split at h <;> cases h <;> rfl
theorem CmpCond.code_of_ofCode {n : Nat} {c : CmpCond} (h : CmpCond.ofCode n = some c) : c.code = n := by
  unfold CmpCond.ofCode at h
  split at h <;> cases h <;> rfl
theorem FcmpCond.code_of_ofCode {n : Nat} {c : FcmpCond} (h : FcmpCond.ofCode n = some c) : c.code = n := by
  unfold FcmpCond.ofCode at h
  split at h <;> cases h <;> rfl
theorem ShflKind.code_of_ofCode {n : Nat} {c : ShflKind} (h : ShflKind.ofCode n = some c) : c.code = n := by
  unfold ShflKind.ofCode at h
  split at h <;> cases h <;> rfl
theorem AtomOp.code_of_ofCode {n : Nat} {c : AtomOp} (h : AtomOp.ofCode n = some c) : c.code = n := by
  unfold AtomOp.ofCode at h
  split at h <;> cases h <;> rfl
theorem WaitCond.code_of_ofCode {n : Nat} {c : WaitCond} (h : WaitCond.ofCode n = some c) : c.code = n := by
  unfold WaitCond.ofCode at h
  split at h <;> cases h <;> rfl
theorem Width.code_of_ofCode {n : Nat} {c : Width} (h : Width.ofCode n = some c) : c.code = n := by
  unfold Width.ofCode at h
  split at h <;> cases h <;> rfl
theorem Binding.code_of_ofCode {n : Nat} {c : Binding} (h : Binding.ofCode n = some c) : c.code = n := by
  unfold Binding.ofCode at h
  split at h <;> cases h <;> rfl
theorem ShflKind.ofCode_eq_none {n : Nat} (h : ShflKind.ofCode n = none) : 3 ≤ n := by
  by_contra hn
  have : n = 0 ∨ n = 1 ∨ n = 2 := by omega
  rcases this with rfl | rfl | rfl <;> cases h

/-- A decoder's answer for `w` is well-formed with `w` as its word; or it is an error, and not that of an extension opcode. -/
structure Faithful (w : Nat) (r : Except DecodeError Instr) : Prop where
  wellFormed : ∀ i, r = .ok i → i.wellFormed = true
  encode : ∀ i, r = .ok i → encode i = some w
  here : r ≠ .error .extension

theorem Faithful.ok {w : Nat} {i : Instr} (hwf : i.wellFormed = true) (he : Sys2Proof.encode i = some w) : Faithful w (.ok i) :=
  ⟨fun _ h => Except.ok.inj h ▸ hwf, fun _ h => Except.ok.inj h ▸ he, by simp⟩

theorem Faithful.unassignedFunction (w : Nat) : Faithful w (.error .unassignedFunction) := ⟨nofun, nofun, nofun⟩
theorem Faithful.unassignedOpcode (w : Nat) : Faithful w (.error .unassignedOpcode) := ⟨nofun, nofun, nofun⟩

theorem Faithful.resv {w : Nat} {bad : Bool} {i : Instr} (h : bad = false → Faithful w (.ok i)) : Faithful w (resv bad i) := by
  cases bad with
  | false => exact h rfl
  | true => exact ⟨nofun, nofun, nofun⟩

theorem Faithful.listed {w : Nat} {good : Bool} {r : Except DecodeError Instr} (h : good = true → Faithful w r) : Faithful w (listed good r) := by
  cases good with
  | true => exact h rfl
  | false => exact .unassignedFunction w

theorem Faithful.withMod {α : Type} {w : Nat} {m : Option α} {k : α → Except DecodeError Instr} (h : ∀ a, m = some a → Faithful w (k a)) :
    Faithful w (withMod m k) := by
  cases m with
  | some a => exact h a rfl
  | none => exact .unassignedFunction w

theorem fld_lt (w lo len : Nat) : fld w lo len < 2 ^ len := Nat.mod_lt _ (Nat.two_pow_pos len)
@[simp] theorem sreg_fld (w lo : Nat) : sreg (fld w lo 6) = true := decide_eq_true (fld_lt w lo 6)
@[simp] theorem vreg_fld (w lo : Nat) : vreg (fld w lo 7) = true := decide_eq_true (fld_lt w lo 7)
@[simp] theorem preg_fld (w lo : Nat) : preg (fld w lo 3) = true := decide_eq_true (fld_lt w lo 3)
@[simp] theorem inField_fld (w lo len : Nat) : inField len (fld w lo len) = true := decide_eq_true (fld_lt w lo len)
theorem toNat_fld_bit (w lo : Nat) : (fld w lo 1 == 1).toNat = fld w lo 1 := by
  have h : fld w lo 1 < 2 := fld_lt w lo 1
  interval_cases fld w lo 1 <;> rfl

theorem wS3_eq {w op d a b fn : Nat} (hw : w < 2 ^ 32) (hop : fld w 25 7 = op) (hd : fld w 19 6 = d) (ha : fld w 13 6 = a) (hb : fld w 7 6 = b)
    (hfn : fld w 0 7 = fn) : wS3 op d a b fn = w := by
  simp only [fld, wS3] at *
  omega

theorem wV3_eq {w op d a b fn : Nat} (hw : w < 2 ^ 32) (hop : fld w 25 7 = op) (hd : fld w 18 7 = d) (ha : fld w 11 7 = a) (hb : fld w 4 7 = b)
    (hfn : fld w 0 4 = fn) : wV3 op d a b fn = w := by
  simp only [fld, wV3] at *
  omega

/-- A field whose top bit is 0 is the field below that bit. -/
theorem fld_eq_of_top {w lo len : Nat} (h : fld w (lo + len) 1 = 0) : fld w lo (len + 1) = fld w lo len := by
  simp only [fld, Nat.pow_add, Nat.pow_one, ← Nat.div_div_eq_div_mul] at *
  have := Nat.mod_mul (x := w / 2 ^ lo) (a := 2 ^ len) (b := 2)
  rw [this, h, Nat.mul_zero, Nat.add_zero]

/-- A word whose fields are those of an instruction's own word is that word. -/
theorem Faithful.okOf {w x : Nat} {i : Instr} (hwf : i.wellFormed = true) (he : Sys2Proof.encode i = some x) (hx : x = w) : Faithful w (.ok i) :=
  .ok hwf (hx ▸ he)

theorem Faithful.resvOf {w x : Nat} {bad : Bool} {i : Instr} (hwf : i.wellFormed = true) (he : Sys2Proof.encode i = some x) (hx : bad = false → x = w) :
    Faithful w (Sys2Proof.resv bad i) := .resv fun hb => .okOf hwf he (hx hb)

theorem Faithful.resvOne {w x a : Nat} {i : Instr} (hwf : i.wellFormed = true) (he : Sys2Proof.encode i = some x) (hx : a = 0 → x = w) :
    Faithful w (Sys2Proof.resv (a != 0) i) := .resvOf hwf he fun h => hx (by simpa using h)

theorem Faithful.resvTwo {w x a b : Nat} {i : Instr} (hwf : i.wellFormed = true) (he : Sys2Proof.encode i = some x) (hx : a = 0 → b = 0 → x = w) :
    Faithful w (Sys2Proof.resv (a != 0 || b != 0) i) := .resvOf hwf he fun h => by
  obtain ⟨ha, hb⟩ : a = 0 ∧ b = 0 := by simpa using h
  exact hx ha hb

theorem Faithful.resvThree {w x a b c : Nat} {i : Instr} (hwf : i.wellFormed = true) (he : Sys2Proof.encode i = some x)
    (hx : a = 0 → b = 0 → c = 0 → x = w) : Faithful w (Sys2Proof.resv (a != 0 || b != 0 || c != 0) i) := .resvOf hwf he fun h => by
  obtain ⟨⟨ha, hb⟩, hc⟩ : (a = 0 ∧ b = 0) ∧ c = 0 := by simpa using h
  exact hx ha hb hc

theorem decodeScalar_faithful {w : Nat} (hw : w < 2 ^ 32) : Faithful w (decodeScalar w) := by
  unfold decodeScalar
  split
  all_goals rename_i hop
  case h_1 =>
    split
    all_goals rename_i hfn
    case h_23 => exact .unassignedFunction w
    all_goals exact .okOf (by simp [Instr.wellFormed]) rfl (wS3_eq hw hop rfl rfl rfl hfn)
  case h_2 | h_3 | h_4 | h_5 =>
    refine .okOf (by simp [Instr.wellFormed]) rfl ?_
    simp only [BitVec.toNat_ofNat, fld, wSI] at *
    omega
  case h_7 =>
    refine .okOf (by simp [Instr.wellFormed]) rfl ?_
    simp only [BitVec.toNat_ofNat, fld, wImm19] at *
    omega
  case h_14 | h_15 | h_16 =>
    refine .okOf (by simp [Instr.wellFormed]) rfl ?_
    simp only [BitVec.toNat_ofNat, fld, wB] at *
    omega
  case h_23 =>
    refine .okOf (by simp [Instr.wellFormed]) rfl ?_
    simp only [BitVec.toNat_ofNat, fld, wVI] at *
    omega
  case h_24 =>
    refine .okOf (by simp [Instr.wellFormed]) rfl ?_
    simp only [BitVec.toNat_ofNat, fld, wImm18] at *
    omega
  case h_6 =>
    refine .resvOne (by simp [Instr.wellFormed]) rfl fun hb => ?_
    simp only [BitVec.toNat_ofNat, fld, wSI] at *
    omega
  case h_11 =>
    refine .resvTwo (by simp [Instr.wellFormed]) rfl fun hb hc => ?_
    simp only [fld, wVI] at *
    omega
  case h_12 | h_17 =>
    refine .resvOne (by simp [Instr.wellFormed]) rfl fun hb => ?_
    simp only [BitVec.toNat_ofNat, fld, wB] at *
    omega
  case h_21 =>
    refine .resvOne (by simp [Instr.wellFormed]) rfl fun hb => ?_
    simp only [fld, wV3] at *
    omega
  case h_27 => exact .resvOne (by simp [Instr.wellFormed]) rfl fun hb => wV3_eq hw hop rfl rfl hb rfl
  case h_8 | h_9 =>
    refine .listed fun hl => .resvOne (by simp [Instr.wellFormed, hl]) rfl fun hb => ?_
    simp only [fld, wSI] at *
    omega
  case h_10 =>
    split
    case isTrue hz =>
      refine .resvOne (by simp [Instr.wellFormed]) rfl fun hb => ?_
      simp only [fld, wV3] at *
      omega
    case isFalse hz =>
      split
      all_goals rename_i hfn
      case h_3 => exact .unassignedFunction w
      all_goals
        refine .resvOne (by simp [Instr.wellFormed]) rfl fun hb => ?_
        simp only [fld, wV3] at *
        omega
  case h_13 =>
    refine .withMod fun c hc => .okOf (by simp [Instr.wellFormed]) rfl ?_
    have hc := BrCond.code_of_ofCode hc
    simp only [BitVec.toNat_ofNat, fld, wSI] at *
    omega
  case h_22 =>
    refine .withMod fun c hc => .resvOne (by simp [Instr.wellFormed]) rfl fun hb => ?_
    have hc := CmpCond.code_of_ofCode hc
    simp only [fld, wV3] at *
    omega
  case h_26 =>
    refine .withMod fun c hc => .resvOne (by simp [Instr.wellFormed]) rfl fun hb => ?_
    have hc := FcmpCond.code_of_ofCode hc
    simp only [fld, wV3] at *
    omega
  case h_18 =>
    split
    all_goals rename_i hfn
    case h_6 => exact .unassignedFunction w
    case h_1 | h_2 | h_4 | h_5 =>
      refine .resvOne (by simp [Instr.wellFormed]) rfl fun hb => ?_
      simp only [fld, wS3] at *
      omega
    case h_3 => exact .resvTwo (by simp [Instr.wellFormed]) rfl fun hb hc => wS3_eq hw hop hc rfl hb hfn
  case h_19 =>
    split
    all_goals rename_i hfn
    case h_3 => exact .unassignedFunction w
    case h_1 | h_2 =>
      refine .resvOne (by simp [Instr.wellFormed]) rfl fun hb => ?_
      simp only [BitVec.toNat_ofNat, fld, wMode] at *
      omega
  case h_20 =>
    split
    all_goals rename_i hfn
    case h_16 => exact .unassignedFunction w
    case h_13 | h_14 | h_15 => exact .resvOne (by simp [Instr.wellFormed]) rfl fun hb => wV3_eq hw hop rfl rfl hb hfn
    all_goals exact .okOf (by simp [Instr.wellFormed]) rfl (wV3_eq hw hop rfl rfl rfl hfn)
  case h_25 =>
    split
    all_goals rename_i hfn
    case h_9 => exact .unassignedFunction w
    case h_7 | h_8 => exact .resvOne (by simp [Instr.wellFormed]) rfl fun hb => wV3_eq hw hop rfl rfl hb hfn
    all_goals exact .okOf (by simp [Instr.wellFormed]) rfl (wV3_eq hw hop rfl rfl rfl hfn)
  case h_28 => exact .unassignedOpcode w

theorem decodeVector_faithful {w : Nat} (hw : w < 2 ^ 32) : Faithful w (decodeVector w) := by
  unfold decodeVector
  split
  all_goals rename_i hop
  case h_1 | h_2 | h_3 | h_4 | h_5 | h_6 => exact .resvOne (by simp [Instr.wellFormed]) rfl fun hb => wV3_eq hw hop rfl rfl hb rfl
  case h_7 =>
    split
    all_goals rename_i hfn
    case h_6 => exact .unassignedFunction w
    case h_1 | h_2 | h_3 | h_4 | h_5 =>
      refine .resvThree (by simp [Instr.wellFormed]) rfl fun hb hc he => ?_
      simp only [fld, wV3] at *
      omega
  case h_8 =>
    refine .okOf (by simp [Instr.wellFormed]) rfl ?_
    simp only [BitVec.toNat_ofNat, fld, wV3] at *
    omega
  case h_9 | h_10 =>
    refine .resvOne (by simp [Instr.wellFormed]) rfl fun hb => ?_
    simp only [fld, wV3] at *
    omega
  case h_11 =>
    split
    all_goals rename_i hfn
    case h_5 => exact .unassignedFunction w
    case h_1 => exact .okOf (by simp [Instr.wellFormed]) rfl (wV3_eq hw hop rfl rfl rfl hfn)
    case h_2 | h_3 | h_4 => exact .resvOne (by simp [Instr.wellFormed]) rfl fun hb => wV3_eq hw hop rfl rfl hb hfn
  case h_12 =>
    split
    all_goals rename_i hfn
    case h_3 => exact .unassignedFunction w
    all_goals exact .okOf (by simp [Instr.wellFormed]) rfl (wV3_eq hw hop rfl rfl rfl hfn)
  case h_13 => exact .okOf (by simp [Instr.wellFormed]) rfl (wV3_eq hw hop rfl rfl rfl rfl)
  case h_14 =>
    split
    case h_1 c hc =>
      refine .resvOne (by simp [Instr.wellFormed]) rfl fun hb => ?_
      have hc := ShflKind.code_of_ofCode hc
      simp only [fld, wVI] at *
      omega
    case h_2 hc =>
      refine .resvOne (by simp [Instr.wellFormed]) rfl fun hb => ?_
      have hc := ShflKind.ofCode_eq_none hc
      simp only [fld, wVI] at *
      omega
  case h_15 =>
    split
    all_goals rename_i hfn
    case h_9 => exact .unassignedFunction w
    case h_1 | h_2 | h_3 => exact .resvTwo (by simp [Instr.wellFormed]) rfl fun hb hc => wV3_eq hw hop (fld_eq_of_top hc) rfl hb hfn
    case h_4 | h_5 | h_6 => exact .resvOne (by simp [Instr.wellFormed]) rfl fun hb => wV3_eq hw hop rfl rfl hb hfn
    case h_7 | h_8 =>
      refine .resvThree (by simp [Instr.wellFormed]) rfl fun hb hc he => ?_
      simp only [fld, wV3] at *
      omega
  case h_16 | h_17 | h_22 | h_23 =>
    refine .okOf (by simp [Instr.wellFormed]) rfl ?_
    rw [toNat_fld_bit]
    simp only [fld, wM] at *
    omega
  case h_18 | h_19 =>
    refine .listed fun hl => .okOf (by simp [Instr.wellFormed]) rfl ?_
    have hl : fld w 10 2 < 2 := of_decide_eq_true hl
    rw [toNat_fld_bit]
    simp only [BitVec.toNat_ofNat, fld, wMS] at *
    omega
  case h_20 | h_21 =>
    refine .withMod fun c hc => .resvOne (by simp [Instr.wellFormed]) rfl fun hb => ?_
    have hc := Width.code_of_ofCode hc
    simp only [BitVec.toNat_ofNat, fld, wMS] at *
    omega
  case h_24 =>
    refine .resvTwo (by simp [Instr.wellFormed]) rfl fun hb hc => ?_
    simp only [BitVec.toNat_ofNat, fld, wMS] at *
    omega
  case h_25 | h_26 | h_27 => exact .resvTwo (by simp [Instr.wellFormed]) rfl fun hb hc => wS3_eq hw hop hc rfl rfl hb
  case h_28 => exact .unassignedOpcode w

theorem decodeSync_faithful {w : Nat} (hw : w < 2 ^ 32) : Faithful w (decodeSync w) := by
  unfold decodeSync
  split
  all_goals rename_i hop
  case h_1 | h_10 | h_12 =>
    refine .resvOne (by simp [Instr.wellFormed]) rfl fun hb => ?_
    simp only [fld, wS3, wSI] at *
    omega
  case h_2 | h_4 =>
    refine .withMod fun c hc => .okOf (by simp [Instr.wellFormed]) rfl ?_
    have hc := AtomOp.code_of_ofCode hc
    rw [toNat_fld_bit]
    simp only [fld, wM] at *
    omega
  case h_3 | h_5 =>
    refine .withMod fun c hc => .listed fun hl => .okOf (by simp [Instr.wellFormed, hl]) rfl ?_
    have hc := AtomOp.code_of_ofCode hc
    rw [toNat_fld_bit]
    simp only [fld, wM] at *
    omega
  case h_6 =>
    refine .withMod fun c hc => .resvOne (by simp [Instr.wellFormed]) rfl fun hb => ?_
    exact wS3_eq hw hop hb rfl rfl (WaitCond.code_of_ofCode hc).symm
  case h_7 | h_11 =>
    refine .listed fun hl => .resvOne (by simp [Instr.wellFormed, hl]) rfl fun hb => ?_
    simp only [fld, wSI] at *
    omega
  case h_8 =>
    split
    all_goals rename_i hfn
    case h_5 => exact .unassignedFunction w
    case h_1 | h_2 => exact .resvOne (by simp [Instr.wellFormed]) rfl fun hb => wS3_eq hw hop hb rfl rfl hfn
    case h_3 => exact .resvTwo (by simp [Instr.wellFormed]) rfl fun hb hc => wS3_eq hw hop hc rfl hb hfn
    case h_4 =>
      refine .resvOne (by simp [Instr.wellFormed]) rfl fun hb => ?_
      simp only [fld, wS3] at *
      omega
  case h_9 =>
    split
    all_goals rename_i hfn
    case h_7 => exact .unassignedFunction w
    case h_1 | h_2 | h_4 | h_5 => exact .resvOne (by simp [Instr.wellFormed]) rfl fun hb => wS3_eq hw hop rfl rfl hb hfn
    case h_3 | h_6 => exact .resvTwo (by simp [Instr.wellFormed]) rfl fun hb hc => wS3_eq hw hop hc rfl hb hfn
  case h_13 =>
    split
    all_goals rename_i hfn
    case h_3 => exact .unassignedFunction w
    case h_1 | h_2 => exact .resvOne (by simp [Instr.wellFormed]) rfl fun hb => wS3_eq hw hop hb rfl rfl hfn
  case h_14 =>
    split
    all_goals rename_i hfn
    case h_2 => exact .unassignedFunction w
    case h_1 => exact .okOf (by simp [Instr.wellFormed]) rfl (wS3_eq hw hop rfl rfl rfl hfn)
  case h_15 =>
    split
    all_goals rename_i hfn
    case h_3 => exact .unassignedFunction w
    case h_1 =>
      refine .resvOne (by simp [Instr.wellFormed]) rfl fun hb => ?_
      simp only [fld, wS3] at *
      omega
    case h_2 => exact .resvOne (by simp [Instr.wellFormed]) rfl fun hb => wS3_eq hw hop hb rfl rfl hfn
  case h_16 =>
    split
    all_goals rename_i hfn
    case h_2 => exact .unassignedFunction w
    case h_1 => exact .resvOne (by simp [Instr.wellFormed]) rfl fun hb => wS3_eq hw hop hb rfl rfl hfn
  case h_17 =>
    split
    all_goals rename_i hfn
    case h_3 => exact .unassignedFunction w
    case h_1 | h_2 => exact .resvOne (by simp [Instr.wellFormed]) rfl fun hb => wS3_eq hw hop rfl rfl hb hfn
  case h_18 =>
    refine .resvOne (by simp [Instr.wellFormed]) rfl fun hb => ?_
    rw [toNat_fld_bit]
    simp only [fld, wMX] at *
    omega
  case h_19 | h_23 =>
    refine .resvTwo (by simp [Instr.wellFormed]) rfl fun hb hc => ?_
    simp only [fld, wMX] at *
    omega
  case h_20 =>
    refine .resvOne (by simp [Instr.wellFormed]) rfl fun hb => ?_
    simp only [fld, wMX] at *
    omega
  case h_21 | h_22 =>
    refine .resvTwo (by simp [Instr.wellFormed]) rfl fun hb hc => ?_
    simp only [fld, wV3] at *
    omega
  case h_24 => exact .unassignedOpcode w

theorem decodeSystem_faithful {w : Nat} (hw : w < 2 ^ 32) : Faithful w (decodeSystem w) := by
  unfold decodeSystem
  split
  all_goals rename_i hop
  case h_1 => exact .resvOne (by simp [Instr.wellFormed]) rfl fun hb => wS3_eq hw hop hb rfl rfl rfl
  case h_2 =>
    refine .withMod fun c hc => .resv fun hb => .okOf ?_ rfl (wS3_eq hw hop rfl rfl rfl (Binding.code_of_ofCode hc).symm)
    cases c with
    | none => simpa [Instr.wellFormed, ← Binding.code_of_ofCode hc, Binding.code] using hb
    | gate => simp [Instr.wellFormed]
    | channel => simp [Instr.wellFormed]
  case h_3 =>
    refine .resvTwo (by simp [Instr.wellFormed]) rfl fun hb hc => ?_
    simp only [fld, wS3] at *
    omega
  case h_4 | h_5 | h_7 =>
    refine .resvOne (by simp [Instr.wellFormed]) rfl fun hb => ?_
    simp only [fld, wS3] at *
    omega
  case h_6 => exact .resvOne (by simp [Instr.wellFormed]) rfl fun hb => wS3_eq hw hop rfl rfl rfl hb
  case h_8 =>
    split
    all_goals rename_i hfn
    case h_3 => exact .unassignedFunction w
    case h_1 | h_2 =>
      refine .resvTwo (by simp [Instr.wellFormed]) rfl fun hb hc => ?_
      simp only [fld, wSys] at *
      omega
  case h_9 =>
    split
    all_goals rename_i hfn
    case h_3 => exact .unassignedFunction w
    case h_1 =>
      refine .resvTwo (by simp [Instr.wellFormed]) rfl fun hb hc => ?_
      simp only [fld, wSys] at *
      omega
    case h_2 =>
      refine .resvOne (by simp [Instr.wellFormed]) rfl fun hb => ?_
      simp only [fld, wSys] at *
      omega
  case h_10 =>
    split
    all_goals rename_i hfn
    case h_3 => exact .unassignedFunction w
    case h_1 | h_2 =>
      refine .resvOne (by simp [Instr.wellFormed]) rfl fun hb => ?_
      simp only [fld, wSys] at *
      omega
  case h_11 =>
    split
    all_goals rename_i hfn
    case h_2 => exact .unassignedFunction w
    case h_1 =>
      refine .resvTwo (by simp [Instr.wellFormed]) rfl fun hb hc => ?_
      simp only [fld, wSys] at *
      omega
  case h_12 =>
    split
    all_goals rename_i hfn
    case h_2 => exact .unassignedFunction w
    case h_1 =>
      refine .resvOne (by simp [Instr.wellFormed]) rfl fun hb => ?_
      simp only [fld, wSys] at *
      omega
  case h_13 =>
    split
    all_goals rename_i hfn
    case h_3 => exact .unassignedFunction w
    case h_1 | h_2 =>
      refine .listed fun hl => .resvOne (by simp [Instr.wellFormed, hl]) rfl fun hb => ?_
      simp only [fld, wSys] at *
      omega
  case h_14 =>
    split
    all_goals rename_i hfn
    case h_3 => exact .unassignedFunction w
    case h_1 | h_2 =>
      refine .listed fun hl => .resvOne (by simp [Instr.wellFormed, hl]) rfl fun hb => ?_
      simp only [fld, wSys] at *
      omega
  case h_15 =>
    split
    all_goals rename_i hfn
    case h_2 => exact .unassignedFunction w
    case h_1 =>
      refine .resvTwo (by simp [Instr.wellFormed]) rfl fun hb hc => ?_
      simp only [fld, wSys] at *
      omega
  case h_16 | h_17 | h_18 | h_19 | h_20 | h_21 => exact .resvOne (by simp [Instr.wellFormed]) rfl fun hb => wV3_eq hw hop rfl rfl hb rfl
  case h_22 => exact .unassignedOpcode w

/-- The decoder answers a word below 2 ^ 32 faithfully, but for the opcodes of extensions. -/
theorem decode_faithful {w : Nat} (hw : w < 2 ^ 32) (hop : fld w 25 7 < 0x76) : Faithful w (decode w) := by
  unfold decode
  simp only [hop, if_true]
  split
  · exact decodeScalar_faithful hw
  · split
    · exact decodeVector_faithful hw
    · split
      · exact decodeSync_faithful hw
      · exact decodeSystem_faithful hw

theorem decode_extension {w : Nat} (hop : 0x76 ≤ fld w 25 7) : decode w = .error .extension := by
  unfold decode
  simp only [if_neg (show ¬ fld w 25 7 < 0x20 by omega), if_neg (show ¬ fld w 25 7 < 0x40 by omega), if_neg (show ¬ fld w 25 7 < 0x60 by omega),
    if_neg (show ¬ fld w 25 7 < 0x76 by omega)]

theorem fld_opcode {w : Nat} (hw : w < 2 ^ 32) : fld w 25 7 = w / 2 ^ 25 := Nat.mod_eq_of_lt (by omega)

/-- Settles O3. Every branch of the decoder answers with the instruction whose fields are the word's. -/
theorem decodeThenEncode : Obligations.DecodeThenEncode := by
  intro w hw
  rw [← fld_opcode hw]
  by_cases hop : fld w 25 7 < 0x76
  · obtain ⟨hwf, he, hne⟩ := decode_faithful hw hop
    exact ⟨fun i hi => ⟨hwf i hi, he i hi⟩, fun h => absurd h hne, fun h => absurd hop (by omega)⟩
  · rw [decode_extension (by omega)]
    exact ⟨nofun, fun _ => by omega, fun _ => rfl⟩

end Sys2Proof
end

section
/-! SUPPORT. The reset state (R6, R360), scalars and branches (R88 to R97): instructions that set registers and go on, the values of the scalar forms,
and how a gang parts at a branch. -/

namespace Sys2Proof.Machine

/-! ### The state after reset (R6, R360) -/

/-- Settles O10. Each table of the reset state is given, and only the four dies are to be gone through. -/
theorem resetState : Obligations.ResetState := by
  refine ⟨rfl, rfl, rfl, rfl, rfl, rfl, rfl, rfl, rfl, rfl, rfl, rfl, rfl, rfl, rfl, fun d hd => ?_, ?_⟩
  · interval_cases d <;> exact ⟨rfl, rfl⟩
  · decide

/-! ### Instructions that set registers and go on -/

/-- An instruction that sets each slice's registers and goes on to the next instruction. -/
theorem State.sets_of_regOp {s : State} {t : Nat} {ks : List Nat} {i : Instr} {f : Nat → Regs → Regs} {g : Regs → Regs} (ha : s.acts t ks)
    (hm : touchesMemory i = false) (he : exec i s = regOp i g s) (hg : ∀ k r, f k r = (g r).adv) : s.sets t ks i f :=
  State.sets_of_issueRegs ha hm he fun k _ => by rw [hg]

/-- The same of a form with two sources (R88). -/
theorem State.sets_of_scalarOp {s : State} {t d a b : Nat} {ks : List Nat} {i : Instr} {f : W64 → W64 → W64} (ha : s.acts t ks)
    (hm : touchesMemory i = false) (he : exec i s = scalarOp i d a b f s) :
    s.sets t ks i fun _ r => (r.setS d (f (r.getS a) (r.getS b))).adv :=
  State.sets_of_regOp ha hm he fun _ _ => rfl

/-- The same of a form with one source (R89). -/
theorem State.sets_of_immOp {s : State} {t d a : Nat} {ks : List Nat} {i : Instr} {g : W64 → W64} (ha : s.acts t ks)
    (hm : touchesMemory i = false) (he : exec i s = immOp i d a g s) :
    s.sets t ks i fun _ r => (r.setS d (g (r.getS a))).adv :=
  State.sets_of_regOp ha hm he fun _ _ => rfl

/-! ### Values (R88) -/

theorem remS_eq (x y : W64) : remS x y = if y = 0 then x else BitVec.ofInt 64 (x.toInt.tmod y.toInt) := by
  unfold remS
  rw [Int.tmod_def]

theorem remN_eq (x y : W64) : remN x y = if y = 0 then x else BitVec.ofNat 64 (x.toNat % y.toNat) := by
  unfold remN
  rw [Nat.mod_eq_sub_mul_div]

theorem slt_ite {α : Sort _} (x y : W64) (p q : α) : (if x.slt y then p else q) = if x.toInt < y.toInt then p else q := by
  simp only [BitVec.slt, decide_eq_true_eq]

theorem ult_ite {α : Sort _} (x y : W64) (p q : α) : (if x.ult y then p else q) = if x.toNat < y.toNat then p else q := by
  simp only [BitVec.ult, decide_eq_true_eq]

theorem luiValue_eq (w : BitVec 19) : luiValue w = ((w.setWidth 32 : BitVec 32) <<< 13).signExtend 64 := by
  have h : (w ++ (0 : BitVec 13) : BitVec 32) = (w.setWidth 32 : BitVec 32) <<< 13 := by
    apply BitVec.eq_of_toNat_eq
    have := w.isLt
    rw [BitVec.toNat_append]
    simp [Nat.shiftLeft_eq]
    try omega
  rw [luiValue, h]

/-- SADD in each slice, and the count of its chunk (R200). -/
theorem State.sadd_counts {s : State} {t : Nat} {ks : List Nat} (ha : s.acts t ks) (d a b : Nat) (hl : s.lets t ks (.sadd d a b)) :
    ∃ u, exec (.sadd d a b) s = .next u ∧ ∀ k ∈ ks,
      let n := (s.slice t k).chunk.instrs + 1
      (u.slice t k).chunk.instrs = n ∧ ((u.slice t k).chunk.ended = true ↔ (s.slice t k).chunk.ended = true ∨
        ((s.slice t k).level = 0 ∧ 256 ≤ n) ∨ ((s.slice t k).level = 1 ∧ 16 ≤ n)) := by
  obtain ⟨u, hu, heff, -⟩ := State.sets_of_scalarOp (i := .sadd d a b) ha rfl rfl hl
  refine ⟨u, hu, fun k hk => ?_⟩
  rw [heff.slices k hk]
  refine ⟨rfl, ?_⟩
  simp [Slice.ending, State.ran, or_assoc]

/-- Settles O11. Each form is its value written to the destination; what differs from the model's own words is how the value is said. -/
theorem scalarResults : Obligations.ScalarResults := by
  intro s t ks ha d a b m n w
  refine ⟨?sadd, ?ssub, ?smul, ?smulh, ?smulhN, ?sdiv, ?sdivN, ?srem, ?sremN, ?sand, ?sor, ?sxor, ?sshl, ?sshr, ?ssra, ?smin,
     ?sminN, ?smax, ?smaxN, ?sslt, ?ssltn, ?ssel, ?saddi, ?sandi, ?sori, ?sxori, ?sshli, ?slui, State.sadd_counts ha d a b⟩
  case sadd => exact State.sets_of_scalarOp (f := fun x y => x + y) ha rfl rfl
  case ssub => exact State.sets_of_scalarOp (f := fun x y => x - y) ha rfl rfl
  case smul => exact State.sets_of_scalarOp (f := fun x y => x * y) ha rfl rfl
  case smulh => exact State.sets_of_scalarOp (f := mulHigh) ha rfl rfl
  case smulhN => exact State.sets_of_scalarOp (f := mulHighN) ha rfl rfl
  case sdiv => exact State.sets_of_scalarOp (f := divS) ha rfl rfl
  case sdivN => exact State.sets_of_scalarOp (f := divN) ha rfl rfl
  case sand => exact State.sets_of_scalarOp (f := fun x y => x &&& y) ha rfl rfl
  case sor => exact State.sets_of_scalarOp (f := fun x y => x ||| y) ha rfl rfl
  case sxor => exact State.sets_of_scalarOp (f := fun x y => x ^^^ y) ha rfl rfl
  case sshl => exact State.sets_of_scalarOp (f := fun x y => x <<< shiftCount y) ha rfl rfl
  case sshr => exact State.sets_of_scalarOp (f := fun x y => x >>> shiftCount y) ha rfl rfl
  case ssra => exact State.sets_of_scalarOp (f := fun x y => x.sshiftRight (shiftCount y)) ha rfl rfl
  case srem => simpa only [remS_eq] using State.sets_of_scalarOp (i := .srem d a b) (f := remS) ha rfl rfl
  case sremN => simpa only [remN_eq] using State.sets_of_scalarOp (i := .sremN d a b) (f := remN) ha rfl rfl
  case smin => simpa only [slt_ite] using State.sets_of_scalarOp (i := .smin d a b) (f := fun x y => if x.slt y then x else y) ha rfl rfl
  case sminN => simpa only [ult_ite] using State.sets_of_scalarOp (i := .sminN d a b) (f := fun x y => if x.ult y then x else y) ha rfl rfl
  case smax => simpa only [slt_ite] using State.sets_of_scalarOp (i := .smax d a b) (f := fun x y => if y.slt x then x else y) ha rfl rfl
  case smaxN => simpa only [ult_ite] using State.sets_of_scalarOp (i := .smaxN d a b) (f := fun x y => if y.ult x then x else y) ha rfl rfl
  case sslt => simpa only [boolW, slt_ite] using State.sets_of_scalarOp (i := .sslt d a b) (f := fun x y => boolW (x.slt y)) ha rfl rfl
  case ssltn => simpa only [boolW, ult_ite] using State.sets_of_scalarOp (i := .ssltn d a b) (f := fun x y => boolW (x.ult y)) ha rfl rfl
  case ssel =>
    exact State.sets_of_regOp (g := fun r => r.setS d (if r.getS d != 0 then r.getS a else r.getS b)) ha rfl rfl fun _ r => by
      simp only [bne_iff_ne, ne_eq]
  case saddi => exact State.sets_of_immOp (g := fun x => x + sext13 m) ha rfl rfl
  case sandi => exact State.sets_of_immOp (g := fun x => x &&& sext13 m) ha rfl rfl
  case sori => exact State.sets_of_immOp (g := fun x => x ||| sext13 m) ha rfl rfl
  case sxori => exact State.sets_of_immOp (g := fun x => x ^^^ sext13 m) ha rfl rfl
  case sshli => exact State.sets_of_immOp (g := fun x => x <<< n.toNat) ha rfl rfl
  case slui => exact State.sets_of_regOp (g := fun r => r.setS d (luiValue w)) ha rfl rfl fun _ r => by rw [luiValue_eq]
/-! ### A gang that parts in two (R97) -/

theorem List.eq_pair_of_nodup {l : List Nat} {j k : Nat} (hn : l.Nodup) (hjk : j ≠ k) (hm : ∀ x, x ∈ l ↔ x = j ∨ x = k) : l = [j, k] ∨ l = [k, j] := by
  have hp : l.Perm [j, k] := (List.perm_ext_iff_of_nodup hn (by simp [hjk])).mpr fun x => by simp [hm]
  obtain ⟨x, y, rfl⟩ := List.length_eq_two.mp hp.length_eq
  have hx := (hm x).mp (by simp)
  have hy := (hm y).mp (by simp)
  have hxy : x ≠ y := by simpa using hn
  rcases hx with rfl | rfl <;> rcases hy with rfl | rfl <;> simp_all

section TwoPlaces
variable {at' : Nat → W64 × BitVec 16} {ks : List Nat} {p : Nat → Bool} (h : ∀ j ∈ ks, ∀ k ∈ ks, at' j = at' k ↔ p j = p k)
include h

theorem filter_at_eq {k : Nat} (hk : k ∈ ks) : (ks.filter fun j => at' j == at' k) = ks.filter fun j => p j == p k :=
  List.filter_congr fun j hj => by rw [Bool.eq_iff_iff, beq_iff_eq, beq_iff_eq, h j hj k hk]

theorem find_at_eq {k : Nat} (hk : k ∈ ks) : (ks.find? fun j => at' j == at' k) = ks.find? fun j => p j == p k :=
  List.find?_congr fun j hj => by rw [Bool.eq_iff_iff, beq_iff_eq, beq_iff_eq, h j hj k hk]

/-- Slices of which each stands where one of the two does part in two, each part in the gang's order. -/
theorem standParts_two (hn : ks.Nodup) (ht : ks.filter p ≠ []) (hf : (ks.filter fun k => !p k) ≠ []) :
    standParts at' ks = [ks.filter p, ks.filter fun k => !p k] ∨ standParts at' ks = [ks.filter fun k => !p k, ks.filter p] := by
  obtain ⟨j, hj⟩ : ∃ j, ks.find? p = some j := Option.isSome_iff_exists.mp (List.find?_isSome.mpr (by
    obtain ⟨x, hx⟩ := List.exists_mem_of_ne_nil _ ht
    exact ⟨x, List.mem_filter.mp hx⟩))
  obtain ⟨k, hk⟩ : ∃ k, (ks.find? fun k => !p k) = some k := Option.isSome_iff_exists.mp (List.find?_isSome.mpr (by
    obtain ⟨x, hx⟩ := List.exists_mem_of_ne_nil _ hf
    exact ⟨x, List.mem_filter.mp hx⟩))
  have hjm := List.mem_of_find?_eq_some hj
  have hkm := List.mem_of_find?_eq_some hk
  have hjp : p j = true := List.find?_some hj
  have hkp : p k = false := by simpa using List.find?_some hk
  have hmem : ∀ x, x ∈ (ks.filter fun k => ks.find? (fun j => at' j == at' k) == some k) ↔ x = j ∨ x = k := by
    intro x
    rw [List.mem_filter]
    constructor
    · rintro ⟨hx, hfx⟩
      rw [find_at_eq h hx, beq_iff_eq] at hfx
      cases hpx : p x with
      | true => left; simp only [hpx, beq_true] at hfx; rw [hj] at hfx; exact (Option.some.inj hfx).symm
      | false => right; simp only [hpx, beq_false] at hfx; rw [hk] at hfx; exact (Option.some.inj hfx).symm
    · rintro (rfl | rfl)
      · exact ⟨hjm, by rw [find_at_eq h hjm, beq_iff_eq]; simpa only [hjp, beq_true] using hj⟩
      · exact ⟨hkm, by rw [find_at_eq h hkm, beq_iff_eq]; simpa only [hkp, beq_false] using hk⟩
  have hjk : j ≠ k := by rintro rfl; simp [hjp] at hkp
  have e1 : (ks.filter fun i => at' i == at' j) = ks.filter p := by rw [filter_at_eq h hjm]; simp [hjp]
  have e2 : (ks.filter fun i => at' i == at' k) = ks.filter fun i => !p i := by rw [filter_at_eq h hkm]; simp [hkp]
  unfold standParts
  rcases List.eq_pair_of_nodup (hn.filter _) hjk hmem with e | e
  · left; rw [e]; simp only [List.map_cons, List.map_nil, e1, e2]
  · right; rw [e]; simp only [List.map_cons, List.map_nil, e1, e2]

/-- Slices that all stand at one place do not part. -/
theorem standParts_alike (hn : ks.Nodup) (h0 : ks ≠ []) (ha : ∀ j ∈ ks, ∀ k ∈ ks, p j = p k) : standParts at' ks = [ks] := by
  obtain ⟨k, l, rfl⟩ := List.exists_cons_of_ne_nil h0
  have hk : k ∈ k :: l := List.mem_cons_self ..
  have hs : ∀ x ∈ k :: l, at' x = at' k := fun x hx => (h x hx k hk).mpr (ha x hx k hk)
  have hfirst : ((k :: l).filter fun x => (k :: l).find? (fun j => at' j == at' x) == some x) = [k] := by
    have hfind : ∀ x ∈ k :: l, ((k :: l).find? fun j => at' j == at' x) = some k := fun x hx => by simp [hs x hx]
    have hl : (l.filter fun x => (k :: l).find? (fun j => at' j == at' x) == some x) = [] := by
      rw [List.filter_eq_nil_iff]
      intro x hx
      rw [hfind x (List.mem_cons_of_mem _ hx), beq_iff_eq, Option.some.injEq]
      rintro rfl
      exact (List.nodup_cons.mp hn).1 hx
    rw [List.filter_cons, hl, hfind k hk]
    simp
  unfold standParts
  rw [hfirst, List.map_cons, List.map_nil, List.filter_eq_self.mpr fun x hx => by rw [beq_iff_eq]; exact hs x hx]

end TwoPlaces

/-- A gang among others that are not it. -/
theorem flatMap_gang {ga gb : List Gang} {G : Gang} {t : Nat} {ks : List Nat} (ps : List (List Nat)) (ht : G.team = t) (hk : G.ks = ks)
    (ho : ∀ g ∈ ga ++ gb, g.team = t → g.ks ≠ ks) :
    ((ga ++ G :: gb).flatMap fun g => if g.team = t ∧ g.ks = ks then ps.map fun p => { g with ks := p } else [g]) =
      ga ++ (ps.map fun p => { G with ks := p }) ++ gb := by
  have hid : ∀ l : List Gang, (∀ g ∈ l, g.team = t → g.ks ≠ ks) →
      (l.flatMap fun g => if g.team = t ∧ g.ks = ks then ps.map fun p => { g with ks := p } else [g]) = l := by
    intro l hl
    induction l with
    | nil => rfl
    | cons g l ih =>
      rw [List.flatMap_cons, ih fun x hx => hl x (List.mem_cons_of_mem _ hx), if_neg fun e => hl g (List.mem_cons_self ..) e.1 e.2]
      rfl
  rw [List.flatMap_append, List.flatMap_cons, hid ga fun g hg => ho g (List.mem_append_left _ hg), hid gb fun g hg => ho g (List.mem_append_right _ hg),
    if_pos ⟨ht, hk⟩, List.append_assoc]

/-! ### Branches (R94, R95) -/

/-- A branch by a condition on the slice's registers, the condition said as a proposition. -/
theorem State.branch_sets {s : State} {t n : Nat} {ks : List Nat} {i : Instr} {d : BitVec n} {taken : Regs → Bool} {P : Regs → Prop} [DecidablePred P]
    (ha : s.acts t ks) (hm : touchesMemory i = false) (he : exec i s = branchOp i d taken s) (hP : ∀ r, taken r = true ↔ P r) :
    s.sets t ks i fun _ r => r.setPc (r.pc + 4 + if P r then 4 * d.signExtend 64 else 0) := by
  refine State.sets_of_issueRegs ha hm he fun k _ => ?_
  by_cases hp : P (s.slice t k).regs
  · rw [if_pos ((hP _).mpr hp), if_pos hp, branchTarget_eq]
  · rw [if_neg fun e => hp ((hP _).mp e), if_neg hp]
    exact congrArg (fun x => Except.ok (Regs.setPc _ x)) (BitVec.add_zero _).symm

theorem lanes_any (x y : BitVec 4) : (x &&& y != 0) = true ↔ ∃ l < 4, y.getLsbD l = true ∧ x.getLsbD l = true := by
  revert x y; decide
theorem lanes_all (x y : BitVec 4) : (x &&& y == y) = true ↔ ∀ l < 4, y.getLsbD l = true → x.getLsbD l = true := by
  revert x y; decide
theorem lanes_none (x y : BitVec 4) : (x &&& y == 0) = true ↔ ∀ l < 4, y.getLsbD l = true → x.getLsbD l = false := by
  revert x y; decide

/-- A displacement that is not 0 leads elsewhere than to the next instruction. -/
theorem displacement_ne_zero {m : BitVec 13} (hm : m ≠ 0) : (4 * m.signExtend 64 : W64) ≠ 0 := by
  intro h
  have hn : (4#64 * m.signExtend 64).toNat = 0 := congrArg BitVec.toNat h
  have hlt := m.isLt
  apply hm
  apply BitVec.eq_of_toNat_eq
  rw [BitVec.toNat_mul, BitVec.toNat_signExtend, BitVec.toNat_setWidth] at hn
  show m.toNat = 0
  cases hs : m.msb <;> simp only [hs, if_true, if_false, BitVec.toNat_ofNat, Bool.false_eq_true] at hn <;> omega

/-- A gang whose slices come to stand at two places parts in two; at one place it stays whole (R97). -/
theorem State.parted_two {s u : State} {t : Nat} {ks : List Nat} {F : Nat → Slice} {p : Nat → Bool} {ga gb : List Gang} {G : Gang}
    (hp : s.parted u t ks F) (hr : ∀ k ∈ ks, (F k).status = .run ∧ (F k).park = none)
    (hst : ∀ j ∈ ks, ∀ k ∈ ks, ((F j).regs.pc, (F j).regs.mode) = ((F k).regs.pc, (F k).regs.mode) ↔ p j = p k) (hn : ks.Nodup) (h0 : ks ≠ [])
    (hg : s.gangs = ga ++ G :: gb) (ht : G.team = t) (hk : G.ks = ks) (ho : ∀ g ∈ ga ++ gb, g.team = t → g.ks ≠ ks) :
    (ks.filter p = [] ∨ (ks.filter fun k => !p k) = [] → u.gangs = s.gangs) ∧
    (ks.filter p ≠ [] → (ks.filter fun k => !p k) ≠ [] →
      u.gangs = ga ++ { G with ks := ks.filter p } :: { G with ks := ks.filter fun k => !p k } :: gb ∨
      u.gangs = ga ++ { G with ks := ks.filter fun k => !p k } :: { G with ks := ks.filter p } :: gb) := by
  have hu := hp hr
  rw [hg, flatMap_gang _ ht hk ho] at hu
  refine ⟨fun he => ?_, fun h1 h2 => ?_⟩
  · have halike : ∀ j ∈ ks, ∀ k ∈ ks, p j = p k := by
      rcases he with he | he
      · have hno := List.filter_eq_nil_iff.mp he
        exact fun j hj k hk => by simpa using (Bool.eq_false_iff.mpr (hno j hj)).trans (Bool.eq_false_iff.mpr (hno k hk)).symm
      · have hall := List.filter_eq_nil_iff.mp he
        exact fun j hj k hk => by
          have h1 := hall j hj
          have h2 := hall k hk
          simp only [Bool.not_eq_true, Bool.not_eq_false'] at h1 h2
          rw [h1, h2]
    rw [hu, hg, standParts_alike hst hn h0 halike, List.map_cons, List.map_nil, ← hk, List.append_assoc, List.singleton_append]
  · rcases standParts_two hst hn h1 h2 with e | e
    · left; rw [hu, e]; simp
    · right; rw [hu, e]; simp

/-- Two slices at one place stand at one place again after a branch if both took it, or neither. -/
theorem place_eq_iff {pc e x y : W64} {mode : BitVec 16} (he : e ≠ 0) :
    ((pc + 4 + if x = 0 then e else 0, mode) : W64 × BitVec 16) = (pc + 4 + if y = 0 then e else 0, mode) ↔ (x == 0) = (y == 0) := by
  rw [Prod.mk.injEq, Bool.eq_iff_iff, beq_iff_eq, beq_iff_eq]
  constructor
  · rintro ⟨h, -⟩
    have h := add_left_cancel h
    split_ifs at h with hx hy hy
    · exact iff_of_true hx hy
    · exact absurd h he
    · exact absurd h.symm he
    · exact iff_of_false hx hy
  · intro h
    simp only [h, and_self]

/-- Where the slices of a gang that branch, and those that do not, go on (R97). -/
theorem State.br_cc_parts {s : State} {t : Nat} {ks : List Nat} (ha : s.acts t ks) {a : Nat} {m : BitVec 13} {ga gb : List Gang} {G : Gang} {pc : W64}
    {mode : BitVec 16} (hl : s.lets t ks (.brCc .z a m)) (hm : m ≠ 0) (h0 : ks ≠ []) (hg : s.gangs = ga ++ G :: gb) (ht : G.team = t) (hk : G.ks = ks)
    (ho : ∀ g ∈ ga ++ gb, g.team = t → g.ks ≠ ks)
    (hs : ∀ k ∈ ks, (s.slice t k).status = .run ∧ (s.slice t k).regs.pc = pc ∧ (s.slice t k).regs.mode = mode) :
    let taken := ks.filter fun k => (s.slice t k).regs.getS a == 0
    let others := ks.filter fun k => (s.slice t k).regs.getS a != 0
    ∃ u, exec (.brCc .z a m) s = .next u ∧
        (taken = [] ∨ others = [] → u.gangs = s.gangs) ∧
        (taken ≠ [] → others ≠ [] → u.gangs = ga ++ { G with ks := taken } :: { G with ks := others } :: gb ∨
          u.gangs = ga ++ { G with ks := others } :: { G with ks := taken } :: gb) := by
  intro taken others
  obtain ⟨u, hu, -, hp⟩ := State.branch_sets (i := .brCc .z a m) (d := m) (taken := fun r => condHolds .z (r.getS a)) (P := fun r => r.getS a = 0) ha rfl rfl
    (fun r => by simp [condHolds]) hl
  have hpc : ∀ j ∈ ks, ∀ k ∈ ks, ((pc + 4 + if (s.slice t j).regs.getS a = 0 then 4 * m.signExtend 64 else 0, mode) : W64 × BitVec 16) =
      (pc + 4 + if (s.slice t k).regs.getS a = 0 then 4 * m.signExtend 64 else 0, mode) ↔
      ((s.slice t j).regs.getS a == 0) = ((s.slice t k).regs.getS a == 0) := by
    exact fun j _ k _ => place_eq_iff (displacement_ne_zero hm)
  refine ⟨u, hu, State.parted_two (p := fun k => (s.slice t k).regs.getS a == 0) hp (fun k hk => ⟨(hs k hk).1, rfl⟩) (fun j hj k hk => ?_) ha.2.1 h0 hg ht hk ho⟩
  refine Iff.trans ?_ (hpc j hj k hk)
  obtain ⟨-, e1, e2⟩ := hs j hj
  obtain ⟨-, e3, e4⟩ := hs k hk
  rw [← e1, ← e2]
  simp only [State.ran, Regs.setPc, e1, e2, e3, e4]

theorem jump_sets {s : State} {t n : Nat} {ks : List Nat} {i : Instr} (ha : s.acts t ks) (hm : touchesMemory i = false) (he : exec i s = jumpOp i n s)
    (hal : ∀ k ∈ ks, ((s.slice t k).regs.getS n).toNat % 4 = 0) : s.sets t ks i fun _ r => r.setPc (r.getS n) :=
  State.sets_of_issueRegs ha hm he fun k hk => if_neg (not_not.mpr (hal k hk))

/-- Settles O12. -/
theorem branchResults : Obligations.BranchResults := by
  intro s t ks ha p a d m
  refine ⟨fun ga gb G pc mode => ?_, rfl, State.sets_of_regOp ha rfl rfl fun _ _ => rfl, fun k hk => State.rollbackSlice_regs (ha.2.2 k hk).2,
    ?br, ?z, ?nz, ?lz, ?gez, ?bany, ?ball, ?bnone, State.call_sets ha d, State.ret_sets ha, jump_sets ha rfl rfl⟩
  case br =>
    exact State.sets_of_issueRegs (g := fun _ _ _ r => .ok (r.setPc (if true then branchTarget r.pc d else r.pc + 4))) ha rfl rfl fun k _ => by
      rw [← branchTarget_eq]; rfl
  case z =>
    exact State.branch_sets (i := .brCc .z a m) (taken := fun r => condHolds .z (r.getS a))
      (P := fun r => r.getS a = 0) ha rfl rfl fun r => by simp [condHolds]
  case nz =>
    exact State.branch_sets (i := .brCc .nz a m) (taken := fun r => condHolds .nz (r.getS a))
      (P := fun r => r.getS a ≠ 0) ha rfl rfl fun r => by simp [condHolds]
  case lz =>
    exact State.branch_sets (i := .brCc .lz a m) (taken := fun r => condHolds .lz (r.getS a))
      (P := fun r => (r.getS a).toInt < 0) ha rfl rfl fun r => by simp [condHolds, BitVec.slt]
  case gez =>
    exact State.branch_sets (i := .brCc .gez a m) (taken := fun r => condHolds .gez (r.getS a))
      (P := fun r => 0 ≤ (r.getS a).toInt) ha rfl rfl fun r => by simp [condHolds, BitVec.slt]
  case bany =>
    exact State.branch_sets (i := .bany p d) (taken := fun r => r.getP p &&& r.active != 0)
      (P := fun r => ∃ l < 4, r.active.getLsbD l = true ∧ (r.getP p).getLsbD l = true) ha rfl rfl fun r => lanes_any ..
  case ball =>
    exact State.branch_sets (i := .ball p d) (taken := fun r => r.getP p &&& r.active == r.active)
      (P := fun r => ∀ l < 4, r.active.getLsbD l = true → (r.getP p).getLsbD l = true) ha rfl rfl fun r => lanes_all ..
  case bnone =>
    exact State.branch_sets (i := .bnone p d) (taken := fun r => r.getP p &&& r.active == 0)
      (P := fun r => ∀ l < 4, r.active.getLsbD l = true → (r.getP p).getLsbD l = false) ha rfl rfl fun r => lanes_none ..
  exact fun hl hm h0 hg ht hk ho hs => State.br_cc_parts ha hl hm h0 hg ht hk ho hs

end Sys2Proof.Machine
end

section
/-! SUPPORT. Lane moves, MODE, REGANG and the integer group (R92, R93, R99, R100, R104, R105, R108, R132) as instructions that set registers. -/

namespace Sys2Proof.Machine

/-! ### Lane moves, MODE and REGANG (R92, R93, R99, R100) -/

/-- A REGANG of a gang that holds every live slice of its home gang goes on (R99). -/
theorem State.regang_sets {s : State} {t : Nat} {ks : List Nat} (ha : s.acts t ks) (hw : ks = s.homeLive t (ks.headD 0 / 8)) :
    s.sets t ks .regang fun _ r => r.adv := by
  have he : exec .regang s = regOp .regang id s := by
    show execRegang s = _
    have hcur : (s.cur.ks == s.homeLive s.cur.team (s.cur.ks.headD 0 / 8)) = true := by rw [ha.1]; exact beq_iff_eq.mpr hw
    unfold execRegang
    simp only [hcur, if_true]
  exact State.sets_of_regOp (g := id) ha rfl he fun _ _ => rfl

/-- Settles O13. -/
theorem moveResults : Obligations.MoveResults := by
  intro s t ks ha d a l m
  refine ⟨?smovv, ?smovvLane, ?smovvTlane, ?vrdl, ?mode, ?moder, State.regang_sets ha⟩
  case smovv => exact State.sets_of_regOp (g := fun r => singleLanes (fun _ => (r.getS a).setWidth 32) d r) ha rfl rfl fun _ _ => rfl
  case smovvLane => exact State.sets_of_regOp (g := singleLanes (fun l => BitVec.ofNat 32 l) d) ha rfl rfl fun _ _ => rfl
  case smovvTlane =>
    exact State.sets_of_issueRegs (g := fun _ _ k r => .ok (singleLanes (fun l => BitVec.ofNat 32 (4 * k + l)) d r).adv) ha rfl rfl fun _ _ => rfl
  case vrdl => exact State.sets_of_regOp (g := fun r => r.setS d ((r.getV a l).setWidth 64)) ha rfl rfl fun _ _ => rfl
  case mode => exact State.sets_of_regOp (g := fun r => r.setMode m) ha rfl rfl fun _ _ => rfl
  case moder => exact State.sets_of_regOp (g := fun r => r.setMode ((r.getS a).setWidth 16)) ha rfl rfl fun _ _ => rfl

/-! ### The integer group (R104, R105, R108, R132) -/

/-- An instruction of the integer group sets the elements of the active lanes. -/
theorem State.sets_of_intOp {s : State} {t : Nat} {ks : List Nat} {i : Instr} (f : ElemOp) {d a b : Nat} (ha : s.acts t ks)
    (hm : touchesMemory i = false) (he : exec i s = intOp i f d a b s) : s.sets t ks i fun _ r => (intLanes f d a b r).adv :=
  State.sets_of_regOp ha hm he fun _ _ => rfl

/-- Settles O15. -/
theorem vectorIntegerResults : Obligations.VectorIntegerResults := by
  intro s t ks ha d a b l m
  exact ⟨State.sets_of_intOp (sumElem fun _ x y => x + y) ha rfl rfl, State.sets_of_intOp (sumElem fun _ x y => x - y) ha rfl rfl,
    State.sets_of_intOp (sumElem fun _ x y => x * y) ha rfl rfl, State.sets_of_intOp mulhElem ha rfl rfl,
    State.sets_of_intOp (sumElem fun z x y => z + x * y) ha rfl rfl, State.sets_of_intOp minElem ha rfl rfl, State.sets_of_intOp maxElem ha rfl rfl,
    State.sets_of_intOp shlElem ha rfl rfl, State.sets_of_intOp shrElem ha rfl rfl, State.sets_of_intOp (sumElem absInt) ha rfl rfl,
    State.sets_of_intOp (sumElem fun _ x _ => -x) ha rfl rfl, State.sets_of_intOp (sumElem fun _ x _ => x + m.toInt) ha rfl rfl,
    State.sets_of_intOp popcElem ha rfl rfl, State.sets_of_intOp clzElem ha rfl rfl, State.sets_of_intOp brevElem ha rfl rfl⟩

end Sys2Proof.Machine
end

section
/-! SUPPORT. Lanes, the elements of a lane, and what an element instruction makes of them (R104 to R108, R115, R132) -/

namespace Sys2Proof.Machine

/-! ### Lanes in turn -/

theorem mem_laneList {m : Lanes} {l : Nat} : l ∈ laneList m ↔ l < 4 ∧ m.getLsbD l = true := by
  simp [laneList]

theorem nodup_laneList (m : Lanes) : (laneList m).Nodup := List.nodup_range.filter _

theorem lt_of_mem_laneList {m : Lanes} {l : Nat} (h : l ∈ laneList m) : l < 4 := (mem_laneList.1 h).1

/-- What no lane's turn changes, the turns together do not change. -/
theorem eachLane_keeps {α : Type} (P : Regs → α) {ls : List Nat} {f : Regs → Nat → Regs} (r : Regs)
    (h : ∀ q, ∀ l ∈ ls, P (f q l) = P q) : P (eachLane ls f r) = P r := by
  induction ls generalizing r with
  | nil => rfl
  | cons k ks ih =>
    have hks := ih (f r k) fun q l hl => h q l (by simp [hl])
    exact hks.trans (h r k (by simp))

/-- What one lane's turn makes of a part that no other lane's turn changes. -/
theorem eachLane_makes {α : Type} (P : Regs → α) {ls : List Nat} {f : Regs → Nat → Regs} {l : Nat} {v : α} (r : Regs)
    (hnd : ls.Nodup) (hl : l ∈ ls) (hv : ∀ q, P (f q l) = v) (h : ∀ q, ∀ k ∈ ls, k ≠ l → P (f q k) = P q) :
    P (eachLane ls f r) = v := by
  induction ls generalizing r with
  | nil => cases hl
  | cons k ks ih =>
    obtain ⟨hk, hks⟩ := List.nodup_cons.1 hnd
    rcases List.mem_cons.1 hl with rfl | hl
    · have rest : P (eachLane ks f (f r l)) = P (f r l) :=
        eachLane_keeps P _ fun q j hj => h q j (by simp [hj]) fun e => hk (e ▸ hj)
      exact rest.trans (hv r)
    · exact ih (f r k) hks hl fun q j hj => h q j (by simp [hj])

/-- Flags raised lane by lane: a bit stands where it stood, or where some lane raises it. -/
theorem eachLane_fpx {ls : List Nat} {f : Regs → Nat → Regs} (F : Nat → Flags) (r : Regs) (x : Nat)
    (h : ∀ q, ∀ l ∈ ls, (f q l).fpx = q.fpx ||| F l) :
    (eachLane ls f r).fpx.getLsbD x = true ↔ r.fpx.getLsbD x = true ∨ ∃ l ∈ ls, (F l).getLsbD x = true := by
  induction ls generalizing r with
  | nil => simp [eachLane]
  | cons k ks ih =>
    have hks := ih (f r k) fun q l hl => h q l (by simp [hl])
    have hcons : eachLane (k :: ks) f r = eachLane ks f (f r k) := rfl
    rw [hcons, hks, h r k (by simp)]
    simp [or_assoc]

/-! ### A lane's operand and its destination -/

@[simp] theorem Regs.setV_s (r : Regs) (x l : Nat) (v : W32) : (r.setV x l v).s = r.s := rfl
@[simp] theorem Regs.setV_p (r : Regs) (x l : Nat) (v : W32) : (r.setV x l v).p = r.p := rfl
@[simp] theorem Regs.setV_mode (r : Regs) (x l : Nat) (v : W32) : (r.setV x l v).mode = r.mode := rfl
@[simp] theorem Regs.setV_fpx (r : Regs) (x l : Nat) (v : W32) : (r.setV x l v).fpx = r.fpx := rfl
@[simp] theorem Regs.setV_pc (r : Regs) (x l : Nat) (v : W32) : (r.setV x l v).pc = r.pc := rfl
@[simp] theorem Regs.raise_s (r : Regs) (f : Flags) : (r.raise f).s = r.s := rfl
@[simp] theorem Regs.raise_p (r : Regs) (f : Flags) : (r.raise f).p = r.p := rfl
@[simp] theorem Regs.raise_mode (r : Regs) (f : Flags) : (r.raise f).mode = r.mode := rfl
@[simp] theorem Regs.raise_pc (r : Regs) (f : Flags) : (r.raise f).pc = r.pc := rfl
@[simp] theorem Regs.raise_fpx (r : Regs) (f : Flags) : (r.raise f).fpx = r.fpx ||| f := rfl
@[simp] theorem Regs.raise_getV (r : Regs) (f : Flags) (x l : Nat) : (r.raise f).getV x l = r.getV x l := rfl
@[simp] theorem laneOperand_raise (t : Nat) (r : Regs) (f : Flags) (x l : Nat) : laneOperand t (r.raise f) x l = laneOperand t r x l := rfl

section
variable (t : Nat) (r : Regs) (n l v : Nat)

@[simp] theorem laneResult_s : (laneResult t r n l v).s = r.s := by unfold laneResult; split <;> rfl
@[simp] theorem laneResult_p : (laneResult t r n l v).p = r.p := by unfold laneResult; split <;> rfl
@[simp] theorem laneResult_mode : (laneResult t r n l v).mode = r.mode := by unfold laneResult; split <;> rfl
@[simp] theorem laneResult_pc : (laneResult t r n l v).pc = r.pc := by unfold laneResult; split <;> rfl
@[simp] theorem laneResult_fpx : (laneResult t r n l v).fpx = r.fpx := by unfold laneResult; split <;> rfl

end

/-- A lane's result changes its own lane of the destination group alone. -/
theorem laneResult_getV_other {t : Nat} {r : Regs} {d k x l v : Nat} (hk : k < 4) (hl : l < 4)
    (h : (x ≠ d ∧ (typePair t = true → x ≠ d + 1)) ∨ l ≠ k) : (laneResult t r d k v).getV x l = r.getV x l := by
  unfold laneResult
  split
  case isTrue hp =>
    have h1 : ¬ (x = d + 1 ∧ l = k) := by rintro ⟨rfl, rfl⟩; simp [hp] at h
    have h2 : ¬ (x = d ∧ l = k) := by rintro ⟨rfl, rfl⟩; simp at h
    rw [Regs.setPair, Regs.getV_setV _ _ hk hl, if_neg h1, Regs.getV_setV _ _ hk hl, if_neg h2]
  case isFalse hp =>
    have h2 : ¬ (x = d ∧ l = k) := by rintro ⟨rfl, rfl⟩; simp at h
    rw [Regs.getV_setV _ _ hk hl, if_neg h2]

theorem laneOperand_congr {t : Nat} {q r : Regs} {x l : Nat} (h : ∀ y, q.getV y l = r.getV y l) :
    laneOperand t q x l = laneOperand t r x l := by
  simp [laneOperand, Regs.getPair, h]

theorem laneOperand_lt (t : Nat) (r : Regs) (x l : Nat) : laneOperand t r x l < 2 ^ laneBits t := by
  unfold laneOperand laneBits
  split <;> exact BitVec.isLt _

/-- A doubleword is its high word over its low word. -/
theorem append_high_low (x : W64) : (x.extractLsb' 32 32 ++ x.setWidth 32 : BitVec 64) = x := by
  ext i hi
  rw [BitVec.getElem_append]
  split
  case isTrue h => simp [h, BitVec.getLsbD_eq_getElem hi]
  case isFalse h => simp [show 32 + (i - 32) = i by omega, BitVec.getLsbD_eq_getElem hi]

/-- A lane's destination read back: the result, cut to the register or the pair. -/
theorem laneOperand_laneResult {t : Nat} {r : Regs} {d l v : Nat} (hl : l < 4) :
    laneOperand t (laneResult t r d l v) d l = v % 2 ^ laneBits t := by
  unfold laneOperand laneResult laneBits
  split
  case isTrue hp =>
    have hlow : ((r.setPair d l (BitVec.ofNat 64 v)).getV d l) = (BitVec.ofNat 64 v).setWidth 32 := by
      rw [Regs.setPair, Regs.getV_setV _ _ hl hl, if_neg (by omega), Regs.getV_setV _ _ hl hl, if_pos ⟨rfl, rfl⟩]
    have hhigh : ((r.setPair d l (BitVec.ofNat 64 v)).getV (d + 1) l) = (BitVec.ofNat 64 v).extractLsb' 32 32 := by
      rw [Regs.setPair, Regs.getV_setV _ _ hl hl, if_pos ⟨rfl, rfl⟩]
    have hjoin : (r.setPair d l (BitVec.ofNat 64 v)).getPair d l = BitVec.ofNat 64 v := by
      rw [Regs.getPair, hlow, hhigh, append_high_low]
    rw [hjoin]; simp
  case isFalse hp =>
    rw [Regs.getV_setV _ _ hl hl, if_pos ⟨rfl, rfl⟩]; simp

/-! ### Elements of a lane (R67, R70) -/

/-- Element `j` of a lane's operand of type `t`, as bits. -/
def Regs.elem (r : Regs) (t x l j : Nat) : Nat := laneOperand t r x l / 2 ^ (typeWidth t * j) % 2 ^ typeWidth t

/-- Elements of type `t` in a lane. -/
def elemCount (t : Nat) : Nat := laneBits t / typeWidth t

/-- A relation in every element of every active lane. -/
def Regs.EachElem (r : Regs) (P : Nat → Nat → Prop) : Prop :=
  ∀ l < 4, r.active.getLsbD l = true → ∀ j < elemCount (modeType r.mode), P l j

theorem typeWidth_pos (t : Nat) : 0 < typeWidth t := by unfold typeWidth; split <;> decide

theorem typeWidth_of_pair {t : Nat} (h : typePair t = true) : typeWidth t = 64 := by
  simp only [typePair, Bool.or_eq_true, beq_iff_eq] at h
  rcases h with rfl | rfl <;> rfl

theorem elemCount_eq (t : Nat) : elemCount t = if typePair t then 1 else 32 / typeWidth t := by
  unfold elemCount laneBits
  split
  case isTrue h => rw [typeWidth_of_pair h]
  case isFalse => rfl

theorem elements_laneOperand (r : Regs) (t x l : Nat) :
    elements (typeWidth t) (laneBits t) (laneOperand t r x l) = (List.range (elemCount t)).map (r.elem t x l) := rfl

theorem Regs.elem_lt (r : Regs) (t x l j : Nat) : r.elem t x l j < 2 ^ typeWidth t := Nat.mod_lt _ (by positivity)

/-- Elements put together and taken apart again. -/
theorem joinElements_get (w : Nat) (xs : List Nat) (j : Nat) : joinElements w xs / 2 ^ (w * j) % 2 ^ w = xs.getD j 0 % 2 ^ w := by
  induction xs generalizing j with
  | nil => simp [joinElements]
  | cons x xs ih =>
    cases j with
    | zero => simp [joinElements, Nat.add_mul_mod_self_left]
    | succ j =>
      have hdiv : joinElements w (x :: xs) / 2 ^ (w * (j + 1)) = joinElements w xs / 2 ^ (w * j) := by
        rw [joinElements, Nat.mul_succ, Nat.add_comm (w * j) w, pow_add, ← Nat.div_div_eq_div_mul,
          Nat.add_mul_div_left _ _ (by positivity), Nat.div_eq_of_lt (Nat.mod_lt _ (by positivity)), Nat.zero_add]
      rw [hdiv, ih]; rfl

theorem joinElements_lt (w : Nat) (xs : List Nat) : joinElements w xs < 2 ^ (w * xs.length) := by
  induction xs with
  | nil => simp [joinElements]
  | cons x xs ih =>
    have hx : x % 2 ^ w < 2 ^ w := Nat.mod_lt _ (by positivity)
    have hpow : 2 ^ (w * (x :: xs).length) = 2 ^ w * 2 ^ (w * xs.length) := by
      rw [List.length_cons, Nat.mul_succ, Nat.add_comm, pow_add]
    rw [joinElements, hpow]
    calc x % 2 ^ w + 2 ^ w * joinElements w xs < 2 ^ w + 2 ^ w * joinElements w xs := by omega
      _ = 2 ^ w * (joinElements w xs + 1) := by ring
      _ ≤ 2 ^ w * 2 ^ (w * xs.length) := Nat.mul_le_mul_left _ ih

/-- The elements of a lane's destination are those that were put together. -/
theorem elem_of_joined {t : Nat} {q : Regs} {x l j : Nat} {xs : List Nat} (hlen : xs.length = elemCount t)
    (h : laneOperand t q x l = joinElements (typeWidth t) xs % 2 ^ laneBits t) (hj : j < elemCount t) :
    q.elem t x l j = xs.getD j 0 % 2 ^ typeWidth t := by
  have hlt : joinElements (typeWidth t) xs < 2 ^ laneBits t :=
    (joinElements_lt _ xs).trans_le (Nat.pow_le_pow_right (by decide) (by rw [hlen]; exact Nat.mul_div_le _ _))
  rw [Regs.elem, h, Nat.mod_eq_of_lt hlt, joinElements_get]

/-! ### Element instructions (R104) -/

theorem elemMap_map (f : ElemOp) (w : Nat) (sg sat : Bool) (x y z : Nat → Nat) (js : List Nat) :
    elemMap f w sg sat (js.map x) (js.map y) (js.map z) = js.map fun j => f w sg sat (x j) (y j) (z j) := by
  induction js with
  | nil => rfl
  | cons j js ih => simp [elemMap, ih]

/-- What an element operation makes of element `j` of lane `l`, with its flags. -/
def elemResult (f : ElemOp) (r : Regs) (d a b l j : Nat) : Nat × Flags :=
  f (typeWidth (modeType r.mode)) (typeSigned (modeType r.mode)) (modeSat r.mode) (r.elem (modeType r.mode) d l j)
    (r.elem (modeType r.mode) a l j) (r.elem (modeType r.mode) b l j)

theorem intLane_eq (f : ElemOp) (r : Regs) (d a b l : Nat) :
    intLane f r d a b l = (List.range (elemCount (modeType r.mode))).map (elemResult f r d a b l) :=
  elemMap_map f _ _ _ _ _ _ _

theorem unionFlags_bit (xs : List (Nat × Flags)) (i : Nat) : (unionFlags xs).getLsbD i = true ↔ ∃ x ∈ xs, x.2.getLsbD i = true := by
  have gen (u : Flags) : (xs.foldl (fun a x => a ||| x.2) u).getLsbD i = true ↔ u.getLsbD i = true ∨ ∃ x ∈ xs, x.2.getLsbD i = true := by
    induction xs generalizing u with
    | nil => simp
    | cons x xs ih => simp [ih, or_assoc]
  simpa [unionFlags] using gen 0

section
variable (f : ElemOp) (d a b : Nat) (r : Regs)

theorem intLanes_s : (intLanes f d a b r).s = r.s := eachLane_keeps Regs.s r fun q l _ => by simp
theorem intLanes_p : (intLanes f d a b r).p = r.p := eachLane_keeps Regs.p r fun q l _ => by simp
theorem intLanes_mode : (intLanes f d a b r).mode = r.mode := eachLane_keeps Regs.mode r fun q l _ => by simp
theorem intLanes_pc : (intLanes f d a b r).pc = r.pc := eachLane_keeps Regs.pc r fun q l _ => by simp

theorem intLanes_getV_other {x l : Nat} (hl : l < 4)
    (h : (x ≠ d ∧ (typePair (modeType r.mode) = true → x ≠ d + 1)) ∨ r.active.getLsbD l = false) :
    (intLanes f d a b r).getV x l = r.getV x l := by
  refine eachLane_keeps (fun q => q.getV x l) r fun q k hk => ?_
  obtain ⟨hk4, hka⟩ := mem_laneList.1 hk
  simp only [Regs.raise_getV]
  refine laneResult_getV_other hk4 hl (h.imp id fun h => ?_)
  rintro rfl
  simp [hka] at h

/-- The elements of the destination in an active lane. -/
theorem intLanes_elem {l j : Nat} (hl : l < 4) (hact : r.active.getLsbD l = true) (hj : j < elemCount (modeType r.mode)) :
    (intLanes f d a b r).elem (modeType r.mode) d l j = (elemResult f r d a b l j).1 % 2 ^ typeWidth (modeType r.mode) := by
  have hop : laneOperand (modeType r.mode) (intLanes f d a b r) d l =
      joinElements (typeWidth (modeType r.mode)) ((intLane f r d a b l).map (·.1)) % 2 ^ laneBits (modeType r.mode) := by
    refine eachLane_makes (fun q => laneOperand (modeType r.mode) q d l) r (nodup_laneList _) (mem_laneList.2 ⟨hl, hact⟩) (fun q => ?_)
      fun q k hk hne => ?_
    · rw [laneOperand_raise, laneOperand_laneResult hl]
    · exact laneOperand_congr fun y => laneResult_getV_other (lt_of_mem_laneList hk) hl (.inr (Ne.symm hne))
  rw [elem_of_joined (by simp [intLane_eq]) hop hj]
  simp [intLane_eq, hj]

/-- A flag stands after an element instruction where it stood, or where some element raises it. -/
theorem intLanes_fpx_bit (x : Nat) : (intLanes f d a b r).fpx.getLsbD x = true ↔
    r.fpx.getLsbD x = true ∨ ¬ r.EachElem fun l j => (elemResult f r d a b l j).2.getLsbD x = false := by
  have h := eachLane_fpx (ls := laneList r.active) (fun l => unionFlags (intLane f r d a b l)) r x
    (f := fun q l => (laneResult (modeType r.mode) q d l (joinElements (typeWidth (modeType r.mode)) ((intLane f r d a b l).map (·.1)))).raise
      (unionFlags (intLane f r d a b l))) fun q l _ => by simp
  refine h.trans (or_congr_right ?_)
  simp [unionFlags_bit, intLane_eq, mem_laneList, Regs.EachElem, and_assoc]

/-- Where every element raises nothing or the one flag `F`, the instruction raises nothing or `F`. -/
theorem intLanes_fpx_one {F : Flags} (h : r.EachElem fun l j => (elemResult f r d a b l j).2 = 0 ∨ (elemResult f r d a b l j).2 = F) :
    ((r.EachElem fun l j => (elemResult f r d a b l j).2 = 0) → (intLanes f d a b r).fpx = r.fpx) ∧
      (¬ (r.EachElem fun l j => (elemResult f r d a b l j).2 = 0) → (intLanes f d a b r).fpx = r.fpx ||| F) := by
  constructor
  · intro h0
    refine BitVec.eq_of_getLsbD_eq fun x _ => Bool.eq_iff_iff.2 ?_
    rw [intLanes_fpx_bit]
    have : r.EachElem fun l j => (elemResult f r d a b l j).2.getLsbD x = false := fun l hl ha j hj => by simp [h0 l hl ha j hj]
    simp [this]
  · intro hsome
    refine BitVec.eq_of_getLsbD_eq fun x _ => Bool.eq_iff_iff.2 ?_
    rw [intLanes_fpx_bit, BitVec.getLsbD_or, Bool.or_eq_true]
    refine or_congr_right ?_
    constructor
    · intro hx
      by_contra hF
      refine hx fun l hl ha j hj => ?_
      rcases h l hl ha j hj with h0 | h1
      · simp [h0]
      · simpa [h1] using hF
    · intro hF hx
      refine hsome fun l hl ha j hj => (h l hl ha j hj).resolve_right fun h1 => ?_
      have := hx l hl ha j hj
      simp [h1, hF] at this

end

/-! ### Values of the integer group (R68, R77, R104) -/

theorem intOfBits_of_lt {w x : Nat} (sg : Bool) (h : x < 2 ^ w) :
    intOfBits w sg x = if sg = true ∧ 2 ^ (w - 1) ≤ x then (x : ℤ) - 2 ^ w else x := by
  simp [intOfBits, Nat.mod_eq_of_lt h]

theorem toNat_emod_pow (z : ℤ) (w : Nat) : ((z % (2 ^ w : ℤ)).toNat : ℤ) = z % 2 ^ w := Int.toNat_of_nonneg (Int.emod_nonneg _ (by positivity))

theorem intLo_le_intHi (w : Nat) (sg : Bool) : intLo w sg ≤ intHi w sg := by
  have h1 : (1 : ℤ) ≤ 2 ^ (w - 1) := one_le_pow₀ (by norm_num)
  have h2 : (1 : ℤ) ≤ 2 ^ w := one_le_pow₀ (by norm_num)
  cases sg with
  | false => simpa [intLo, intHi] using h2
  | true => simp only [intLo, intHi, if_true]; omega

/-- int_result is the wrap of the exact value, clamped first under MODE.sat. -/
theorem intResult_fst (w : Nat) (sg sat : Bool) (x : ℤ) :
    ((intResult w sg sat x).1 : ℤ) = (if sat then max (intLo w sg) (min (intHi w sg) x) else x) % 2 ^ w := by
  have hle := intLo_le_intHi w sg
  unfold intResult
  cases sat with
  | false => exact toNat_emod_pow x w
  | true =>
    simp only [if_true]
    split_ifs with h1 h2
    · rw [toNat_emod_pow, min_eq_right (by omega), max_eq_left h1.le]
    · rw [toNat_emod_pow, min_eq_left h2.le, max_eq_right hle]
    · rw [toNat_emod_pow, min_eq_right (by omega), max_eq_right (by omega)]

/-- int_result raises isat exactly where it clamps. -/
theorem intResult_snd (w : Nat) (sg sat : Bool) (x : ℤ) :
    (intResult w sg sat x).2 = if sat = true ∧ ¬ (intLo w sg ≤ x ∧ x ≤ intHi w sg) then fIsat else 0 := by
  unfold intResult
  cases sat with
  | false => simp
  | true =>
    have hle := intLo_le_intHi w sg
    simp only [if_true, true_and]
    by_cases h1 : x < intLo w sg
    · rw [if_pos h1, if_pos (by omega)]
    by_cases h2 : intHi w sg < x
    · rw [if_neg h1, if_pos h2, if_pos (by omega)]
    · rw [if_neg h1, if_neg h2, if_neg (by omega)]

section
variable (r : Regs) (d a b : Nat)

/-- Element `j` of a lane as the integer that its type makes of it. -/
def Regs.num (x l j : Nat) : ℤ :=
  intOfBits (typeWidth (modeType r.mode)) (typeSigned (modeType r.mode)) (r.elem (modeType r.mode) x l j)

/-- The least and the greatest integer of the type. -/
def Regs.inRange (z : ℤ) : Prop :=
  intLo (typeWidth (modeType r.mode)) (typeSigned (modeType r.mode)) ≤ z ∧ z ≤ intHi (typeWidth (modeType r.mode)) (typeSigned (modeType r.mode))

/-- The exact result of a sum operation in an element. -/
def Regs.exact (g : ℤ → ℤ → ℤ → ℤ) (l j : Nat) : ℤ := g (r.num d l j) (r.num a l j) (r.num b l j)

theorem elemResult_sum (g : ℤ → ℤ → ℤ → ℤ) (l j : Nat) : elemResult (sumElem g) r d a b l j =
    intResult (typeWidth (modeType r.mode)) (typeSigned (modeType r.mode)) (modeSat r.mode) (r.exact d a b g l j) := rfl

/-- A sum operation wraps its exact result, or clamps it under MODE.sat. -/
theorem intLanes_sum_elem (g : ℤ → ℤ → ℤ → ℤ) {l j : Nat} (hl : l < 4) (hact : r.active.getLsbD l = true)
    (hj : j < elemCount (modeType r.mode)) :
    ((intLanes (sumElem g) d a b r).elem (modeType r.mode) d l j : ℤ) =
      (if modeSat r.mode then max (intLo (typeWidth (modeType r.mode)) (typeSigned (modeType r.mode)))
        (min (intHi (typeWidth (modeType r.mode)) (typeSigned (modeType r.mode))) (r.exact d a b g l j)) else r.exact d a b g l j) %
        2 ^ typeWidth (modeType r.mode) := by
  rw [intLanes_elem _ _ _ _ _ hl hact hj, elemResult_sum]
  push_cast
  rw [intResult_fst, Int.emod_emod]

theorem intLanes_sum_fpx (g : ℤ → ℤ → ℤ → ℤ) :
    ((r.EachElem fun l j => r.inRange (r.exact d a b g l j)) ∨ modeSat r.mode = false → (intLanes (sumElem g) d a b r).fpx = r.fpx) ∧
    (¬ (r.EachElem fun l j => r.inRange (r.exact d a b g l j)) → modeSat r.mode = true →
      (intLanes (sumElem g) d a b r).fpx = r.fpx ||| fIsat) := by
  have hsnd (l j : Nat) : (modeSat r.mode = true ∧ ¬ r.inRange (r.exact d a b g l j) → (elemResult (sumElem g) r d a b l j).2 = fIsat) ∧
      (¬ (modeSat r.mode = true ∧ ¬ r.inRange (r.exact d a b g l j)) → (elemResult (sumElem g) r d a b l j).2 = 0) := by
    rw [elemResult_sum, intResult_snd]
    exact ⟨fun h => if_pos h, fun h => if_neg h⟩
  obtain ⟨hquiet, hraise⟩ := intLanes_fpx_one (sumElem g) d a b r (F := fIsat) fun l _ _ j _ =>
    (Classical.em _).elim (fun h => .inr ((hsnd l j).1 h)) fun h => .inl ((hsnd l j).2 h)
  constructor
  · rintro (h | h)
    · exact hquiet fun l hl ha j hj => (hsnd l j).2 fun hn => hn.2 (h l hl ha j hj)
    · exact hquiet fun l _ _ j _ => (hsnd l j).2 fun hn => by simp [h] at hn
  · intro h hsat
    refine hraise fun h0 => h fun l hl ha j hj => ?_
    by_contra hr
    exact absurd ((h0 l hl ha j hj).symm.trans ((hsnd l j).1 ⟨hsat, hr⟩)) (by decide)

/-- An exact operation raises no flag, and its element is its value cut to the width. -/
theorem intLanes_exact (g : Nat → Bool → Nat → Nat → Nat) :
    (∀ l < 4, r.active.getLsbD l = true → ∀ j < elemCount (modeType r.mode),
      (intLanes (exactElem g) d a b r).elem (modeType r.mode) d l j =
        g (typeWidth (modeType r.mode)) (typeSigned (modeType r.mode)) (r.elem (modeType r.mode) a l j) (r.elem (modeType r.mode) b l j) %
          2 ^ typeWidth (modeType r.mode)) ∧
    (intLanes (exactElem g) d a b r).fpx = r.fpx :=
  ⟨fun _ hl ha _ hj => intLanes_elem (exactElem g) d a b r hl ha hj,
    (intLanes_fpx_one (exactElem g) d a b r (F := 0) fun _ _ _ _ _ => .inl rfl).1 fun _ _ _ _ _ => rfl⟩

end

/-! ### The bit instructions (R132) -/

theorem popCount_eq (w x : Nat) : popCount w x = (List.range w).countP fun i => x.testBit i := by
  induction w generalizing x with
  | zero => rfl
  | succ w ih =>
    rw [popCount, ih, List.range_succ_eq_map, List.countP_cons, List.countP_map]
    have : ((fun i => x.testBit i) ∘ Nat.succ) = fun i => (x / 2).testBit i := by funext i; simp [Nat.testBit_succ]
    rw [this, Nat.testBit_zero]
    rcases Nat.mod_two_eq_zero_or_one x with h | h
    · simp [h]
    · simp [h, Nat.add_comm]

theorem popCount_le (w x : Nat) : popCount w x ≤ w := by
  rw [popCount_eq]
  simpa using List.countP_le_length (p := fun i => x.testBit i) (l := List.range w)

theorem reverseBits_lt (w x : Nat) : reverseBits w x < 2 ^ w := by
  induction w generalizing x with
  | zero => simp [reverseBits]
  | succ w ih =>
    have := ih (x / 2)
    have hx : x % 2 * 2 ^ w ≤ 1 * 2 ^ w := Nat.mul_le_mul_right _ (by omega)
    rw [reverseBits, pow_succ]; omega

theorem reverseBits_testBit (w x i : Nat) (hi : i < w) : (reverseBits w x).testBit i = x.testBit (w - 1 - i) := by
  induction w generalizing x i with
  | zero => omega
  | succ w ih =>
    rw [reverseBits, Nat.mul_comm, Nat.testBit_two_pow_mul_add _ (reverseBits_lt w (x / 2))]
    split
    case isTrue h =>
      rw [ih _ _ h, ← Nat.testBit_succ]
      congr 1; omega
    case isFalse h =>
      have : i = w := by omega
      subst this
      simp

theorem leadingZeros_spec (w x : Nat) : leadingZeros w x ≤ w ∧ x % 2 ^ w < 2 ^ (w - leadingZeros w x) ∧
    (leadingZeros w x < w → 2 ^ (w - 1 - leadingZeros w x) ≤ x % 2 ^ w) := by
  induction w with
  | zero => simp [leadingZeros, Nat.mod_one]
  | succ w ih =>
    obtain ⟨hle, hlt, hge⟩ := ih
    have hx : x % 2 ^ (w + 1) = x % 2 ^ w + 2 ^ w * (x / 2 ^ w % 2) := by rw [pow_succ, Nat.mod_mul]
    have hm : x % 2 ^ w < 2 ^ w := Nat.mod_lt _ (by positivity)
    rw [leadingZeros]
    split
    case isTrue h =>
      rw [hx, h]
      refine ⟨by omega, ?_, fun _ => ?_⟩
      · rw [Nat.sub_zero, pow_succ]; omega
      · simp
    case isFalse h =>
      have h0 : x / 2 ^ w % 2 = 0 := by omega
      rw [hx, h0, Nat.mul_zero, Nat.add_zero]
      refine ⟨by omega, ?_, fun hc => ?_⟩
      · rwa [show w + 1 - (1 + leadingZeros w x) = w - leadingZeros w x by omega]
      · rw [show w + 1 - 1 - (1 + leadingZeros w x) = w - 1 - leadingZeros w x by omega]
        exact hge (by omega)

/-- Settles O16. `intLanes_elem` gives each element of the destination, `intResult_fst`/`_snd` the values and flags of the sums, and
`intLanes_exact` those of the other forms. -/
theorem integerLaneValues : Obligations.IntegerLaneValues := by
  intro r d a b m t w n raw num lo hi each exact sums
  have hn : n = elemCount t := (elemCount_eq t).symm
  have heach (P : Nat → Nat → Prop) : each P ↔ r.EachElem P := by
    show (∀ l < 4, r.active.getLsbD l = true → ∀ j < n, P l j) ↔ _
    rw [hn]; rfl
  have hlt (x l j : Nat) : raw r x l j < 2 ^ w := r.elem_lt t x l j
  have hbits (x : Nat) (h : x < 2 ^ w) : num x = intOfBits w (typeSigned t) x := (intOfBits_of_lt (typeSigned t) h).symm
  have hnum (x l j : Nat) : num (raw r x l j) = r.num x l j := hbits _ (hlt x l j)
  have hsum (g : ℤ → ℤ → ℤ → ℤ) : sums (sumElem g) g := by
    have hv (l j : Nat) : g (num (raw r d l j)) (num (raw r a l j)) (num (raw r b l j)) = r.exact d a b g l j := by
      rw [hnum, hnum, hnum]; rfl
    obtain ⟨hquiet, hraise⟩ := intLanes_sum_fpx r d a b g
    simp only [sums, heach, hv]
    exact ⟨fun l hl ha j hj => intLanes_sum_elem r d a b g hl ha hj, hquiet, hraise⟩
  have hexact (f : ElemOp) {g : Nat → Bool → Nat → Nat → Nat} (z : Nat → Nat → Nat → ℤ) (hf : f = exactElem g)
      (h : ∀ x y o, x < 2 ^ w → y < 2 ^ w → (g w (typeSigned t) x y : ℤ) % 2 ^ w = z o x y % 2 ^ w) : exact f z := by
    subst hf
    obtain ⟨hval, hfpx⟩ := intLanes_exact r d a b g
    refine ⟨(heach _).2 fun l hl ha j hj => ?_, hfpx⟩
    rw [← h _ _ (raw r d l j) (hlt a l j) (hlt b l j)]
    exact_mod_cast hval l hl ha j hj
  refine ⟨fun f => ⟨fun x l hl h => intLanes_getV_other f d a b r hl h, intLanes_s f d a b r, intLanes_p f d a b r, intLanes_mode f d a b r,
    intLanes_pc f d a b r, (heach _).2 fun l hl ha j hj => intLanes_elem f d a b r hl ha hj, fun x _ => ?_⟩, fun _ => ⟨hsum _, hsum _, hsum _,
    hsum _, ?_, hsum _, hsum _, ?mulh, ?min, ?max, ?shl, ?shr, ?popc, ?brev,
    (intLanes_exact r d a b _).2, ?clz, (intLanes_exact r d a b _).2⟩⟩
  · rw [heach]; exact intLanes_fpx_bit f d a b r x
  · have habs : (fun _ x _ : ℤ => |x|) = fun _ x _ => (x.natAbs : ℤ) := by funext _ x _; exact (Int.natCast_natAbs x).symm
    rw [habs]; exact hsum _
  case mulh =>
    refine hexact mulhElem (fun _ x y => num x * num y / 2 ^ w) rfl fun x y o hx hy => ?_
    rw [toNat_emod_pow, Int.emod_emod, hbits x hx, hbits y hy]
  case min =>
    refine hexact minElem (fun _ x y => if num x < num y then x else y) rfl fun x y o hx hy => ?_
    rw [hbits x hx, hbits y hy]; split <;> rfl
  case max =>
    refine hexact maxElem (fun _ x y => if num x > num y then x else y) rfl fun x y o hx hy => ?_
    rw [hbits x hx, hbits y hy]; split <;> rfl
  case shl =>
    refine hexact shlElem (fun _ x y => if w ≤ y then 0 else x * 2 ^ y) rfl fun x y o hx hy => ?_
    split <;> simp
  case shr =>
    refine hexact shrElem (fun _ x y => if w ≤ y then (if num x < 0 then -1 else 0) else num x / 2 ^ y) rfl fun x y o hx hy => ?_
    rw [hbits x hx]
    split
    · split
      · have : ((2 ^ w - 1 : ℕ) : ℤ) = 2 ^ w - 1 := by push_cast [Nat.one_le_two_pow]; rfl
        rw [this]; simp [Int.sub_emod]
      · rfl
    · rw [toNat_emod_pow, Int.emod_emod]
  case popc =>
    obtain ⟨hval, hfpx⟩ := intLanes_exact r d a b fun w _ x _ => popCount w x
    refine ⟨(heach _).2 fun l hl ha j hj => ?_, hfpx⟩
    have h : raw (intLanes popcElem d a b r) d l j = popCount w (raw r a l j) % 2 ^ w := hval l hl ha j hj
    rw [h, popCount_eq]
    push_cast; rfl
  case brev =>
    refine (heach _).2 fun l hl ha j hj i hi => ?_
    have h := (intLanes_exact r d a b fun w _ x _ => reverseBits w x).1 l hl ha j hj
    have hval : raw (intLanes brevElem d a b r) d l j = reverseBits w (raw r a l j) := h.trans (Nat.mod_eq_of_lt (reverseBits_lt _ _))
    rw [hval, reverseBits_testBit _ _ _ hi]
  case clz =>
    refine (heach _).2 fun l hl ha j hj => ?_
    obtain ⟨hle, hub, hlb⟩ := leadingZeros_spec w (raw r a l j)
    have h := (intLanes_exact r d a b fun w _ x _ => leadingZeros w x).1 l hl ha j hj
    have hval : raw (intLanes clzElem d a b r) d l j = leadingZeros w (raw r a l j) :=
      h.trans (Nat.mod_eq_of_lt (hle.trans_lt Nat.lt_two_pow_self))
    rw [Nat.mod_eq_of_lt (hlt a l j)] at hub hlb
    simp only [hval]
    exact ⟨hle, hub, hlb⟩

/-! ### Whole lanes (R106) -/

section
variable (f : Nat → Nat → Nat → Nat → Nat) (d a b : Nat) (r : Regs)

/-- The destination of a bitwise form in an active lane. -/
theorem wholeLanes_active {l : Nat} (hl : l < 4) (hact : r.active.getLsbD l = true) :
    laneOperand (modeType r.mode) (wholeLanes f d a b r) d l =
      f l (laneBits (modeType r.mode)) (laneOperand (modeType r.mode) r a l) (laneOperand (modeType r.mode) r b l) % 2 ^ laneBits (modeType r.mode) := by
  refine eachLane_makes (fun q => laneOperand (modeType r.mode) q d l) r (nodup_laneList _) (mem_laneList.2 ⟨hl, hact⟩) (fun q => ?_)
    fun q k hk hne => ?_
  · exact laneOperand_laneResult hl
  · exact laneOperand_congr fun y => laneResult_getV_other (lt_of_mem_laneList hk) hl (.inr (Ne.symm hne))

/-- Registers outside the destination group, and lanes that are not active, keep what they hold. -/
theorem wholeLanes_getV_other {x l : Nat} (hl : l < 4)
    (h : (x ≠ d ∧ (typePair (modeType r.mode) = true → x ≠ d + 1)) ∨ r.active.getLsbD l = false) :
    (wholeLanes f d a b r).getV x l = r.getV x l := by
  refine eachLane_keeps (fun q => q.getV x l) r fun q k hk => ?_
  obtain ⟨hk4, hka⟩ := mem_laneList.1 hk
  refine laneResult_getV_other hk4 hl (h.imp id fun h => ?_)
  rintro rfl
  simp [hka] at h

theorem wholeLanes_frame : (wholeLanes f d a b r).s = r.s ∧ (wholeLanes f d a b r).p = r.p ∧ (wholeLanes f d a b r).mode = r.mode ∧
    (wholeLanes f d a b r).fpx = r.fpx ∧ (wholeLanes f d a b r).pc = r.pc :=
  ⟨eachLane_keeps Regs.s r fun q l _ => laneResult_s .., eachLane_keeps Regs.p r fun q l _ => laneResult_p ..,
    eachLane_keeps Regs.mode r fun q l _ => laneResult_mode .., eachLane_keeps Regs.fpx r fun q l _ => laneResult_fpx ..,
    eachLane_keeps Regs.pc r fun q l _ => laneResult_pc ..⟩

end

/-! ### Predicates of lanes (R107, R115) -/

theorem testLanes_getLsbD (f : Nat → Bool) {l : Nat} (hl : l < 4) : (testLanes f).getLsbD l = f l := by
  have gen (ls : List Nat) (u : Lanes) (hls : ∀ k ∈ ls, k < 4) :
      (ls.foldl (fun m l => if f l then m ||| (1#4 <<< l) else m) u).getLsbD l = (u.getLsbD l || ls.any fun k => f k && k == l) := by
    induction ls generalizing u with
    | nil => simp
    | cons k ks ih =>
      have hk := hls k (by simp)
      rw [List.foldl_cons, ih _ fun j hj => hls j (by simp [hj]), List.any_cons, ← Bool.or_assoc]
      congr 1
      cases hf : f k with
      | false => simp
      | true =>
        by_cases he : k = l
        · subst he; simp [hl]
        · have : (1#4 <<< k).getLsbD l = false := by
            rw [BitVec.getLsbD_shiftLeft]
            by_cases hlk : l < k
            · simp [hlk]
            · simp [BitVec.getLsbD_one, show ¬ l - k = 0 by omega]
          simp [this, he]
  have h := gen (List.range 4) 0 (by simp)
  rw [testLanes, h, Bool.eq_iff_iff]
  simp [hl]

theorem Regs.mergeP_getP_getLsbD (r : Regs) (p : Nat) (v : Lanes) {l : Nat} (hl : l < 4) :
    ((r.mergeP p v).getP p).getLsbD l = if r.active.getLsbD l then v.getLsbD l else (r.getP p).getLsbD l := by
  rw [Regs.mergeP, Regs.getP_setP, if_pos rfl, BitVec.getLsbD_or, BitVec.getLsbD_and, BitVec.getLsbD_and, BitVec.getLsbD_not]
  cases r.active.getLsbD l with
  | false => simp [hl]
  | true => simp

/-- VCMP's relation in a lane is its relation in every element of it. -/
theorem cmpLane_iff (c : CmpCond) (r : Regs) (a b l : Nat) :
    cmpLane c r a b l = true ↔ ∀ j < elemCount (modeType r.mode), cmpHolds c (r.num a l j) (r.num b l j) = true := by
  simp only [cmpLane, elements_laneOperand, List.map_map, List.zipWith_map, List.zipWith_self, List.all_map, List.all_eq_true, List.mem_range]
  rfl

/-- Settles O17. -/
theorem vectorLogicResults : Obligations.VectorLogicResults := by
  refine ⟨?lanes, ?cmp, ?sets⟩
  case lanes =>
    intro r d a b f pair w whole u
    have hw : w = laneBits (modeType r.mode) := rfl
    refine ⟨fun l hl => ?_, fun x l hl h1 h2 => wholeLanes_getV_other f d a b r hl (.inl ⟨h1, h2⟩), wholeLanes_frame f d a b r⟩
    split
    case isTrue h => exact wholeLanes_active f d a b r hl h
    case isFalse h => exact laneOperand_congr fun y => wholeLanes_getV_other f d a b r hl (.inr (by simpa using h))
  case cmp =>
    intro r p a b l hl t w n raw num bit
    have hn : n = elemCount t := (elemCount_eq t).symm
    have hnum (x j : Nat) : num x j = r.num x l j := by
      have h := intOfBits_of_lt (typeSigned t) (r.elem_lt t x l j)
      simp only [typeSigned, decide_eq_true_eq] at h
      exact h.symm
    have hbit (c : CmpCond) : bit c ↔ (if r.active.getLsbD l then ∀ j < n, cmpHolds c (num a j) (num b j) = true else (r.getP p).getLsbD l = true) := by
      simp only [bit, Regs.mergeP_getP_getLsbD _ _ _ hl, testLanes_getLsbD _ hl, hnum, hn]
      split
      · exact cmpLane_iff c r a b l
      · exact Iff.rfl
    refine ⟨fun h => ?_, fun h c => by rw [hbit, h]; simp⟩
    simp only [hbit, h, if_true, cmpHolds, beq_iff_eq, bne_iff_ne, decide_eq_true_eq, true_and]
  case sets =>
    intro s t ks ha d a b p c m
    exact ⟨State.sets_of_regOp (g := wholeLanes (fun _ _ x y => x &&& y) d a b) ha rfl rfl fun _ _ => rfl,
      State.sets_of_regOp (g := wholeLanes (fun _ _ x y => x ||| y) d a b) ha rfl rfl fun _ _ => rfl,
      State.sets_of_regOp (g := wholeLanes (fun _ _ x y => x ^^^ y) d a b) ha rfl rfl fun _ _ => rfl,
      State.sets_of_regOp (g := wholeLanes (fun _ w x _ => 2 ^ w - 1 - x) d a a) ha rfl rfl fun _ _ => rfl,
      State.sets_of_regOp (g := fun r => wholeLanes (fun l _ x y => if (r.getP p).getLsbD l then x else y) d a b r) ha rfl rfl fun _ _ => rfl,
      State.sets_of_regOp (g := fun r => r.mergeP p (testLanes (cmpLane c r a b))) ha rfl rfl fun _ _ => rfl,
      State.sets_of_regOp (g := singleLanes (fun _ => m.signExtend 32) d) ha rfl rfl fun _ _ => rfl,
      State.sets_of_regOp (g := fun r => r.mergeP d (r.getP a &&& r.getP b)) ha rfl rfl fun _ _ => rfl,
      State.sets_of_regOp (g := fun r => r.mergeP d (r.getP a ||| r.getP b)) ha rfl rfl fun _ _ => rfl,
      State.sets_of_regOp (g := fun r => r.mergeP d (r.getP a ^^^ r.getP b)) ha rfl rfl fun _ _ => rfl,
      State.sets_of_regOp (g := fun r => r.mergeP d (~~~ r.getP a)) ha rfl rfl fun _ _ => rfl,
      State.sets_of_regOp (g := fun r => r.mergeP d ((r.getS a).setWidth 4)) ha rfl rfl fun _ _ => rfl⟩

end Sys2Proof.Machine
end

section
/-! SUPPORT. The gang's lanes, ballots, VBPERM, and reductions and scans over the active gang lanes (R122 to R130) -/

namespace Sys2Proof.Machine

/-! ### Gang lanes (R122) -/

/-- The registers that hold gang lane `g` for the slice `k` whose registers now are `r`. -/
theorem State.gangRegs_eq {s : State} {t : Nat} {ks : List Nat} (hc : s.cur = { team := t, ks := ks }) (k : Nat) (r : Regs) (g : Nat) :
    s.gangRegs k r g = ks[g / 4]?.map fun x => if x = k then r else (s.slice t x).regs := by
  rw [State.gangRegs, hc]
  cases h : ks[g / 4]? with
  | none => simp [h]
  | some x => simp only [h, Option.map_some]; split <;> rfl

theorem State.gangRead_eq (s : State) (k : Nat) (r : Regs) (n g : Nat) (fill : W32) :
    s.gangRead k r n g fill = ((s.gangRegs k r g).map fun q => q.getV n (g % 4)).getD fill := by
  unfold State.gangRead; split <;> rename_i h <;> rw [h] <;> rfl

theorem State.gangActive_eq (s : State) (k : Nat) (r : Regs) (g : Nat) :
    s.gangActive k r g = ((s.gangRegs k r g).map fun q => q.active.getLsbD (g % 4)).getD false := by
  unfold State.gangActive; split <;> rename_i h <;> rw [h] <;> rfl

/-- The value of a gang lane, where it is present and active. -/
theorem gangValues_get (s : State) (k : Nat) (r : Regs) (a : Nat) {g : Nat} (hg : g < 32) :
    (gangValues s k r a)[g]? =
      some ((s.gangRegs k r g).bind fun q => if q.active.getLsbD (g % 4) = true then some (q.getV a (g % 4)).toNat else none) := by
  rw [gangValues, List.getElem?_map, List.getElem?_range hg, Option.map_some, State.gangActive_eq, State.gangRead_eq]
  cases s.gangRegs k r g <;> rfl

/-- A mask made bit by bit. -/
theorem maskFold_spec (p : Nat → Bool) (n : Nat) :
    (List.range n).foldl (fun m j => if p j then m + 2 ^ j else m) 0 < 2 ^ n ∧
      ∀ i, ((List.range n).foldl (fun m j => if p j then m + 2 ^ j else m) 0).testBit i = (decide (i < n) && p i) := by
  induction n with
  | zero => simp
  | succ n ih =>
    obtain ⟨hlt, hbit⟩ := ih
    rw [List.range_succ, List.foldl_append, List.foldl_cons, List.foldl_nil]
    generalize (List.range n).foldl (fun m j => if p j then m + 2 ^ j else m) 0 = x at hlt hbit
    cases hp : p n with
    | false =>
      refine ⟨by simp only [pow_succ, Bool.false_eq_true, if_false]; omega, fun i => ?_⟩
      rw [if_neg (by simp), hbit]
      by_cases hi : i = n
      · subst hi; simp [hp]
      · simp [show i < n + 1 ↔ i < n by omega]
    | true =>
      refine ⟨by simp only [pow_succ, if_true]; omega, fun i => ?_⟩
      rw [if_pos rfl, Nat.add_comm]
      rcases lt_trichotomy i n with hi | rfl | hi
      · rw [Nat.testBit_two_pow_add_gt hi, hbit]; simp [hi, Nat.lt_succ_of_lt hi]
      · rw [Nat.testBit_two_pow_add_eq, hbit]; simp [hp]
      · rw [Nat.testBit_eq_false_of_lt ((by omega : 2 ^ n + x < 2 ^ (n + 1)).trans_le (Nat.pow_le_pow_right (by decide) hi))]
        simp [show ¬ i < n + 1 by omega]

/-- Whether gang lane `g` is present and active with p[p] = 1. -/
def State.ballots (s : State) (k : Nat) (r : Regs) (p g : Nat) : Bool :=
  ((s.gangRegs k r g).map fun x => x.active.getLsbD (g % 4) && (x.getP p).getLsbD (g % 4)).getD false

theorem ballot_eq (s : State) (k : Nat) (r : Regs) (p : Nat) :
    ballot s k r p = (List.range 32).foldl (fun m j => if s.ballots k r p j then m + 2 ^ j else m) 0 := by
  unfold ballot
  congr 1
  funext m j
  unfold State.ballots
  cases s.gangRegs k r j <;> rfl

theorem ballot_lt (s : State) (k : Nat) (r : Regs) (p : Nat) : ballot s k r p < 2 ^ 32 := by
  rw [ballot_eq]; exact (maskFold_spec _ 32).1

theorem ballot_testBit (s : State) (k : Nat) (r : Regs) (p : Nat) {g : Nat} (hg : g < 32) :
    (ballot s k r p).testBit g = s.ballots k r p g := by
  rw [ballot_eq, (maskFold_spec _ 32).2]; simp [hg]

section
variable (s : State) (k d : Nat) (f : Nat → Option (Nat × Nat)) (r : Regs)

/-- What a lane of a cross-lane instruction takes. -/
theorem crossLanes_getV {l : Nat} (hl : l < 4) : (crossLanes s k d f r).getV d l =
    if r.active.getLsbD l = true then match f (4 * posOf k s.cur.ks + l) with
      | some (n, j) => s.gangRead k r n j (r.getV d l)
      | none => r.getV d l
    else r.getV d l := by
  split
  case isTrue h =>
    refine eachLane_makes (fun q => q.getV d l) r (nodup_laneList _) (mem_laneList.2 ⟨hl, h⟩) (fun q => ?_) fun q j hj hne => ?_
    · exact (Regs.getV_setV _ _ hl hl).trans (if_pos ⟨rfl, rfl⟩)
    · rw [Regs.getV_setV _ _ (lt_of_mem_laneList hj) hl, if_neg fun h => hne h.2.symm]
  case isFalse h =>
    refine eachLane_keeps (fun q => q.getV d l) r fun q j hj => ?_
    rw [Regs.getV_setV _ _ (lt_of_mem_laneList hj) hl, if_neg]
    rintro ⟨-, rfl⟩
    exact h (mem_laneList.1 hj).2

theorem crossLanes_getV_other {x l : Nat} (hl : l < 4) (hx : x ≠ d) : (crossLanes s k d f r).getV x l = r.getV x l :=
  eachLane_keeps (fun q => q.getV x l) r fun q j hj => by rw [Regs.getV_setV _ _ (lt_of_mem_laneList hj) hl, if_neg fun h => hx h.1]

end

/-! ### VBPERM (R125) -/

theorem elements_get {w b x j : Nat} (hj : j < b / w) : (elements w b x)[j]? = some (x / 2 ^ (w * j) % 2 ^ w) := by
  rw [elements, List.getElem?_map, List.getElem?_range hj]; rfl

theorem byte_pow (x j : Nat) : x / 2 ^ (8 * j) % 2 ^ 8 = x / 256 ^ j % 256 := by
  rw [pow_mul]; rfl

theorem bpermLane_byte (r : Regs) (d a b l : Nat) {i : Nat} (hi : i < 4) :
    (bpermLane r d a b l).toNat / 256 ^ i % 256 =
      bpermByte r b ((r.getV d l).toNat / 256 ^ i % 256) ((r.getV a l).toNat / 256 ^ i % 256) % 256 := by
  have hlen : (List.zipWith (bpermByte r b) (elements 8 32 (r.getV d l).toNat) (elements 8 32 (r.getV a l).toNat)).length = 4 := by
    simp [elements]
  have hlt := joinElements_lt 8 (List.zipWith (bpermByte r b) (elements 8 32 (r.getV d l).toNat) (elements 8 32 (r.getV a l).toNat))
  rw [hlen] at hlt
  rw [bpermLane, BitVec.toNat_ofNat, Nat.mod_eq_of_lt hlt, ← byte_pow, joinElements_get, List.getD_eq_getElem?_getD, List.getElem?_zipWith,
    elements_get (by omega), elements_get (by omega)]
  simp only [byte_pow]
  rfl

theorem bpermByte_lt (r : Regs) (b : Nat) {old : Nat} (x : Nat) (h : old < 256) : bpermByte r b old x < 256 := by
  unfold bpermByte
  split
  · exact h
  · exact Nat.mod_lt _ (by decide)

/-! ### Integer reductions and scans (R128, R129) -/

theorem ofNat_toNat_emod (z : ℤ) : BitVec.ofNat 32 (z % (2 ^ 32 : ℤ)).toNat = BitVec.ofInt 32 z := by
  rw [← BitVec.ofInt_natCast, toNat_emod_pow]
  apply BitVec.eq_of_toInt_eq
  rw [BitVec.toInt_ofInt, BitVec.toInt_ofInt]
  exact_mod_cast Int.emod_bmod z (2 ^ 32)

theorem ofNat_intResult (sg sat : Bool) (z : ℤ) : BitVec.ofNat 32 (intResult 32 sg sat z).1 =
    BitVec.ofInt 32 (if sat then max (intLo 32 sg) (min (intHi 32 sg) z) else z) := by
  rw [← ofNat_toNat_emod, ← intResult_fst, Int.toNat_natCast]

theorem toNat_emod_eq (z : ℤ) : (z % (2 ^ 32 : ℤ)).toNat = (BitVec.ofInt 32 z).toNat := by
  rw [BitVec.toNat_ofInt]; rfl

/-- The active gang lanes' values as the integers that the type makes of them. -/
def intValues (m : BitVec 16) (vs : List (Option Nat)) : List ℤ := (vs.filterMap id).map (intOfBits 32 (typeSigned (modeType m)))

theorem intValues_nil {m : BitVec 16} {vs : List (Option Nat)} (h : ∀ v ∈ vs, v = none) : intValues m vs = [] := by
  have : vs.filterMap id = [] := List.filterMap_eq_nil_iff.2 fun v hv => h v hv
  rw [intValues, this]; rfl

theorem foldl_add_sum (xs : List ℤ) (z : ℤ) : xs.foldl (· + ·) z = z + xs.sum := by
  induction xs generalizing z with
  | nil => simp
  | cons x xs ih => simp [ih, add_assoc]

/-- A fold of min finds an element that is least; one of max an element that is greatest. -/
theorem foldl_min_spec (x : ℤ) (xs : List ℤ) : xs.foldl min x ∈ x :: xs ∧ ∀ v ∈ x :: xs, xs.foldl min x ≤ v := by
  induction xs generalizing x with
  | nil => simp
  | cons y ys ih =>
    obtain ⟨hmem, hle⟩ := ih (min x y)
    rw [List.foldl_cons]
    have hxy := hle (min x y) (by simp)
    refine ⟨?_, fun v hv => ?_⟩
    · rcases List.mem_cons.1 hmem with h | h
      · rw [h]; rcases min_choice x y with h | h <;> simp [h]
      · simp [h]
    · rcases List.mem_cons.1 hv with rfl | hv
      · exact hxy.trans (min_le_left _ _)
      · rcases List.mem_cons.1 hv with rfl | hv
        · exact hxy.trans (min_le_right _ _)
        · exact hle v (by simp [hv])

theorem foldl_max_spec (x : ℤ) (xs : List ℤ) : xs.foldl max x ∈ x :: xs ∧ ∀ v ∈ x :: xs, v ≤ xs.foldl max x := by
  induction xs generalizing x with
  | nil => simp
  | cons y ys ih =>
    obtain ⟨hmem, hle⟩ := ih (max x y)
    rw [List.foldl_cons]
    have hxy := hle (max x y) (by simp)
    refine ⟨?_, fun v hv => ?_⟩
    · rcases List.mem_cons.1 hmem with h | h
      · rw [h]; rcases max_choice x y with h | h <;> simp [h]
      · simp [h]
    · rcases List.mem_cons.1 hv with rfl | hv
      · exact (le_max_left _ _).trans hxy
      · rcases List.mem_cons.1 hv with rfl | hv
        · exact (le_max_right _ _).trans hxy
        · exact hle v (by simp [hv])

/-- What a reduction of integers has come to. -/
def intFold (o : RedOp) : List ℤ → ℤ
  | [] => 0
  | x :: xs => match o with
    | .sum => xs.foldl (· + ·) x
    | .min => xs.foldl min x
    | .max => xs.foldl max x

theorem intFold_sum (xs : List ℤ) : intFold .sum xs = xs.sum := by
  cases xs with
  | nil => rfl
  | cons x xs => simp [intFold, foldl_add_sum]

/-- The element, with its flags, that a reduction of integers comes to. -/
def intReduced (o : RedOp) (m : BitVec 16) (z : ℤ) : Nat × Flags := match o with
  | .sum => intResult 32 (typeSigned (modeType m)) (modeSat m) z
  | .min | .max => ((z % (2 ^ 32 : Int)).toNat, 0)

theorem redValue_none {m : BitVec 16} {vs : List (Option Nat)} (ht : modeType m ≠ 10) (o : RedOp) (h : intValues m vs = []) :
    redValue o m vs = (0, 0) := by
  have h' : (vs.filterMap id).map (intOfBits 32 (typeSigned (modeType m))) = [] := h
  simp only [redValue, if_neg ht, h']
  split <;> rfl

theorem redValue_int {m : BitVec 16} {vs : List (Option Nat)} (ht : modeType m ≠ 10) (o : RedOp) (h : intValues m vs ≠ []) :
    redValue o m vs =
      (let q := intReduced o m (intFold o (intValues m vs))
       (if typeSigned (modeType m) then (BitVec.ofNat 32 q.1).signExtend 64 else (BitVec.ofNat 32 q.1).setWidth 64, q.2)) := by
  obtain ⟨x, xs, hx⟩ := List.exists_cons_of_ne_nil h
  have h' : (vs.filterMap id).map (intOfBits 32 (typeSigned (modeType m))) = x :: xs := hx
  simp only [redValue, if_neg ht, hx, h']
  cases o with
  | sum => simp [intReduced, intFold]
  | min => rfl
  | max => rfl

/-- The value that a scan has come to, where it has taken any. -/
def scanAcc (o : RedOp) (pre : List ℤ) : Option ℤ := if pre = [] then none else some (intFold o pre)

theorem scanAcc_snoc (o : RedOp) (pre : List ℤ) (y : ℤ) : intFold o (pre ++ [y]) =
    match scanAcc o pre, o with
    | none, _ => y
    | some c, .sum => c + y
    | some c, .min => min c y
    | some c, .max => max c y := by
  cases pre with
  | nil => cases o <;> rfl
  | cons x xs => cases o <;> simp [scanAcc, intFold, List.foldl_append]

theorem scanValues_int_cons {m : BitVec 16} (ht : modeType m ≠ 10) (o : RedOp) (af : Option Nat) (x : Nat) (vs : List (Option Nat))
    (pre : List ℤ) :
    scanValues o m (scanAcc o pre) af (some x :: vs) =
      some (intReduced o m (intFold o (pre ++ [intOfBits 32 (typeSigned (modeType m)) x]))) ::
        scanValues o m (scanAcc o (pre ++ [intOfBits 32 (typeSigned (modeType m)) x])) af vs := by
  have hacc : scanAcc o (pre ++ [intOfBits 32 (typeSigned (modeType m)) x]) =
      some (intFold o (pre ++ [intOfBits 32 (typeSigned (modeType m)) x])) := if_neg (by simp)
  rw [hacc, scanAcc_snoc]
  simp only [scanValues, if_neg ht]
  cases o <;> cases scanAcc _ pre <;> rfl

/-- A scan of integers: each active lane's output is what the values up to it come to. -/
theorem scanValues_int {m : BitVec 16} (ht : modeType m ≠ 10) (o : RedOp) (af : Option Nat) (vs : List (Option Nat)) :
    ∀ (g : Nat) (pre : List ℤ), (scanValues o m (scanAcc o pre) af vs)[g]? =
      vs[g]?.map (Option.map fun _ => intReduced o m (intFold o (pre ++ intValues m (vs.take (g + 1))))) := by
  induction vs with
  | nil => intro g pre; simp [scanValues]
  | cons v vs ih =>
    intro g pre
    cases v with
    | none =>
      have hnone : scanValues o m (scanAcc o pre) af (none :: vs) = none :: scanValues o m (scanAcc o pre) af vs := rfl
      cases g with
      | zero => simp [hnone]
      | succ g => simpa [hnone, intValues] using ih g pre
    | some x =>
      rw [scanValues_int_cons ht]
      cases g with
      | zero => simp [intValues]
      | succ g => simpa [intValues] using ih g (pre ++ [intOfBits 32 (typeSigned (modeType m)) x])

/-! ### The f32 tree (R128) and scan (R129) -/

/-- Two nodes of the tree combined. -/
def treeNode (f : Nat → Nat → Nat × Flags) (x y : Option (Nat × Flags)) : Option (Nat × Flags) :=
  match x, y with
  | some x, some y => some ((f x.1 y.1).1, x.2 ||| y.2 ||| (f x.1 y.1).2)
  | some x, none => some x
  | none, y => y

theorem treeLevel_cons (f : Nat → Nat → Nat × Flags) (x y : Option (Nat × Flags)) (r : List (Option (Nat × Flags))) :
    treeLevel f (x :: y :: r) = treeNode f x y :: treeLevel f r := by
  cases x <;> cases y <;> rfl

/-- A level of the tree over an even number of nodes halves them, each the two below it combined. -/
theorem treeLevel_even (f : Nat → Nat → Nat × Flags) (n : Nat) : ∀ xs : List (Option (Nat × Flags)), xs.length = 2 * n →
    (treeLevel f xs).length = n ∧ ∀ g < n, (treeLevel f xs).getD g none = treeNode f (xs.getD (2 * g) none) (xs.getD (2 * g + 1) none) := by
  induction n with
  | zero => intro xs h; simp [List.eq_nil_of_length_eq_zero h, treeLevel]
  | succ n ih =>
    intro xs h
    match xs, h with
    | x :: y :: r, h =>
      obtain ⟨hlen, hget⟩ := ih r (by simp at h; omega)
      rw [treeLevel_cons]
      refine ⟨by simp [hlen], fun g hg => ?_⟩
      cases g with
      | zero => rfl
      | succ g => exact hget g (by omega)

/-- The nodes of the tree at height `h`. -/
def treeAt (f : Nat → Nat → Nat × Flags) (xs : List (Option (Nat × Flags))) : Nat → List (Option (Nat × Flags))
  | 0 => xs
  | h + 1 => treeLevel f (treeAt f xs h)

theorem treeAt_length {f : Nat → Nat → Nat × Flags} {xs : List (Option (Nat × Flags))} (hx : xs.length = 32) :
    ∀ h ≤ 5, (treeAt f xs h).length = 2 ^ (5 - h) := by
  intro h hh
  induction h with
  | zero => exact hx
  | succ h ih =>
    refine (treeLevel_even f _ _ ?_).1
    rw [ih (by omega), show 5 - h = (5 - (h + 1)) + 1 by omega, pow_succ, Nat.mul_comm]

theorem treeAt_succ {f : Nat → Nat → Nat × Flags} {xs : List (Option (Nat × Flags))} (hx : xs.length = 32) {h g : Nat} (hh : h < 5)
    (hg : g < 2 ^ (4 - h)) : (treeAt f xs (h + 1)).getD g none =
      treeNode f ((treeAt f xs h).getD (2 * g) none) ((treeAt f xs h).getD (2 * g + 1) none) := by
  refine (treeLevel_even f (2 ^ (4 - h)) _ ?_).2 g hg
  rw [treeAt_length hx h (by omega), show 5 - h = (4 - h) + 1 by omega, pow_succ, Nat.mul_comm]

/-- VRED of f32 is the top of its tree. -/
theorem redValue_tree {m : BitVec 16} (ht : modeType m = 10) (o : RedOp) (vs : List (Option Nat)) :
    redValue o m vs = match (treeAt (redFloat o m) (vs.map (Option.map fun x => (redSource m x, (0 : Flags)))) 5).getD 0 none with
      | some x => (BitVec.ofNat 64 (x.1 % 2 ^ 32), x.2)
      | none => (0, 0) := by
  have hdef : redValue o m vs = match treeAt (redFloat o m) (vs.map (Option.map fun x => (redSource m x, (0 : Flags)))) 5 with
      | some (x, fl) :: _ => (BitVec.ofNat 64 (x % 2 ^ 32), fl)
      | _ => (0, 0) := by
    simp only [redValue, if_pos ht]
    rfl
  rw [hdef]
  rcases treeAt (redFloat o m) (vs.map (Option.map fun x => (redSource m x, (0 : Flags)))) 5 with _ | ⟨_ | ⟨x, fl⟩, _⟩ <;> rfl

theorem treeAt_none {f : Nat → Nat → Nat × Flags} {xs : List (Option (Nat × Flags))} (h : ∀ x ∈ xs, x = none) :
    ∀ n, ∀ x ∈ treeAt f xs n, x = none := by
  have level : ∀ ys : List (Option (Nat × Flags)), (∀ x ∈ ys, x = none) → ∀ x ∈ treeLevel f ys, x = none := by
    intro ys
    induction ys using treeLevel.induct with
    | case1 x y r ih =>
      intro hy
      rw [treeLevel_cons, hy x (by simp), hy y (by simp)]
      intro z hz
      rcases List.mem_cons.1 hz with rfl | hz
      · rfl
      · exact ih (fun w hw => hy w (by simp [hw])) z hz
    | case2 x => exact fun hy => hy
    | case3 => exact fun hy => hy
  intro n
  induction n with
  | zero => exact h
  | succ n ih => exact level _ ih

/-- One step of an f32 scan, from the output before it if there is one. -/
def scanStep (o : RedOp) (m : BitVec 16) (before : Option Nat) (x : Nat) : Nat × Flags :=
  match before with
  | some c => redFloat o m c (redSource m x)
  | none => (redSource m x, 0)

theorem scanValues_float_cons {m : BitVec 16} (ht : modeType m = 10) (o : RedOp) (ai : Option Int) (af : Option Nat) (x : Nat)
    (vs : List (Option Nat)) :
    scanValues o m ai af (some x :: vs) = some (scanStep o m af x) :: scanValues o m ai (some (scanStep o m af x).1) vs := by
  simp only [scanValues, if_pos ht]
  rfl

/-- A scan of f32: each active lane's output is one step from the active output before it. -/
theorem scanValues_float {m : BitVec 16} (ht : modeType m = 10) (o : RedOp) (ai : Option Int) (vs : List (Option Nat)) :
    ∀ (g : Nat) (af : Option Nat), (scanValues o m ai af vs)[g]? =
      vs[g]?.map (Option.map (scanStep o m (((((scanValues o m ai af vs).take g).filterMap id).getLast?.map (·.1)).or af))) := by
  induction vs with
  | nil => intro g af; simp [scanValues]
  | cons v vs ih =>
    intro g af
    cases v with
    | none =>
      have hnone : scanValues o m ai af (none :: vs) = none :: scanValues o m ai af vs := rfl
      cases g with
      | zero => simp [hnone]
      | succ g => simpa [hnone] using ih g af
    | some x =>
      rw [scanValues_float_cons ht]
      cases g with
      | zero => simp
      | succ g =>
        rw [List.getElem?_cons_succ, List.getElem?_cons_succ, ih g, List.take_succ_cons, List.filterMap_cons]
        simp only [id, List.getLast?_cons]
        generalize (List.filterMap (fun x => x) (List.take g (scanValues o m ai (some (scanStep o m af x).1) vs))).getLast? = y
        cases y <;> rfl

/-- The end of an integer fold of min or max over some values is the number of one of them that none is below, or above. -/
theorem intFold_min {num : Nat → ℤ} {xs : List Nat} {x : Nat} (hx : x ∈ xs) :
    ∃ y ∈ xs, num y ≤ num x ∧ intFold .min (xs.map num) = num y := by
  obtain ⟨h, t, rfl⟩ := List.exists_cons_of_ne_nil (List.ne_nil_of_mem hx)
  obtain ⟨hmem, hle⟩ := foldl_min_spec (num h) (t.map num)
  rw [← List.map_cons] at hmem hle
  obtain ⟨y, hy, he⟩ := List.mem_map.1 hmem
  exact ⟨y, hy, by rw [he]; exact hle _ (List.mem_map_of_mem hx), he.symm⟩

theorem intFold_max {num : Nat → ℤ} {xs : List Nat} {x : Nat} (hx : x ∈ xs) :
    ∃ y ∈ xs, num x ≤ num y ∧ intFold .max (xs.map num) = num y := by
  obtain ⟨h, t, rfl⟩ := List.exists_cons_of_ne_nil (List.ne_nil_of_mem hx)
  obtain ⟨hmem, hle⟩ := foldl_max_spec (num h) (t.map num)
  rw [← List.map_cons] at hmem hle
  obtain ⟨y, hy, he⟩ := List.mem_map.1 hmem
  exact ⟨y, hy, by rw [he]; exact hle _ (List.mem_map_of_mem hx), he.symm⟩

theorem intResult_lt (w : Nat) (sg sat : Bool) (z : ℤ) : (intResult w sg sat z).1 < 2 ^ w := by
  have h := intResult_fst w sg sat z
  have : ((intResult w sg sat z).1 : ℤ) < 2 ^ w := h ▸ Int.emod_lt_of_pos _ (by positivity)
  exact_mod_cast this

/-- Settles O20. -/
theorem crossLaneResults : Obligations.CrossLaneResults := by
  refine ⟨?lanes, ?bperm, ?values, ?sets⟩
  case lanes =>
    intro s t ks hc k d a p r lane
    have hlane (g : Nat) : s.gangRegs k r g = lane g := State.gangRegs_eq hc k r g
    have hks : s.cur.ks = ks := by rw [hc]
    refine ⟨fun f l hl => ⟨?_, fun x hx => crossLanes_getV_other s k d f r hl hx⟩, fun g hg => ?_, fun g hg => ?_, ballot_lt s k r p, ?_⟩
    · rw [crossLanes_getV s k d f r hl, hks]
      congr 1
      cases f (4 * posOf k ks + l) with
      | none => rfl
      | some x => exact (State.gangRead_eq s k r x.1 x.2 _).trans (by rw [hlane])
    · rw [gangValues_get s k r a hg, hlane]
    · rw [ballot_testBit s k r p hg, State.ballots, hlane]
      cases lane g <;> simp
    · exact popCount_eq _ _
  case bperm =>
    intro r d a b l i hl hi byte x
    have hx : x < 256 := Nat.mod_lt _ (by decide)
    have hold : byte (r.getV d l) i < 256 := Nat.mod_lt _ (by decide)
    show (bpermLane r d a b l).toNat / 256 ^ i % 256 = _
    rw [bpermLane_byte r d a b l hi, Nat.mod_eq_of_lt (bpermByte_lt _ _ _ hold), bpermByte,
      Nat.mod_eq_of_lt (show (r.getV a l).toNat / 256 ^ i % 256 / 16 < 16 by omega)]
  case values =>
    intro m vs hlen t num lo hi clamp wide flush step out
    refine ⟨fun o hn => ?_, fun o g hg => ?_, fun ht => ?_, fun ht o => ⟨?_, fun g x hg => ?_⟩⟩
    · by_cases ht : modeType m = 10
      · have hnone := treeAt_none (f := redFloat o m) (xs := vs.map (Option.map fun x => (redSource m x, (0 : Flags))))
          (fun x hx => by obtain ⟨v, hv, rfl⟩ := List.mem_map.1 hx; rw [hn v hv]; rfl) 5
        rw [redValue_tree ht]
        cases h : treeAt (redFloat o m) (vs.map (Option.map fun x => (redSource m x, (0 : Flags)))) 5 with
        | nil => rfl
        | cons x xs => rw [h] at hnone; rw [hnone x (by simp)]; rfl
      · exact redValue_none ht o (intValues_nil hn)
    · by_cases ht : modeType m = 10
      · simp only [out]; rw [scanValues_float ht, hg]; rfl
      · have h := scanValues_int ht o none vs g []
        simp only [out]; exact h.trans (by rw [hg]; rfl)
    · have h10 : modeType m ≠ 10 := by show t ≠ 10; omega
      have hsg : typeSigned t = decide (t = 2) := by rcases ht with h | h <;> rw [h] <;> rfl
      have hnum : intOfBits 32 (typeSigned t) = num := by
        funext x
        simp [intOfBits, num, hsg]
      have hvals (us : List (Option Nat)) : intValues m us = (us.filterMap id).map num := by rw [← hnum]; rfl
      have hlo : intLo 32 (typeSigned t) = lo := by simp [intLo, lo, hsg]
      have hhi : intHi 32 (typeSigned t) = hi := by simp [intHi, hi, hsg]
      have hsum (z : ℤ) : (BitVec.ofNat 32 (intReduced .sum m z).1, (intReduced .sum m z).2) = clamp z := by
        have h1 := ofNat_intResult (typeSigned t) (modeSat m) z
        have h2 := intResult_snd 32 (typeSigned t) (modeSat m) z
        rw [hlo, hhi] at h1 h2
        simp only [intReduced, clamp]
        cases hs : modeSat m with
        | false => rw [hs] at h1 h2; exact Prod.ext h1 h2
        | true =>
          rw [hs] at h1 h2
          refine Prod.ext h1 (h2.trans ?_)
          simp only [true_and, ite_not, if_true]
      have hwide (x : W32) : (if typeSigned t then x.signExtend 64 else x.setWidth 64) = wide x := by simp [wide, hsg]
      have hval (o : RedOp) (h : intValues m vs ≠ []) : redValue o m vs =
          (wide (BitVec.ofNat 32 (intReduced o m (intFold o (intValues m vs))).1), (intReduced o m (intFold o (intValues m vs))).2) := by
        rw [redValue_int h10 o h, ← hwide]
      have hne {x : Nat} (hx : x ∈ vs.filterMap id) : intValues m vs ≠ [] := by
        rw [hvals]; exact List.ne_nil_of_mem (List.mem_map_of_mem hx)
      have hscan (o : RedOp) {g x : Nat} (hg : vs[g]? = some (some x)) :
          out o g = some (some (intReduced o m (intFold o (((vs.take (g + 1)).filterMap id).map num)))) := by
        have h := scanValues_int h10 o none vs g []
        rw [hg, List.nil_append, hvals] at h
        exact h
      refine ⟨?_, fun x hx => ?_, fun x hx => ?_, fun g x hg => ⟨?_, fun v hv => ?_, fun v hv => ?_⟩⟩
      · by_cases hnil : intValues m vs = []
        · have hzero : intResult 32 (typeSigned t) (modeSat m) 0 = (0, 0) := by
            rw [hsg]
            cases decide (t = 2) <;> cases modeSat m <;> decide
          have hw0 : wide 0 = 0 := by simp [wide]
          rw [redValue_none h10 _ hnil, ← hsum, ← hvals, hnil]
          show (0, 0) = (wide (BitVec.ofNat 32 (intResult 32 (typeSigned t) (modeSat m) 0).1), (intResult 32 (typeSigned t) (modeSat m) 0).2)
          rw [hzero]
          exact Prod.ext hw0.symm rfl
        · rw [hval _ hnil, intFold_sum, hvals, ← hsum]
      · obtain ⟨y, hy, hle, he⟩ := intFold_min (num := num) hx
        refine ⟨y, hy, hle, ?_⟩
        rw [hval _ (hne hx), hvals, he]
        exact Prod.ext (congrArg wide (ofNat_toNat_emod _)) rfl
      · obtain ⟨y, hy, hle, he⟩ := intFold_max (num := num) hx
        refine ⟨y, hy, hle, ?_⟩
        rw [hval _ (hne hx), hvals, he]
        exact Prod.ext (congrArg wide (ofNat_toNat_emod _)) rfl
      · have hcut (z : ℤ) : intReduced .sum m z = ((clamp z).1.toNat, (clamp z).2) := by
          rw [← hsum]
          exact Prod.ext (by rw [BitVec.toNat_ofNat]; exact (Nat.mod_eq_of_lt (intResult_lt _ _ _ _)).symm) rfl
        rw [hscan _ hg, intFold_sum, hcut]
      · obtain ⟨y, hy, hle, he⟩ := intFold_min (num := num) hv
        refine ⟨y, hy, hle, ?_⟩
        rw [hscan _ hg, he]
        exact congrArg (some ∘ some) (Prod.ext (toNat_emod_eq _) rfl)
      · obtain ⟨y, hy, hle, he⟩ := intFold_max (num := num) hv
        refine ⟨y, hy, hle, ?_⟩
        rw [hscan _ hg, he]
        exact congrArg (some ∘ some) (Prod.ext (toNat_emod_eq _) rfl)
    · have hstep (o : RedOp) (x y : Nat) : step o x y = redFloat o m x y := by cases o <;> rfl
      have hl32 : (vs.map (Option.map fun x => (redSource m x, (0 : Flags)))).length = 32 := by simpa using hlen
      refine ⟨fun h g => (treeAt (redFloat o m) (vs.map (Option.map fun x => (redSource m x, (0 : Flags)))) h).getD g none, fun g hg => ?_,
        fun h hh g hg => ?_, redValue_tree ht o vs⟩
      · simp only [treeAt, List.getD_eq_getElem?_getD, List.getElem?_map]
        cases vs[g]? <;> rfl
      · refine (treeAt_succ hl32 hh hg).trans ?_
        simp only [hstep]
        rfl
    · have h := scanValues_float ht o none vs g none
      have hstep (o : RedOp) (x y : Nat) : step o x y = redFloat o m x y := by cases o <;> rfl
      rw [hg, Option.or_none] at h
      simp only [out, hstep]
      rw [h]
      generalize ((scanValues o m none none vs).take g |>.filterMap id).getLast? = y
      cases y <;> rfl
  case sets =>
    intro s t ks ha d a b n p o
    have hsl (k : Nat) : s.ownSeen k (s.slice t k).regs = (s.slice t k).regs := by rw [State.ownSeen, ha.1]; exact ite_self _
    have hcross (f : Regs → Nat → Option (Nat × Nat)) (i : Instr) (hm : touchesMemory i = false)
        (he : exec i s = issueRegs i (fun st _ k r => .ok (crossLanes st k d (f r) r).adv) s) :
        s.sets t ks i fun k r => (crossLanes s k d (f r) r).adv := State.sets_of_issueRegs ha hm he fun _ _ => rfl
    refine ⟨hcross (fun r g => some (a, (r.getV b (g % 4)).toNat % 32)) _ rfl rfl,
      State.sets_of_regOp (g := fun r => singleLanes (bpermLane r d a b) d r) ha rfl rfl fun _ _ => rfl,
      hcross (fun _ g => if n ≤ g then some (a, g - n) else some (b, 32 + g - n)) _ rfl rfl,
      hcross (fun _ g => some (a, g ^^^ n)) _ rfl rfl, hcross (fun _ g => if n ≤ g then some (a, g - n) else none) _ rfl rfl,
      hcross (fun _ g => if g + n ≤ 31 then some (a, g + n) else none) _ rfl rfl, hcross (fun _ _ => some (a, n)) _ rfl rfl, ?_, ?_, ?_, ?_⟩
    · refine State.sets_of_issueRegs (g := fun st _ k r =>
        .ok ((r.setS d (redValue o r.mode (gangValues st k (st.ownSeen k r) a)).1).raise
          (redValue o r.mode (gangValues st k (st.ownSeen k r) a)).2).adv) ha rfl rfl fun k _ => ?_
      rw [hsl]
    · exact State.sets_of_issueRegs (g := fun st _ k r => .ok (eachLane (laneList r.active) (fun q l =>
        match (scanValues o r.mode none none (gangValues st k r a)).getD (4 * posOf k st.cur.ks + l) none with
        | some (v, fl) => (q.setV d l (BitVec.ofNat 32 v)).raise fl
        | none => q) r).adv) ha rfl rfl fun k _ => by rw [ha.1] <;> rfl
    · refine State.sets_of_issueRegs (g := fun st _ k r => .ok (r.setS d (BitVec.ofNat 64 (ballot st k (st.ownSeen k r) p))).adv) ha rfl rfl
        fun k _ => ?_
      rw [hsl]
    · refine State.sets_of_issueRegs (g := fun st _ k r =>
        .ok (r.setS d (BitVec.ofNat 64 (popCount 32 (ballot st k (st.ownSeen k r) p)))).adv) ha rfl rfl fun k _ => ?_
      rw [hsl]

end Sys2Proof.Machine
end

section
/-! SUPPORT. Steps (R26, R27, R85, R86): every instruction has a next state; what an opportunity, a fetch and an event come to; the clock (R91) -/

namespace Sys2Proof.Machine

/-! ### Every instruction and event has a next state -/

theorem issue_next (i : Instr) (body : State → State → Nat → List Nat → State × List (Nat × Did)) (s : State) : ∃ u, issue i body s = .next u :=
  ⟨_, rfl⟩

theorem afterCommits_next {f : State → Result} {s : State} (h : ∃ u, f s = .next u) : ∃ u, afterCommits f s = .next u := by
  unfold afterCommits
  split
  · exact ⟨_, rfl⟩
  · exact h

theorem execSrd_next (d n : Nat) (s : State) : ∃ u, execSrd d n s = .next u := by
  unfold execSrd
  split
  · exact issue_next ..
  · exact issue_next ..

theorem execRegang_next (s : State) : ∃ u, execRegang s = .next u := by
  obtain ⟨u, hu⟩ : ∃ u, issueRegs .regang (fun _ _ _ r => .ok r) s = .next u := issue_next ..
  by_cases h : (s.cur.ks == s.homeLive s.cur.team (s.cur.ks.headD 0 / 8)) = true
  · exact ⟨_, if_pos h⟩
  · simp only [execRegang, hu, if_neg h]
    exact ⟨_, rfl⟩

theorem exec_next (i : Instr) (s : State) : ∃ u, exec i s = .next u := by
  cases i with
  | srd d n => exact execSrd_next d n s
  | regang => exact execRegang_next s
  | rsvrd d => exact afterCommits_next (issue_next ..)
  | csize blk d a => exact afterCommits_next (issue_next ..)
  | _ => exact ⟨_, rfl⟩

/-! ### Steps -/

/-- An event is run as `exec` has it: it breaks no promise. -/
theorem run_event {i : Instr} (h : isEvent i = true) (s : State) : run i s = exec i s := by
  obtain ⟨u, hu⟩ := exec_next i s
  simp [run, hu, h]

theorem run_next (i : Instr) (s : State) : ∃ u, run i s = .next u := by
  obtain ⟨u, hu⟩ := exec_next i s
  simp only [run, hu]
  exact ⟨_, rfl⟩

theorem runIssue_next (i : Instr) (s : State) (c q : Nat) : ∃ u, runIssue i s c q = .next u := by
  obtain ⟨u, hu⟩ := run_next i (s.countIssue c q)
  simp only [runIssue, hu]
  exact ⟨_, rfl⟩

/-- A step that is not stuck has a next state. -/
theorem step_next {s : State} (h : s.stuck = false) : ∃ u, step s = .next u := by
  unfold step
  rw [if_neg (by simp [h])]
  cases State.act s.nextMove.2 s.nextMove.1 with
  | run i u => exact run_next i u
  | issue i u c q => exact runIssue_next i u c q
  | stop u => exact ⟨u, rfl⟩

theorem stuck_of_tape {s : State} {m : Move} {r : List Move} (h : s.tape = m :: r) : s.stuck = false := by
  simp [State.stuck, h]

theorem nextMove_of_tape {s : State} {m : Move} {r : List Move} (h : s.tape = m :: r) : s.nextMove = (m, { s with tape := r }) := by
  simp [State.nextMove, h]

theorem isEvent_of_encode {i : Instr} {w : Nat} (h : encode i = some w) : isEvent i = false := by
  unfold isEvent
  split
  · rfl
  · rfl
  · rw [h]; rfl

/-- Settles O5. `exec` never faults, so a step faults only where it is stuck. -/
theorem stepMakesEvents : Obligations.StepMakesEvents := by
  refine ⟨fun s i r ht => ⟨fun he hav => ?_, fun hno => ?_⟩, fun s c q busy r ht hr => ?_, fun s => ?_, fun i w h => isEvent_of_encode h⟩
  · have hact : State.act { s with tape := r } (.event i) = .run i { s with tape := r } := by
      rcases hav with h | h <;> simp [State.act, he, h]
    simp only [step, stuck_of_tape ht, nextMove_of_tape ht, hact, run_event he]
    rfl
  · have hact : State.act { s with tape := r } (.event i) = .stop { s with tape := r } := by
      rcases hno with h | ⟨h1, h2⟩
      · simp [State.act, h]
      · simp [State.act, h1, h2]
    simp only [step, stuck_of_tape ht, nextMove_of_tape ht, hact]
    rfl
  · have hact : State.act { s with tape := r } (.opp c q busy) = .stop { s with tape := r } := if_pos hr
    simp only [step, stuck_of_tape ht, nextMove_of_tape ht, hact]
    rfl
  · cases hs : s.stuck with
    | true =>
      have hst : s.module.inReset = true ∧ s.tape = [] := by simpa [State.stuck] using hs
      exact ⟨fun _ => hst, fun _ => by rw [step, if_pos hs]⟩
    | false =>
      obtain ⟨u, hu⟩ := step_next hs
      constructor
      · intro h; rw [hu] at h; cases h
      · rintro ⟨h1, h2⟩
        simp [State.stuck, h1, h2] at hs

/-! ### Slices changed alike -/

/-- Some slices changed alike: each of them by the change, however often it is named, where the change made again changes nothing. -/
theorem State.modEach_slice {f : Slice → Slice} (hf : ∀ v, f (f v) = f v) (hd : f (Slice.start Ctx.blank 0) = Slice.start Ctx.blank 0)
    {t : Nat} {ks : List Nat} (hks : ∀ k ∈ ks, k < 256) (s : State) {t' k : Nat} (hk : k < 256) :
    (s.modEach t ks f).slice t' k = if t' = t ∧ k ∈ ks then f (s.slice t' k) else s.slice t' k := by
  induction ks generalizing s with
  | nil => simp [State.modEach]
  | cons j ks ih =>
    have hj : j < 256 := hks j (by simp)
    have hstep : (s.modEach t (j :: ks) f) = (s.modSlice t j f).modEach t ks f := rfl
    rw [hstep, ih (fun i hi => hks i (by simp [hi]))]
    by_cases he : t' = t ∧ k = j
    · obtain ⟨rfl, rfl⟩ := he
      have hself : (s.modSlice t' k f).slice t' k = f (s.slice t' k) := by
        cases hfind : FMap.find? s.slices (sliceKey t' k) with
        | some v => exact State.slice_modSlice_self f (by rw [hfind]; rfl)
        | none =>
          have hnone : FMap.find? (s.modSlice t' k f).slices (sliceKey t' k) = none := by
            refine (FMap.find?_modify ..).trans ?_
            rw [hfind]; simp
          rw [State.slice, State.slice, FMap.get_eq_find?, FMap.get_eq_find?, hnone, hfind]
          exact hd.symm
      rw [hself, hf]; simp
    · have hne : (s.modSlice t j f).slice t' k = s.slice t' k := by
        refine FMap.get_modify_ne _ _ fun h => he ?_
        have h1 := congrArg (· / 256) h
        have h2 := congrArg (· % 256) h
        simp only [sliceKey_div hk, sliceKey_div hj, sliceKey_mod hk, sliceKey_mod hj] at h1 h2
        exact ⟨h1, h2⟩
      rw [hne]
      have : (t' = t ∧ k ∈ j :: ks) ↔ (t' = t ∧ k ∈ ks) := by
        rw [List.mem_cons]
        constructor
        · rintro ⟨h1, h2 | h2⟩
          · exact absurd ⟨h1, h2⟩ he
          · exact ⟨h1, h2⟩
        · exact fun ⟨h1, h2⟩ => ⟨h1, .inr h2⟩
      simp only [this]

theorem State.modEach_rest (s : State) (t : Nat) (ks : List Nat) (f : Slice → Slice) :
    s.modEach t ks f = { s with slices := (s.modEach t ks f).slices } := by
  induction ks generalizing s with
  | nil => rfl
  | cons j ks ih =>
    have hstep : (s.modEach t (j :: ks) f) = (s.modSlice t j f).modEach t ks f := rfl
    rw [hstep, ih]
    rfl

@[simp] theorem State.modEach_mem (s : State) (t : Nat) (ks : List Nat) (f : Slice → Slice) : (s.modEach t ks f).mem = s.mem := by
  rw [State.modEach_rest]
@[simp] theorem State.modEach_blocks (s : State) (t : Nat) (ks : List Nat) (f : Slice → Slice) : (s.modEach t ks f).blocks = s.blocks := by
  rw [State.modEach_rest]
@[simp] theorem State.modEach_launches (s : State) (t : Nat) (ks : List Nat) (f : Slice → Slice) : (s.modEach t ks f).launches = s.launches := by
  rw [State.modEach_rest]
@[simp] theorem State.modEach_teams (s : State) (t : Nat) (ks : List Nat) (f : Slice → Slice) : (s.modEach t ks f).teams = s.teams := by
  rw [State.modEach_rest]
@[simp] theorem State.modEach_ctxs (s : State) (t : Nat) (ks : List Nat) (f : Slice → Slice) : (s.modEach t ks f).ctxs = s.ctxs := by
  rw [State.modEach_rest]
@[simp] theorem State.modEach_module (s : State) (t : Nat) (ks : List Nat) (f : Slice → Slice) : (s.modEach t ks f).module = s.module := by
  rw [State.modEach_rest]
@[simp] theorem State.modEach_cur (s : State) (t : Nat) (ks : List Nat) (f : Slice → Slice) : (s.modEach t ks f).cur = s.cur := by
  rw [State.modEach_rest]

theorem Slice.shift_ended (c : Ctx) (v : Slice) : (v.shift c).chunk.ended = false := rfl

theorem Slice.reopen_reopen (c : Ctx) (v : Slice) : (v.reopen c).reopen c = v.reopen c := by
  unfold Slice.reopen
  split
  case isTrue h => simp [Slice.shift_ended]
  case isFalse h => rfl

theorem State.countOpp_rest (s : State) (c q : Nat) : s.countOpp c q = { s with cores := (s.countOpp c q).cores, dies := (s.countOpp c q).dies } := by
  unfold State.countOpp
  dsimp only
  split <;> rfl

/-- An opportunity at which a gang issues, its quarter being awake: the gang's slices reopen, and it becomes the gang acted on. -/
theorem State.opportunity_some {s : State} {c q : Nat} {busy : List (Nat × Nat)} {g : Gang} (hg : (s.core c).gated = false)
    (hn : (s.core c).num.isSome = true) (hq : q ≤ 3) (hd : s.dieHeld (c / 18) = false) (hb : bestOf (s.readyGangs c q busy) = some g) :
    s.opportunity c q busy =
      (let s2 := ((s.joins c q).foldl (fun u x => u.regangJoin x.1 x.2.1 x.2.2) (s.ageGangs c q (s.readyGangs c q busy) (some g))).countOpp c q
       ({ s2.modEach g.team g.ks (Slice.reopen (s2.ctx (s2.team g.team).ctx)) with cur := { team := g.team, ks := g.ks } }, true)) := by
  have hn' : (s.core c).num.isNone = false := by simpa using hn
  have hq' : decide (3 < q) = false := by simpa using hq
  simp only [State.opportunity, hg, hn', hq', hd, Bool.or_self, Bool.false_eq_true, if_false, hb]

theorem leNat_lt (bs : List Byte) : leNat bs < 256 ^ bs.length := by
  induction bs with
  | nil => simp [leNat]
  | cons b bs ih =>
    have := b.isLt
    rw [leNat, List.length_cons, pow_succ]
    omega

theorem Memory.readBytes_length (m : Memory) (a n : Nat) : (Memory.readBytes m a n).length = n := by
  induction n generalizing a with
  | zero => rfl
  | succ n ih => simp [Memory.readBytes, ih]

theorem instrOf_readBytes {s : State} {b : Nat} {i : Instr} (h : decode (leNat (s.readBytes b 4)) = .ok i) :
    instrOf (BitVec.ofNat 32 (s.readNat b 4)) = i := by
  have hlt : leNat (s.readBytes b 4) < 2 ^ 32 := by
    have := leNat_lt (s.readBytes b 4)
    rwa [State.readBytes, Memory.readBytes_length] at this
  have hw : (BitVec.ofNat 32 (s.readNat b 4)).toNat = leNat (s.readBytes b 4) := by
    rw [BitVec.toNat_ofNat]; exact Nat.mod_eq_of_lt hlt
  rw [instrOf, hw, h]

/-- The gang acted on fetches the word there, where no other value of it is left to choose. -/
theorem State.fetchGang_word {u : State} {l : Leaf} {a : Nat} {i : Instr}
    (hw : u.walk (u.team u.cur.team).ctx (u.slice u.cur.team (u.cur.ks.headD 0)).regs.pc = .leaf l) (hx : l.x = true)
    (hf : u.fate (u.team u.cur.team).ctx (u.teamDie u.cur.team) wantFetch u.draws (u.slice u.cur.team (u.cur.ks.headD 0)).regs.pc = .ok l a)
    (hr : isRemote l a = false) (ht : u.touch (u.team u.cur.team).ctx [(u.slice u.cur.team (u.cur.ks.headD 0)).regs.pc] = u)
    (hv : ∀ v ∈ u.fetchable u.cur.team (u.slice u.cur.team (u.cur.ks.headD 0)).regs.pc a (u.loadAddr (u.teamDie u.cur.team) l a),
      v = u.readNat (u.loadAddr (u.teamDie u.cur.team) l a) 4)
    (hd : decode (leNat (u.readBytes (u.loadAddr (u.teamDie u.cur.team) l a) 4)) = .ok i) :
    u.fetchGang = .run i (u.modEach u.cur.team u.cur.ks (Slice.fetched (pageOf (u.slice u.cur.team (u.cur.ks.headD 0)).regs.pc))) := by
  have hnew : (u.fetchable u.cur.team (u.slice u.cur.team (u.cur.ks.headD 0)).regs.pc a (u.loadAddr (u.teamDie u.cur.team) l a)).filter
      (fun v => v != u.readNat (u.loadAddr (u.teamDie u.cur.team) l a) 4) = [] :=
    List.filter_eq_nil_iff.2 fun v hv' => by simp [hv v hv']
  have hfetch : u.fetch u.cur.team (u.slice u.cur.team (u.cur.ks.headD 0)).regs.pc =
      .word u (BitVec.ofNat 32 (u.readNat (u.loadAddr (u.teamDie u.cur.team) l a) 4)) := by
    simp only [State.fetch, hw, hx, Bool.not_true, Bool.and_false, Bool.false_eq_true, if_false, hf, hr, ht, hnew, List.isEmpty_nil, if_true]
  simp only [State.fetchGang, hfetch, instrOf_readBytes hd]

/-- What an opportunity at which no wait at a REGANG ends leaves of the state before its gang issues: all but the gangs, the cores and the dies. -/
theorem State.counted_rest (s : State) (c q : Nat) (ready : List (Nat × Gang)) (g : Option Gang) :
    ∃ G C D, (s.ageGangs c q ready g).countOpp c q = { s with gangs := G, cores := C, dies := D } :=
  ⟨(s.ageGangs c q ready g).gangs, ((s.ageGangs c q ready g).countOpp c q).cores, ((s.ageGangs c q ready g).countOpp c q).dies, by
    rw [State.countOpp_rest]; rfl⟩

/-- The word of a gang's opportunity, with the gang's ageing count and the core's count of instructions as they were if it has to wait. -/
theorem runIssue_eq (i : Instr) (w : State) (c q : Nat) : runIssue i w c q = match run i (w.countIssue c q) with
    | .next v => .next (if v.cur.waits then { v with gangs := w.gangs, cores := w.cores } else v)
    | .fault e => .fault e
    | .refused e => .refused e := by
  unfold runIssue
  cases run i (w.countIssue c q) <;> rfl

/-- Where no promise is open, an instruction is run as `exec` has it. -/
theorem run_of_wins {i : Instr} {u : State} (h : ∀ k ∈ u.cur.ks, (u.slice u.cur.team k).regs.wins = []) : run i u = exec i u := by
  obtain ⟨v, hv⟩ := exec_next i u
  have hall : (u.cur.ks.all fun k => (u.slice u.cur.team k).regs.wins.isEmpty) = true := List.all_eq_true.2 fun k hk => by rw [h k hk]; rfl
  have hb : u.breaches i v = v := by simp only [State.breaches, hall, Bool.true_or, if_true]
  simp [run, hv, hb]

/-- A change that leaves registers alone leaves no promise open that was not. -/
theorem State.modEach_wins {f : Slice → Slice} (hf : ∀ v, (f v).regs = v.regs) (t : Nat) (ks : List Nat) (s : State) (t' k : Nat) :
    ((s.modEach t ks f).slice t' k).regs = (s.slice t' k).regs := by
  induction ks generalizing s with
  | nil => rfl
  | cons j ks ih =>
    have hstep : (s.modEach t (j :: ks) f) = (s.modSlice t j f).modEach t ks f := rfl
    rw [hstep, ih]
    unfold State.slice
    rw [FMap.get_eq_find?, FMap.get_eq_find?]
    have hfind : FMap.find? (s.modSlice t j f).slices (sliceKey t' k) = _ := FMap.find?_modify ..
    rw [hfind]
    split
    · cases FMap.find? s.slices (sliceKey t' k) with
      | none => rfl
      | some v => exact hf v
    · rfl

/-- Settles O4. -/
theorem stepRunsDecoded : Obligations.StepRunsDecoded := by
  intro s c q busy r htape hreset v
  refine ⟨fun g hgate hnum hq hheld hbest => ?_, ?_⟩
  · refine ⟨_, State.opportunity_some hgate hnum hq hheld hbest, rfl, fun hj => ?_⟩
    rw [hj, List.foldl_nil]
    obtain ⟨G, C, D, hs2⟩ := v.counted_rest c q (v.readyGangs c q busy) (some g)
    rw [hs2]
    refine ⟨State.modEach_mem .., State.modEach_blocks .., State.modEach_launches .., State.modEach_teams .., State.modEach_ctxs ..,
      State.modEach_module .., fun hks t k hk => ?_⟩
    have hslice := State.modEach_slice (f := Slice.reopen (s.ctx (s.team g.team).ctx)) (Slice.reopen_reopen _) rfl (t := g.team) hks
      { v with gangs := G, cores := C, dies := D } (t' := t) hk
    refine Eq.trans hslice ?_
    have hsl : ({ v with gangs := G, cores := C, dies := D } : State).slice t k = s.slice t k := rfl
    rw [hsl]
    by_cases hmem : t = g.team ∧ k ∈ g.ks
    · rw [if_pos hmem, Slice.reopen, hmem.1]
      simp [hmem.2]
    · rw [if_neg hmem, if_neg fun h => hmem ⟨h.1, h.2.1⟩]
  · intro u l a i hopp t x pc b hwalk hx hfate hrem htouch hval hdec w issued
    have hact : State.act v (.opp c q busy) = .issue i w c q := by
      have hr : v.module.inReset = false := hreset
      have hfg := State.fetchGang_word hwalk hx hfate hrem htouch hval hdec
      simp only [State.act, hr, Bool.false_eq_true, if_false, hopp, if_true, hfg]
      rfl
    have hstep : step s = issued (run i (w.countIssue c q)) := by
      have h := runIssue_eq i w c q
      simp only [step, stuck_of_tape htape, nextMove_of_tape htape, Bool.false_eq_true, if_false]
      have hv : State.act { s with tape := r } (.opp c q busy) = .issue i w c q := hact
      rw [hv]
      exact h
    refine ⟨hstep, fun hwins => ?_⟩
    rw [hstep, run_of_wins]
    intro k hk
    have hcur : (w.countIssue c q).cur = u.cur := State.modEach_cur ..
    rw [hcur] at hk ⊢
    have hregs : ((w.countIssue c q).slice u.cur.team k).regs = (u.slice u.cur.team k).regs :=
      State.modEach_wins (f := Slice.fetched (pageOf pc)) (fun _ => rfl) t u.cur.ks u u.cur.team k
    rw [hregs]
    exact hwins k hk

theorem State.clockOn_team (s : State) (t : Nat) : s.clockOn.team t = s.team t := by rw [s.clockOn_rest]; rfl

theorem State.core_modCore_self {s : State} {c : Nat} (f : Core → Core) (h : (FMap.find? s.cores c).isSome = true) :
    (s.modCore c f).core c = f (s.core c) := FMap.get_modify_eq _ _ h

/-- The core's clock goes on past the last reading of the quarter of the gang's first slice, which then is its new value. -/
theorem State.clockOn_core {s : State} {c : Nat} {qs : List Nat} {o m : Nat} (h : (s.team s.cur.team).place = .resident c qs o m)
    (hc : (FMap.find? s.cores c).isSome = true) :
    let q := qs.getD (s.cur.ks.headD 0 / 8) 0
    ∃ v, max (s.core c).clk (FMap.get 0 (s.core c).clkRead q + 1) ≤ v ∧ (s.clockOn.core c).clk = v ∧
      FMap.get 0 (s.clockOn.core c).clkRead q = v := by
  intro q
  have hon : s.clockOn = s.drawn.modCore c fun x =>
      { x with clk := max (s.core c).clk (FMap.get 0 (s.core c).clkRead q + 1) + (Config.word s.draws).toNat % 2 ^ 32,
               clkRead := FMap.put x.clkRead q (max (s.core c).clk (FMap.get 0 (s.core c).clkRead q + 1) + (Config.word s.draws).toNat % 2 ^ 32) } := by
    unfold State.clockOn
    rw [h]
  rw [hon, State.core_modCore_self (s := s.drawn) _ hc]
  exact ⟨_, Nat.le_add_right _ _, rfl, FMap.get_put_eq ..⟩

/-- Settles O34. -/
theorem clockReading : Obligations.ClockReading := by
  refine ⟨fun s t k d hc => ?_, fun s t c qs q m hp => ?_, fun s t c k qs ks hsome hcur hres => ?_⟩
  · obtain ⟨u, hu, hleaves, hgangs⟩ := s.srdClk_closes t k d hc
    have hctx : s.clockOn.ctx (s.clockOn.team t).ctx = s.ctx (s.team t).ctx := by rw [s.clockOn_rest]; rfl
    rw [hctx] at hleaves
    exact ⟨u, hu, hgangs.trans (by rw [s.clockOn_rest]), hleaves⟩
  · have hcore : s.clockOn.teamCore t = some c := by simp [State.teamCore, s.clockOn_team, hp]
    simp [State.clockValue, hcore]
  · obtain ⟨q, m, hp⟩ := hres
    have hk : s.cur.ks.headD 0 = k := by rw [hcur]; rfl
    obtain ⟨v, hv, hclk, hread⟩ := State.clockOn_core (s := s) (by rw [hcur]; exact hp) hsome
    rw [hk] at hv hread
    obtain ⟨h1, h2⟩ := max_le_iff.1 hv
    rw [hclk, hread]
    exact ⟨h2, h1, rfl⟩

end Sys2Proof.Machine
end

section
/-! SUPPORT. Closers that complete at once, sleepers woken, the barrier of a lone slice, EXIT -/

namespace Sys2Proof.Machine

/-! ### Closers in a calm slice (R203) -/

/-- A slice once the chunk before a closer, if it held an instruction, has committed. -/
def Slice.preClosed (c : Ctx) (v : Slice) : Slice := if v.chunk.instrs = 0 then v else v.committed c

theorem Slice.preClosed_park (c : Ctx) (v : Slice) : (v.preClosed c).park = v.park := by
  unfold Slice.preClosed; split <;> rfl

theorem Slice.preClosed_regs (c : Ctx) {v : Slice} (h : v.regs.wins = []) : (v.preClosed c).regs = v.regs := by
  unfold Slice.preClosed
  split
  · rfl
  · exact Regs.complete_of_wins h

section
variable {s base v w : State} {t k : Nat} {i : Instr} {g : Regs → Regs} {body : State → State → Nat → List Nat → State × List (Nat × Did)}

/-- A closer whose body, once the chunk before it has committed, leaves the slice with the registers `g` in a state that is otherwise `base`. -/
theorem issue_closer_after (hc : s.calm t k i) (hla : lookaheadOf i = 0)
    (hv : Became s v t k ((s.slice t k).preClosed (s.ctx (s.team t).ctx))) (hb : body s s t [k] = (w, [(k, .closer)]))
    (hw : Became base w t k ((v.slice t k).withRegs (g (v.slice t k).regs)))
    (hctx : base.ctx (base.team t).ctx = s.ctx (s.team t).ctx)
    (hfx : (g (s.slice t k).regs).fpx &&& ~~~ (g (s.slice t k).regs).delivered = 0)
    (hh : ∀ key, (FMap.find? base.slices key).map Slice.handler = (FMap.find? s.slices key).map Slice.handler)
    (hrel : (base.team t).released = (s.team t).released) :
    ∃ u, issue i body s = .next u ∧ Leaves base u t k ((s.slice t k).closed (base.ctx (base.team t).ctx) (g (s.slice t k).regs)) ∧ u.gangs = base.gangs := by
  have hr : (v.slice t k).regs = (s.slice t k).regs := by
    rw [hv.slice]; exact Slice.preClosed_regs _ (hc.2.1 k (List.mem_singleton_self k)).2
  have hX : ((v.slice t k).withRegs (g (v.slice t k).regs)) =
      ((s.slice t k).preClosed (base.ctx (base.team t).ctx)).withRegs (g (s.slice t k).regs) := by
    rw [hr, hctx, hv.slice]
  rw [hX] at hw
  exact issue_closer (X := ((s.slice t k).preClosed (base.ctx (base.team t).ctx)).withRegs (g (s.slice t k).regs)) hc hla hb hw rfl hfx hh hrel
    (by rw [hctx])

theorem preIn_calm' (hc : s.calm t k i) :
    ∃ v, s.preIn s t k = .ok v ∧ Became s v t k ((s.slice t k).preClosed (s.ctx (s.team t).ctx)) :=
  State.preIn_calm (calm_some hc) hc.2.2.1 (hc.2.1 k (List.mem_singleton_self k)).2

/-! ### A closer over an access that passes its checks -/

/-- The check of an access looks at a slice only for what is parked. -/
theorem State.fateOf_slices (hv : v = { s with slices := v.slices }) (hp : ∀ j, (v.slice t j).park = (s.slice t j).park) (x : Want) (y : Acc) :
    v.fateOf t x y = s.fateOf t x y := by
  unfold State.fateOf
  rw [hp]
  rw [hv]
  rfl

theorem State.aloneCheck_slices (hv : v = { s with slices := v.slices }) (hp : ∀ j, (v.slice t j).park = (s.slice t j).park) (xs : List (W64 × Want)) :
    v.aloneCheck t k xs = s.aloneCheck t k xs := by
  have hcur : v.cur = s.cur := by rw [hv]
  unfold State.aloneCheck
  simp only [State.fateOf_slices hv hp, hcur]

theorem Became.park {X : Slice} (h : Became s v t k X) (hX : X.park = (s.slice t k).park) (j : Nat) : (v.slice t j).park = (s.slice t j).park := by
  by_cases hj : j = k
  · subst hj; rw [h.slice, hX]
  · have := h.others (sliceKey t j) fun e => hj (sliceKey_inj e)
    rw [State.slice, State.slice, FMap.get_eq_find?, FMap.get_eq_find?, this]

/-- A slice instruction that is a closer, over accesses that pass: its act, once, after the commit of the chunk before it. -/
theorem sliceAccess_closes {kind : Nat} {look : State → Nat → Nat → List (W64 × Want)}
    {act : State → State → Nat → Nat → List (Acc × Leaf × Nat) → State × Did} {oks : List (Acc × Leaf × Nat)} (hc : s.calm t k i)
    (hp : s.passes t k (look s t k) oks) (hv : s.preIn s t k = .ok v)
    (hb : Became s v t k ((s.slice t k).preClosed (s.ctx (s.team t).ctx))) (hlook : look v t k = look s t k) :
    sliceAccess i kind true look act s s t [k] = ((act s v t k oks).1, [(k, (act s v t k oks).2)]) := by
  obtain ⟨h1, h2, h3⟩ := hp
  have hpark := hc.2.2.2.2.2.1
  have hd : (s.slice t k).finished = false := by simp [Slice.finished, hpark]
  have hcheck : v.aloneCheck t k (look v t k) = .go oks := by
    rw [hlook, State.aloneCheck_slices hb.rest (hb.park (Slice.preClosed_park _ _)), h2]
  have hck : checkSlice i true look s s t k = .ok (v, oks, []) := by
    unfold checkSlice
    simp only [h1, h2, Bool.true_or, if_true, hv, hcheck]
  unfold sliceAccess
  simp [hd, h2, hck, State.haltedSince_same, State.postMisses, pageCounts]

end

/-- Settles O32. -/
theorem waitResults : Obligations.WaitResults := by
  refine ⟨fun s t k a b c x hp hcond hc => ?_, fun m y => ?_⟩
  · obtain ⟨v, hv, hb⟩ := preIn_calm' hc
    have hregs : (v.slice t k).regs = (s.slice t k).regs := by
      rw [hb.slice]; exact Slice.preClosed_regs _ (hc.2.1 k (List.mem_singleton_self k)).2
    have hfab : isFabric x.2.2 = false := by
      have := (hp.2.2 x (by simp)).1
      simp only [isRemote, Bool.or_eq_false_iff] at this
      exact this.2
    have hword : v.waitWord t [x] = (v, s.readWord64 (s.loadAddr (s.teamDie t) x.2.1 x.2.2)) := by
      have hmem : v.readWord64 (v.loadAddr (v.teamDie t) x.2.1 x.2.2) = s.readWord64 (s.loadAddr (s.teamDie t) x.2.1 x.2.2) := by
        rw [hb.rest]; rfl
      simp only [State.waitWord, hfab, Bool.false_eq_true, if_false, hmem]
    have hact : waitAct c a b s v t k [x] = (v.modSlice t k fun sl => { sl with regs := sl.regs.adv }, .closer) := by
      simp only [waitAct, hword, hregs, hcond, if_true]
    have hbody := sliceAccess_closes (kind := 0) (look := fun v t k => [((v.slice t k).regs.getS a, wantWait)]) (act := waitAct c a b) hc hp hv hb
      (by simp only [hregs])
    rw [hact] at hbody
    exact issue_closer_after (g := Regs.adv) hc rfl hb hbody ((hb.modSlice _).congr (by rw [hb.slice]; rfl)) rfl hc.2.2.2.1 (fun _ => rfl) rfl
  · refine ⟨by simp [condOn], by simp [condOn], by simp [condOn, BitVec.slt], by simp [condOn, BitVec.slt], by simp [condOn, BitVec.ult],
      by simp [condOn, BitVec.ult]⟩

/-! ### An invalidation (R205) -/

theorem FMap.find?_mapEntries {α : Type} (m : FMap α) (f : Nat → α → α) (i : Nat) :
    FMap.find? (m.map fun e => (e.1, f e.1 e.2)) i = (FMap.find? m i).map (f i) := by
  induction m with
  | nil => rfl
  | cons e m ih =>
    obtain ⟨k, v⟩ := e
    by_cases hk : k = i
    · subst hk; simp [FMap.find?]
    · simp [FMap.find?, hk, ih]

/-- What an invalidation does to the slice of a key. -/
def invalidated (ls : List LineId) (skip : Option Nat) (key : Nat) (v : Slice) : Slice :=
  if skip = some key ∨ ls = [] then v else v.invalidate ls

theorem State.find?_invalidate (s : State) (ls : List LineId) (skip : Option Nat) (key : Nat) :
    FMap.find? (s.invalidate ls skip).slices key = (FMap.find? s.slices key).map (invalidated ls skip key) := by
  unfold State.invalidate
  cases ls with
  | nil =>
    have : invalidated [] skip key = id := by funext v; simp [invalidated]
    simp [this]
  | cons l ls =>
    have hmap : (s.slices.map fun e => if skip = some e.1 then e else (e.1, e.2.invalidate (l :: ls))) =
        s.slices.map fun e => (e.1, invalidated (l :: ls) skip e.1 e.2) :=
      List.map_congr_left fun e _ => by unfold invalidated; by_cases h : skip = some e.1 <;> simp [h]
    simp only [List.isEmpty_cons, Bool.false_eq_true, if_false, hmap]
    exact FMap.find?_mapEntries ..

theorem State.invalidate_rest (s : State) (ls : List LineId) (skip : Option Nat) :
    s.invalidate ls skip = { s with slices := (s.invalidate ls skip).slices } := by
  unfold State.invalidate
  split <;> rfl

theorem Slice.invalidate_handler (ls : List LineId) (v : Slice) : (v.invalidate ls).handler = v.handler := by
  have hv : (if clashAny v.prevLines ls then { v with prevHit := true } else v).handler = v.handler := by split <;> rfl
  unfold Slice.invalidate
  dsimp only
  split
  · exact hv
  · split
    · split
      · exact hv
      · exact hv
    · exact hv

/-- An invalidation takes no slice into its handler. -/
theorem State.invalidate_handler (s : State) (ls : List LineId) (skip : Option Nat) (key : Nat) :
    (FMap.find? (s.invalidate ls skip).slices key).map Slice.handler = (FMap.find? s.slices key).map Slice.handler := by
  rw [State.find?_invalidate, Option.map_map]
  congr 1
  funext v
  simp only [Function.comp_apply, invalidated]
  split
  · rfl
  · exact Slice.invalidate_handler ls v

section
variable {s v : State} {t k : Nat} {X : Slice}

theorem Became.invalidate (h : Became s v t k X) (ls : List LineId) :
    Became (s.invalidate ls (some (sliceKey t k))) (v.invalidate ls (some (sliceKey t k))) t k X := by
  refine ⟨?_, fun key hk => ?_, ?_⟩
  · rw [State.find?_invalidate, h.self]; simp [invalidated]
  · rw [State.find?_invalidate, State.find?_invalidate, h.others key hk]
  · rw [State.invalidate_rest v, State.invalidate_rest s, h.rest]

theorem Became.modTeam (h : Became s v t k X) (o : Nat) (f : Team → Team) : Became (s.modTeam o f) (v.modTeam o f) t k X :=
  ⟨h.self, h.others, (congrArg (fun u : State => u.modTeam o f) h.rest).trans rfl⟩

theorem Became.modCtx (h : Became s v t k X) (c : Nat) (f : Ctx → Ctx) : Became (s.modCtx c f) (v.modCtx c f) t k X :=
  ⟨h.self, h.others, (congrArg (fun u : State => u.modCtx c f) h.rest).trans rfl⟩

end

@[simp] theorem State.invalidate_ctxs (s : State) (ls : List LineId) (skip : Option Nat) : (s.invalidate ls skip).ctxs = s.ctxs := by
  rw [State.invalidate_rest]
@[simp] theorem State.invalidate_teams (s : State) (ls : List LineId) (skip : Option Nat) : (s.invalidate ls skip).teams = s.teams := by
  rw [State.invalidate_rest]
@[simp] theorem State.invalidate_mem (s : State) (ls : List LineId) (skip : Option Nat) : (s.invalidate ls skip).mem = s.mem := by
  rw [State.invalidate_rest]
@[simp] theorem State.invalidate_team (s : State) (ls : List LineId) (skip : Option Nat) (t : Nat) : (s.invalidate ls skip).team t = s.team t := by
  simp [State.team]
@[simp] theorem State.invalidate_ctx (s : State) (ls : List LineId) (skip : Option Nat) (c : Nat) : (s.invalidate ls skip).ctx c = s.ctx c := by
  simp [State.ctx]

/-- A change of a team that keeps a part of every team keeps it in each. -/
theorem State.modTeam_keeps {α : Type} (P : Team → α) {f : Team → Team} (hf : ∀ v, P (f v) = P v) (s : State) (o t : Nat) :
    P ((s.modTeam o f).team t) = P (s.team t) := by
  unfold State.team
  have hfind : FMap.find? (s.modTeam o f).teams t = _ := FMap.find?_modify ..
  rw [FMap.get_eq_find?, FMap.get_eq_find?, hfind]
  split
  · cases FMap.find? s.teams t with
    | none => rfl
    | some v => exact hf v
  · rfl

theorem State.takeSlot_parts (s : State) (t k o n : Nat) (op : ChanOp) (c : Chan) :
    (s.takeSlot t k o n op c).ctx ((s.takeSlot t k o n op c).team t).ctx = s.ctx (s.team t).ctx ∧
      ((s.takeSlot t k o n op c).team t).released = (s.team t).released ∧
      ∀ key, (FMap.find? (s.takeSlot t k o n op c).slices key).map Slice.handler = (FMap.find? s.slices key).map Slice.handler := by
  unfold State.takeSlot
  simp only [State.invalidate_ctx, State.invalidate_team, State.modTeam_ctx_read]
  exact ⟨congrArg s.ctx (State.modTeam_keeps (·.ctx) (by intro; rfl) s o t), State.modTeam_keeps (·.released) (by intro; rfl) s o t,
    fun key => State.invalidate_handler ..⟩

/-- A blocking acquire or take of a counter above 0, in a calm slice. -/
theorem chanBlock_closes {s : State} {t k d a o n : Nat} {op : ChanOp} {i : Instr} {c : Chan} (hla : lookaheadOf i = 0)
    (he : exec i s = chanBlock i d a op s) (hh : s.handle t ((s.slice t k).regs.getS a) = some (o, n)) (hch : s.chan o n = some c)
    (hres : (s.teamCore o).isSome = true) (hready : c.ready op = true) :
    s.closes t k i (s.takeSlot t k o n op c) fun r => (r.setS d (BitVec.ofNat 64 (c.slot op))).adv := by
  intro hc
  obtain ⟨v, hv, hb⟩ := preIn_calm' hc
  have hregs : (v.slice t k).regs = (s.slice t k).regs := by
    rw [hb.slice]; exact Slice.preClosed_regs _ (hc.2.1 k (List.mem_singleton_self k)).2
  have hhandle : v.handle t ((v.slice t k).regs.getS a) = some (o, n) := by rw [hregs, ← hh, hb.rest]; rfl
  have hchan : v.chan o n = some c := by rw [← hch, hb.rest]; rfl
  have hresident : v.resident o = true := by rw [hb.rest]; exact hres
  obtain ⟨hctx, hrel, hhandler⟩ := s.takeSlot_parts t k o n op c
  rw [he]
  have hbecame : Became (s.takeSlot t k o n op c)
      ((v.takeSlot t k o n op c).modSlice t k fun sl => { sl with regs := (sl.regs.setS d (BitVec.ofNat 64 (c.slot op))).adv }) t k
      ((v.slice t k).withRegs ((v.slice t k).regs.setS d (BitVec.ofNat 64 (c.slot op))).adv) := by
    rw [hb.slice]
    exact ((hb.modTeam _ _).invalidate _).modSlice _
  exact issue_closer_after (g := fun r => (r.setS d (BitVec.ofNat 64 (c.slot op))).adv) hc hla hb
    (by simp only [eachSlice_one, hv, hhandle, hchan, hready, hresident, Bool.and_self, if_true]) hbecame hctx hc.2.2.2.1 hhandler hrel

/-! ### A sleeper woken (R203) -/

theorem Regs.aged_of_wins {r : Regs} (h : r.wins = []) : r.aged = r := by
  unfold Regs.aged; rw [h, List.map_nil, List.filter_nil, ← h]

theorem Regs.withoutWins {r : Regs} (h : r.wins = []) : ({ r with wins := [] } : Regs) = r := by rw [← h]

/-- A sleeper whose closer has completed, before the closer's own chunk commits. -/
def Slice.roused (f : Regs → Regs) (v : Slice) : Slice :=
  { v with status := .run, park := none, regs := (f v.regs).adv.complete.aged, chunk := { v.chunk with instrs := 1 } }

theorem State.wake_eq (v : State) (t k : Nat) (f : Regs → Regs) :
    v.wake t k f = (v.modSlice t k (Slice.roused f)).closeOwn t k (v.slice t k).regs.pc ((v.slice t k).regs.pc + 4) := rfl

/-- The commit of a closer's own chunk, which holds nothing, where no flag is left to deliver. -/
theorem Became.closeOwn {s v : State} {t k : Nat} {X : Slice} {pc resume : W64} (h : Became s v t k X) (hheld : X.chunk.held = [])
    (hfx : X.regs.fpx &&& ~~~ X.regs.delivered = 0) : Became s (v.closeOwn t k pc resume) t k (X.committed (s.ctx (s.team t).ctx)) := by
  have hctx : v.ctx (v.team t).ctx = s.ctx (s.team t).ctx := by rw [h.rest]; rfl
  have hcommit := State.commitChunk_nil (t := t) (k := k) (s := v) (by rw [h.slice]; exact hheld)
  rw [hctx] at hcommit
  have h2 := h.modSlice (Slice.committed (s.ctx (s.team t).ctx))
  rw [State.closeOwn, hcommit]
  generalize v.modSlice t k (Slice.committed (s.ctx (s.team t).ctx)) = v2 at h2
  show Became s (v2.deliver t k _ _ _) t k _
  rw [State.deliver_calm (by rw [h2.slice]; exact hfx)]
  exact (h2.modSlice _).congr rfl

theorem Slice.committed_roused {c : Ctx} {X : Slice} {f : Regs → Regs} (h : (f X.regs).wins = []) :
    (X.roused f).committed c = X.woken c (f X.regs).adv := by
  have hwins : (f X.regs).adv.wins = [] := h
  have hregs : (f X.regs).adv.complete.aged = (f X.regs).adv := by rw [Regs.complete_of_wins hwins, Regs.aged_of_wins hwins]
  have hr : X.roused f = { X with status := .run, park := none, regs := (f X.regs).adv, chunk := { X.chunk with instrs := 1 } } := by
    unfold Slice.roused; rw [hregs]
  rw [hr, Slice.committed, Slice.woken]
  dsimp only
  rw [Regs.complete_of_wins hwins, Regs.withoutWins hwins, Slice.committed, Slice.countCommit, Slice.countCommit, Slice.relevel, Slice.relevel]
  rfl

/-- A sleeper in the state in which it wakes: nothing held, no promise open, no flag to deliver once its closer has written its registers. -/
theorem Became.wake {s v : State} {t k : Nat} {X : Slice} {f : Regs → Regs} (h : Became s v t k X) (hheld : X.chunk.held = [])
    (hw : (f X.regs).wins = []) (hfx : (f X.regs).fpx &&& ~~~ (f X.regs).delivered = 0) :
    Became s (v.wake t k f) t k (X.woken (s.ctx (s.team t).ctx) (f X.regs).adv) := by
  have hwins : (f X.regs).adv.wins = [] := hw
  have hregs : (f X.regs).adv.complete.aged = (f X.regs).adv := by rw [Regs.complete_of_wins hwins, Regs.aged_of_wins hwins]
  have h1 := (h.modSlice (Slice.roused f)).closeOwn (pc := (v.slice t k).regs.pc) (resume := (v.slice t k).regs.pc + 4) hheld
    (by show (f X.regs).adv.complete.aged.fpx &&& ~~~ (f X.regs).adv.complete.aged.delivered = 0; rw [hregs]; exact hfx)
  rw [State.wake_eq]
  exact h1.congr (Slice.committed_roused hwins)

theorem Became.gangs {s u : State} {t k : Nat} {X : Slice} (h : Became s u t k X) : u.gangs = s.gangs := by rw [h.rest]

/-- A state whose slice became `X`, with other gangs. -/
theorem Became.withGangs {s u : State} {t k : Nat} {X : Slice} (h : Became s u t k X) (gs : List Gang) : Leaves s { u with gangs := gs } t k X := by
  refine ⟨h.slice, h.others, ?_⟩
  obtain ⟨-, -, hrest⟩ := h
  rw [hrest]

theorem Became.eq_of_gangs {s u : State} {t k : Nat} {X : Slice} (h : Became s u t k X) (gs : List Gang) :
    ({ ({ u with gangs := gs } : State) with gangs := s.gangs } : State) = u := by
  rw [← h.gangs]

/-- An event that ends in the waking of a sleeper: what else it changes is in `base`. -/
theorem wakes_of_event {s base v : State} {t k : Nat} {i : Instr} {f : Regs → Regs} {e : State → State} (he : exec i s = event e s)
    (hev : e s = v.wake t k f) (hb : Became base v t k (s.slice t k)) (hheld : (s.slice t k).chunk.held = [])
    (hw : (f (s.slice t k).regs).wins = []) (hfx : (f (s.slice t k).regs).fpx &&& ~~~ (f (s.slice t k).regs).delivered = 0) :
    s.wakes t k i base f := by
  have h := Became.wake hb hheld hw hfx
  rw [← hev] at h
  refine ⟨_, he, ?_, fun hwhole => ?_⟩
  · rw [State.partAll_rest]; exact h.withGangs _
  · rw [State.partAll_rest, h.eq_of_gangs] at hwhole
    rw [State.partAll_whole hwhole, h.gangs]

theorem Became.takeSlot {s v : State} {t k : Nat} {X : Slice} (h : Became s v t k X) (o n : Nat) (op : ChanOp) (c : Chan) :
    Became (s.takeSlot t k o n op c) (v.takeSlot t k o n op c) t k X := (h.modTeam _ _).invalidate _

/-- The wake of a channel's sleeper whose counter is above 0. -/
theorem channelWake_wakes {s : State} {t k d a o n : Nat} {i : Instr} {op : ChanOp} {c : Chan} (hz : s.dozes t k (.chan i))
    (hi : blockingForm i = some (d, a, op)) (hh : s.handle t ((s.slice t k).regs.getS a) = some (o, n)) (hch : s.chan o n = some c)
    (hres : (s.teamCore o).isSome = true) (hready : c.ready op = true) :
    s.wakes t k (.channelWake t k) ((s.atGang t k).takeSlot t k o n op c) fun r => r.setS d (BitVec.ofNat 64 (c.slot op)) := by
  obtain ⟨hex, hst, hcore, ⟨hheld, -⟩, hwins, hfx⟩ := hz
  have hstat : ((s.atGang t k).slice t k).status = .asleep (.chan i) := hst
  have hh' : (s.atGang t k).handle t (((s.atGang t k).slice t k).regs.getS a) = some (o, n) := hh
  have hch' : (s.atGang t k).chan o n = some c := hch
  have hr : (s.atGang t k).resident t = true := hcore
  have hro : (s.atGang t k).resident o = true := hres
  refine wakes_of_event (f := fun r => r.setS d (BitVec.ofNat 64 (c.slot op))) (e := fun u => (u.atGang t k).chanAgain t k) rfl ?_
    ((Became.refl (s := s.atGang t k) hex).takeSlot o n op c) hheld hwins hfx
  simp only [State.chanAgain, hstat, hi, hh', hch', hr, hro, hready, Bool.and_self, Bool.not_true, Bool.false_eq_true, if_false, if_true]

theorem Regs.raise_wins_nil {r : Regs} {f : Flags} (h : r.wins = []) : (r.raise f).wins = [] := by
  simp [Regs.raise, h]

theorem and_not_or_eq_zero {n : Nat} {x y d : BitVec n} (hx : x &&& ~~~ d = 0) (hy : y &&& ~~~ d = 0) : (x ||| y) &&& ~~~ d = 0 := by
  ext i hi
  have h1 := congrArg (fun v : BitVec n => v.getLsbD i) hx
  have h2 := congrArg (fun v : BitVec n => v.getLsbD i) hy
  simp [hi] at h1 h2
  simp [hi]
  grind

/-- Settles O38. -/
theorem wakeResults : Obligations.WakeResults := by
  intro s t k d a b p n
  refine ⟨fun c x hz hp hcond => ?_, fun hz hpass => ?_, fun o c v hh hch hres => ⟨fun hfree hz => ?_, fun hfull hz => ?_⟩,
    fun hz hdone => ?_, fun hz hpend hfl => ?_⟩
  · obtain ⟨hex, hst, hcore, ⟨hheld, -⟩, hwins, hfx⟩ := hz
    obtain ⟨htouch, hcheck, hlocal⟩ := hp
    have hfab : isFabric x.2.2 = false := by
      have := (hlocal x (by simp)).1
      simp only [isRemote, Bool.or_eq_false_iff] at this
      exact this.2
    have hstat : ((s.atGang t k).slice t k).status = .asleep (.wait (.wait c a b)) := hst
    have hr : (s.atGang t k).resident t = true := hcore
    have htouch' : (s.atGang t k).touch ((s.atGang t k).team t).ctx [((s.atGang t k).slice t k).regs.getS a] = s.atGang t k := htouch
    have hcheck' : (s.atGang t k).aloneCheck t k [(((s.atGang t k).slice t k).regs.getS a, wantWait)] = .go [x] := hcheck
    have hcond' : condOn c ((s.atGang t k).readWord64 ((s.atGang t k).loadAddr ((s.atGang t k).teamDie t) x.2.1 x.2.2))
        (((s.atGang t k).slice t k).regs.getS b) = true := hcond
    refine wakes_of_event (f := id) (e := fun u => (u.atGang t k).waitAgain t k) rfl ?_ (Became.refl (s := s.atGang t k) hex) hheld hwins hfx
    simp only [State.waitAgain, hstat, hr, Bool.not_true, Bool.false_eq_true, if_false, htouch', hcheck', State.waitWord, hfab, hcond', if_true]
  · obtain ⟨hex, hst, hcore, ⟨hheld, -⟩, hwins, hfx⟩ := hz
    have hr : s.resident t = true := hcore
    refine wakes_of_event (f := gwaitRegs p ((s.team t).gate ((s.slice t k).regs.getS a).toNat)) (e := fun u => u.gateAgain t k) rfl ?_
      (Became.refl (s := s) hex) hheld hwins hfx
    simp only [State.gateAgain, hst, hr, hpass, Bool.and_self, if_true]
  · exact channelWake_wakes hz rfl hh hch hres (by simpa [Chan.ready] using hfree)
  · exact channelWake_wakes hz rfl hh hch hres (by simpa [Chan.ready] using hfull)
  · obtain ⟨hex, hst, hcore, ⟨hheld, -⟩, hwins, hfx⟩ := hz
    have hr : s.resident t = true := hcore
    refine wakes_of_event (f := id) (e := fun u => u.cwaitAgain t k) rfl ?_ (Became.refl (s := s) hex) hheld hwins hfx
    simp only [State.cwaitAgain, hst, hr, hdone, Bool.true_and, decide_true, if_true]
  · obtain ⟨hex, hst, hcore, ⟨hheld, -⟩, hwins, hfx⟩ := hz
    have hr : s.resident t = true := hcore
    refine wakes_of_event (f := fun r => r.raise (FMap.get 0 (s.team t).conds k)) (e := fun u => u.mwaitAgain t k) rfl ?_
      ((Became.refl (s := s) hex).modTeam t fun v => { v with conds := FMap.set 0 v.conds k 0 }) hheld (Regs.raise_wins_nil hwins) ?_
    · simp only [State.mwaitAgain, hst, hr, hpend, Bool.not_false, Bool.and_self, if_true, State.joinConds]
    · exact and_not_or_eq_zero hfx hfl

section
variable {s base v w : State} {t k : Nat} {i : Instr}

/-- An instruction of a gang of one calm slice that leaves the slice as `Y`, running, in a state that is otherwise `base`. -/
theorem issue_finished {Y : Slice} {ds : List (Nat × Did)} {body : State → State → Nat → List Nat → State × List (Nat × Did)} (hc : s.calm t k i)
    (hb : body s s t [k] = (v, ds)) (hf : s.finishAll i t (v, ds) = w) (hw : Became base w t k Y) (hrun : Y.status = .run)
    (hhand : Y.handler = (s.slice t k).handler)
    (hh : ∀ key, (FMap.find? base.slices key).map Slice.handler = (FMap.find? s.slices key).map Slice.handler)
    (hrel : (base.team t).released = (s.team t).released) : ∃ u, issue i body s = .next u ∧ Leaves base u t k Y ∧ u.gangs = base.gangs := by
  obtain ⟨ha, hl, ⟨hheld, hhit, hprev, -, hpost, -⟩, -⟩ := hc
  have hres := hw.slice
  have hu := issue_of_body (i := i) ha hl hb hf (by
    intro key hkey
    by_cases he : key = sliceKey t k
    · subst he; exact (congrArg Slice.handler hres).trans hhand
    · have h1 := hh key
      rw [← hw.others key he] at h1
      rw [FMap.get_eq_find?, FMap.get_eq_find?]
      cases hx : FMap.find? w.slices key with
      | none => rw [hx] at hkey; simp at hkey
      | some a =>
        rw [hx] at h1
        cases hx' : FMap.find? s.slices key with
        | none => rw [hx'] at h1; simp at h1
        | some b => rw [hx'] at h1; simpa using h1)
    fun j hj => .inr ⟨by rw [List.mem_singleton.mp hj]; simp [Slice.heldAll, hpost, hprev, hheld], by rw [hw.rest]; exact hrel⟩
  rw [State.regroup_alike (s := w) (by simp) (fun j hj => by rw [List.mem_singleton.mp hj, hres, hrun]; simp)
    fun i hi j hj => by rw [List.mem_singleton.mp hi, List.mem_singleton.mp hj]] at hu
  exact ⟨_, hu, hw.withGangs _, hw.gangs⟩

end

/-! ### The barrier of a lone slice (R233) -/

/-- A slice asleep in a closer. -/
def Slice.dozing (c : Ctx) (z : Sleep) (v : Slice) : Slice :=
  { v with status := .asleep z, park := none, chunk := Chunk.begin c v.regs }

theorem Slice.woken_dozing {c : Ctx} {z : Sleep} {v : Slice} {r : Regs} (hrun : v.status = .run) (hmark : v.mark = none) :
    ((v.preClosed c).dozing c z).woken c r = v.closed c r := by
  have hw : ∀ w : Slice, w.status = .run → w.mark = none → (w.dozing c z).woken c r =
      { w.committed c with regs := { r with wins := [] }, chunk := Chunk.begin c { r with wins := [] }, park := none, mark := none } := by
    intro w h1 h2
    rcases w
    cases h1
    cases h2
    rfl
  refine hw (v.preClosed c) ?_ ?_
  · unfold Slice.preClosed; split <;> exact hrun
  · unfold Slice.preClosed; split <;> exact hmark

theorem Slice.closed_status {c : Ctx} {v : Slice} {r : Regs} (h : v.status = .run) : (v.closed c r).status = .run := by
  unfold Slice.closed; dsimp only; split <;> exact h

theorem Slice.closed_handler (c : Ctx) (v : Slice) (r : Regs) : (v.closed c r).handler = v.handler := by
  unfold Slice.closed; dsimp only; split <;> rfl

theorem State.modTeam_modTeam (s : State) (t : Nat) (f g : Team → Team) : (s.modTeam t f).modTeam t g = s.modTeam t (g ∘ f) := by
  unfold State.modTeam
  simp only [FMap.modify_modify]

theorem State.team_modTeam_self {s : State} {t : Nat} (f : Team → Team) (h : (FMap.find? s.teams t).isSome = true) :
    (s.modTeam t f).team t = f (s.team t) := FMap.get_modify_eq _ _ h

theorem State.team_some_of_live {s : State} {t k : Nat} (h : k ∈ s.live t) : (FMap.find? s.teams t).isSome = true := by
  cases hf : FMap.find? s.teams t with
  | some v => rfl
  | none =>
    have : (s.team t).slices = 0 := by rw [State.team, FMap.get_eq_find?, hf]; rfl
    simp [State.live, this] at h

theorem Became.slice_ne {s v : State} {t k j : Nat} {X : Slice} (h : Became s v t k X) (hj : j ≠ k) : v.slice t j = s.slice t j := by
  rw [State.slice, State.slice, FMap.get_eq_find?, FMap.get_eq_find?, h.others _ fun e => hj (sliceKey_inj e)]

theorem Became.live {s v : State} {t k : Nat} {X : Slice} (h : Became s v t k X) (hX : X.status ≠ .exited) (hs : (s.slice t k).status ≠ .exited) :
    v.live t = s.live t := by
  have hteam : v.team t = s.team t := by rw [h.rest]; rfl
  unfold State.live
  rw [hteam]
  refine List.filter_congr fun j _ => ?_
  by_cases hj : j = k
  · subst hj; rw [h.slice, bne_iff_ne.mpr hX, bne_iff_ne.mpr hs]
  · rw [h.slice_ne hj]

/-- The team of a barrier that its only slice has reached, the phase ended. -/
def barDone (n : Nat) (v : Team) : Team := { v with target := n, arrivals := 0 }

/-- A lone slice arrives at its barrier, which releases it. -/
theorem bar_alone {s v : State} {t k n : Nat} (hv : Became s v t k ((s.slice t k).preClosed (s.ctx (s.team t).ctx)))
    (hrun : (s.slice t k).status = .run) (hmark : (s.slice t k).mark = none) (hw : (s.slice t k).regs.wins = [])
    (hfx : (s.slice t k).regs.fpx &&& ~~~ (s.slice t k).regs.delivered = 0) (ha : (s.team t).arrivals = 0) (hlive : s.live t = [k]) :
    Became (s.modTeam t (barDone n)) ((v.arrive t k n).barCheck t) t k ((s.slice t k).closed (s.ctx (s.team t).ctx) (s.slice t k).regs.adv) := by
  have hex := State.team_some_of_live (s := s) (t := t) (k := k) (by rw [hlive]; simp)
  have hteam : v.team t = s.team t := by rw [hv.rest]; rfl
  have hpre := Slice.preClosed_regs (s.ctx (s.team t).ctx) (v := s.slice t k) hw
  let f : Team → Team := fun x => { x with target := n, arrivals := x.arrivals + 1 }
  let X := ((s.slice t k).preClosed (s.ctx (s.team t).ctx)).dozing (s.ctx (s.team t).ctx) .bar
  -- the arrival
  have harr : Became (s.modTeam t f) (v.arrive t k n) t k X := by
    have h1 := (hv.modTeam t f).modSlice (Slice.dozing ((s.modTeam t f).ctx ((s.modTeam t f).team t).ctx) .bar)
    have hctx : (s.modTeam t f).ctx ((s.modTeam t f).team t).ctx = s.ctx (s.team t).ctx := by
      rw [State.team_modTeam_self _ hex]; rfl
    have harrive : v.arrive t k n =
        (v.modTeam t f).modSlice t k (Slice.dozing ((s.modTeam t f).ctx ((s.modTeam t f).team t).ctx) .bar) := by
      unfold State.arrive State.sleep
      dsimp only
      rw [hteam, if_pos ha, State.modTeam_modTeam]
      have : (v.modTeam t f).ctx ((v.modTeam t f).team t).ctx = (s.modTeam t f).ctx ((s.modTeam t f).team t).ctx := by
        rw [(hv.modTeam t f).rest]; rfl
      rw [← this]
      rfl
    rw [harrive]
    exact h1.congr (by rw [hctx])
  generalize hu : v.arrive t k n = u at harr
  have hut : u.team t = f (s.team t) := by rw [harr.rest]; exact State.team_modTeam_self _ hex
  have hul : u.live t = [k] := by
    rw [harr.live (by simp [X, Slice.dozing]) (by show (s.slice t k).status ≠ _; rw [hrun]; simp), ← hlive]
    unfold State.live
    rw [State.team_modTeam_self _ hex]
    rfl
  have hsleep : (u.slice t k).status = .asleep .bar := by rw [harr.slice]; rfl
  have hneed : ¬ ((u.team t).arrivals = 0 ∨ (u.team t).arrivals < u.barNeed t) := by
    unfold State.barNeed
    rw [hut, hul]
    simp only [f, ha, List.length_singleton]
    split <;> omega
  have hhalt : u.haltedSince (u.modTeam t fun x => { x with arrivals := 0 }) t = false := by
    have h1 := State.modTeam_keeps (·.ctx) (f := fun x : Team => { x with arrivals := 0 }) (by intro; rfl) u t t
    have h2 : (u.modTeam t fun x => { x with arrivals := 0 }).ctx ((u.modTeam t fun x => { x with arrivals := 0 }).team t).ctx = u.ctx (u.team t).ctx := by
      rw [h1]; rfl
    simp [State.haltedSince, h2]
  have hcheck : u.barCheck t = (u.modTeam t fun x => { x with arrivals := 0 }).wake t k id := by
    unfold State.barCheck
    rw [if_neg hneed, hul]
    simp [hsleep, hhalt]
  rw [hcheck]
  have hb2 : Became (s.modTeam t (barDone n)) (u.modTeam t fun x => { x with arrivals := 0 }) t k X := by
    have := harr.modTeam t fun x : Team => { x with arrivals := 0 }
    rw [State.modTeam_modTeam] at this
    exact this
  have hXr : X.regs = (s.slice t k).regs := hpre
  have hdone := hb2.wake (f := id) rfl (by rw [hXr]; exact hw) (by rw [hXr]; exact hfx)
  have hctx : (s.modTeam t (barDone n)).ctx ((s.modTeam t (barDone n)).team t).ctx = s.ctx (s.team t).ctx := by
    rw [State.team_modTeam_self _ hex]; rfl
  rw [hctx, hXr] at hdone
  exact hdone.congr (Slice.woken_dozing hrun hmark)

/-- Settles O33. -/
theorem syncResults : Obligations.SyncResults := by
  intro s t k d a b n p
  refine ⟨fun ha hlive hc => ?_, fun halign hsize hpass hc => ?_, fun o c v hh hch hres => ⟨fun hfree => ?_, fun hfull => ?_⟩⟩
  · obtain ⟨v, hv, hb⟩ := preIn_calm' hc
    have hw := (hc.2.1 k (List.mem_singleton_self k)).2
    have hbar := bar_alone (n := n) hb hc.2.2.2.2.1 hc.2.2.2.2.2.2 hw hc.2.2.2.1 ha hlive
    have hctx : (s.modTeam t (barDone n)).ctx ((s.modTeam t (barDone n)).team t).ctx = s.ctx (s.team t).ctx := by
      rw [State.modTeam_keeps (·.ctx) (by intro; rfl) s t t]; rfl
    rw [← hctx] at hbar
    exact issue_finished (i := .bar n) (v := (v.arrive t k n).barCheck t) (ds := [(k, .ended)]) (body := fun st u t ks => eachSlice (fun v t k =>
      match st.preIn v t k with
      | .ok w => ((w.arrive t k n).barCheck t, .ended)
      | .left w => (w, .gone)) u t ks) hc (by simp only [eachSlice_one, hv]) (by unfold State.finishAll; simp [State.finishSlice]) hbar
      (Slice.closed_status hc.2.2.2.2.1)
      (Slice.closed_handler ..) (fun _ => rfl) (State.modTeam_keeps (·.released) (by intro; rfl) s t t)
  · obtain ⟨v, hv, hb⟩ := preIn_calm' hc
    have hregs : (v.slice t k).regs = (s.slice t k).regs := by
      rw [hb.slice]; exact Slice.preClosed_regs _ (hc.2.1 k (List.mem_singleton_self k)).2
    have hteam : v.team t = s.team t := by rw [hb.rest]; rfl
    have hfault : gateFault (s.params t).tmem ((s.slice t k).regs.getS a) (s.firstLane k) = none := by
      unfold gateFault
      rw [if_neg (by omega), if_neg (by omega)]
    have hbase : Became s (v.modSlice t k fun sl => { sl with regs := (gwaitRegs p ((s.team t).gate ((s.slice t k).regs.getS a).toNat) sl.regs).adv })
        t k _ := hb.modSlice _
    show ∃ u, execGwait p a b s = _ ∧ _
    unfold execGwait
    exact issue_closer_after (g := fun r => (r.setP p (if ((s.team t).gate ((s.slice t k).regs.getS a).toNat).err then 0xF else 0)).adv) hc rfl hb
      (by simp only [eachSlice_one, hv, hregs, hfault, hteam, hpass, if_true]) (hbase.congr (by rw [hb.slice]; rfl)) rfl hc.2.2.2.1 (fun _ => rfl) rfl
  · exact chanBlock_closes rfl rfl hh hch hres (by simpa [Chan.ready] using hfree)
  · exact chanBlock_closes rfl rfl hh hch hres (by simpa [Chan.ready] using hfull)

/-! ### EXIT (R98) -/

theorem State.trapped_nil {s u : State} (h : ∀ t k, (u.slice t k).handler = true → (s.slice t k).handler = true) (g : Gang) : s.trapped u g = [] := by
  refine List.filter_eq_nil_iff.mpr fun k _ => ?_
  cases hu : (u.slice g.team k).handler with
  | false => simp
  | true => simp [h _ _ hu]

/-- What `issue` does where every slice may execute and no slice enters its handler, though one may leave it, and nothing is left to wait for. -/
theorem issue_performed {s v1 v2 : State} {t : Nat} {ks : List Nat} {i : Instr} {ds : List (Nat × Did)}
    {body : State → State → Nat → List Nat → State × List (Nat × Did)} (ha : s.acts t ks) (hl : s.lets t ks i)
    (hb : body s s t ks = (v1, ds)) (hf : s.finishAll i t (v1, ds) = v2)
    (hh : ∀ t k, (v2.slice t k).handler = true → (s.slice t k).handler = true)
    (hq : s.orLater (v2.regroup t ks []) t ks = v2.regroup t ks []) :
    issue i body s = .next (v2.regroup t ks []) := by
  obtain ⟨hc, hn, hk⟩ := ha
  have hgone : ks.filter (fun k => (v2.slice t k).handler && !(s.slice t k).handler) = [] := State.trapped_nil hh { team := t, ks := ks, age := 0, wait := none }
  have hpart : s.partTrapped (v2.regroup t ks []) = v2.regroup t ks [] := by
    have hnone : (v2.regroup t ks []).gangs.filter (fun g => !(s.trapped (v2.regroup t ks []) g).isEmpty) = [] :=
      List.filter_eq_nil_iff.mpr fun g _ => by
        rw [State.trapped_nil (u := v2.regroup t ks []) hh g]; simp
    rw [State.partTrapped, hnone, List.foldl_nil]
  have hw : (ks.all fun k => (s.slice t k).regs.wins.isEmpty) = true :=
    List.all_eq_true.mpr fun k hk' => by rw [(hl k hk').2]; rfl
  unfold issue
  simp only [hc, State.admitted_of_lets hl, State.expose_of_lets hl, hb, hf, hgone, hpart, hw, if_true]
  exact congrArg _ hq

/-- The same where the slices' chunks, or what they hold, have not been committed so that the instruction would wait. -/
theorem issue_of_handlers {s v1 v2 : State} {t : Nat} {ks : List Nat} {i : Instr} {ds : List (Nat × Did)}
    {body : State → State → Nat → List Nat → State × List (Nat × Did)} (ha : s.acts t ks) (hl : s.lets t ks i)
    (hb : body s s t ks = (v1, ds)) (hf : s.finishAll i t (v1, ds) = v2)
    (hh : ∀ t k, (v2.slice t k).handler = true → (s.slice t k).handler = true)
    (hq : ∀ k ∈ ks, (v2.slice t k).commits = (s.slice t k).commits ∨ ((s.slice t k).heldAll = [] ∧ (v2.team t).released = (s.team t).released)) :
    issue i body s = .next (v2.regroup t ks []) :=
  issue_performed ha hl hb hf hh (State.orLater_of (u := v2.regroup t ks []) hq)

/-- A slice that has exited leaves its gang, which it alone made up. -/
theorem State.regroup_exited {s : State} {t k : Nat} (h : (s.slice t k).status = .exited) :
    (s.regroup t [k] []).gangs = s.gangs.filter fun g => g.team != t || g.ks != [k] := by
  have hp : s.parts t [k] [] = [] := by simp [State.parts, State.byStand, h]
  unfold State.regroup
  simp only [hp, List.map_nil]
  induction s.gangs with
  | nil => rfl
  | cons g l ih =>
    rw [List.flatMap_cons, ih, List.filter_cons]
    by_cases hg : g.team = t ∧ g.ks = [k]
    · simp [hg]
    · rw [if_neg hg, if_pos (by simpa [← not_and_or] using hg)]
      rfl

theorem Slice.delivers_calm {v : Slice} (h : v.regs.fpx &&& ~~~ v.regs.delivered = 0) : v.delivers = false := by
  simp [Slice.delivers, h]

/-- A slice that has exited. -/
def Slice.gone (c : Ctx) (v : Slice) : Slice := { v.committed c with status := .exited, handler := false }

theorem exitSlice_calm {s : State} {t k : Nat} (hc : s.calm t k .exit) (ha : (s.team t).arrivals = 0) :
    ∃ v, s.exitSlice t k = (v, .gone) ∧ Became s v t k ((s.slice t k).gone (s.ctx (s.team t).ctx)) := by
  obtain ⟨⟨-, -, hk⟩, hl, ⟨hheld, hhit, hprev, hprevHit, hpost, -⟩, hfx, -⟩ := id hc
  have hex := (hk k (List.mem_singleton_self k)).2
  have hcomp := Regs.complete_of_wins (hl k (List.mem_singleton_self k)).2
  have hb := (Became.refl hex).modSlice (Slice.committed (s.ctx (s.team t).ctx))
  have hbregs : ((s.slice t k).committed (s.ctx (s.team t).ctx)).regs = (s.slice t k).regs := hcomp
  have hbfx : ((s.modSlice t k (Slice.committed (s.ctx (s.team t).ctx))).slice t k).regs.fpx &&&
      ~~~ ((s.modSlice t k (Slice.committed (s.ctx (s.team t).ctx))).slice t k).regs.delivered = 0 := by
    rw [hb.slice, hbregs]; exact hfx
  have hstop : ((s.slice t k).delivers || ({ (s.modSlice t k (Slice.committed (s.ctx (s.team t).ctx))).slice t k with chunk := (s.slice t k).chunk } : Slice).delivers) = false := by
    rw [Slice.delivers_calm hfx]; exact Slice.delivers_calm hbfx
  have hdone := (hb.modSlice fun v => { v with chunk := { v.chunk with ckpt := v.regs } }).modSlice fun v => { v with status := .exited, handler := false }
  refine ⟨_, ?_, hdone⟩
  unfold State.exitSlice
  simp only [hhit, hprevHit, Bool.or_self, Bool.false_eq_true, if_false, State.settlePrev_of_idle hprev hpost, State.commitChunk_nil hheld, hstop]
  rw [State.deliver_calm hbfx, State.barCheck, if_pos (.inl ha)]

/-- Settles O35. -/
theorem exitResults : Obligations.ExitResults := by
  intro s t k hc ha
  obtain ⟨v, hv, hb⟩ := exitSlice_calm hc ha
  obtain ⟨hacts, hl, ⟨hheld, -, hprev, -, hpost, -⟩, -⟩ := hc
  have hu := issue_of_handlers (i := .exit) (body := fun _ u t ks => eachSlice State.exitSlice u t ks) (v1 := v) (v2 := v) (ds := [(k, .gone)]) hacts hl
    (by simp only [eachSlice_one, hv]) (by unfold State.finishAll; simp [State.finishSlice]) (by
      intro t' j hj
      by_cases h : sliceKey t' j = sliceKey t k
      · rw [State.slice, h, show FMap.get _ _ _ = _ from hb.slice] at hj
        exact absurd hj (by simp [Slice.gone])
      · rw [State.slice, FMap.get_eq_find?] at hj ⊢
        rwa [hb.others _ h] at hj)
    fun j hj => .inr ⟨by rw [List.mem_singleton.mp hj]; simp [Slice.heldAll, hpost, hprev, hheld], by rw [hb.rest]; rfl⟩
  refine ⟨_, hu, ⟨hb.slice, hb.others, ?_⟩, ?_⟩
  · rw [State.regroup_rest v, hb.rest]
  · rw [State.regroup_exited (by rw [hb.slice]; rfl), hb.gangs]

end Sys2Proof.Machine
end

section
/-! SUPPORT. What a commit keeps; a closer over a chunk that holds effects -/

namespace Sys2Proof.Machine

/-! ### What a commit's operations leave as it was -/

/-- A slice but for what an invalidation and the removal of an NC line change in it. -/
def Slice.core (v : Slice) : Slice := { v with hit := false, prevHit := false, park := none, nc := [] }

/-- A context but for its counts, its control registers and the faults that it waits for. -/
def Ctx.core (v : Ctx) : Ctx :=
  { v with occupied := 0, tvec := 0, lachk := false, fpxen := 0, logHead := 0, capFaults := 0, traps := 0, posted := [], merged := [], notified := 0, asked := [] }

/-- What a team has that no operation below a commit changes, the release of matrix commands apart. -/
def Team.stands (v w : Team) : Prop :=
  w.ctx = v.ctx ∧ w.place = v.place ∧ w.released = v.released ∧ w.queue = v.queue ∧ w.slices = v.slices ∧ w.launch = v.launch ∧ w.slot = v.slot

/-- A team as a launch in context `c` makes it. -/
def Team.isNew (c : Nat) (w : Team) : Prop := w.ctx = c ∧ w.released = 0 ∧ w.queue = []

/-- Memory, slices, teams and contexts that operations below a commit in context `c` may make of those of `s`: memory keeps its form, slices their cores,
teams their places, contexts their cores, gangs their slices; a new team is of the context and has released nothing. -/
structure Quiet (c : Nat) (s : State) (m : Memory) (sl : FMap Slice) (tm : FMap Team) (cx : FMap Ctx) (gs : List Gang) : Prop where
  form   : Memory.wf s.mem = true → Memory.wf m = true
  slices : ∀ key, (FMap.find? sl key).map Slice.core = (FMap.find? s.slices key).map Slice.core
  ctxs   : ∀ x, (FMap.find? cx x).map Ctx.core = (FMap.find? s.ctxs x).map Ctx.core
  teams  : ∀ t w, FMap.find? tm t = some w → w.isNew c ∨ ∃ v, FMap.find? s.teams t = some v ∧ v.stands w
  gangs  : gs = s.gangs
  keeps  : ∀ t, (FMap.find? s.teams t).isSome = true → (FMap.find? tm t).isSome = true

/-- `u` is a state that operations below a commit in context `c` may make of `s`. -/
abbrev State.quiet (c : Nat) (s u : State) : Prop := Quiet c s u.mem u.slices u.teams u.ctxs u.gangs

theorem Team.stands_refl (v : Team) : Team.stands v v := ⟨rfl, rfl, rfl, rfl, rfl, rfl, rfl⟩

theorem Team.stands_trans {u v w : Team} (h : Team.stands u v) (g : Team.stands v w) : Team.stands u w := by
  obtain ⟨h1, h2, h3, h4, h5, h6, h7⟩ := h
  obtain ⟨g1, g2, g3, g4, g5, g6, g7⟩ := g
  exact ⟨g1.trans h1, g2.trans h2, g3.trans h3, g4.trans h4, g5.trans h5, g6.trans h6, g7.trans h7⟩

theorem Team.isNew_of_stands {c : Nat} {v w : Team} (h : v.isNew c) (g : v.stands w) : w.isNew c := by
  obtain ⟨h1, h2, h3⟩ := h
  obtain ⟨g1, -, g3, g4, -⟩ := g
  exact ⟨g1.trans h1, g3.trans h2, g4.trans h3⟩

theorem State.quiet_refl (c : Nat) (s : State) : s.quiet c s :=
  ⟨id, fun _ => rfl, fun _ => rfl, fun _ w h => .inr ⟨w, h, Team.stands_refl w⟩, rfl, fun _ h => h⟩

section
variable {c : Nat} {s : State} {m : Memory} {sl : FMap Slice} {tm : FMap Team} {cx : FMap Ctx} {gs : List Gang}

theorem Quiet.setMem (h : Quiet c s m sl tm cx gs) {n : Memory} (hn : Memory.wf m = true → Memory.wf n = true) : Quiet c s n sl tm cx gs :=
  { h with form := fun hs => hn (h.form hs) }

theorem Quiet.modTeamAt (h : Quiet c s m sl tm cx gs) (t : Nat) (f : Team → Team) (hf : ∀ v : Team, FMap.find? tm t = some v → v.stands (f v)) :
    Quiet c s m sl (FMap.modify tm t f) cx gs := by
  refine { h with teams := fun j w hw => ?_, keeps := fun j hj => by rw [FMap.isSome_modify]; exact h.keeps j hj }
  rw [FMap.find?_modify] at hw
  split at hw
  · next hj =>
    subst hj
    obtain ⟨x, hx, rfl⟩ := Option.map_eq_some_iff.mp hw
    rcases h.teams j x hx with hnew | ⟨v, hv, hs⟩
    · exact .inl (Team.isNew_of_stands hnew (hf x hx))
    · exact .inr ⟨v, hv, Team.stands_trans hs (hf x hx)⟩
  · exact h.teams j w hw

theorem Quiet.modTeam (h : Quiet c s m sl tm cx gs) (t : Nat) (f : Team → Team) (hf : ∀ v : Team, v.stands (f v)) :
    Quiet c s m sl (FMap.modify tm t f) cx gs := h.modTeamAt t f fun v _ => hf v

theorem Quiet.putTeam (h : Quiet c s m sl tm cx gs) (t : Nat) {v : Team} (hv : v.isNew c) : Quiet c s m sl (FMap.put tm t v) cx gs := by
  refine { h with teams := fun j w hw => ?_, keeps := fun j hj => ?_ }
  · rw [FMap.find?_put] at hw
    split at hw
    · cases hw; exact .inl hv
    · exact h.teams j w hw
  · rw [FMap.find?_put]
    split
    · rfl
    · exact h.keeps j hj

theorem Quiet.modCtx (h : Quiet c s m sl tm cx gs) (x : Nat) (f : Ctx → Ctx) (hf : ∀ v, (f v).core = v.core) : Quiet c s m sl tm (FMap.modify cx x f) gs := by
  refine { h with ctxs := fun j => ?_ }
  rw [← h.ctxs j, FMap.find?_modify]
  split
  · rw [Option.map_map]
    exact congrFun (congrArg Option.map (funext hf)) _
  · rfl

theorem Quiet.mapCtxs (h : Quiet c s m sl tm cx gs) (f : Ctx → Ctx) (hf : ∀ v, (f v).core = v.core) : Quiet c s m sl tm (cx.map fun e => (e.1, f e.2)) gs := by
  refine { h with ctxs := fun j => ?_ }
  rw [← h.ctxs j, FMap.find?_mapEntries cx (fun _ => f), Option.map_map]
  exact congrFun (congrArg Option.map (funext hf)) _

theorem Quiet.mapSlices (h : Quiet c s m sl tm cx gs) (f : Nat → Slice → Slice) (hf : ∀ j v, (f j v).core = v.core) :
    Quiet c s m (sl.map fun e => (e.1, f e.1 e.2)) tm cx gs := by
  refine { h with slices := fun j => ?_ }
  rw [← h.slices j, FMap.find?_mapEntries sl f, Option.map_map]
  exact congrFun (congrArg Option.map (funext fun v => hf j v)) _

theorem State.quiet_foldl {α : Type} (f : State → α → State) (l : List α) (hf : ∀ u, s.quiet c u → ∀ x ∈ l, s.quiet c (f u x)) {u : State} (h : s.quiet c u) :
    s.quiet c (l.foldl f u) := by
  induction l generalizing u with
  | nil => exact h
  | cons x l ih => exact ih (fun v hv y hy => hf v hv y (List.mem_cons_of_mem _ hy)) (hf u h x (List.mem_cons_self ..))

end

section
variable {c : Nat} {s u : State}

/-! ### Granules and blocks -/

theorem State.draw_quiet (h : s.quiet c u) (b n : Nat) : s.quiet c (u.draw b n).2 := by
  unfold State.draw
  split
  · split
    · split <;> exact h
    · exact h
  · exact h

theorem State.drawAlways_quiet (h : s.quiet c u) (b n : Nat) : s.quiet c (u.drawAlways b n).2 := by
  unfold State.drawAlways
  dsimp only
  split <;> exact State.draw_quiet h b n

theorem State.release_quiet (h : s.quiet c u) (b g : Nat) : s.quiet c (u.release b g) := by
  unfold State.release
  split <;> exact h

theorem State.occupy_quiet (h : s.quiet c u) (o : Option Nat) (up down : Nat) : s.quiet c (u.occupy o up down) := by
  unfold State.occupy
  split
  · exact h.modCtx _ _ fun _ => rfl
  · exact h

theorem State.attach_quiet (h : s.quiet c u) (b : Nat) (gs : List Nat) : s.quiet c (u.attach b gs) := by
  unfold State.attach
  dsimp only
  split
  · exact h
  · exact State.occupy_quiet (u := u.setBlock _ _) h ..

theorem State.attachAlways_quiet (h : s.quiet c u) (b n : Nat) (gs : List Nat) : s.quiet c (u.attachAlways b n gs) := by
  unfold State.attachAlways
  dsimp only
  split
  · exact h
  · exact State.occupy_quiet (u := u.setBlock _ _) h ..

theorem State.repack_quiet (h : s.quiet c u) (b : Nat) : s.quiet c (u.repack b) := by
  unfold State.repack
  dsimp only
  split
  · exact h
  · exact State.quiet_foldl _ _ (fun v hv x _ => State.release_quiet hv b x) (State.occupy_quiet (u := u.setBlock _ _) h ..)

theorem State.poolFailed_quiet (h : s.quiet c u) (x g : Nat) (dies : List Nat) : s.quiet c (u.poolFailed x g dies) := by
  unfold State.poolFailed
  refine State.quiet_foldl _ _ ?_ h
  intro v hv d _
  exact hv

theorem State.growAlways_quiet (h : s.quiet c u) (chg : List (Nat × Nat)) : s.quiet c (u.growAlways chg) :=
  State.quiet_foldl _ _ (fun _ hv _ _ => State.attachAlways_quiet (State.drawAlways_quiet hv ..) ..) h

/-! ### Lines -/

theorem Slice.core_invalidate (ls : List LineId) (v : Slice) : (v.invalidate ls).core = v.core := by
  have hv : (if clashAny v.prevLines ls then { v with prevHit := true } else v).core = v.core := by split <;> rfl
  unfold Slice.invalidate
  dsimp only
  split
  · exact hv
  · split
    · split
      · exact hv
      · exact hv
    · exact hv

theorem State.invalidate_quiet (h : s.quiet c u) (ls : List LineId) (skip : Option Nat) : s.quiet c (u.invalidate ls skip) := by
  unfold State.invalidate
  split
  · exact h
  · have hmap : (u.slices.map fun e => if skip = some e.1 then e else (e.1, e.2.invalidate ls)) =
        u.slices.map fun e => (e.1, (fun j v => if skip = some j then v else v.invalidate ls) e.1 e.2) :=
      List.map_congr_left fun e _ => by dsimp only; split <;> rfl
    rw [hmap]
    refine Quiet.mapSlices h (fun j v => if skip = some j then v else v.invalidate ls) fun j v => ?_
    split
    · rfl
    · exact Slice.core_invalidate ls v

theorem State.writeBack_quiet (h : s.quiet c u) (line : Nat) (keep : Bool) : s.quiet c (u.writeBack line keep) := by
  unfold State.writeBack
  split
  · exact h
  · split
    · exact h
    · dsimp only
      split
      · exact State.repack_quiet (u := State.setBlock { u with llc := _ } _ _) h _
      · exact h

theorem State.fit_quiet (line : Nat) (skip : Option Nat) (n : Nat) {u : State} (h : s.quiet c u) : s.quiet c (u.fit line skip n) := by
  induction n generalizing u with
  | zero => exact h
  | succ n ih =>
    unfold State.fit
    split
    · exact h
    · split
      · exact h
      · refine ih ?_
        split
        · exact State.invalidate_quiet (State.writeBack_quiet h ..) ..
        · exact State.invalidate_quiet (State.writeBack_quiet h ..) ..

theorem State.setLine_quiet (h : s.quiet c u) (skip : Option Nat) (e : Nat × Nat) : s.quiet c (u.setLine skip e) := by
  exact State.fit_quiet (u := { u with llc := _, clock := _ }) _ _ _ h

theorem foldl_setLine_quiet (h : s.quiet c u) (skip : Option Nat) (chg : List (Nat × Nat)) :
    s.quiet c (chg.foldl (fun t e => t.setLine skip e) u) := State.quiet_foldl _ _ (fun _ hv _ _ => State.setLine_quiet hv ..) h

/-! ### Writes to memory -/

/-- Bytes put into memory one after another, some of them discarded, keep its form. -/
theorem Memory.wf_writes (ws : List (Nat × Byte)) (p : Nat → Bool) (m : Memory) (h : Memory.wf m = true) :
    Memory.wf (ws.foldl (fun m w => if p w.1 then m else Memory.write m w.1 w.2) m) = true := by
  refine Memory.wf_foldl _ (fun m w hm => ?_) ws h
  split
  · exact hm
  · exact Memory.wf_write _ _ hm

theorem State.applyBytes_quiet (h : s.quiet c u) (ws : List (Nat × Byte)) : s.quiet c (u.applyBytes ws) :=
  h.setMem (Memory.wf_writes ws u.discards u.mem)

theorem State.agentWrite_quiet (h : s.quiet c u) (ws : List (Nat × Byte)) (skip : Option Nat) : s.quiet c (u.agentWrite ws skip) :=
  foldl_setLine_quiet (State.invalidate_quiet (State.growAlways_quiet (State.applyBytes_quiet h ws) _) _ _) _ _

theorem State.tableWrite_quiet (h : s.quiet c u) (ws : List (Nat × Byte)) : s.quiet c (u.tableWrite ws) := by
  have hm : s.quiet c { u with mem := ws.foldl (fun m w => if u.discards w.1 then m else Memory.write m w.1 w.2) u.mem } :=
    h.setMem (Memory.wf_writes ws u.discards u.mem)
  exact foldl_setLine_quiet (State.growAlways_quiet hm _) _ _

theorem State.setA_quiet (h : s.quiet c u) (l : Leaf) : s.quiet c (u.setA l) := by
  unfold State.setA
  split
  · exact h
  · exact State.tableWrite_quiet h _

theorem State.setD_quiet (h : s.quiet c u) (a : Nat) : s.quiet c (u.setD a) := by
  unfold State.setD
  dsimp only
  split
  · exact h
  · exact State.tableWrite_quiet h _

theorem State.touch_quiet (h : s.quiet c u) (x : Nat) (vas : List W64) : s.quiet c (u.touch x vas) := by
  refine State.quiet_foldl _ _ (fun v hv va _ => ?_) h
  dsimp only
  split
  · split
    · split
      · exact State.setA_quiet hv _
      · exact State.setA_quiet hv _
    · exact hv
  · exact hv

theorem State.appendLog_quiet (h : s.quiet c u) (x : Nat) (r : LogRec) : s.quiet c (u.appendLog x r) := by
  have hrest : ∀ v : State, s.quiet c v → s.quiet c ((v.modCtx x fun y => { y with logHead := y.logHead + 1 }).invalidate [.log x] none) := fun v hv =>
    State.invalidate_quiet (u := v.modCtx x _) (Quiet.modCtx hv _ _ (by intro; rfl)) _ _
  unfold State.appendLog
  dsimp only
  refine hrest _ ?_
  split
  · exact State.agentWrite_quiet (State.setA_quiet h _) _ _
  · exact h

/-! ### The command processor -/

theorem State.postFault_quiet (h : s.quiet c u) (d : Nat) (e : FaultEntry) : s.quiet c (u.postFault d e) := by
  unfold State.postFault
  dsimp only
  split
  · exact Quiet.modCtx h _ _ fun _ => rfl
  · split
    · exact Quiet.modCtx h _ _ fun _ => rfl
    · exact h

theorem State.cpTouch_quiet (h : s.quiet c u) (x : Nat) (va : W64) (n : Nat) : s.quiet c (u.cpTouch x va n) := State.touch_quiet h _ _

theorem State.cpPost_quiet (h : s.quiet c u) (x : Nat) (who : Nat × Nat) (kind : Nat) (ps : List (W64 × Bool)) : s.quiet c (u.cpPost x who kind ps) := by
  refine State.quiet_foldl _ _ (fun v hv p _ => ?_) h
  dsimp only
  split
  · exact hv
  · exact Quiet.modCtx (State.postFault_quiet hv _ _) _ _ fun _ => rfl

theorem State.cpReads_quiet (h : s.quiet c u) (x : Nat) (va : W64) (n : Nat) : s.quiet c (u.cpReads x va n) := by
  unfold State.cpReads
  dsimp only
  split
  · split
    · exact State.cpTouch_quiet h _ _ _
    · exact State.cpTouch_quiet h _ _ _
  · exact State.cpTouch_quiet h _ _ _

theorem State.notifyAll_quiet (h : s.quiet c u) : s.quiet c u.notifyAll := Quiet.mapCtxs h (fun x => { x with notified := x.notified + 1 }) fun _ => rfl

theorem State.vaWrite_quiet (h : s.quiet c u) (x : Nat) (va : W64) (bs : List Byte) : s.quiet c (u.vaWrite x va bs) := by
  unfold State.vaWrite
  split
  · dsimp only
    split
    · exact State.setD_quiet (State.setA_quiet h _) _
    · exact State.agentWrite_quiet (State.setD_quiet (State.setA_quiet h _) _) _ _
  · exact h

theorem State.lossRecord_quiet (h : s.quiet c u) (x : Nat) (va : W64) (r : LogRec) : s.quiet c (u.lossRecord x va r) := by
  unfold State.lossRecord
  dsimp only
  split
  · exact h
  · split
    · exact h
    · split
      · exact State.appendLog_quiet h _ _
      · split
        · exact State.appendLog_quiet h _ _
        · exact h

theorem State.writeSignal_quiet (h : s.quiet c u) (x : Nat) (va value : W64) (add : Bool) : s.quiet c (u.writeSignal x va value add) :=
  State.notifyAll_quiet (State.vaWrite_quiet h _ _ _)

theorem State.refusalSignal_quiet (h : s.quiet c u) (x : Nat) (va name : W64) : s.quiet c (u.refusalSignal x va name).2 := by
  unfold State.refusalSignal
  split
  · exact h
  · split
    · exact State.writeSignal_quiet h _ _ _ _
    · exact State.appendLog_quiet (State.cpTouch_quiet h _ _ _) _ _
    · exact h

/-! ### Graphs and launches -/

theorem State.endSignal_quiet (h : s.quiet c u) (x : Nat) (who : Nat × Nat) (va value : W64) (add : Bool) (name : W64) :
    s.quiet c (u.endSignal x who va value add name).1 := by
  unfold State.endSignal
  split
  · exact h
  · split
    · exact State.writeSignal_quiet h _ _ _ _
    · exact State.cpPost_quiet h _ _ _ _
    · exact State.appendLog_quiet (State.cpTouch_quiet h _ _ _) _ _

theorem State.graphCheck_quiet (h : s.quiet c u) (g : Nat) : s.quiet c (u.graphCheck g) := by
  unfold State.graphCheck
  split
  · exact h
  next v _ =>
    have hr := State.endSignal_quiet h v.ctx (2, g) v.signal (if v.refused then ones64 else v.value) (!v.refused && v.sigadd) v.header
    generalize u.endSignal v.ctx (2, g) v.signal (if v.refused then ones64 else v.value) (!v.refused && v.sigadd) v.header = r at hr
    dsimp only
    split
    · exact h
    · split
      · split <;> exact hr
      · exact hr

theorem State.nodeDone_quiet (h : s.quiet c u) (g n : Nat) (b : Bool) : s.quiet c (u.nodeDone g n b) :=
  State.graphCheck_quiet (u := u.modGraph _ _) h _

theorem State.graphRefuse_quiet (h : s.quiet c u) (g n : Nat) : s.quiet c (u.graphRefuse g n) := by
  unfold State.graphRefuse
  split
  · exact h
  · exact State.graphCheck_quiet (State.appendLog_quiet (u := u.modGraph _ _) h _ _) _

theorem State.originDone_quiet (h : s.quiet c u) (o : Origin) : s.quiet c (u.originDone o) := by
  unfold State.originDone
  split
  · exact h
  · exact State.nodeDone_quiet h _ _ _
  · exact h
  · exact h

theorem State.refuseLaunch_quiet (h : s.quiet c u) (x : Nat) (a sg : W64) (o : Origin) : s.quiet c (u.refuseLaunch x a sg o) := by
  have hr := State.refusalSignal_quiet (State.appendLog_quiet h x (LogRec.plain 0x0022 3 a 0)) x sg a
  unfold State.refuseLaunch
  dsimp only
  split
  · exact State.originDone_quiet hr _
  · exact State.originDone_quiet hr _
  · refine State.cpPost_quiet ?_ _ _ _ _
    exact hr

/-- A launch is admitted in its own context. -/
theorem State.admitLaunch_quiet (h : s.quiet c u) (a : W64) (bs : List Byte) (o : Origin) : s.quiet c (u.admitLaunch c a bs o) := by
  unfold State.admitLaunch
  split
  · refine State.quiet_foldl _ _ ?_ ?_
    · intro v hv i _
      exact Quiet.putTeam hv _ ⟨rfl, rfl, rfl⟩
    · exact h
  · exact State.refuseLaunch_quiet h _ _ _ _

theorem State.addTail_quiet (h : s.quiet c u) (l : Nat) (a : W64) (bs : List Byte) : s.quiet c (u.addTail l a bs) := by
  unfold State.addTail
  dsimp only
  split
  · exact h
  · exact State.refuseLaunch_quiet h _ _ _ _

theorem State.nodesTouch_quiet (h : s.quiet c u) (x : Nat) (va : W64) (n : Nat) : s.quiet c (u.nodesTouch x va n) := by
  unfold State.nodesTouch
  dsimp only
  split
  · exact State.quiet_foldl _ _ (fun _ hv _ _ => State.cpTouch_quiet hv _ _ _) (State.cpTouch_quiet h _ _ _)
  · exact State.cpTouch_quiet h _ _ _
  · exact State.cpTouch_quiet h _ _ _

theorem State.graphTry_refuse_quiet (h : s.quiet c u) (g : Nat) (v : GraphRun) : s.quiet c (State.graphTry.refuse u g v) := by
  have hr := State.refusalSignal_quiet (State.appendLog_quiet h v.ctx (LogRec.plain 0x0023 3 v.header 0)) v.ctx v.signal v.header
  unfold State.graphTry.refuse
  dsimp only
  split
  · split <;> exact hr
  · split <;> exact hr
  · exact State.cpPost_quiet (u := State.modGraph _ _ _) hr _ _ _ _

theorem foldl_cpReads_quiet (h : s.quiet c u) (x : Nat) (l : List (List Byte × Node)) :
    s.quiet c (l.foldl (fun u r => u.cpReads x (nodeSucc r.1) (2 * (nodeNa r.1 + nodeNb r.1))) u) :=
  State.quiet_foldl _ _ (fun _ hv _ _ => State.cpReads_quiet hv _ _ _) h

theorem State.graphTry_quiet (h : s.quiet c u) (g : Nat) : s.quiet c (u.graphTry g) := by
  unfold State.graphTry
  split
  · exact h
  · split
    · exact h
    · split
      · exact State.cpPost_quiet (State.nodesTouch_quiet h _ _ _) _ _ _ _
      · exact State.graphTry_refuse_quiet (State.nodesTouch_quiet h _ _ _) _ _
      · dsimp only
        split
        · refine State.graphCheck_quiet ?_ _
          exact foldl_cpReads_quiet (State.cpReads_quiet h _ _ _) _ _
        · exact State.graphTry_refuse_quiet (foldl_cpReads_quiet (State.cpReads_quiet h _ _ _) _ _) _ _

theorem State.graphStart_quiet (h : s.quiet c u) (x : Nat) (a : W64) (bs : List Byte) (o : Origin) : s.quiet c (u.graphStart x a bs o) := by
  unfold State.graphStart
  dsimp only
  split
  · refine State.graphTry_quiet ?_ _
    exact h
  · refine State.graphTry_refuse_quiet ?_ _ _
    exact h

end

section
variable {c : Nat} {s u : State}

/-! ### Ranges -/

theorem State.unpinRow_quiet (h : s.quiet c u) (d : Nat) (ls : List Nat) : s.quiet c (u.unpinRow d ls) := by
  refine State.quiet_foldl _ _ (fun v hv l _ => ?_) h
  split
  · split
    · refine State.writeBack_quiet ?_ _ _
      exact hv
    · exact hv
  · exact hv

theorem State.freeLine_quiet (h : s.quiet c u) (l : Nat) : s.quiet c (u.freeLine l) := by
  unfold State.freeLine
  split
  · exact State.unpinRow_quiet h _ _
  · exact h

theorem State.wbLine_quiet (h : s.quiet c u) (l : Nat) : s.quiet c (u.wbLine l) := State.writeBack_quiet (State.freeLine_quiet h _) _ _

theorem State.dropNc_quiet (h : s.quiet c u) (l : Nat) : s.quiet c (u.dropNc l) :=
  Quiet.mapSlices h (fun _ v => { v with nc := FMap.erase v.nc l }) fun _ _ => rfl

theorem State.invLine_quiet (h : s.quiet c u) (r : RangeLine) (l : Nat) : s.quiet c (u.invLine r l) := by
  unfold State.invLine
  refine State.invalidate_quiet ?_ _ _
  split
  · exact State.writeBack_quiet (State.freeLine_quiet (State.dropNc_quiet h _) _) _ _
  · exact State.dropNc_quiet h _

theorem State.zeroLine_quiet (h : s.quiet c u) (l : Nat) : s.quiet c (u.zeroLine l) := by
  unfold State.zeroLine
  dsimp only
  split
  · exact h
  · refine State.repack_quiet ?_ _
    exact h

theorem State.maintain_quiet (h : s.quiet c u) (x : Nat) (o : RangeOp) (base len : W64) : s.quiet c (u.maintain x o base len) := by
  unfold State.maintain
  dsimp only
  generalize hv : (if o == .wb || o == .inv then u.touch x ((u.rangePages x base len).map fun e => BitVec.ofNat 64 e.1.1) else u) = v
  have h1 : s.quiet c v := by
    rw [← hv]
    split
    · exact State.touch_quiet h _ _
    · exact h
  have hzero : ∀ w : State, s.quiet c w → ∀ (r : RangeLine) (a : Nat), s.quiet c (if r.whole then
      (if (w.lineWords (lineOf a)).all (fun w => w == 0) then w.zeroLine (lineOf a) else w) else if o == .disc then w.wbLine (lineOf a) else w) := by
    intro w hw r a
    split
    · split
      · exact State.zeroLine_quiet hw _
      · exact hw
    · split
      · exact State.wbLine_quiet hw _
      · exact hw
  have hlines : ∀ l : List RangeLine, s.quiet c (l.foldl (fun t r => (t.copies r.leaf.rep r.npa).foldl (fun u a =>
      if r.whole then (if (u.lineWords (lineOf a)).all (fun w => w == 0) then u.zeroLine (lineOf a) else u)
      else if o == .disc then u.wbLine (lineOf a) else u) t) v) := fun l =>
    State.quiet_foldl _ _ (fun w hw r _ => State.quiet_foldl _ _ (fun w' hw' a _ => hzero w' hw' r a) hw) h1
  split
  · exact State.quiet_foldl _ _ (fun w hw r _ => State.quiet_foldl _ _ (fun w' hw' a _ => State.wbLine_quiet hw' _) hw) h1
  · exact State.quiet_foldl _ _ (fun w hw r _ => State.quiet_foldl _ _ (fun w' hw' a _ => State.invLine_quiet hw' _ _) hw) h1
  · exact hlines _
  · exact hlines _
  · exact h1
  · exact h1

theorem State.pinBlock_quiet (h : s.quiet c u) (b : Nat) : s.quiet c (u.pinBlock b) := by
  unfold State.pinBlock
  split <;> exact h

theorem State.unpinBlock_quiet (h : s.quiet c u) (b : Nat) : s.quiet c (u.unpinBlock b) := by
  unfold State.unpinBlock
  dsimp only
  split
  · refine State.repack_quiet ?_ _
    exact h
  · exact h

theorem State.pinRange_quiet (h : s.quiet c u) (x : Nat) (o : RangeOp) (base len : W64) : s.quiet c (u.pinRange x o base len) := by
  unfold State.pinRange
  split
  · exact State.quiet_foldl _ _ (fun _ hv _ _ => State.pinBlock_quiet hv _) h
  · exact State.quiet_foldl _ _ (fun _ hv _ _ => State.unpinBlock_quiet hv _) h
  · exact h
  · exact h
  · exact h
  · exact h

/-! ### The commit -/

theorem State.charge_quiet (h : s.quiet c u) {x : Nat} {chg : List (Nat × Nat)} {pins : List Nat} {marks : List Mark} {v : State}
    (hv : u.charge x chg pins marks = .ok v) : s.quiet c v := by
  have h1 : s.quiet c (u.growOwnerless chg) := State.growAlways_quiet h _
  unfold State.charge at hv
  dsimp only at hv
  split at hv
  · cases hv; exact h1
  · split at hv
    · cases hv
    · split at hv
      · cases hv
      · cases hv
        exact State.quiet_foldl _ _ (fun _ hw _ _ => State.attach_quiet (State.draw_quiet hw _ _) _ _) h1

theorem State.poisonRecords_quiet (h : s.quiet c u) (t k x : Nat) (tr : Trial) : s.quiet c (u.poisonRecords t k x tr) := by
  refine State.quiet_foldl _ _ (fun v hv l _ => ?_) h
  dsimp only
  split
  · exact hv
  · split
    · exact State.appendLog_quiet hv _ _
    · split
      · exact State.appendLog_quiet hv _ _
      · exact hv

theorem State.makeTrial_quiet (h : s.quiet c u) (t k x : Nat) (tr : Trial) (b : Bool) : s.quiet c (u.makeTrial t k x tr b) := by
  have h1 := State.poisonRecords_quiet (State.applyBytes_quiet h tr.ws) t k x tr
  unfold State.makeTrial
  refine foldl_setLine_quiet ?_ _ _
  split
  · exact State.invalidate_quiet h1 _ _
  · exact h1

theorem State.writeCsr_quiet (h : s.quiet c u) (x n : Nat) (w : W64) : s.quiet c (u.writeCsr x n w) := by
  refine Quiet.modCtx h _ _ fun y => ?_
  split
  · rfl
  · split
    · rfl
    · split <;> rfl

theorem State.chanEffect_quiet (h : s.quiet c u) (t k x : Nat) (pc : W64) (o n : Nat) (op : ChanOp) : s.quiet c (u.chanEffect t k x pc o n op) := by
  unfold State.chanEffect
  split
  · exact State.appendLog_quiet h _ _
  · dsimp only
    split
    · exact State.appendLog_quiet h _ _
    · refine State.invalidate_quiet ?_ _ _
      exact Quiet.modTeam h _ _ fun _ => ⟨rfl, rfl, rfl, rfl, rfl, rfl, rfl⟩

theorem Team.putBytes_stands (a : Nat) (bs : List Byte) (v : Team) : v.stands (v.putBytes a bs) := by
  induction bs generalizing a v with
  | nil => exact v.stands_refl
  | cons b bs ih => exact Team.stands_trans (u := v) (v := { v with tmem := FMap.set 0 v.tmem a b }) ⟨rfl, rfl, rfl, rfl, rfl, rfl, rfl⟩ (ih _ _)

theorem State.gateEffect_quiet (h : s.quiet c u) (t k x : Nat) (pc : W64) (off : Nat) (op : GateOp) : s.quiet c (u.gateEffect t k x pc off op) := by
  have h1 : s.quiet c ((u.modTeam t fun x => x.setGate off (((u.team t).gate off).update op).1).invalidate [.team t (off / 128)] (some (sliceKey t k))) := by
    refine State.invalidate_quiet ?_ _ _
    exact Quiet.modTeam h _ _ fun v => Team.putBytes_stands _ _ v
  unfold State.gateEffect
  dsimp only
  split
  · exact State.appendLog_quiet h1 _ _
  · exact h1

theorem foldl_redtLane_stands (o : AtomOp) (wide : Bool) (m : BitVec 16) (ls : List RedLane) (v w : Team × Flags) (h : Team.stands v.1 w.1) :
    Team.stands v.1 (ls.foldl (redtLane o wide m) w).1 := by
  induction ls generalizing w with
  | nil => exact h
  | cons l ls ih => exact ih _ (Team.stands_trans h (Team.putBytes_stands _ _ _))

theorem foldl_tmem_stands (bs : List (Nat × Byte)) (v : Team) : v.stands (bs.foldl (fun y b => { y with tmem := FMap.set 0 y.tmem b.1 b.2 }) v) := by
  induction bs generalizing v with
  | nil => exact v.stands_refl
  | cons b bs ih => exact Team.stands_trans (u := v) (v := { v with tmem := FMap.set 0 v.tmem b.1 b.2 }) ⟨rfl, rfl, rfl, rfl, rfl, rfl, rfl⟩ (ih _)

theorem State.forkEngine_quiet (h : s.quiet c u) (t k n : Nat) (o : EngOp) : s.quiet c (u.forkEngine t k n o) := by
  refine State.invalidate_quiet ?_ _ _
  exact Quiet.modTeam h _ _ fun _ => ⟨rfl, rfl, rfl, rfl, rfl, rfl, rfl⟩

/-- One held effect, other than the release of a matrix command. -/
theorem heldEffect_quiet {t k : Nat} {a : State × Flags} (h : s.quiet c a.1) (it : HeldItem) (hm : it.isMatrix = false) :
    s.quiet c (State.heldEffect t k c a it).1 := by
  unfold State.heldEffect
  dsimp only
  split
  · exact h
  · exact h
  · refine State.invalidate_quiet ?_ _ _
    exact Quiet.modTeam h _ _ fun v => foldl_tmem_stands _ v
  · refine State.invalidate_quiet ?_ _ _
    refine Quiet.modTeamAt h _ _ fun v hv => ?_
    have ht : a.1.team t = v := FMap.get_of_find? hv
    rw [ht]
    exact foldl_redtLane_stands _ _ _ _ (v, 0) (v, 0) v.stands_refl
  · exact State.gateEffect_quiet h _ _ _ _ _ _
  · exact State.chanEffect_quiet h _ _ _ _ _ _ _
  · exact State.pinRange_quiet h _ _ _ _
  · next he => rw [HeldItem.isMatrix, he] at hm; cases hm
  · exact State.forkEngine_quiet h _ _ _ _
  · exact State.admitLaunch_quiet h _ _ _
  · exact State.addTail_quiet h _ _ _
  · exact State.graphStart_quiet h _ _ _ _
  · exact State.notifyAll_quiet h
  · exact State.writeCsr_quiet h _ _ _

theorem State.stepSix_quiet (h : s.quiet c u) (t k x : Nat) (post : List HeldItem) : s.quiet c (u.stepSix t k x post) := by
  unfold State.stepSix
  refine State.quiet_foldl _ _ (fun v hv it _ => ?_) ?_
  · split
    · exact State.maintain_quiet hv _ _ _ _
    · exact hv
  · split
    · exact h
    · exact State.makeTrial_quiet (State.growAlways_quiet h _) _ _ _ _ _

end

section
variable {s : State} {t k : Nat} {held : List HeldItem}

/-- The state at the commit point before the held effects other than bytes of global memory. -/
theorem State.charged_quiet {x chg pins marks} {v : State} (hv : s.charge x chg pins marks = .ok v) (c : Nat) (ls : List Nat) (tr tr' : Trial) :
    s.quiet c (((ls.foldl State.setD v).makeTrial t k x tr true).makeTrial t k x tr' true) := by
  refine State.makeTrial_quiet (State.makeTrial_quiet ?_ _ _ _ _ _) _ _ _ _ _
  exact State.quiet_foldl _ _ (fun _ hw _ _ => State.setD_quiet hw _) (State.charge_quiet (State.quiet_refl c s) hv)

/-- A commit point that is reached: the held effects other than bytes of global memory, one after another, on what the charge and the bytes leave. -/
theorem State.perform_ok {r : State × Flags} (h : s.perform t k held = .ok r) :
    ∃ w fl, s.quiet (s.team t).ctx w ∧ r = held.foldl (State.heldEffect t k (s.team t).ctx) (w, fl) := by
  unfold State.perform at h
  dsimp only at h
  split at h
  · cases h
  · next v hv =>
    cases h
    exact ⟨_, _, State.charged_quiet hv .., rfl⟩

theorem State.perform_quiet {r : State × Flags} (h : s.perform t k held = .ok r) (hm : ∀ it ∈ held, it.isMatrix = false) : s.quiet (s.team t).ctx r.1 := by
  obtain ⟨w, fl, hw, rfl⟩ := State.perform_ok h
  clear h
  induction held generalizing w fl with
  | nil => exact hw
  | cons it l ih =>
    have h1 := heldEffect_quiet (t := t) (k := k) (a := (w, fl)) hw it (hm it (List.mem_cons_self ..))
    exact ih (fun x hx => hm x (List.mem_cons_of_mem _ hx)) _ _ h1

end

section
variable {c : Nat} {s u : State} {t k : Nat}

/-! ### What a commit keeps, read off -/

theorem Quiet.sliceCore (h : s.quiet c u) (t k : Nat) : (u.slice t k).core = (s.slice t k).core := by
  have hk := h.slices (sliceKey t k)
  rw [State.slice, State.slice, FMap.get_eq_find?, FMap.get_eq_find?]
  cases hu : FMap.find? u.slices (sliceKey t k) with
  | none =>
    rw [hu] at hk
    rw [Option.map_eq_none_iff.mp hk.symm]
  | some v =>
    rw [hu] at hk
    obtain ⟨w, hw, he⟩ := Option.map_eq_some_iff.mp hk.symm
    rw [hw]; exact he.symm

theorem Quiet.handlers (h : s.quiet c u) (key : Nat) : (FMap.find? u.slices key).map Slice.handler = (FMap.find? s.slices key).map Slice.handler := by
  have := congrArg (Option.map Slice.handler) (h.slices key)
  rw [Option.map_map, Option.map_map] at this
  exact this

theorem Quiet.team_ctx (h : s.quiet c u) (hc : (s.team t).ctx = c) : (u.team t).ctx = c := by
  unfold State.team
  rw [FMap.get_eq_find?]
  cases hu : FMap.find? u.teams t with
  | none =>
    cases hs : FMap.find? s.teams t with
    | none => rw [State.team, FMap.get_eq_find?, hs] at hc; exact hc
    | some v => have := h.keeps t (by rw [hs]; rfl); rw [hu] at this; cases this
  | some w =>
    rcases h.teams t w hu with ⟨h1, -⟩ | ⟨v, hv, h1, -⟩
    · exact h1
    · rw [State.team, FMap.get_of_find? hv] at hc; exact h1.trans hc

/-- A team whose queue has more commands than it holds has released none in the meantime. -/
theorem Quiet.released (h : s.quiet c u) (hq : 0 < (u.team t).queue.length) : (u.team t).released = (s.team t).released := by
  cases hu : FMap.find? u.teams t with
  | none => rw [State.team, FMap.get_eq_find?, hu] at hq; exact absurd hq (by simp [Team.blank])
  | some w =>
    have ht : u.team t = w := FMap.get_of_find? hu
    rcases h.teams t w hu with ⟨-, -, h3⟩ | ⟨v, hv, -, -, h3, -⟩
    · rw [ht, h3] at hq; exact absurd hq (by simp)
    · rw [ht, h3, show s.team t = v from FMap.get_of_find? hv]

theorem Quiet.ctxCore (h : s.quiet c u) (x : Nat) : (u.ctx x).core = (s.ctx x).core := by
  have hx := h.ctxs x
  unfold State.ctx
  rw [FMap.get_eq_find?, FMap.get_eq_find?]
  cases hu : FMap.find? u.ctxs x with
  | none =>
    rw [hu] at hx
    rw [Option.map_eq_none_iff.mp hx.symm]
  | some v =>
    rw [hu] at hx
    obtain ⟨w, hw, he⟩ := Option.map_eq_some_iff.mp hx.symm
    rw [hw]; exact he.symm

theorem Quiet.haltedSince (h : s.quiet (s.team t).ctx u) : s.haltedSince u t = false := by
  have hc : (u.ctx (s.team t).ctx).core.halted = (s.ctx (s.team t).ctx).core.halted := by rw [h.ctxCore]
  have : (u.ctx (s.team t).ctx).halted = (s.ctx (s.team t).ctx).halted := hc
  unfold State.haltedSince
  rw [h.team_ctx rfl, this]
  simp

/-! ### A commit that goes through -/

/-- A slice whose open chunk has committed in a state whose context's registers are `x`, with the flags `fl` of its reductions. -/
def Slice.committedWith (x : Ctx) (fl : Flags) (post : List HeldItem) (v : Slice) : Slice :=
  let regs := (v.regs.raise fl).complete
  { v.countCommit with regs := regs, chunk := Chunk.begin x regs, hit := false, post := post, nc := [] }

theorem State.commitChunk_ok {now : Bool} {w : State} (h : s.commitChunk t k now = .ok w) (hm : ∀ it ∈ (s.slice t k).chunk.held, it.isMatrix = false) :
    ∃ v fl, s.quiet (s.team t).ctx v ∧
      w = v.modSlice t k (Slice.committedWith (v.ctx (s.team t).ctx) fl (if now then [] else (s.slice t k).chunk.held.filter HeldItem.late)) := by
  unfold State.commitChunk at h
  dsimp only at h
  split at h
  · cases h
  · next r hr =>
    cases h
    have hq := State.perform_quiet hr hm
    refine ⟨_, r.2, ?_, rfl⟩
    split
    · exact State.stepSix_quiet hq _ _ _ _
    · exact hq

theorem State.modSlice_self {f : Slice → Slice} (h : ∀ v, FMap.find? s.slices (sliceKey t k) = some v → f v = v) : s.modSlice t k f = s := by
  have hid : FMap.modify s.slices (sliceKey t k) id = s.slices := by
    induction s.slices with
    | nil => rfl
    | cons e l ih =>
      unfold FMap.modify
      split
      · rfl
      · rw [ih]
  unfold State.modSlice
  rw [FMap.modify_congr (g := id) h, hid]

end

section
variable {s base v w : State} {t k : Nat} {i : Instr} {X : Slice}

/-- A slice in which a closer that is its chunk's only instruction has completed. -/
def Slice.closedOff (c : Ctx) (X : Slice) : Slice :=
  { X.committed c with regs := { X.regs with wins := [] }, chunk := Chunk.begin c { X.regs with wins := [] }, park := none, mark := none }

theorem Slice.closedOff_withRegs {c : Ctx} {Y : Slice} {r : Regs} (h : Y.chunk.instrs = 0) : ({ Y with regs := r } : Slice).closedOff c = Y.closed c r := by
  unfold Slice.closed Slice.closedOff
  rw [if_pos h]
  rfl

/-- The end of a closer in a slice that holds nothing and has no flag to deliver. -/
theorem finishSlice_closer (hla : lookaheadOf i = 0) (hw : (s.slice t k).regs.wins = []) (ht : Became base v t k X) (hheld : X.chunk.held = [])
    (hfx : X.regs.fpx &&& ~~~ X.regs.delivered = 0) :
    Became base (s.finishSlice i t v (k, .closer)) t k (X.closedOff (base.ctx (base.team t).ctx)) := by
  have hset : s.settleRegs i t k X = { X.regs with wins := [] } := by
    rw [State.settleRegs_of_wins hw]; simp [Regs.nextWins, hla]
  let f : Slice → Slice := fun v => let w := s.settled i t k v; { w with regs := w.regs.complete }
  have hfX : f X = { X with regs := { X.regs with wins := [] }, park := none, mark := none, chunk := { X.chunk with instrs := X.chunk.instrs + 1 } } := by
    show ({ s.settled i t k X with regs := (s.settled i t k X).regs.complete } : Slice) = _
    simp only [State.settled, hset]
    rfl
  have h1 := ht.modSlice f
  rw [hfX] at h1
  have h2 := h1.closeOwn (pc := (s.slice t k).regs.pc) (resume := (v.slice t k).regs.pc) hheld hfx
  refine Became.congr (X := _) h2 ?_
  unfold Slice.closedOff Slice.committed Slice.countCommit Slice.relevel
  dsimp only
  rw [Regs.complete_of_wins (r := { X.regs with wins := [] }) rfl]
  rfl

/-- An instruction whose slices held no matrix command and no effect with a step 6, and which has released no matrix command, has nothing to wait for. -/
theorem State.orLater_committed {s u : State} (hm : ∀ it ∈ (s.slice t k).heldAll, it.isMatrix = false)
    (hl : ∀ it ∈ (s.slice t k).chunk.held, it.late = false) (hr : 0 < (u.team t).queue.length → (u.team t).released = (s.team t).released) :
    s.orLater u t [k] = u := by
  have h1 : s.overfills u t [k] = false := by
    unfold State.overfills
    by_cases hq : 0 < (u.team t).queue.length
    · have hany : (s.slice t k).heldAll.any HeldItem.isMatrix = false := List.any_eq_false.mpr fun it hit => by rw [hm it hit]; simp
      simp [hany, hr hq]
    · simp; omega
  have h2 : [k].filter (s.commitsLate u t) = [] := by
    have hany : (s.slice t k).chunk.held.any HeldItem.late = false := List.any_eq_false.mpr fun it hit => by rw [hl it hit]; simp
    simp [State.commitsLate, hany]
  unfold State.orLater
  simp [h1, h2]

end

/-- FENCEIO's commit of a chunk that holds effects, before it completes. -/
theorem fenceio_commits {s w : State} {t k : Nat} (ha : s.acts t [k]) (hl : s.lets t [k] .fenceio) (hhit : (s.slice t k).hit = false)
    (hprev : (s.slice t k).prev = none) (hprevHit : (s.slice t k).prevHit = false) (hpost : (s.slice t k).post = []) (hrun : (s.slice t k).status = .run)
    (hinstrs : (s.slice t k).chunk.instrs ≠ 0) (hheld : ∀ it ∈ (s.slice t k).chunk.held, it.late = false ∧ it.isMatrix = false)
    (hw : s.commitChunk t k true = .ok w) (hfx : (w.slice t k).regs.fpx &&& ~~~ (w.slice t k).regs.delivered = 0) :
    ∃ u, exec .fenceio s = .next u ∧ Leaves w u t k ((w.slice t k).closed (w.ctx (w.team t).ctx) (w.slice t k).regs.adv) ∧ u.gangs = s.gangs := by
  have hwins := (hl k (List.mem_singleton_self k)).2
  have hex := (ha.2.2 k (List.mem_singleton_self k)).2
  have hm : ∀ it ∈ (s.slice t k).chunk.held, it.isMatrix = false := fun it hit => (hheld it hit).2
  obtain ⟨v, fl, hq, rfl⟩ := State.commitChunk_ok hw hm
  have hexv : (FMap.find? v.slices (sliceKey t k)).isSome = true := by
    have := hq.slices (sliceKey t k)
    rw [← Option.isSome_map (f := Slice.core), this, Option.isSome_map]; exact hex
  generalize hF : Slice.committedWith (v.ctx (s.team t).ctx) fl (if true = true then [] else (s.slice t k).chunk.held.filter HeldItem.late) = F at *
  have hcore := hq.sliceCore t k
  have hvs : (v.slice t k).regs = (s.slice t k).regs ∧ (v.slice t k).status = (s.slice t k).status ∧ (v.slice t k).handler = (s.slice t k).handler := by
    have h1 : (v.slice t k).core.regs = (s.slice t k).core.regs := by rw [hcore]
    have h2 : (v.slice t k).core.status = (s.slice t k).core.status := by rw [hcore]
    have h3 : (v.slice t k).core.handler = (s.slice t k).core.handler := by rw [hcore]
    exact ⟨h1, h2, h3⟩
  have hslice : (v.modSlice t k F).slice t k = F (v.slice t k) := State.slice_modSlice_self F hexv
  have hFw : (F (v.slice t k)).regs.wins = [] := by
    rw [← hF]
    show (Regs.complete _).wins = []
    rw [Regs.complete_of_wins (Regs.raise_wins_nil (by rw [hvs.1]; exact hwins))]
    exact Regs.raise_wins_nil (by rw [hvs.1]; exact hwins)
  -- the commit before the closer
  have htrue : s.trueRegs s t k = s := State.modSlice_self fun x hx => by
    rw [show s.slice t k = x from FMap.get_of_find? hx]
  have hcomplete : (v.modSlice t k F).modSlice t k (fun sl => { sl with regs := sl.regs.complete }) = v.modSlice t k F := State.modSlice_self fun x hx => by
    have : x = F (v.slice t k) := by rw [← hslice]; exact (FMap.get_of_find? hx).symm
    rw [this, Regs.complete_of_wins hFw]
  have hpre : s.preIn s t k = .ok (v.modSlice t k F) := by
    unfold State.preIn State.preCommit
    rw [htrue]
    simp only [hprevHit, Bool.false_eq_true, if_false, State.settlePrev_of_idle hprev hpost, hhit, hinstrs, hw, hcomplete]
  have hb := (Became.refl (s := v.modSlice t k F) (t := t) (k := k) (by rw [State.modSlice, FMap.isSome_modify]; exact hexv)).modSlice
    fun sl => { sl with regs := sl.regs.adv }
  rw [hslice] at hb hfx
  have hFheld : (F (v.slice t k)).chunk.held = [] := by rw [← hF]; rfl
  have hfin := finishSlice_closer (s := s) (i := .fenceio) rfl hwins hb hFheld hfx
  have hgo : s.haltedSince ((v.modSlice t k F).modSlice t k fun sl => { sl with regs := sl.regs.adv }) t = false := hq.haltedSince
  generalize hv2 : s.finishSlice .fenceio t ((v.modSlice t k F).modSlice t k fun sl => { sl with regs := sl.regs.adv }) (k, .closer) = v2 at hfin
  have hteam : v2.team t = v.team t := by rw [hfin.rest]; rfl
  have hYr : (({ F (v.slice t k) with regs := (F (v.slice t k)).regs.adv } : Slice).closedOff ((v.modSlice t k F).ctx ((v.modSlice t k F).team t).ctx)) =
      (F (v.slice t k)).closed ((v.modSlice t k F).ctx ((v.modSlice t k F).team t).ctx) (F (v.slice t k)).regs.adv :=
    Slice.closedOff_withRegs (by rw [← hF]; rfl)
  have hu := issue_performed (i := .fenceio) (body := fun st u t ks => eachSlice (fun v t k => match st.preIn v t k with
      | .ok v1 => (v1.modSlice t k fun sl => { sl with regs := sl.regs.adv }, .closer)
      | .left v1 => (v1, .gone)) u t ks) (v1 := (v.modSlice t k F).modSlice t k fun sl => { sl with regs := sl.regs.adv }) (v2 := v2)
    (ds := [(k, .closer)]) ha hl (by simp only [eachSlice_one, hpre])
    (by rw [State.finishAll, List.foldl_cons, List.foldl_nil, hgo, if_neg (by simp), hv2]) (by
      intro t' j hj
      by_cases h : sliceKey t' j = sliceKey t k
      · rw [State.slice, h, show FMap.get _ v2.slices _ = _ from hfin.slice, hYr, Slice.closed_handler, ← hF] at hj
        rw [State.slice, h, show FMap.get _ s.slices (sliceKey t k) = s.slice t k from rfl, ← hvs.2.2]
        exact hj
      · have h1 := hfin.others _ h
        have h2 : FMap.find? (v.modSlice t k F).slices (sliceKey t' j) = FMap.find? v.slices (sliceKey t' j) := FMap.find?_modify_ne _ h
        have h3 : (v.slice t' j).core.handler = (s.slice t' j).core.handler := by rw [hq.sliceCore]
        rw [State.slice, FMap.get_eq_find?, h1, h2, ← FMap.get_eq_find?] at hj
        exact h3 ▸ hj)
    (State.orLater_committed (by simpa [Slice.heldAll, hpost, hprev] using hm) (fun it hit => (hheld it hit).1) fun hpos => by
      have : ((v2.regroup t [k] []).team t) = v.team t := hteam
      rw [this] at hpos ⊢
      exact hq.released hpos)
  rw [State.regroup_alike (s := v2) (by simp) (fun j hj => by
    rw [List.mem_singleton.mp hj, hfin.slice, hYr, Slice.closed_status (by rw [← hF]; exact hvs.2.1.trans hrun)]; simp)
    fun i hi j hj => by rw [List.mem_singleton.mp hi, List.mem_singleton.mp hj]] at hu
  refine ⟨v2, hu, ?_, ?_⟩
  · have hleaves := hfin.withGangs v2.gangs
    rw [hYr] at hleaves
    rw [hslice]
    exact hleaves
  · rw [hfin.gangs]; exact hq.gangs

/-- A change of a context that keeps what a function reads of every context keeps it in each. -/
theorem State.modCtx_keeps {α : Type} (P : Ctx → α) {f : Ctx → Ctx} (hf : ∀ v, P (f v) = P v) (s : State) (x y : Nat) :
    P ((s.modCtx x f).ctx y) = P (s.ctx y) := by
  have hfind : FMap.find? (s.modCtx x f).ctxs y = _ := FMap.find?_modify ..
  unfold State.ctx
  rw [FMap.get_eq_find?, FMap.get_eq_find?, hfind]
  split
  · cases FMap.find? s.ctxs y with
    | none => rfl
    | some v => exact hf v
  · rfl

/-- `issueCloser` in one calm slice, of a closer that changes its context, but for what a chunk begins with. -/
theorem issueCloser_alike {s base : State} {t k : Nat} {i : Instr} {f : State → Nat → Nat → State × Did} {g : Regs → Regs} (hc : s.calm t k i)
    (hla : lookaheadOf i = 0)
    (hf : ∀ v, Became s v t k ((s.slice t k).preClosed (s.ctx (s.team t).ctx)) →
      ∃ w, f v t k = (w, .closer) ∧ Became base w t k ((v.slice t k).withRegs (g (v.slice t k).regs)))
    (hcom : ∀ v : Slice, v.committed (base.ctx (base.team t).ctx) = v.committed (s.ctx (s.team t).ctx))
    (hhalt : (base.ctx (base.team t).ctx).halted = (s.ctx (s.team t).ctx).halted)
    (hfx : (g (s.slice t k).regs).fpx &&& ~~~ (g (s.slice t k).regs).delivered = 0)
    (hh : ∀ key, (FMap.find? base.slices key).map Slice.handler = (FMap.find? s.slices key).map Slice.handler)
    (hrel : (base.team t).released = (s.team t).released) :
    ∃ u, issueCloser i f s = .next u ∧ Leaves base u t k ((s.slice t k).closed (base.ctx (base.team t).ctx) (g (s.slice t k).regs)) ∧ u.gangs = base.gangs := by
  obtain ⟨v, hv, hb⟩ := preIn_calm' hc
  obtain ⟨w, hw, hb2⟩ := hf v hb
  have hr : (v.slice t k).regs = (s.slice t k).regs := by
    rw [hb.slice]; exact Slice.preClosed_regs _ (hc.2.1 k (List.mem_singleton_self k)).2
  have hX : (v.slice t k).withRegs (g (v.slice t k).regs) =
      ((s.slice t k).preClosed (base.ctx (base.team t).ctx)).withRegs (g (s.slice t k).regs) := by
    rw [hr, hb.slice, Slice.preClosed, Slice.preClosed, hcom]
  rw [hX] at hb2
  exact issue_closer (X := ((s.slice t k).preClosed (base.ctx (base.team t).ctx)).withRegs (g (s.slice t k).regs))
    (body := fun st u t ks => eachSlice (fun v t k => match st.preIn v t k with
      | .ok v1 => f v1 t k
      | .left v1 => (v1, .gone)) u t ks) hc hla (by simp only [eachSlice_one, hv, hw]) hb2 rfl hfx hh hrel hhalt

/-- Settles O30. -/
theorem closerResults : Obligations.CloserResults := by
  intro s t k a b
  refine ⟨fun hc => ?_, fun w ha hl hhit hprev hprevHit hpost hrun _ _ _ hinstrs hheld hw hfx => ?_, fun hdone hc => ?_, fun hpend hfl hc => ?_, ?_, ?_⟩
  · exact issueCloser_calm (g := Regs.adv) hc rfl (fun v hb => ⟨_, rfl, (hb.modSlice _).congr (by rw [hb.slice]; rfl)⟩) rfl hc.2.2.2.1 (fun _ => rfl) rfl
  · exact fenceio_commits ha hl hhit hprev hprevHit hpost hrun hinstrs hheld hw hfx
  · refine issueCloser_calm (g := Regs.adv) hc rfl (fun v hb => ⟨_, ?_, (hb.modSlice fun sl => { sl with regs := sl.regs.adv }).congr (by rw [hb.slice]; rfl)⟩)
      rfl hc.2.2.2.1 (fun _ => rfl) rfl
    have hregs : (v.slice t k).regs = (s.slice t k).regs := by
      rw [hb.slice]; exact Slice.preClosed_regs _ (hc.2.1 k (List.mem_singleton_self k)).2
    have hteam : v.team t = s.team t := by rw [hb.rest]; rfl
    simp only [hregs, hteam, hdone, if_true]
  · refine issueCloser_calm (g := fun r => (r.raise (FMap.get 0 (s.team t).conds k)).adv) hc rfl (fun v hb => ⟨_, ?_,
      ((hb.modTeam t fun x => { x with conds := FMap.set 0 x.conds k 0 }).modSlice fun sl => { sl with regs := (sl.regs.raise (FMap.get 0 (s.team t).conds k)).adv }).congr (by rw [hb.slice]; rfl)⟩)
      ?_ (and_not_or_eq_zero hc.2.2.2.1 hfl) (fun _ => rfl) ?_
    · have hteam : v.team t = s.team t := by rw [hb.rest]; rfl
      simp only [hteam, hpend, Bool.false_eq_true, if_false, State.joinConds]
    · rw [State.modTeam_keeps (·.ctx) (by intro; rfl) s t t]; rfl
    · exact State.modTeam_keeps (·.released) (by intro; rfl) s t t
  · intro hm hc
    refine issueCloser_calm (g := Regs.adv) hc rfl (fun v hb => ⟨_, ?_, (hb.modSlice fun sl => { sl with regs := sl.regs.adv }).congr (by rw [hb.slice]; rfl)⟩)
      rfl hc.2.2.2.1 (fun _ => rfl) rfl
    have hregs : (v.slice t k).regs = (s.slice t k).regs := by
      rw [hb.slice]; exact Slice.preClosed_regs _ (hc.2.1 k (List.mem_singleton_self k)).2
    have hctx : v.ctx (v.team t).ctx = s.ctx (s.team t).ctx := by rw [hb.rest]; rfl
    have hno : ¬ ((s.ctx (s.team t).ctx).mailbox.id ≠ 0 ∧ (s.slice t k).regs.getS a = (s.ctx (s.team t).ctx).mailbox.id) := by tauto
    simp only [hregs, hctx, if_neg hno]
  · intro hid hown hc
    let f : Ctx → Ctx := fun x => { x with mailbox := { (s.ctx (s.team t).ctx).mailbox with
        id := 0, wanted := 0, owed := 0, answered := (s.ctx (s.team t).ctx).mailbox.id, given := ((s.slice t k).regs.getS b).setWidth 32 } }
    refine issueCloser_alike (g := Regs.adv) hc rfl (fun v hb => ⟨_, ?_, (((hb.modCtx (s.team t).ctx f).invalidate [.mailbox (s.team t).ctx]).modSlice
      fun sl => { sl with regs := sl.regs.adv }).congr (by rw [hb.slice]; rfl)⟩) (fun x => ?_) ?_ hc.2.2.2.1 (fun key => State.invalidate_handler ..) (by simp)
    · have hregs : (v.slice t k).regs = (s.slice t k).regs := by
        rw [hb.slice]; exact Slice.preClosed_regs _ (hc.2.1 k (List.mem_singleton_self k)).2
      have hteam : v.team t = s.team t := by rw [hb.rest]; rfl
      have hctx : v.ctx (s.team t).ctx = s.ctx (s.team t).ctx := by rw [hb.rest]; rfl
      simp only [hregs, hteam, hctx, if_pos (And.intro hid hown)]
      rfl
    · simp only [State.invalidate_team, State.invalidate_ctx]
      exact State.modCtx_keeps (fun c => x.committed c) (f := f) (by intro; rfl) s _ _
    · simp only [State.invalidate_team, State.invalidate_ctx]
      exact State.modCtx_keeps (·.halted) (f := f) (by intro; rfl) s _ _

end Sys2Proof.Machine
end

section
/-! SUPPORT. A context fault among other slices' flags -/

namespace Sys2Proof.Machine

open Sys2Proof.Tests

set_option maxRecDepth 100000

/-! ### A context fault may write more than its driver event to the module's outputs (R334, R204) -/

/-- The placed state with a second page, of another module's memory, as the trap area, a handler, and an error log without translation. -/
def farTraps : State :=
  (placed.pokeBytes (placeRoot + 16392) (leBytes 8 (0x1000002605D + 2 ^ 47))).modCtx 0 fun c =>
    { c with tvec := 4, trapbase := 0x10000, logbase := 0x200000000 }

/-- A slice whose CMIT has committed and whose inexact flag, enabled, is still to be delivered. -/
def telling : Slice := { Slice.start Ctx.blank 0 with tell := some 1, regs := { (Slice.start Ctx.blank 0).regs with fpx := 1 } }

/-- Slice 0 is in its handler, slice 1 of its team has a flag to deliver. -/
def handlerAndTeller : State :=
  { (farTraps.modTeam 0 fun t => { t with slices := 2 }) with
    slices := [(sliceKey 0 0, { placed.slice 0 0 with handler := true }), (sliceKey 0 1, telling)] }

/-- A trap's frame. -/
def someFrame : Frame := { cause := 1, sub := 0, pc := 0, cpc := 0, addr := 0, word := 0, info := 0 }

/-- The context fault of slice 0's trap stops slice 1, whose frame goes to the other module first. -/
theorem handlerAndTeller_out : handlerAndTeller.out = [] ∧ (handlerAndTeller.enterHandler 0 0 someFrame).out.length = 2 := by decide

/-- Refutes O44: where another slice of the context, not in its handler, has a committed CMIT's enabled flag to deliver and the trap area lies in
another module's memory, its frame is a transaction that stands before the driver event among the outputs. -/
theorem not_handlerAbsent : ¬ Obligations.HandlerAbsent := by
  unfold Obligations.HandlerAbsent
  intro h
  obtain ⟨hout, hlen⟩ := handlerAndTeller_out
  have hfault := (h handlerAndTeller 0 0 (.inl (by decide)) (by decide)).1 someFrame
  obtain ⟨-, -, hdriver, -⟩ := hfault
  rw [hdriver, hout] at hlen
  exact absurd hlen (by decide)

end Sys2Proof.Machine
end

section
/-! SUPPORT. The events of a slice's chunks -/

namespace Sys2Proof.Machine

/-! ### A slice with no flag to tell, under commits and faults -/

/-- The slice has no CMIT whose flags wait to be delivered. -/
def State.mute (s : State) (t k : Nat) : Prop := (s.slice t k).tell = none

section
variable {c : Nat} {s u : State} {t k : Nat}

theorem State.tellCommit_mute (h : s.mute t k) : s.tellCommit t k = s := by
  have : (s.slice t k).told = none := by
    unfold Slice.told
    split
    · rfl
    · exact h
  unfold State.tellCommit
  rw [this]

theorem State.mute_of_quiet (h : s.mute t k) (hq : s.quiet c u) : u.mute t k := by
  have : (u.slice t k).core.tell = (s.slice t k).core.tell := by rw [hq.sliceCore]
  exact this.trans h

theorem State.mute_modSlice (h : s.mute t k) (t' k' : Nat) (f : Slice → Slice) (hf : ∀ v, v.tell = none → (f v).tell = none) :
    (s.modSlice t' k' f).mute t k := by
  have hfind : FMap.find? (s.modSlice t' k' f).slices (sliceKey t k) = _ := FMap.find?_modify ..
  unfold State.mute State.slice at h ⊢
  rw [FMap.get_eq_find?] at h ⊢
  rw [hfind]
  split
  · cases hs : FMap.find? s.slices (sliceKey t k) with
    | none => rfl
    | some v => rw [hs] at h; exact hf v h
  · exact h

theorem State.mute_foldl {α : Type} (f : State → α → State) (l : List α) (hf : ∀ u x, u.mute t k → (f u x).mute t k) {s : State} (h : s.mute t k) :
    (l.foldl f s).mute t k := by
  induction l generalizing s with
  | nil => exact h
  | cons x l ih => exact ih (hf s x h)

theorem State.mute_finishPost (h : s.mute t k) (t' k' : Nat) : (s.finishPost t' k').mute t k := by
  unfold State.finishPost
  split
  · exact h
  · exact State.mute_modSlice (State.mute_of_quiet h (State.stepSix_quiet (State.quiet_refl 0 s) ..)) _ _ _ fun _ hv => hv

theorem State.mute_recordFlags (h : s.mute t k) (t' k' : Nat) (pc : W64) : (s.recordFlags t' k' pc).1.mute t k := by
  unfold State.recordFlags
  refine State.mute_modSlice ?_ _ _ _ fun _ hv => hv
  exact State.mute_foldl _ _ (fun u i hu => State.mute_of_quiet hu (State.appendLog_quiet (State.quiet_refl 0 u) ..)) h

theorem State.mute_enterFrame (h : s.mute t k) (t' k' : Nat) (f : Frame) : (s.enterFrame t' k' f).mute t k := by
  unfold State.enterFrame
  refine State.mute_modSlice (State.mute_of_quiet (c := 0) h ?_) _ _ _ fun _ hv => hv
  refine Quiet.modCtx ?_ _ _ (by intro; rfl)
  exact State.lossRecord_quiet (State.vaWrite_quiet (State.quiet_refl 0 s) ..) ..

theorem State.mute_completeLast (h : s.mute t k) (t' k' : Nat) : (s.completeLast t' k').mute t k := by
  have h1 := State.mute_finishPost h t' k'
  unfold State.completeLast
  dsimp only
  split
  · exact h1
  · have h2 := fun pc => State.mute_recordFlags (State.mute_modSlice h1 t' k' (fun v => { v with tell := none }) fun _ _ => rfl) t' k' pc
    split
    · exact h2 _
    · exact State.mute_enterFrame (h2 _) _ _ _

theorem State.mute_halt (h : s.mute t k) (t' : Nat) : (s.halt t').mute t k := by
  unfold State.halt
  dsimp only
  have hregroup : ∀ v : State, v.mute t k → ∀ l : List Gang, ∀ o : Gang → List Nat, (l.foldl (fun u g => u.regroup t' g.ks (o g)) v).mute t k :=
    fun v hv l o => by
      refine State.mute_foldl _ _ ?_ hv
      intro _ _ hu
      exact hu
  refine hregroup _ ?_ _ _
  refine State.mute_foldl _ _ (fun u j hu => ?_) (State.mute_foldl _ _ (fun u j hu => State.mute_completeLast hu t' j) h)
  refine State.mute_modSlice hu _ _ _ fun v hv => ?_
  split
  · exact hv
  · split
    · exact hv
    · rfl
  · split
    · exact hv
    · rfl

theorem State.mute_of_slices (h : s.mute t k) (hs : u.slices = s.slices) : u.mute t k := by
  unfold State.mute State.slice
  rw [hs]
  exact h

@[simp] theorem State.writeImage_slices (s : State) (t : Nat) : (s.writeImage t).slices = s.slices := rfl

theorem State.mute_swapOut (h : s.mute t k) (t' : Nat) : (s.swapOut t').mute t k := by
  unfold State.swapOut
  split
  · exact State.mute_of_slices (State.mute_halt h t') (State.writeImage_slices _ t')
  · exact h
  · exact h
  · exact h

theorem State.mute_haltTeam (h : s.mute t k) (t' : Nat) : (s.haltTeam t').mute t k := by
  unfold State.haltTeam
  split
  · split
    · exact State.mute_swapOut h t'
    · exact State.mute_halt h t'
  · exact h
  · exact h
  · exact h

theorem State.mute_contextFault (h : s.mute t k) (x code : Nat) (r : LogRec) : (s.contextFault x code r).mute t k := by
  unfold State.contextFault
  refine State.mute_of_quiet (c := 0) ?_ (State.appendLog_quiet (State.quiet_refl 0 _) x r)
  exact State.mute_foldl _ _ (fun u j hu => State.mute_haltTeam hu j) h

theorem State.mute_enterHandler (h : s.mute t k) (t' k' : Nat) (f : Frame) : (s.enterHandler t' k' f).mute t k := by
  unfold State.enterHandler
  dsimp only
  split
  · exact State.mute_contextFault h _ _ _
  · exact State.mute_enterFrame h _ _ _

theorem State.mute_capacityFault (h : s.mute t k) (t' k' : Nat) (f : CapFail) : (s.capacityFault t' k' f).mute t k := by
  unfold State.capacityFault
  refine State.mute_enterHandler ?_ _ _ _
  refine State.mute_modSlice (State.mute_of_quiet (c := 0) h ?_) _ _ _ fun _ _ => rfl
  refine Quiet.modCtx ?_ _ _ (by intro; rfl)
  exact State.poolFailed_quiet (State.quiet_refl 0 s) ..

theorem heldEffect_mute {a : State × Flags} (h : a.1.mute t k) (t' k' x : Nat) (it : HeldItem) : (State.heldEffect t' k' x a it).1.mute t k := by
  cases hm : it.isMatrix with
  | false => exact State.mute_of_quiet h (heldEffect_quiet (State.quiet_refl x a.1) it hm)
  | true =>
    unfold HeldItem.isMatrix at hm
    split at hm
    · next o ho => simp only [State.heldEffect, ho]; exact h
    · cases hm

theorem State.mute_perform (h : s.mute t k) {t' k' : Nat} {held : List HeldItem} {r : State × Flags} (hr : s.perform t' k' held = .ok r) : r.1.mute t k := by
  obtain ⟨w, fl, hw, rfl⟩ := State.perform_ok hr
  have h1 := State.mute_of_quiet h hw
  clear hr hw
  induction held generalizing w fl with
  | nil => exact h1
  | cons it l ih => exact ih _ _ (heldEffect_mute (a := (w, fl)) h1 _ _ _ it)

theorem State.mute_commitChunk (h : s.mute t k) {t' k' : Nat} {now : Bool} {w : State} (hw : s.commitChunk t' k' now = .ok w) : w.mute t k := by
  unfold State.commitChunk at hw
  dsimp only at hw
  split at hw
  · cases hw
  · next r hr =>
    cases hw
    have h1 := State.mute_perform h hr
    refine State.mute_modSlice ?_ _ _ _ fun _ hv => hv
    split
    · exact State.mute_of_quiet h1 (State.stepSix_quiet (State.quiet_refl 0 r.1) ..)
    · exact h1

theorem State.commitChunk_nil_later (h : (s.slice t k).chunk.held = []) :
    s.commitChunk t k false = .ok (s.modSlice t k (Slice.committed (s.ctx (s.team t).ctx))) := by
  unfold State.commitChunk
  simp only [h, State.perform_nil, List.filter_nil, Bool.false_eq_true, if_false, Regs.raise_zero]
  rfl

theorem State.resident_of_core (h : (s.teamCore t).isSome = true) : s.resident t = true := h

/-- A CHUNK_COMMIT event of a running slice of a resident team with no flag to tell. -/
theorem chunkCommit_gives {v : State} (hcore : (s.teamCore t).isSome = true) (hrun : (s.slice t k).status = .run) (hv : s.commitStep t k = v)
    (hmute : v.mute t k) : s.gives (.chunkCommit t k) v := by
  refine State.gives_of (fun u => u.commitEvent t k) rfl ?_
  unfold State.commitEvent
  rw [State.resident_of_core hcore, hrun, hv]
  exact State.tellCommit_mute hmute

end

section
variable {s : State} {t k c : Nat}

/-- A slice whose chunk `w` has rolled back, no change of level being due. -/
def Slice.rolledTo (v w : Slice) : Slice :=
  { w with regs := w.chunk.ckpt, hit := false, tell := none, park := none, mark := none, rb := v.rb + 1, cm := 0, rollbacks := v.rollbacks + 1,
           chunk := { w.chunk with instrs := 0, held := [], wlines := [], rlines := [], code := [], ended := false } }

theorem Slice.rolledBack_of {v w : Slice} (hw : (if v.prevHit then v.fallBack else v) = w) (hdue : w.due = none) (hrb : w.rb = v.rb) :
    v.rolledBack = v.rolledTo w := by
  have hd : w.rewind.due = none := hdue
  unfold Slice.rolledBack
  dsimp only
  rw [hw, Slice.relevel, hd]
  unfold Slice.rolledTo
  rw [← hrb]
  rfl

/-- A ROLLBACK event of a gang in which one slice has been hit. -/
theorem rollback_gives {g : Gang} {f : Slice → Slice} (hg : s.gangOf t k = some g) (hhit : (g.ks.filter fun i => (s.slice t i).hit || (s.slice t i).prevHit) = [k])
    (hcore : s.teamCore t = some c) (hf : (s.slice t k).rolledBack = f (s.slice t k)) :
    s.gives (.rollback t k) (((s.modSlice t k f).modCore c fun v => { v with rollbacks := v.rollbacks + 1 }).regroup t g.ks [k]) := by
  have hres : s.resident t = true := by rw [State.resident, hcore]; rfl
  have hback : s.rollbackSlice t k = (s.modSlice t k f).modCore c fun v => { v with rollbacks := v.rollbacks + 1 } := by
    unfold State.rollbackSlice
    rw [hcore, State.modSlice_congr hf]
  refine State.gives_of (fun u => u.rollbackEvent t k) rfl ?_
  unfold State.rollbackEvent
  simp only [hg, hhit, hres, List.isEmpty_cons, Bool.not_true, Bool.or_self, Bool.false_eq_true, if_false, List.foldl_cons, List.foldl_nil, hback]

end

/-- Settles O45. -/
theorem chunkEventResults : Obligations.ChunkEventResults := by
  intro s t k
  dsimp only
  have hlevel : ∀ n, (s.slice t k).due = some n → s.gives (.levelChange t k) (s.modSlice t k fun v => { v with level := n, rb := 0, cm := 0 }) := by
    intro n hn
    refine State.gives_of (fun u => u.modSlice t k Slice.relevel) rfl (State.modSlice_congr ?_)
    unfold Slice.relevel
    rw [hn]
    rfl
  refine ⟨fun h0 h4 => hlevel 1 ?_, fun h1 hcm h8 => hlevel 2 ?_, fun h0 h64 => hlevel 0 ?_, fun g c hg hhit hdue hcore => ⟨fun hph => ?_, fun p hph hp => ?_⟩, fun hcore hrun => ⟨fun htell => ⟨fun hpost => ?_, fun p hpost hp hph hroom => ⟨fun r hr => ?_, fun f hf => ?_⟩,
    fun hpost hp hhit hended hroom => ⟨fun w hw => ?_, fun f hf => ?_, fun hheld => ?_⟩⟩, fun en htell hpost hp hended => ?_⟩⟩
  · simp [Slice.due, h0, h4]
  · simp [Slice.due, h1, h8, hcm]
  · unfold Slice.due
    split
    · next h => exact absurd h h0
    · simp [h64]
    · simp [h64]
  · exact rollback_gives (f := fun v => v.rolledTo v) hg hhit hcore (Slice.rolledBack_of (by rw [hph]; rfl) hdue rfl)
  · refine rollback_gives (f := fun v => v.rolledTo { v with chunk := p, prev := none, prevHit := false }) hg hhit hcore (Slice.rolledBack_of ?_ hdue rfl)
    rw [hph, if_pos rfl, Slice.fallBack, hp]
  · have hstep : s.commitStep t k = s.finishPost t k := by
      unfold State.commitStep
      simp [hpost]
    refine chunkCommit_gives hcore hrun (hstep.trans ?_) ?_
    · unfold State.finishPost
      simp [hpost]
    · exact State.mute_modSlice (State.mute_of_quiet (s := s) htell (State.stepSix_quiet (State.quiet_refl 0 s) ..)) _ _ _ fun _ hv => hv
  · refine chunkCommit_gives hcore hrun ?_ ?_
    · unfold State.commitStep State.commitPrev
      simp [hpost, hp, hph, hroom, hr]
    · exact State.mute_modSlice (State.mute_perform (s := s) htell hr) _ _ _ fun _ hv => hv
  · refine chunkCommit_gives hcore hrun ?_ (State.mute_capacityFault (s := s) htell t k f)
    unfold State.commitStep State.commitPrev
    simp [hpost, hp, hph, hroom, hf]
  · refine chunkCommit_gives hcore hrun ?_ (State.mute_commitChunk (s := s) htell hw)
    unfold State.commitStep
    simp [hpost, hp, hhit, hended, hroom, hw]
  · refine chunkCommit_gives hcore hrun ?_ (State.mute_capacityFault (s := s) htell t k f)
    unfold State.commitStep
    simp [hpost, hp, hhit, hended, hroom, hf]
  · refine chunkCommit_gives hcore hrun ?_ (State.mute_modSlice (s := s) htell t k (Slice.committed (s.ctx (s.team t).ctx)) fun _ hv => hv)
    unfold State.commitStep
    simp [hpost, hp, hhit, hended, hroom, State.commitChunk_nil_later hheld]
  · refine State.gives_of (fun u => u.commitEvent t k) rfl ?_
    have hstep : s.commitStep t k = s := by
      unfold State.commitStep
      simp [hpost, hp, hended]
    have htold : (s.slice t k).told = some en := by simp [Slice.told, hpost, hp, hended, htell]
    unfold State.commitEvent State.tellCommit
    simp only [State.resident_of_core hcore, hrun, hstep, htold]
    rfl

end Sys2Proof.Machine
end

section
/-! SUPPORT. The context fault's frame; quanta, requests, the memory system's own events and the service processor's answers -/

namespace Sys2Proof.Machine

/-! ### What a context fault keeps of memory and of the contexts (R334) -/

/-- Memory and contexts that a fault's parts may make of those of `s`: memory keeps its form, contexts their cores. -/
structure Still (s : State) (m : Memory) (cx : FMap Ctx) : Prop where
  form : Memory.wf s.mem = true → Memory.wf m = true
  ctxs : ∀ x, (FMap.find? cx x).map Ctx.core = (FMap.find? s.ctxs x).map Ctx.core

/-- Memory keeps its form and the contexts their cores from `s` to `u`. -/
abbrev State.still (s u : State) : Prop := Still s u.mem u.ctxs

section
variable {c : Nat} {s u v : State}

theorem State.still_refl (s : State) : s.still s := ⟨id, fun _ => rfl⟩

theorem State.still_trans (h : s.still u) (g : u.still v) : s.still v := ⟨fun hs => g.form (h.form hs), fun x => (g.ctxs x).trans (h.ctxs x)⟩

theorem Quiet.still (h : s.quiet c u) : s.still u := ⟨h.form, h.ctxs⟩

theorem State.still_modCtx (h : s.still u) (x : Nat) (f : Ctx → Ctx) (hf : ∀ v, (f v).core = v.core) : s.still (u.modCtx x f) := by
  refine { h with ctxs := fun j => ?_ }
  rw [← h.ctxs j]
  exact (Quiet.modCtx (State.quiet_refl 0 u) x f hf).ctxs j

theorem State.still_foldl {α : Type} (f : State → α → State) (l : List α) (hf : ∀ u x, s.still u → s.still (f u x)) {u : State} (h : s.still u) :
    s.still (l.foldl f u) := by
  induction l generalizing u with
  | nil => exact h
  | cons x l ih => exact ih (hf u x h)

theorem State.ctx_of_still (h : s.still u) (x : Nat) : (u.ctx x).core = (s.ctx x).core := by
  have hx := h.ctxs x
  unfold State.ctx
  rw [FMap.get_eq_find?, FMap.get_eq_find?]
  cases hu : FMap.find? u.ctxs x with
  | none =>
    rw [hu] at hx
    rw [Option.map_eq_none_iff.mp hx.symm]
  | some v =>
    rw [hu] at hx
    obtain ⟨w, hw, he⟩ := Option.map_eq_some_iff.mp hx.symm
    rw [hw]; exact he.symm

theorem State.still_finishPost (h : s.still u) (t k : Nat) : s.still (u.finishPost t k) := by
  unfold State.finishPost
  split
  · exact h
  · exact State.still_trans h (State.stepSix_quiet (State.quiet_refl 0 u) ..).still

theorem State.still_recordFlags (h : s.still u) (t k : Nat) (pc : W64) : s.still (u.recordFlags t k pc).1 := by
  unfold State.recordFlags
  exact State.still_foldl _ _ (fun v i hv => State.still_trans hv (State.appendLog_quiet (State.quiet_refl 0 v) ..).still) h

theorem State.still_enterFrame (h : s.still u) (t k : Nat) (f : Frame) : s.still (u.enterFrame t k f) := by
  have h1 : s.still (((u.vaWrite (u.team t).ctx (u.frameAddr t k) (f.bytes (u.slice t k).regs)).lossRecord (u.team t).ctx (u.frameAddr t k)
      (u.sliceRec t k f.cpc 0 0 0)).modCtx (u.team t).ctx fun v => { v with traps := v.traps + 1 }) := by
    refine State.still_modCtx ?_ _ _ (by intro; rfl)
    exact State.still_trans h (State.lossRecord_quiet (State.vaWrite_quiet (State.quiet_refl 0 u) ..) ..).still
  exact h1

theorem State.still_completeLast (h : s.still u) (t k : Nat) : s.still (u.completeLast t k) := by
  have h1 := State.still_finishPost h t k
  unfold State.completeLast
  dsimp only
  split
  · exact h1
  · have h2 := fun pc => State.still_recordFlags (u := (u.finishPost t k).modSlice t k fun v => { v with tell := none }) h1 t k pc
    split
    · exact h2 _
    · exact State.still_enterFrame (h2 _) _ _ _

theorem State.still_halt (h : s.still u) (t : Nat) : s.still (u.halt t) := by
  have hregroup : ∀ v : State, s.still v → ∀ l : List Gang, ∀ o : Gang → List Nat, s.still (l.foldl (fun u g => u.regroup t g.ks (o g)) v) := by
    intro v hv l o
    refine State.still_foldl _ _ ?_ hv
    intro _ _ hu
    exact hu
  have hmod : ∀ v : State, s.still v → ∀ (l : List Nat) (f : Slice → Slice), s.still (l.foldl (fun u k => u.modSlice t k f) v) := by
    intro v hv l f
    refine State.still_foldl _ _ ?_ hv
    intro _ _ hu
    exact hu
  unfold State.halt
  dsimp only
  refine hregroup _ ?_ _ _
  refine hmod _ ?_ _ _
  exact State.still_foldl _ _ (fun v k hv => State.still_completeLast hv t k) h

theorem State.still_swapOut (h : s.still u) (t : Nat) : s.still (u.swapOut t) := by
  have himage : ∀ v : State, s.still v → s.still (v.writeImage t) := fun _ hv => hv
  unfold State.swapOut
  split
  · exact himage _ (State.still_halt h t)
  · exact h
  · exact h
  · exact h

theorem State.still_haltTeam (h : s.still u) (t : Nat) : s.still (u.haltTeam t) := by
  unfold State.haltTeam
  split
  · split
    · exact State.still_swapOut h t
    · exact State.still_halt h t
  · exact h
  · exact h
  · exact h

/-- A context fault stops and halts its context, whose core is otherwise as it was, and posts its driver event. -/
theorem contextFault_still (s : State) (x code : Nat) (r : LogRec) :
    (s.modCtx x fun v => { v with stopped := true, halted := true }).still (s.contextFault x code r) := by
  have h1 := State.still_foldl (s := s.modCtx x fun v => { v with stopped := true, halted := true })
    (fun u t => u.haltTeam t) ((FMap.keys s.teams).filter fun t => (s.team t).ctx == x) (fun v t hv => State.still_haltTeam hv t) (State.still_refl _)
  exact State.still_trans h1 (State.appendLog_quiet (State.quiet_refl 0 _) x r).still

theorem State.ctx_modCtx_self {x : Nat} (f : Ctx → Ctx) (h : (FMap.find? s.ctxs x).isSome = true) : (s.modCtx x f).ctx x = f (s.ctx x) :=
  FMap.get_modify_eq _ _ h

theorem contextFault_core {x : Nat} (code : Nat) (r : LogRec) (h : (FMap.find? s.ctxs x).isSome = true) :
    ((s.contextFault x code r).ctx x).core = ({ s.ctx x with stopped := true, halted := true } : Ctx).core := by
  rw [State.ctx_of_still (contextFault_still s x code r), State.ctx_modCtx_self _ h]

theorem contextFault_driver (s : State) (x code : Nat) (r : LogRec) : Out.driver x code ∈ (s.contextFault x code r).out :=
  List.mem_append_right _ (List.mem_singleton_self _)

end

/-! ### Quotas, promises and balloon requests (R17, R186, R341) -/

section
variable {s : State} {c n u : Nat} {id : W64}

theorem State.ask_open {w o : Nat} {die : Option Nat} (hm : (s.ctx c).mailbox.id = 0) (hid : id ≠ 0) :
    s.ask c id w o u die = s.setMailbox c { (s.ctx c).mailbox with id := id, wanted := BitVec.ofNat 32 w, owed := BitVec.ofNat 32 o, urgency := u } die true := by
  unfold State.ask
  dsimp only
  rw [if_pos hm, if_neg hid]

theorem State.ask_raise {w o : Nat} {die : Option Nat} (hm : (s.ctx c).mailbox.id ≠ 0) (hu : (s.ctx c).mailbox.urgency < u) :
    s.ask c id w o u die = s.setMailbox c { (s.ctx c).mailbox with
      wanted := (s.ctx c).mailbox.wanted + BitVec.ofNat 32 w, owed := (s.ctx c).mailbox.owed + BitVec.ofNat 32 o, urgency := u } (s.ctx c).openDie true := by
  unfold State.ask
  dsimp only
  rw [if_neg hm, max_eq_right hu.le, decide_eq_true hu]

end

/-- Settles O51. -/
theorem capacityRequests : Obligations.CapacityRequests := by
  intro s c n id u
  dsimp only
  refine ⟨State.gives_of (fun v => v.modCtx c fun x => { x with quota := (n : Int) }) rfl rfl, fun hmap hprom => ?_,
    fun hc hask => ⟨fun hm hid hu hn => ?_, fun hm hid hu hlt hn => ?_⟩, fun d share hc hask hm hid => ?_, fun d hd hm h16 hu hq => ?_, fun hm hu h64 hc => ?_⟩
  · refine State.gives_of (fun v => if (v.ctx c).mapped ≤ n ∧ v.promised c + n ≤ promiseMax then v.modCtx c fun x => { x with promise := n } else v) rfl ?_
    rw [if_pos ⟨hmap, hprom⟩]
  · refine State.gives_of (fun v => v.balloon c id n u) rfl ?_
    unfold State.balloon
    rw [Option.isNone_iff_eq_none.not.mpr (Option.isSome_iff_ne_none.mp hc) |> if_neg, hask]
    dsimp only
    rw [if_neg (by simp [hm]), State.ask_open hm hid, Nat.mod_eq_of_lt hn, min_eq_left hu]
    rfl
  · refine State.gives_of (fun v => v.balloon c id n u) rfl ?_
    unfold State.balloon
    rw [Option.isNone_iff_eq_none.not.mpr (Option.isSome_iff_ne_none.mp hc) |> if_neg, hask]
    dsimp only
    rw [if_neg (by simp [hid]), min_eq_left hu, State.ask_raise hm hlt, Nat.mod_eq_of_lt hn]
    rfl
  · refine State.gives_of (fun v => v.balloon c id n u) rfl ?_
    unfold State.balloon
    rw [Option.isNone_iff_eq_none.not.mpr (Option.isSome_iff_ne_none.mp hc) |> if_neg, hask]
    dsimp only
    rw [if_neg fun h => hid h.2, if_pos hm, State.ask_open hm hid]
    rfl
  · refine State.gives_of (fun v => v.raiseUrgency c) rfl ?_
    obtain ⟨q, hq16, hq⟩ := hq
    unfold State.raiseUrgency
    simp only [hd, hq, hq16, decide_true]
    rw [if_pos ⟨hm, h16, trivial, hu⟩]
    rfl
  · let w := s.setMailbox c { (s.ctx c).mailbox with id := 0, wanted := 0, owed := 0 } none true
    have hexp : s.expireRequest c = w.contextFault c 5 (LogRec.plain 0x0025 4 0 5) := by
      unfold State.expireRequest
      dsimp only
      rw [if_pos ⟨hm, hu, h64⟩]
    have hw : w.ctx c = { s.ctx c with mailbox := { (s.ctx c).mailbox with id := 0, wanted := 0, owed := 0 }, openDie := none, openFor := 0 } := by
      show State.ctx (State.invalidate _ _ _) c = _
      rw [State.invalidate_ctx, State.ctx_modCtx_self _ hc]
      rfl
    have hwc : (FMap.find? w.ctxs c).isSome = true := by
      show (FMap.find? (State.invalidate _ _ _).ctxs c).isSome = true
      rw [State.invalidate_ctxs, State.modCtx, FMap.isSome_modify]
      exact hc
    have hcore := contextFault_core 5 (LogRec.plain 0x0025 4 0 5) hwc
    have hdriver := contextFault_driver w c 5 (LogRec.plain 0x0025 4 0 5)
    rw [← hexp] at hcore hdriver
    rw [hw] at hcore
    have hpart := State.partAll_rest s (s.expireRequest c)
    refine ⟨s.partAll (s.expireRequest c), rfl, ?_, ?_, ?_⟩
    · rw [hpart]; exact congrArg Ctx.mailbox hcore
    · rw [hpart]; exact congrArg Ctx.halted hcore
    · rw [hpart]; exact hdriver

/-! ### The end of a quantum (R320 to R322) -/

section
variable {s : State} {d : Nat}

/-- A context at the end of a quantum of die `d`. -/
def State.ctxQuantum (s : State) (d c : Nat) (x : Ctx) : Ctx :=
  { x with absent := FMap.set 0 x.absent d (if s.hasReady c d && !s.hasResident c d then FMap.get 0 x.absent d + 1 else 0),
           openFor := if x.mailbox.id != 0 && x.openDie.getD 0 == d then x.openFor + 1 else x.openFor }

/-- A die at the end of its quantum. -/
def Die.quantumOver (v : Die) : Die := { v with opps := v.opps - 65536, quanta := v.quanta + 1, poolFail := v.poolFail.map (· + 1) }

theorem State.endQuantum_eq (h : 65536 ≤ (s.die d).opps) :
    s.endQuantum d = { s.modDie d Die.quantumOver with
      teams := s.teams.map fun e => (e.1, (fun i v => if s.teamDie i = d then v.quantumOver else v) e.1 e.2),
      ctxs := s.ctxs.map fun e => (e.1, s.ctxQuantum d e.1 e.2) } := by
  have hq : ¬ (s.die d).opps < quantumOpps := Nat.not_lt.mpr h
  unfold State.endQuantum
  rw [if_neg hq]
  rfl

theorem State.endQuantum_find_team (h : 65536 ≤ (s.die d).opps) (t : Nat) :
    FMap.find? (s.endQuantum d).teams t = (FMap.find? s.teams t).map fun v => if s.teamDie t = d then v.quantumOver else v := by
  rw [State.endQuantum_eq h]
  exact FMap.find?_mapEntries s.teams (fun i v => if s.teamDie i = d then v.quantumOver else v) t

theorem State.endQuantum_find_ctx (h : 65536 ≤ (s.die d).opps) (c : Nat) :
    FMap.find? (s.endQuantum d).ctxs c = (FMap.find? s.ctxs c).map (s.ctxQuantum d c) := by
  rw [State.endQuantum_eq h]
  exact FMap.find?_mapEntries s.ctxs (s.ctxQuantum d) c

theorem Team.quantumOver_resident {v : Team} {c o n : Nat} {qs : List Nat} (h : v.place = .resident c qs o n) :
    v.quantumOver.place = .resident c qs o (if v.whole then n + 1 else n) ∧ v.quantumOver.floor = (v.floor && !v.whole) ∧ v.quantumOver.whole = true := by
  simp [Team.quantumOver, h]

theorem Team.quantumOver_ready {v : Team} (h : v.place = .ready) :
    v.quantumOver.passed = (if v.whole then v.passed + 1 else v.passed) ∧ v.quantumOver.whole = true := by
  simp [Team.quantumOver, h]

end

/-- Settles O54. -/
theorem quantumResults : Obligations.QuantumResults := by
  intro s d h
  refine ⟨s.partAll (s.endQuantum d), rfl, ?_, fun t tm htm htd => ?_, fun c x hx => ?_⟩
  · rw [State.partAll_rest]
    rw [State.endQuantum_eq h]
    show ((s.modDie d Die.quantumOver).die d).opps = ((s.modDie d _).die d).opps
    unfold State.die State.modDie
    simp only [FMap.get_eq_find?, FMap.find?_modify, if_true]
    cases FMap.find? s.dies d <;> rfl
  · have ht : (s.partAll (s.endQuantum d)).team t = tm.quantumOver := by
      rw [State.partAll_rest]
      refine FMap.get_of_find? ?_
      rw [State.endQuantum_find_team h, htm, Option.map_some, if_pos htd]
    rw [ht]
    exact ⟨fun c qs o n hp => Team.quantumOver_resident hp, fun hp => Team.quantumOver_ready hp⟩
  · have hc : (s.partAll (s.endQuantum d)).ctx c = s.ctxQuantum d c x := by
      rw [State.partAll_rest]
      refine FMap.get_of_find? ?_
      rw [State.endQuantum_find_ctx h, hx, Option.map_some]
    rw [hc]
    unfold State.ctxQuantum
    dsimp only
    rw [FMap.get_set_eq]
    constructor
    · cases s.hasReady c d <;> cases s.hasResident c d <;> simp
    · by_cases h1 : x.mailbox.id = 0 <;> by_cases h2 : x.openDie.getD 0 = d <;> simp [h1, h2]

/-! ### The memory system of itself (R163, R170, R175, R182) -/

section
variable {s : State} {line d i b : Nat} {l : LlcLine}

theorem State.replaceLine_unpinned (h : FMap.find? s.llc line = some l) (hp : l.pin = false) :
    s.replaceLine line = (s.writeBack line false).invalidate [.mem line] none := by
  simp [State.replaceLine, h, hp]

theorem State.fit_of_room {line : Nat} {skip : Option Nat} {n : Nat} (h1 : (s.setUse line).1 ≤ 48) (h2 : (s.setUse line).2 ≤ 64) : s.fit line skip n = s := by
  cases n with
  | zero => rfl
  | succ n => rw [State.fit, if_pos ⟨h1, h2⟩]

end

/-- Settles O52. -/
theorem memorySystemResults : Obligations.MemorySystemResults := by
  intro s line d i
  dsimp only
  refine ⟨fun l hl hp hx => ⟨fun hd => ?_, fun hd hb => ?_⟩, ⟨fun ha => ?_, fun ha => ?_⟩, fun w hl hrow hw h1 h2 h4 => ?_, fun l hl hp hhome hrow => ?_, fun hb => ?_, fun hb ho => ?_⟩
  · refine State.gives_of (fun u => u.replaceLine line) rfl ?_
    rw [State.replaceLine_unpinned hl hp, State.writeBack]
    simp only [hl, hx, hd, Bool.false_eq_true, if_false, Bool.false_and]
  · refine State.gives_of (fun u => u.replaceLine line) rfl ?_
    rw [State.replaceLine_unpinned hl hp, State.writeBack]
    simp only [hl, hx, hd, hb, Bool.false_eq_true, if_false, Bool.not_false, Bool.and_self, if_true]
  · refine State.gives_of (fun u => u.refillAnte d i) rfl ?_
    unfold State.refillAnte
    simp only [ha, if_true]
  · refine State.gives_of (fun u => u.refillAnte d i) rfl ?_
    unfold State.refillAnte
    dsimp only
    rw [if_neg (by omega), if_pos ha]
  · refine State.gives_of (fun u => u.captureRow d [line]) rfl ?_
    have hfit : State.fit w line none 64 = w := State.fit_of_room h1 h2
    rw [hw] at hfit h4
    unfold State.captureRow
    simp only [List.headD_cons, hrow, List.foldl_cons, List.foldl_nil, hl, hfit, List.isEmpty_cons, List.any_cons, List.any_nil, Nat.not_lt.mpr h4, hw]
    simp
  · refine State.gives_of (fun u => u.unpinRow d [line]) rfl ?_
    have hnone : (s.rowLines d line).filter (fun x => !([line].contains x)) = [] :=
      (List.filter_congr fun x _ => by simp).trans hrow
    unfold State.unpinRow
    rw [List.headD_cons, hnone, List.append_nil, List.foldl_cons, List.foldl_nil]
    simp [hl, hp, hhome]
  · refine State.gives_of (fun u => u.replaceBme (blockOfLine line)) rfl ?_
    unfold State.replaceBme
    simp only [hb, if_true]
  · refine State.gives_of (fun u => u.replaceBme (blockOfLine line)) rfl ?_
    unfold State.replaceBme
    simp only [hb, ho, Bool.true_or, if_true, Bool.false_eq_true, if_false]

open Sys2Proof.Tests

set_option maxRecDepth 100000

/-! ### A mapped page lets read-index words be written (R300, R366) -/

/-- A page missing, and a queue of the context whose read-index word is still to be written. -/
def owing : State := { missing with queues := [(0, { HostQueue.blank with rix := 2 ^ 60, owes := true })] }

/-- The fault that is answered. -/
def missingFault : FaultEntry :=
  { seq := 9, merged := 0, core := 0, tslot := 0, mtx := false, eng := false, mal := false, kind := 0, lanes := 1, ctx := 0, page := 1 }

/-- The state with the page mapped. -/
def owingMapped : State := (owing.mapLeaf mapNext).getD owing

theorem owing_mapLeaf : (owing.mapLeaf mapNext).isSome = true := by decide

theorem owingMapped_owes : ((((owingMapped.dropEntry 0 missingFault).settle).queue 0).owes) = true := by decide

theorem owing_answer_owes : ((owing.answerFault 0 9 (some mapNext)).queue 0).owes = false := by decide

/-- The event that answers a fault, as an answer of the machine. -/
theorem exec_faultAnswer (s : State) (c e : Nat) (m : Option LeafMap) :
    exec (.faultAnswer c e m) s = .next (s.partAll (s.answerFault c e m)) := rfl

/-- Parting keeps every queue. -/
theorem partAll_queue (s u : State) (q : Nat) : (s.partAll u).queue q = u.queue q := by
  rw [State.partAll_rest]; rfl

/-- Where the event is stated to give the mapped state with the fault's entry dropped, no queue has changed since. -/
theorem queue_of_gives {s w : State} {c e q : Nat} {m : Option LeafMap} {f : FaultEntry}
    (h : s.gives (.faultAnswer c e m) ((w.dropEntry c f).settle)) : (s.answerFault c e m).queue q = ((w.dropEntry c f).settle).queue q := by
  obtain ⟨u, hu, hrest, -⟩ := h
  rw [exec_faultAnswer] at hu
  injection hu with hu
  rw [← partAll_queue s, hu, hrest]; rfl

/-- Refutes O50: an answer with a mapping also writes the read-index words that waited for a page, so a queue that owed one does not any more. -/
theorem not_mappingResults : ¬ Obligations.MappingResults := by
  unfold Obligations.MappingResults
  intro h
  obtain ⟨w, hw⟩ := Option.isSome_iff_exists.mp owing_mapLeaf
  have hmapped : owingMapped = w := by rw [owingMapped, hw]; rfl
  have hfound : (owing.die 0).fq.find? (fun e => e.seq == 9) = some missingFault := by decide
  have hcovers : coversFault mapNext missingFault = true := by decide
  have hkept := queue_of_gives (q := 0) (((h owing mapNext 0).2 0 9 missingFault hfound).1 w hcovers hw)
  have howes := owingMapped_owes
  rw [hmapped, ← hkept, owing_answer_owes] at howes
  cases howes

end Sys2Proof.Machine
end

section
/-! SUPPORT. What accesses of memory leave apart and what engine threads keep; contexts, the host, the module's events, management -/

namespace Sys2Proof.Machine

/-! ### What the accesses of memory leave apart -/

/-- What no access of memory changes: the module's own registers, the engine threads, the teams, and each die's spilled writes. -/
def State.apart (s : State) : Module × FMap Engine × FMap Team × FMap (List Spill) :=
  (s.module, s.engines, s.teams, s.dies.map fun e => (e.1, e.2.spill))

section
variable {s u : State}

theorem FMap.map_modify {α β : Type} (m : FMap α) (i : Nat) (f : α → α) (g : Nat × α → β) (h : ∀ k v, g (k, f v) = g (k, v)) :
    (FMap.modify m i f).map g = m.map g := by
  induction m with
  | nil => rfl
  | cons e m ih =>
    obtain ⟨k, v⟩ := e
    unfold FMap.modify
    split
    · exact congrArg (· :: m.map g) (h k v)
    · exact congrArg (g (k, v) :: ·) ih

theorem State.apart_modDie (s : State) (d : Nat) (f : Die → Die) (hf : ∀ v, (f v).spill = v.spill) : (s.modDie d f).apart = s.apart := by
  have hmap := FMap.map_modify s.dies d f (fun e => (e.1, e.2.spill)) fun k v => congrArg (Prod.mk k) (hf v)
  unfold State.apart
  rw [← hmap]
  rfl

theorem State.apart_foldl {α : Type} (f : State → α → State) (l : List α) (hf : ∀ u, ∀ x ∈ l, (f u x).apart = u.apart) (s : State) :
    (l.foldl f s).apart = s.apart := by
  induction l generalizing s with
  | nil => rfl
  | cons x l ih => exact (ih (fun u y hy => hf u y (List.mem_cons_of_mem _ hy)) _).trans (hf s x (List.mem_cons_self ..))

@[simp] theorem State.setBlock_apart (s : State) (b : Nat) (v : Block) : (s.setBlock b v).apart = s.apart := rfl

@[simp] theorem State.modCtx_apart (s : State) (c : Nat) (f : Ctx → Ctx) : (s.modCtx c f).apart = s.apart := rfl

@[simp] theorem State.modSlice_apart (s : State) (t k : Nat) (f : Slice → Slice) : (s.modSlice t k f).apart = s.apart := rfl

@[simp] theorem State.modGraph_apart (s : State) (g : Nat) (f : GraphRun → GraphRun) : (s.modGraph g f).apart = s.apart := rfl

/-! ### Granules -/

@[simp] theorem State.draw_apart (s : State) (b n : Nat) : (s.draw b n).2.apart = s.apart := by
  unfold State.draw
  split
  · split
    · split <;> rfl
    · rfl
  · exact State.apart_modDie _ _ _ fun _ => rfl

@[simp] theorem State.drawAlways_apart (s : State) (b n : Nat) : (s.drawAlways b n).2.apart = s.apart := by
  unfold State.drawAlways
  dsimp only
  split
  · exact s.draw_apart b n
  · exact (State.apart_modDie _ _ _ (by intro; rfl)).trans (s.draw_apart b n)

theorem Die.giveBack_spill (v : Die) (o g : Nat) : (v.giveBack o g).spill = v.spill := by
  unfold Die.giveBack
  split <;> rfl

@[simp] theorem State.release_apart (s : State) (b g : Nat) : (s.release b g).apart = s.apart := by
  unfold State.release
  split
  · rfl
  · exact State.apart_modDie _ _ _ fun v => v.giveBack_spill _ g

@[simp] theorem State.occupy_apart (s : State) (o : Option Nat) (up down : Nat) : (s.occupy o up down).apart = s.apart := by
  unfold State.occupy
  split <;> rfl

@[simp] theorem State.attach_apart (s : State) (b : Nat) (gs : List Nat) : (s.attach b gs).apart = s.apart := by
  unfold State.attach
  dsimp only
  split
  · rfl
  · simp

@[simp] theorem State.attachAlways_apart (s : State) (b n : Nat) (gs : List Nat) : (s.attachAlways b n gs).apart = s.apart := by
  unfold State.attachAlways
  dsimp only
  split
  · rfl
  · simp

@[simp] theorem State.repack_apart (s : State) (b : Nat) : (s.repack b).apart = s.apart := by
  unfold State.repack
  dsimp only
  split
  · rfl
  · rw [State.apart_foldl _ _ fun u g _ => u.release_apart b g]
    simp

@[simp] theorem State.growAlways_apart (s : State) (chg : List (Nat × Nat)) : (s.growAlways chg).apart = s.apart :=
  State.apart_foldl _ _ (fun u b _ => by simp) s

@[simp] theorem State.poolFailed_apart (s : State) (x g : Nat) (dies : List Nat) : (s.poolFailed x g dies).apart = s.apart := by
  unfold State.poolFailed
  refine State.apart_foldl _ _ (fun u d _ => ?_) s
  exact State.apart_modDie _ _ _ fun _ => rfl

/-! ### Lines -/

@[simp] theorem State.invalidate_apart (s : State) (ls : List LineId) (skip : Option Nat) : (s.invalidate ls skip).apart = s.apart := by
  unfold State.invalidate
  split <;> rfl

@[simp] theorem State.writeBack_apart (s : State) (line : Nat) (keep : Bool) : (s.writeBack line keep).apart = s.apart := by
  unfold State.writeBack
  split
  · rfl
  · split
    · rfl
    · dsimp only
      split
      · rw [State.repack_apart]; rfl
      · rfl

@[simp] theorem State.countEvicts_apart (s : State) (d i n : Nat) : (s.countEvicts d i n).apart = s.apart := State.apart_modDie _ _ _ fun _ => rfl

@[simp] theorem State.fit_apart (line : Nat) (skip : Option Nat) (n : Nat) (s : State) : (s.fit line skip n).apart = s.apart := by
  induction n generalizing s with
  | zero => rfl
  | succ n ih =>
    unfold State.fit
    split
    · rfl
    · split
      · rfl
      · rw [ih]
        split <;> simp

@[simp] theorem State.setLine_apart (s : State) (skip : Option Nat) (e : Nat × Nat) : (s.setLine skip e).apart = s.apart :=
  State.fit_apart _ _ _ { s with llc := _, clock := _ }

@[simp] theorem State.foldl_setLine_apart (s : State) (skip : Option Nat) (chg : List (Nat × Nat)) :
    (chg.foldl (fun t e => t.setLine skip e) s).apart = s.apart := State.apart_foldl _ _ (fun u e _ => u.setLine_apart skip e) s

/-! ### Writes to memory -/

@[simp] theorem State.applyBytes_apart (s : State) (ws : List (Nat × Byte)) : (s.applyBytes ws).apart = s.apart := rfl

@[simp] theorem State.agentWrite_apart (s : State) (ws : List (Nat × Byte)) (skip : Option Nat) : (s.agentWrite ws skip).apart = s.apart := by
  unfold State.agentWrite
  simp

@[simp] theorem State.tableWrite_apart (s : State) (ws : List (Nat × Byte)) : (s.tableWrite ws).apart = s.apart := by
  unfold State.tableWrite
  dsimp only
  rw [State.foldl_setLine_apart, State.growAlways_apart]
  rfl

@[simp] theorem State.setA_apart (s : State) (l : Leaf) : (s.setA l).apart = s.apart := by
  unfold State.setA
  split <;> simp

@[simp] theorem State.setD_apart (s : State) (a : Nat) : (s.setD a).apart = s.apart := by
  unfold State.setD
  dsimp only
  split <;> simp

@[simp] theorem State.touch_apart (s : State) (x : Nat) (vas : List W64) : (s.touch x vas).apart = s.apart := by
  refine State.apart_foldl _ _ (fun u va _ => ?_) s
  split
  · split
    · split
      · exact u.setA_apart _
      · exact u.setA_apart _
    · rfl
  · rfl

@[simp] theorem State.appendLog_apart (s : State) (x : Nat) (r : LogRec) : (s.appendLog x r).apart = s.apart := by
  unfold State.appendLog
  dsimp only
  rw [State.invalidate_apart, State.modCtx_apart]
  split <;> simp

/-! ### The command processor -/

@[simp] theorem State.postFault_apart (s : State) (d : Nat) (e : FaultEntry) : (s.postFault d e).apart = s.apart := by
  unfold State.postFault
  dsimp only
  split
  · exact (State.modCtx_apart _ _ _).trans (State.apart_modDie _ _ _ (by intro; rfl))
  · split
    · exact (State.modCtx_apart _ _ _).trans (State.apart_modDie _ _ _ (by intro; rfl))
    · exact State.apart_modDie _ _ _ fun _ => rfl

@[simp] theorem State.cpTouch_apart (s : State) (x : Nat) (va : W64) (n : Nat) : (s.cpTouch x va n).apart = s.apart := s.touch_apart _ _

@[simp] theorem State.cpPost_apart (s : State) (x : Nat) (who : Nat × Nat) (kind : Nat) (ps : List (W64 × Bool)) : (s.cpPost x who kind ps).apart = s.apart := by
  refine State.apart_foldl _ _ (fun u p _ => ?_) s
  split
  · rfl
  · simp

@[simp] theorem State.notifyAll_apart (s : State) : s.notifyAll.apart = s.apart := rfl

@[simp] theorem State.vaWrite_apart (s : State) (x : Nat) (va : W64) (bs : List Byte) : (s.vaWrite x va bs).apart = s.apart := by
  unfold State.vaWrite
  split
  · dsimp only
    split
    · exact (State.setD_apart _ _).trans (State.setA_apart _ _)
    · simp
  · rfl

@[simp] theorem State.lossRecord_apart (s : State) (x : Nat) (va : W64) (r : LogRec) : (s.lossRecord x va r).apart = s.apart := by
  unfold State.lossRecord
  dsimp only
  split
  · rfl
  · split
    · rfl
    · split
      · simp
      · split <;> simp

@[simp] theorem State.writeSignal_apart (s : State) (x : Nat) (va value : W64) (add : Bool) : (s.writeSignal x va value add).apart = s.apart := by
  unfold State.writeSignal
  simp

@[simp] theorem State.endSignal_apart (s : State) (x : Nat) (who : Nat × Nat) (va value : W64) (add : Bool) (name : W64) :
    (s.endSignal x who va value add name).1.apart = s.apart := by
  unfold State.endSignal
  split
  · rfl
  · split <;> simp

@[simp] theorem State.graphCheck_apart (s : State) (g : Nat) : (s.graphCheck g).apart = s.apart := by
  unfold State.graphCheck
  split
  · rfl
  next v _ =>
    have hr := s.endSignal_apart v.ctx (2, g) v.signal (if v.refused then ones64 else v.value) (!v.refused && v.sigadd) v.header
    generalize s.endSignal v.ctx (2, g) v.signal (if v.refused then ones64 else v.value) (!v.refused && v.sigadd) v.header = r at hr
    dsimp only
    split
    · rfl
    · split
      · split <;> exact hr
      · exact hr

@[simp] theorem State.nodeDone_apart (s : State) (g n : Nat) (b : Bool) : (s.nodeDone g n b).apart = s.apart := by
  unfold State.nodeDone
  simp

@[simp] theorem State.originDone_apart (s : State) (o : Origin) : (s.originDone o).apart = s.apart := by
  unfold State.originDone
  split
  · rfl
  · simp
  · rfl
  · rfl

/-- A launch with no tails completes. -/
theorem State.launchCheck_apart {l : Nat} (h : (s.launch l).tails = []) : (s.launchCheck l).apart = s.apart := by
  unfold State.launchCheck
  dsimp only
  split
  · rfl
  · rw [h]
    split
    · rw [List.foldl_nil, State.originDone_apart]
      exact State.endSignal_apart ..
    · exact State.endSignal_apart ..

/-! ### Ranges, and step 6 of a commit -/

@[simp] theorem State.unpinRow_apart (s : State) (d : Nat) (ls : List Nat) : (s.unpinRow d ls).apart = s.apart := by
  refine State.apart_foldl _ _ (fun u l _ => ?_) s
  split
  · split
    · rw [State.writeBack_apart]; rfl
    · rfl
  · rfl

@[simp] theorem State.freeLine_apart (s : State) (l : Nat) : (s.freeLine l).apart = s.apart := by
  unfold State.freeLine
  split <;> simp

@[simp] theorem State.wbLine_apart (s : State) (l : Nat) : (s.wbLine l).apart = s.apart := by
  unfold State.wbLine
  simp

@[simp] theorem State.dropNc_apart (s : State) (l : Nat) : (s.dropNc l).apart = s.apart := rfl

@[simp] theorem State.invLine_apart (s : State) (r : RangeLine) (l : Nat) : (s.invLine r l).apart = s.apart := by
  unfold State.invLine
  rw [State.invalidate_apart]
  split <;> simp

@[simp] theorem State.zeroLine_apart (s : State) (l : Nat) : (s.zeroLine l).apart = s.apart := by
  unfold State.zeroLine
  dsimp only
  split
  · rfl
  · rw [State.repack_apart]; rfl

@[simp] theorem State.maintain_apart (s : State) (x : Nat) (o : RangeOp) (base len : W64) : (s.maintain x o base len).apart = s.apart := by
  unfold State.maintain
  dsimp only
  generalize hv : (if o == .wb || o == .inv then s.touch x ((s.rangePages x base len).map fun e => BitVec.ofNat 64 e.1.1) else s) = v
  have h1 : v.apart = s.apart := by
    rw [← hv]
    split <;> simp
  have hlines : ∀ l : List RangeLine, (l.foldl (fun t r => (t.copies r.leaf.rep r.npa).foldl (fun u a =>
      if r.whole then (if (u.lineWords (lineOf a)).all (fun w => w == 0) then u.zeroLine (lineOf a) else u)
      else if o == .disc then u.wbLine (lineOf a) else u) t) v).apart = v.apart := by
    refine fun l => State.apart_foldl _ _ (fun t r _ => State.apart_foldl _ _ (fun u a _ => ?_) t) v
    split
    · split <;> simp
    · split <;> simp
  rw [← h1]
  split
  · exact State.apart_foldl _ _ (fun t r _ => State.apart_foldl _ _ (fun u a _ => u.wbLine_apart _) t) v
  · exact State.apart_foldl _ _ (fun t r _ => State.apart_foldl _ _ (fun u a _ => u.invLine_apart _ _) t) v
  · exact hlines _
  · exact hlines _
  · rfl
  · rfl

@[simp] theorem State.poisonRecords_apart (s : State) (t k x : Nat) (tr : Trial) : (s.poisonRecords t k x tr).apart = s.apart := by
  refine State.apart_foldl _ _ (fun u l _ => ?_) s
  split
  · rfl
  · split
    · simp
    · split <;> simp

@[simp] theorem State.makeTrial_apart (s : State) (t k x : Nat) (tr : Trial) (b : Bool) : (s.makeTrial t k x tr b).apart = s.apart := by
  unfold State.makeTrial
  dsimp only
  rw [State.foldl_setLine_apart]
  split <;> simp

@[simp] theorem State.stepSix_apart (s : State) (t k x : Nat) (post : List HeldItem) : (s.stepSix t k x post).apart = s.apart := by
  unfold State.stepSix
  dsimp only
  refine (State.apart_foldl _ _ (fun u it _ => ?_) _).trans ?_
  · split <;> simp
  · split <;> simp

@[simp] theorem State.finishPost_apart (s : State) (t k : Nat) : (s.finishPost t k).apart = s.apart := by
  unfold State.finishPost
  split <;> simp

@[simp] theorem State.recordFlags_apart (s : State) (t k : Nat) (pc : W64) : (s.recordFlags t k pc).1.apart = s.apart := by
  unfold State.recordFlags
  dsimp only
  rw [State.modSlice_apart]
  exact State.apart_foldl _ _ (fun u i _ => u.appendLog_apart _ _) s

@[simp] theorem State.enterFrame_apart (s : State) (t k : Nat) (f : Frame) : (s.enterFrame t k f).apart = s.apart := by
  unfold State.enterFrame
  simp

@[simp] theorem State.completeLast_apart (s : State) (t k : Nat) : (s.completeLast t k).apart = s.apart := by
  unfold State.completeLast
  dsimp only
  split
  · simp
  · split <;> simp

theorem State.charge_apart {x : Nat} {chg : List (Nat × Nat)} {pins : List Nat} {marks : List Mark} (h : s.charge x chg pins marks = .ok u) : u.apart = s.apart := by
  have h1 : (s.growOwnerless chg).apart = s.apart := s.growAlways_apart _
  unfold State.charge at h
  dsimp only at h
  split at h
  · cases h; exact h1
  · split at h
    · cases h
    · split at h
      · cases h
      · cases h
        exact (State.apart_foldl _ _ (fun u b _ => by simp) _).trans h1

end

/-! ### What the steps of an engine thread keep -/

/-- An engine thread later: of the same context, complete if it was, stopped if it was. -/
def Engine.later (w v : Engine) : Prop := v.ctx = w.ctx ∧ (w.done = true → v.done = true) ∧ (w.stopped = true → v.stopped = true)

theorem Engine.later_refl (v : Engine) : Engine.later v v := ⟨rfl, id, id⟩

theorem Engine.later_trans {u v w : Engine} (h : Engine.later u v) (g : Engine.later v w) : Engine.later u w :=
  ⟨g.1.trans h.1, fun hu => g.2.1 (h.2.1 hu), fun hu => g.2.2 (h.2.2 hu)⟩

/-- From `s` to `u` memory keeps its form, the contexts their cores, the module's registers stand, no engine thread is new, and none goes on that
was complete or stopped. -/
structure State.steady (s u : State) : Prop where
  still   : s.still u
  module  : u.module = s.module
  engines : ∀ e v, FMap.find? u.engines e = some v → ∃ w, FMap.find? s.engines e = some w ∧ w.later v

section
variable {s u v : State}

theorem State.steady_refl (s : State) : s.steady s := ⟨State.still_refl s, rfl, fun _ v h => ⟨v, h, v.later_refl⟩⟩

theorem State.steady_trans (h : s.steady u) (g : u.steady v) : s.steady v := by
  refine ⟨State.still_trans h.still g.still, g.module.trans h.module, fun e y hy => ?_⟩
  obtain ⟨x, hx, hxy⟩ := g.engines e y hy
  obtain ⟨w, hw, hwx⟩ := h.engines e x hx
  exact ⟨w, hw, Engine.later_trans hwx hxy⟩

/-- What an access of memory does is steady. -/
theorem State.steady_access (h : s.steady u) (hs : u.still v) (ha : v.apart = u.apart) : s.steady v := by
  refine State.steady_trans h ⟨hs, congrArg Prod.fst ha, fun e y hy => ⟨y, ?_, y.later_refl⟩⟩
  have he : v.engines = u.engines := congrArg (fun a => a.2.1) ha
  rw [← he]; exact hy

theorem State.steady_quiet (h : s.steady u) (hs : u.quiet 0 v) (ha : v.apart = u.apart) : s.steady v := State.steady_access h hs.still ha

theorem State.steady_modEngine (h : s.steady u) (e : Nat) (f : Engine → Engine) (hf : ∀ v : Engine, v.later (f v)) : s.steady (u.modEngine e f) := by
  refine State.steady_trans h ⟨State.still_refl u, rfl, fun j y hy => ?_⟩
  unfold State.modEngine at hy
  dsimp only at hy
  rw [FMap.find?_modify] at hy
  split at hy
  · obtain ⟨x, hx, rfl⟩ := Option.map_eq_some_iff.mp hy
    exact ⟨x, hx, hf x⟩
  · exact ⟨y, hy, y.later_refl⟩

theorem State.steady_foldl {α : Type} (f : State → α → State) (l : List α) (hf : ∀ u x, s.steady u → s.steady (f u x)) {u : State} (h : s.steady u) :
    s.steady (l.foldl f u) := by
  induction l generalizing u with
  | nil => exact h
  | cons x l ih => exact ih (hf u x h)

theorem State.steady_invalidate (h : s.steady u) (ls : List LineId) (skip : Option Nat) : s.steady (u.invalidate ls skip) :=
  State.steady_quiet h (State.invalidate_quiet (State.quiet_refl 0 u) ls skip) (u.invalidate_apart ls skip)

theorem State.steady_setD (h : s.steady u) (a : Nat) : s.steady (u.setD a) :=
  State.steady_quiet h (State.setD_quiet (State.quiet_refl 0 u) a) (u.setD_apart a)

theorem State.steady_applyBytes (h : s.steady u) (ws : List (Nat × Byte)) : s.steady (u.applyBytes ws) :=
  State.steady_quiet h (State.applyBytes_quiet (State.quiet_refl 0 u) ws) (u.applyBytes_apart ws)

theorem State.steady_setLines (h : s.steady u) (chg : List (Nat × Nat)) : s.steady (chg.foldl (fun t e => t.setLine none e) u) :=
  State.steady_quiet h (foldl_setLine_quiet (State.quiet_refl 0 u) none chg) (u.foldl_setLine_apart none chg)

theorem State.steady_touch (h : s.steady u) (c : Nat) (vas : List W64) : s.steady (u.touch c vas) :=
  State.steady_quiet h (State.touch_quiet (State.quiet_refl 0 u) c vas) (u.touch_apart c vas)

theorem State.steady_appendLog (h : s.steady u) (c : Nat) (r : LogRec) : s.steady (u.appendLog c r) :=
  State.steady_quiet h (State.appendLog_quiet (State.quiet_refl 0 u) c r) (u.appendLog_apart c r)

theorem State.steady_poolFailed (h : s.steady u) (x g : Nat) (ds : List Nat) : s.steady (u.poolFailed x g ds) :=
  State.steady_quiet h (State.poolFailed_quiet (State.quiet_refl 0 u) x g ds) (u.poolFailed_apart x g ds)

theorem State.steady_charge (h : s.steady u) {x : Nat} {chg : List (Nat × Nat)} {pins : List Nat} {marks : List Mark} (hv : u.charge x chg pins marks = .ok v) :
    s.steady v := State.steady_quiet h (State.charge_quiet (State.quiet_refl 0 u) hv) (State.charge_apart hv)

/-! ### Threads -/

theorem State.steady_threadPost (h : s.steady u) (w : Who) (asked : List Nat) (kind page : Nat) (m : Bool) : s.steady (u.threadPost w asked kind page m) := by
  unfold State.threadPost
  split
  · exact h
  · exact State.steady_quiet h (State.postFault_quiet (State.quiet_refl 0 u) ..) (u.postFault_apart _ _)

theorem State.steady_threadRecords (h : s.steady u) (w : Who) (va : Nat) (ws : List (Nat × Byte)) : s.steady (u.threadRecords w va ws) := by
  refine State.steady_foldl _ _ (fun x l hx => ?_) h
  split
  · exact hx
  · split
    · exact State.steady_appendLog hx _ _
    · split
      · exact State.steady_appendLog hx _ _
      · exact hx

/-- What a write's bytes, once charged, do. -/
theorem State.steady_charged (h : s.steady u) (a : Nat) (ws : List (Nat × Byte)) (w : Who) (va : Nat) (ls : List LineId) (chg : List (Nat × Nat)) :
    s.steady (chg.foldl (fun t e => t.setLine none e) (((((u.setD a).applyBytes ws).threadRecords w va ws).invalidate ls none))) :=
  State.steady_setLines (State.steady_invalidate (State.steady_threadRecords (State.steady_applyBytes (State.steady_setD h a) ws) w va ws) ls none) chg

theorem State.steady_threadWrite (h : s.steady u) {w : Who} {gone : List Nat} {bs : List (Nat × Byte × Byte)} (hv : u.threadWrite w gone bs = .ok v) :
    s.steady v := by
  unfold State.threadWrite at hv
  split at hv
  · cases hv; exact h
  · split at hv
    · cases hv
    · cases hv
    · dsimp only at hv
      split at hv
      · cases hv
        exact State.steady_access (State.steady_setD (State.steady_touch h ..) _) (State.still_refl _) rfl
      · split at hv
        · cases hv
        · next hc =>
          cases hv
          exact State.steady_charged (State.steady_charge (State.steady_touch h ..) hc) ..

theorem State.steady_threadRead_wait (h : s.steady u) {w : Who} {asked gone : List Nat} {va : W64} {n p : Nat}
    (hv : u.threadRead w asked gone va n = .wait v p) : s.steady v := by
  unfold State.threadRead at hv
  dsimp only at hv
  split at hv
  · cases hv; exact State.steady_threadPost (State.steady_touch h ..) ..
  · cases hv
  · split at hv
    · cases hv
    · split at hv <;> cases hv

theorem State.steady_threadRead_bad (h : s.steady u) {w : Who} {asked gone : List Nat} {va : W64} {n : Nat} {p : Bool}
    (hv : u.threadRead w asked gone va n = .bad v p) : s.steady v := by
  unfold State.threadRead at hv
  dsimp only at hv
  split at hv
  · cases hv
  · cases hv; exact State.steady_touch h ..
  · split at hv
    · cases hv
    · split at hv
      · cases hv; exact State.steady_touch h ..
      · cases hv

theorem State.steady_threadRead_ok (h : s.steady u) {w : Who} {asked gone : List Nat} {va : W64} {n : Nat} {bs : List Byte}
    (hv : u.threadRead w asked gone va n = .ok v bs) : s.steady v := by
  unfold State.threadRead at hv
  dsimp only at hv
  split at hv
  · cases hv
  · cases hv
  · split at hv
    · cases hv
      exact State.steady_access (State.steady_touch h ..) (State.still_refl _) rfl
    · split at hv
      · cases hv
      · cases hv; exact State.steady_touch h ..

theorem State.steady_modDie (h : s.steady u) (d : Nat) (f : Die → Die) : s.steady (u.modDie d f) :=
  State.steady_trans h ⟨State.still_refl _, rfl, fun _ y hy => ⟨y, hy, y.later_refl⟩⟩

theorem State.steady_modTeam (h : s.steady u) (t : Nat) (f : Team → Team) : s.steady (u.modTeam t f) :=
  State.steady_trans h ⟨State.still_refl _, rfl, fun _ y hy => ⟨y, hy, y.later_refl⟩⟩

/-- The state that a spilled write leaves, held or not. -/
def Spilled.state : Spilled → State
  | .full s => s
  | .held s => s

theorem State.steady_spillWrite (h : s.steady u) (w : Who) (asked : List Nat) (x : Spill) (r : ThreadWrite) : s.steady (u.spillWrite w asked x r).state := by
  unfold State.spillWrite
  split
  · exact h
  · have h1 : s.steady (u.modDie w.die fun d => { d with spill := d.spill ++ [x] }) := State.steady_modDie h _ _
    dsimp only
    split
    · exact State.steady_threadPost h1 ..
    · exact State.steady_poolFailed h1 ..
    · exact h1
    · exact h1

/-! ### Engine threads -/

theorem State.steady_engineFails (h : s.steady u) (e a : Nat) : s.steady (u.engineFails e a) := State.steady_modEngine h _ _ fun _ => ⟨rfl, id, id⟩

theorem State.steady_engineGot (h : s.steady u) (e key : Nat) (bs : List Byte) : s.steady (u.engineGot e key bs) :=
  State.steady_modEngine h _ _ fun _ => ⟨rfl, id, id⟩

theorem State.steady_enginePerf (h : s.steady u) (e n : Nat) : s.steady (u.enginePerf e n) := State.steady_modEngine h _ _ fun _ => ⟨rfl, id, id⟩

theorem State.steady_engineSent (h : s.steady u) (e n : Nat) : s.steady (u.engineSent e n) := by
  have h1 : s.steady (u.modEngine e fun x => { x with sent := x.sent + n }) := State.steady_modEngine h _ _ fun _ => ⟨rfl, id, id⟩
  unfold State.engineSent
  dsimp only
  split
  · exact State.steady_invalidate (State.steady_modTeam h1 _ _) _ _
  · exact h1

theorem State.steady_engineRead (h : s.steady u) (e key sector : Nat) : s.steady (u.engineRead e key sector) := by
  unfold State.engineRead
  dsimp only
  split
  · next hv => exact State.steady_modEngine (State.steady_threadRead_wait h hv) _ _ fun _ => ⟨rfl, id, id⟩
  · next hv => exact State.steady_engineGot (State.steady_engineFails (State.steady_threadRead_bad h hv) _ _) _ _ _
  · next hv => exact State.steady_engineGot (State.steady_threadRead_ok h hv) _ _ _

theorem State.steady_copyRead (h : s.steady u) (e rk q : Nat) : s.steady (u.copyRead e rk q) := by
  unfold State.copyRead
  dsimp only
  generalize (if cConv (u.engine e).desc = 2 then cBlocks (u.engine e).desc else dataUnits (u.engine e).desc (u.engine e).slot) = limit
  split
  · exact h
  · split
    · exact h
    · split
      · split
        · split
          · exact State.steady_engineGot h _ _ _
          · exact h
        · exact h
      · exact State.steady_engineRead h _ _ _

theorem State.steady_engineGlobal (h : s.steady u) (e n : Nat) (bs : List (Nat × Byte × Byte)) : s.steady (u.engineGlobal e n bs) := by
  have hr : s.steady (u.reach (u.engineWho (u.engine e)) bs) := State.steady_touch h _ _
  unfold State.engineGlobal
  dsimp only
  generalize u.reach (u.engineWho (u.engine e)) bs = x at hr
  split
  · next hv => exact State.steady_engineSent (State.steady_enginePerf (State.steady_threadWrite hr hv) _ _) _ _
  · exact State.steady_enginePerf (State.steady_engineFails hr _ _) _ _
  · have hs := State.steady_spillWrite hr (u.engineWho (u.engine e)) (u.engine e).asked { ctx := (u.engine e).ctx, engine := some e, team := none, cmd := n, bytes := bs }
      (x.threadWrite (u.engineWho (u.engine e)) (u.engine e).gone bs)
    split
    · next hw => rw [hw] at hs; exact hs
    · next hw =>
      rw [hw] at hs
      refine State.steady_modEngine (State.steady_enginePerf hs _ _) _ _ fun y => ?_
      split <;> exact ⟨rfl, id, id⟩

theorem State.steady_copyWrite (h : s.steady u) (e n tgt : Nat) : s.steady (u.copyWrite e n tgt) := by
  have hteam : ∀ (t : Nat) (f : Team → Team) (ls : List LineId) (m : Nat),
      s.steady ((((u.modTeam t f).invalidate ls none).enginePerf e (16 * n + tgt)).engineSent e m) := fun t f ls m =>
    State.steady_engineSent (State.steady_enginePerf (State.steady_invalidate (State.steady_modTeam h t f) ls none) _ _) _ _
  unfold State.copyWrite
  dsimp only
  split
  · exact h
  · split
    · exact State.steady_enginePerf h _ _
    · split
      · exact State.steady_engineGlobal h _ _ _
      all_goals
        split
        · exact h
        · split
          · exact h
          · exact hteam _ _ _ _

theorem State.steady_allredWrite (h : s.steady u) (e i : Nat) : s.steady (u.allredWrite e i) := by
  unfold State.allredWrite
  dsimp only
  split
  · exact h
  · split
    · split
      · exact h
      · exact State.steady_engineGlobal h _ _ _
    · exact h

theorem State.steady_repWrite (h : s.steady u) {w : Who} {va : W64} {l : Leaf} {bs : List Byte} (hv : u.repWrite w va l bs = .ok v) : s.steady v := by
  unfold State.repWrite at hv
  dsimp only at hv
  split at hv
  · cases hv
  · next hc =>
    cases hv
    exact State.steady_charged (State.steady_charge h hc) ..

theorem State.steady_repPass (h : s.steady u) {w : Who} {va : W64} {l : Leaf} (hv : u.repPass w va l = .ok v) : s.steady v := by
  unfold State.repPass at hv
  dsimp only at hv
  split at hv
  · cases hv
  · split at hv
    · cases hv
      refine State.steady_setD (State.steady_invalidate (State.steady_foldl _ _ (fun x p hx => ?_) h) _ _) _
      split
      · exact hx
      · exact State.steady_setLines hx [_]
    · exact State.steady_repWrite h hv

theorem State.steady_repCopy (h : s.steady u) (e i : Nat) : s.steady (u.repCopy e i) := by
  unfold State.repCopy
  dsimp only
  split
  · exact h
  · split
    · exact h
    · next va l _ =>
      have h0 : s.steady (u.touch (u.engine e).ctx [va]) := State.steady_touch h _ _
      split
      · next hv => exact State.steady_enginePerf (State.steady_repPass h0 hv) _ _
      · exact State.steady_enginePerf (State.steady_engineFails h0 _ _) _ _
      · have hs := State.steady_spillWrite h0 (u.engineWho (u.engine e)) (u.engine e).asked
          { ctx := (u.engine e).ctx, engine := some e, team := none, cmd := i,
            bytes := (byteRun va.toNat (u.readBytes (l.npa va) 32)).map fun b => (b.1, 0xFF, b.2) }
          ((u.touch (u.engine e).ctx [va]).repPass (u.engineWho (u.engine e)) va l)
        split
        · next hw => rw [hw] at hs; exact hs
        · next hw => rw [hw] at hs; exact State.steady_enginePerf hs _ _

theorem State.steady_engineFinish (h : s.steady u) (e n : Nat) : s.steady (u.engineFinish e n) := by
  unfold State.engineFinish
  dsimp only
  split
  · refine State.steady_copyWrite (State.steady_foldl _ _ (fun x rk hx => ?_) h) _ _ _
    exact State.steady_foldl _ _ (fun y q hy => State.steady_copyRead hy _ _ _) hx
  · exact State.steady_allredWrite h _ _
  · exact State.steady_repCopy h _ _

theorem State.steady_stopEngine (h : s.steady u) (e : Nat) : s.steady (u.stopEngine e) := by
  unfold State.stopEngine
  dsimp only
  refine State.steady_modEngine ?_ _ _ fun _ => ⟨rfl, id, fun _ => rfl⟩
  split
  · exact h
  · exact State.steady_foldl _ _ (fun x n hx => State.steady_engineFinish hx _ _) h

/-- A thread that is stopped has stopped. -/
theorem State.stopEngine_stopped {e : Nat} {y : Engine} (h : FMap.find? (s.stopEngine e).engines e = some y) : y.stopped = true := by
  unfold State.stopEngine at h
  dsimp only [State.modEngine] at h
  rw [FMap.find?_modify, if_pos rfl] at h
  obtain ⟨x, -, rfl⟩ := Option.map_eq_some_iff.mp h
  rfl

end

/-! ### The host's accesses (R345 to R347) -/

section
variable {s : State} {npa : Nat}

theorem State.hostMay_of_sys {c : Nat} (ho : (s.block (blockOf npa)).owner = some c) (hs : (s.block (blockOf npa)).sys = 0) : s.hostMay npa = false := by
  simp [State.hostMay, ho, hs]

theorem State.hostRefused_owner (u : State) (write : Bool) {c : Nat} (ho : (s.block (blockOf npa)).owner = some c) (hb : u.block (blockOf npa) = s.block (blockOf npa)) :
    u.hostRefused npa write = u.appendLog c
      { LogRec.plain 0x0026 5 (BitVec.ofNat 64 (npa / 128 * 128)) (if write then 1 else 0) with die := (s.block (blockOf npa)).home } := by
  unfold State.hostRefused
  dsimp only
  rw [hb, ho]

end

/-- Settles O58. -/
theorem hostResults : Obligations.HostResults := by
  intro s npa bs
  refine ⟨fun h64 hsize hmay => ?_, fun c h64 hsize ho hs => ⟨s.freeBytes 64, ?_⟩, fun hsize hlen => ⟨fun hmay hbad hcode => ?_, fun c ho hs => ?_⟩, fun hhost => ?_, ?_⟩
  · have ha : npa / 64 * 64 = npa := Nat.div_mul_cancel (Nat.dvd_of_mod_eq_zero h64)
    refine State.gives_of (fun u => u.hostReads npa) rfl ?_
    unfold State.hostReads
    dsimp only
    rw [ha, if_neg (Nat.not_le.mpr (show npa < hdmSize from hsize)), if_pos hmay]
  · have ha : npa / 64 * 64 = npa := Nat.div_mul_cancel (Nat.dvd_of_mod_eq_zero h64)
    refine State.gives_of (fun u => u.hostReads npa) rfl ?_
    unfold State.hostReads
    dsimp only
    rw [ha, if_neg (Nat.not_le.mpr (show npa < hdmSize from hsize)), State.hostMay_of_sys ho hs, if_neg Bool.false_ne_true]
    exact State.hostRefused_owner _ false ho rfl
  · refine State.gives_of (fun u => u.hostWrites npa bs) rfl ?_
    unfold State.hostWrites
    rw [if_neg (by rintro (h | h); exacts [Nat.not_le.mpr (show npa < hdmSize from hsize) h, Nat.not_le.mpr h hlen]), hmay]
    dsimp only
    rw [hbad, hcode, if_neg (by decide)]
    split <;> rfl
  · refine State.gives_of (fun u => u.hostWrites npa bs) rfl ?_
    unfold State.hostWrites
    rw [if_neg (by rintro (h | h); exacts [Nat.not_le.mpr (show npa < hdmSize from hsize) h, Nat.not_le.mpr h hlen]), State.hostMay_of_sys ho hs]
    exact State.hostRefused_owner s true ho rfl
  · refine State.gives_of (fun u => u.hostSnoops npa true) rfl ?_
    unfold State.hostSnoops
    dsimp only
    rw [if_neg (by decide), if_neg (by rw [hhost]; exact Bool.false_ne_true)]
  · exact State.gives_of (fun u => u.hostSnoops npa false) rfl rfl

/-! ### Links, groups, expanders, cores and parts (R348 to R362) -/

section
variable {s : State}

/-! ### A line written in the LLC leaves memory alone -/

theorem State.mem_foldl {α : Type} (f : State → α → State) (l : List α) (hf : ∀ u x, (f u x).mem = u.mem) (s : State) : (l.foldl f s).mem = s.mem := by
  induction l generalizing s with
  | nil => rfl
  | cons x l ih => exact (ih _).trans (hf s x)

theorem State.release_mem (s : State) (b g : Nat) : (s.release b g).mem = s.mem := by
  unfold State.release
  split <;> rfl

theorem State.repack_mem (s : State) (b : Nat) : (s.repack b).mem = s.mem := by
  have hocc : ∀ (u : State) (o : Option Nat) (n : Nat), (u.occupy o 0 n).mem = u.mem := fun u o n => by
    unfold State.occupy
    split <;> rfl
  unfold State.repack
  dsimp only
  split
  · rfl
  · exact (State.mem_foldl _ _ (fun u g => u.release_mem b g) _).trans (hocc _ _ _)

theorem State.writeBack_mem (s : State) (line : Nat) (keep : Bool) : (s.writeBack line keep).mem = s.mem := by
  unfold State.writeBack
  split
  · rfl
  · split
    · rfl
    · dsimp only
      split
      · exact State.repack_mem _ _
      · rfl

theorem State.fit_mem (line : Nat) (skip : Option Nat) (n : Nat) (s : State) : (s.fit line skip n).mem = s.mem := by
  induction n generalizing s with
  | zero => rfl
  | succ n ih =>
    unfold State.fit
    split
    · rfl
    · split
      · rfl
      · refine (ih _).trans ?_
        split
        · rw [State.invalidate_mem, State.writeBack_mem]
        · exact (State.invalidate_mem _ _ _).trans (State.writeBack_mem _ _ _)

theorem State.setLine_mem (s : State) (skip : Option Nat) (e : Nat × Nat) : (s.setLine skip e).mem = s.mem := State.fit_mem _ _ _ { s with llc := _, clock := _ }

/-- An expander fails: it is marked, memory stands, and of its lines the dirty ones alone are left, poisoned. -/
theorem State.failExpander_of {x : Nat} {v : Expander} (h : FMap.find? s.expanders x = some v) (hf : v.failed = false) :
    (s.failExpander x).expanders = FMap.put s.expanders x { v with failed := true } ∧ (s.failExpander x).mem = s.mem ∧
    ∀ e ∈ (s.failExpander x).llc, s.inExpander x (e.1 * 128) = true → e.2.dirty = true ∧ e.2.code = codePoison := by
  unfold State.failExpander
  simp only [h, hf, Bool.false_eq_true, if_false]
  refine ⟨trivial, State.mem_foldl _ _ (fun u l => u.setLine_mem none (l, codePoison)) s, fun e he hin => ?_⟩
  obtain ⟨y, hy, rfl⟩ := List.mem_map.mp he
  dsimp only at hin
  have hkept := (List.mem_filter.mp hy).2
  dsimp only
  rw [if_pos hin]
  rw [hin] at hkept
  exact ⟨by simpa using hkept, rfl⟩

theorem State.bringIn_of {d n c y : Nat} (hc : s.coreOf d n = some c) (hy : s.spareOf d = some y) (hw : (s.core c).worn = true) (hr : s.residents c = []) :
    s.bringIn d n = (((s.emptyL1 c).modCore c fun v => { v with num := none, gated := true }).modCore y fun v => { v with num := some n, gated := false }).appendRepair
      fun m => { m with cores := m.cores.set d ((m.cores.getD d []).set n (y % 18)),
                        retired := (List.range 4).map fun e => m.retired.getD e [] ++ if e = d then [c % 18] else [] } := by
  unfold State.bringIn
  simp only [hc, hy, hw, hr, List.isEmpty_nil, Bool.and_self, if_true]

/-! ### A part's counter (R362) -/

/-- The state with a part's counter risen by `k`. -/
def State.counted (s : State) (key k : Nat) : State :=
  { s with module := { s.module with health := FMap.set 0 s.module.health key (FMap.get 0 s.module.health key + k) } }

variable {d c k : Nat} {p : Part} {retry : Bool}

/-- The core of a part, as fabricated: 0 for a part of another kind, 72 for a core that the die has not. -/
def State.partCore (s : State) (p : Part) : Nat :=
  match p with
  | .core d m => (s.coreOf d m).getD 72
  | .llcSet _ | .bond _ | .row _ | .serdes _ | .channel _ => 0

theorem State.partWorn_eq (hc : s.partCore p = c) (h72 : c ≠ 72) :
    s.partWorn p retry k = if FMap.get 0 s.module.health (partKey retry c p) ≤ (s.module.boot.getD defaultBoot).health.getD (partKind p) 0 ∧
        (s.module.boot.getD defaultBoot).health.getD (partKind p) 0 < FMap.get 0 s.module.health (partKey retry c p) + k
      then (s.counted (partKey retry c p) k).retirePart p else s.counted (partKey retry c p) k := by
  subst hc
  exact if_neg h72

theorem State.partCore_of (hcore : ∀ m, p = .core d m → s.coreOf d m = some c) (hdie : ∀ e m, p = .core e m → e = d)
    (hother : (∀ e m, p ≠ .core e m) → c = 0) : s.partCore p = c := by
  cases p with
  | core e m =>
    have he := hdie e m rfl
    subst he
    simp only [State.partCore, hcore m rfl, Option.getD_some]
  | llcSet n => exact (hother fun _ _ => nofun).symm
  | bond n => exact (hother fun _ _ => nofun).symm
  | row n => exact (hother fun _ _ => nofun).symm
  | serdes n => exact (hother fun _ _ => nofun).symm
  | channel n => exact (hother fun _ _ => nofun).symm

theorem takeSpare_free {n part : Nat} {used : List Nat} (h : ∀ o ∈ used, o / n ≠ part / n) : takeSpare n part used = some (used ++ [part]) := by
  unfold takeSpare
  rw [if_neg]
  simpa using h

theorem takeSpare_taken {n part : Nat} {used : List Nat} (h : ∃ o ∈ used, o / n = part / n) : takeSpare n part used = none := by
  unfold takeSpare
  rw [if_pos]
  simpa using h

theorem State.retireSet_free (u : State) {m : Nat} (h : ∀ o ∈ u.module.latestMap.llcSets, o / 64 ≠ m / 64) :
    u.retirePart (.llcSet m) = u.appendRepair fun v => { v with llcSets := v.llcSets ++ [m] } := by
  unfold State.retirePart repairOf
  dsimp only
  rw [takeSpare_free h]
  rfl

theorem State.retireSet_taken (u : State) {m : Nat} (h : ∃ o ∈ u.module.latestMap.llcSets, o / 64 = m / 64) : u.retirePart (.llcSet m) = u := by
  unfold State.retirePart repairOf
  dsimp only
  rw [takeSpare_taken h]
  rfl

theorem State.retireCore_of (u : State) {m : Nat} (h : u.coreOf d m = some c) : u.retirePart (.core d m) = u.modCore c fun v => { v with worn := true } := by
  unfold State.retirePart
  dsimp only
  rw [h]

end

/-- Settles O59. -/
theorem moduleEventResults : Obligations.ModuleEventResults := by
  intro s l d n x
  refine ⟨State.gives_of (fun u => { u with module := { u.module with links := u.module.links.filter (· != l) } }) rfl rfl, fun g h1 h2 h3 h4 h5 => ?_,
    fun g hg hno => ?_, fun v hv hf i hi => ?_,
    State.gives_of (fun u => { u with expanders := FMap.modify u.expanders x fun v => { v with failed := false } }) rfl rfl,
    State.gives_of (fun u => u.modDie d fun v => { v with step := min 8 (v.step + 1) }) rfl rfl, fun c hc hr => ?_,
    fun p retry k c hcore hdie hother h72 => ⟨fun hsame => ?_, fun hold hnew => ⟨?_, ?_, ?_⟩⟩, fun c y hc hy hw hr => ?_⟩
  · refine State.gives_of (fun u => u.defineGroup g) rfl ?_
    exact if_pos ⟨h1, h2, by rw [h3]; rfl, h4, h5⟩
  · refine State.gives_of (fun u => u.endGroup l) rfl ?_
    unfold State.endGroup
    rw [hg, hno]
    rfl
  · have hfail : exec i s = .next (s.partAll (s.failExpander x)) := by
      rcases List.mem_pair.mp hi with rfl | rfl <;> rfl
    refine ⟨_, hfail, ?_⟩
    rw [State.partAll_rest]
    exact State.failExpander_of hv hf
  · refine State.gives_of (fun u => u.gateCore d n) rfl ?_
    unfold State.gateCore
    rw [hc]
    dsimp only
    rw [hr]
    rfl
  · refine State.gives_of (fun u => u.partWorn p retry k) rfl ?_
    rw [State.partWorn_eq (State.partCore_of hcore hdie hother) h72, if_neg]
    · rfl
    · rintro ⟨ha, hb⟩
      rcases hsame with h | h
      · exact absurd hb (Nat.not_lt.mpr h)
      · exact absurd ha (Nat.not_le.mpr h)
  · rintro m rfl
    refine State.gives_of (fun u => u.partWorn (.core d m) retry k) rfl ?_
    rw [State.partWorn_eq (State.partCore_of hcore hdie hother) h72, if_pos ⟨hold, hnew⟩]
    exact State.retireCore_of _ (hcore m rfl)
  · rintro m rfl hfree
    refine State.gives_of (fun u => u.partWorn (.llcSet m) retry k) rfl ?_
    rw [State.partWorn_eq (State.partCore_of hcore hdie hother) h72, if_pos ⟨hold, hnew⟩]
    exact State.retireSet_free _ hfree
  · rintro m rfl htaken
    refine State.gives_of (fun u => u.partWorn (.llcSet m) retry k) rfl ?_
    rw [State.partWorn_eq (State.partCore_of hcore hdie hother) h72, if_pos ⟨hold, hnew⟩]
    exact State.retireSet_taken _ htaken
  · exact State.gives_of (fun u => u.bringIn d n) rfl (State.bringIn_of hc hy hw hr)

/-! ### Contexts and queues (R297 to R299) -/

theorem FMap.mem_of_find? {α : Type} {m : FMap α} {i : Nat} {v : α} (h : FMap.find? m i = some v) : (i, v) ∈ m := by
  induction m with
  | nil => cases h
  | cons e m ih =>
    obtain ⟨k, w⟩ := e
    unfold FMap.find? at h
    split at h
    · next hk => cases h; subst hk; exact List.mem_cons_self ..
    · exact List.mem_cons_of_mem _ (ih h)

/-- A filtered table holds what passes the filter. -/
theorem FMap.pass_of_find?_filter {α : Type} {m : FMap α} {p : Nat × α → Bool} {i : Nat} {v : α} (h : FMap.find? (m.filter p) i = some v) : p (i, v) = true :=
  (List.mem_filter.mp (FMap.mem_of_find? h)).2

section
variable {s u : State} {c : Nat}

/-! ### The steps of a reset (R298) -/

@[simp] theorem State.writeIndex_apart (s : State) (q : Nat) : (s.writeIndex q).apart = s.apart := by
  unfold State.writeIndex
  dsimp only
  split
  · rw [State.vaWrite_apart]; rfl
  · rw [State.cpPost_apart]; rfl
  · rw [State.cpTouch_apart]; rfl

theorem State.still_writeIndex (h : s.still u) (q : Nat) : s.still (u.writeIndex q) := by
  have hq : ∀ f : HostQueue → HostQueue, u.quiet 0 (u.modQueue q f) := fun _ => State.quiet_refl 0 u
  unfold State.writeIndex
  dsimp only
  split
  · exact State.still_trans h (State.vaWrite_quiet (hq _) ..).still
  · exact State.still_trans h (State.cpPost_quiet (hq _) ..).still
  · exact State.still_trans h (State.cpTouch_quiet (hq _) ..).still

@[simp] theorem State.writeIndices_apart (s : State) (c : Nat) : (s.writeIndices c).apart = s.apart := by
  refine State.apart_foldl _ _ (fun u q _ => ?_) s
  split <;> simp

theorem State.still_writeIndices (h : s.still u) (c : Nat) : s.still (u.writeIndices c) := by
  refine State.still_foldl _ _ (fun v q hv => ?_) h
  split
  · exact State.still_writeIndex hv q
  · exact hv

@[simp] theorem State.dropPackets_apart (s : State) (c : Nat) : (s.dropPackets c).apart = s.apart := by
  refine State.apart_foldl _ _ (fun u q _ => ?_) s
  exact State.writeIndex_apart _ _

theorem State.still_dropPackets (h : s.still u) (c : Nat) : s.still (u.dropPackets c) := by
  refine State.still_foldl _ _ ?_ h
  intro v q hv
  exact State.still_writeIndex (u := v.modQueue q _) hv q

/-- The engine threads of a context stop. -/
def State.stopAll (s : State) (c : Nat) : State :=
  ((s.engines.filter fun e => e.2.ctx == c && !e.2.done && !e.2.stopped).map (·.1)).foldl State.stopEngine s

theorem State.steady_stopAll (h : s.steady u) (c : Nat) : s.steady (u.stopAll c) := State.steady_foldl _ _ (fun _ e hv => State.steady_stopEngine hv e) h

theorem State.foldl_stopEngine_stopped (es : List Nat) (s : State) {e : Nat} (he : e ∈ es) {v : Engine}
    (hv : FMap.find? (es.foldl State.stopEngine s).engines e = some v) : v.stopped = true := by
  induction es generalizing s with
  | nil => cases he
  | cons x es ih =>
    by_cases hin : e ∈ es
    · exact ih _ hin hv
    · obtain rfl : e = x := (List.mem_cons.mp he).resolve_right hin
      obtain ⟨w, hw, hl⟩ := (State.steady_foldl (s := s.stopEngine e) _ es (fun _ y hy => State.steady_stopEngine hy y) (State.steady_refl _)).engines e v hv
      exact hl.2.2 (State.stopEngine_stopped hw)

/-- Each thread of the context is complete or stopped. -/
theorem State.stopAll_idle {e : Nat} {v : Engine} (hv : FMap.find? (s.stopAll c).engines e = some v) (hc : v.ctx = c) : v.done = true ∨ v.stopped = true := by
  obtain ⟨w, hw, hctx, hdone, hstop⟩ := (State.steady_stopAll (State.steady_refl s) c).engines e v hv
  by_cases hd : w.done = true
  · exact .inl (hdone hd)
  by_cases hs : w.stopped = true
  · exact .inr (hstop hs)
  refine .inr (State.foldl_stopEngine_stopped _ s ?_ hv)
  refine List.mem_map.mpr ⟨(e, w), List.mem_filter.mpr ⟨FMap.mem_of_find? hw, ?_⟩, rfl⟩
  simp [← hctx, hc, hd, hs]

/-- The commits of some teams past their commit points complete, and their images are freed. -/
def State.completeAll (s : State) (ts : List Nat) : State :=
  ts.foldl (fun u t => ((List.range (u.team t).slices).foldl (fun x k => x.completeLast t k) u).freeImage t) s

@[simp] theorem State.freeImage_engines (s : State) (t : Nat) : (s.freeImage t).engines = s.engines := by
  have hfold : ∀ (l : List Nat) (v : State), (l.foldl (fun u g => u.modDie (s.teamDie t) fun v => v.giveBack (ownerBits none) g) v).engines = v.engines := fun l => by
    induction l with
    | nil => intro _; rfl
    | cons x l ih => intro v; exact ih _
  exact hfold _ s

@[simp] theorem State.freeImage_module (s : State) (t : Nat) : (s.freeImage t).module = s.module := by
  have hfold : ∀ (l : List Nat) (v : State), (l.foldl (fun u g => u.modDie (s.teamDie t) fun v => v.giveBack (ownerBits none) g) v).module = v.module := fun l => by
    induction l with
    | nil => intro _; rfl
    | cons x l ih => intro v; exact ih _
  exact hfold _ s

theorem State.still_freeImage (h : s.still u) (t : Nat) : s.still (u.freeImage t) := by
  have hfold : s.still ((u.team t).image.foldl (fun v g => v.modDie (u.teamDie t) fun y => y.giveBack (ownerBits none) g) u) := by
    refine State.still_foldl _ _ ?_ h
    intro v _ hv
    exact hv
  exact hfold

theorem State.steady_completeAll (h : s.steady u) (ts : List Nat) : s.steady (u.completeAll ts) := by
  refine State.steady_foldl _ _ (fun v t hv => ?_) h
  have h1 := State.steady_access hv (State.still_foldl _ (List.range (v.team t).slices) (fun x k hx => State.still_completeLast hx t k) (State.still_refl v))
    (State.apart_foldl _ _ (fun x k _ => x.completeLast_apart t k) v)
  refine State.steady_trans h1 ⟨State.still_freeImage (State.still_refl _) t, State.freeImage_module _ _, fun e y hy => ?_⟩
  rw [State.freeImage_engines] at hy
  exact ⟨y, hy, y.later_refl⟩

/-- A team of a context that is reset. -/
def Team.gone (c : Nat) (v : Team) : Team :=
  { Team.blank with launch := v.launch, ctx := c, x := v.x, y := v.y, z := v.z, stage := v.stage, slices := v.slices, place := .retired, started := v.started }

/-- What the context's teams and threads hold is dropped: its teams are retired, its slices and gangs gone, its entries of the dies' lists too. -/
def State.cleared (s : State) (c : Nat) (ts : List Nat) : State :=
  { s with
      teams := s.teams.map fun (e : Nat × Team) => (e.1, if e.2.ctx = c then e.2.gone c else e.2),
      slices := s.slices.filter fun e => !ts.contains (e.1 / 256),
      gangs := s.gangs.filter fun g => !ts.contains g.team,
      ctxs := s.ctxs.map fun (e : Nat × Ctx) => (e.1, if e.1 = c then { e.2 with asked := [] } else e.2),
      dies := s.dies.map fun (e : Nat × Die) => (e.1,
        { e.2 with spill := e.2.spill.filter fun x => x.ctx != c, fq := e.2.fq.filter fun x => x.ctx != c,
                   fqWait := e.2.fqWait.filter fun x => x.ctx != c, asks := e.2.asks.filter fun a => a.1 != c }) }

theorem State.still_cleared (h : s.still u) (c : Nat) (ts : List Nat) : s.still (u.cleared c ts) := by
  refine State.still_trans h ⟨id, fun x => ?_⟩
  have hfind := FMap.find?_mapEntries u.ctxs (fun i v => if i = c then { v with asked := [] } else v) x
  unfold State.cleared
  dsimp only
  rw [hfind, Option.map_map]
  refine Option.map_congr fun v _ => ?_
  dsimp only [Function.comp]
  split <;> rfl

/-- A team of the context that was cleared has retired, with no slot and no matrix command. -/
theorem State.cleared_team {ts : List Nat} {t : Nat} {v : Team} (h : FMap.find? (s.cleared c ts).teams t = some v) (hc : v.ctx = c) :
    v.place = .retired ∧ v.slot = none ∧ v.queue = [] := by
  unfold State.cleared at h
  dsimp only at h
  rw [FMap.find?_mapEntries s.teams (fun _ w => if w.ctx = c then w.gone c else w) t] at h
  obtain ⟨w, -, rfl⟩ := Option.map_eq_some_iff.mp h
  by_cases hw : w.ctx = c
  · rw [if_pos hw]
    exact ⟨rfl, rfl, rfl⟩
  · rw [if_neg hw] at hc
    exact absurd hc hw

@[simp] theorem State.refillQueue_apart (s : State) (d : Nat) : (s.refillQueue d).apart = s.apart :=
  (State.apart_foldl _ _ (fun u e _ => u.postFault_apart d e) _).trans (State.apart_modDie _ _ _ (by intro; rfl))

theorem State.still_refillQueue (h : s.still u) (d : Nat) : s.still (u.refillQueue d) := by
  refine State.still_foldl _ _ (fun v e hv => State.still_trans hv (State.postFault_quiet (State.quiet_refl 0 v) ..).still) ?_
  exact h

@[simp] theorem State.setMailbox_apart (s : State) (c : Nat) (m : Mailbox) (d : Option Nat) (b : Bool) : (s.setMailbox c m d b).apart = s.apart := by
  unfold State.setMailbox
  simp

/-- The launches and graphs of the context end: none of them has tails or nodes left. -/
theorem State.endLaunch_apart (s : State) (l : Nat) (f : Launch → Launch) (hf : ∀ v, (f v).tails = []) : ((s.modLaunch l f).launchCheck l).apart = s.apart := by
  refine (State.launchCheck_apart ?_).trans rfl
  unfold State.launch State.modLaunch
  rw [FMap.get_eq_find?, FMap.find?_modify, if_pos rfl]
  cases FMap.find? s.launches l with
  | none => rfl
  | some v => exact hf v

@[simp] theorem State.dropLaunches_apart (s : State) (c : Nat) : (s.dropLaunches c).apart = s.apart := by
  unfold State.dropLaunches
  refine (State.apart_foldl _ _ (fun u g _ => ?_) _).trans (State.apart_foldl _ _ (fun u l _ => ?_) s)
  · exact State.graphCheck_apart _ _
  · exact State.endLaunch_apart _ _ _ fun _ => rfl

theorem State.still_launchCheck_ended (h : s.still u) (l : Nat) (f : Launch → Launch) (hf : ∀ v, (f v).tails = []) : s.still ((u.modLaunch l f).launchCheck l) := by
  have htails : ((u.modLaunch l f).launch l).tails = [] := by
    unfold State.launch State.modLaunch
    rw [FMap.get_eq_find?, FMap.find?_modify, if_pos rfl]
    cases FMap.find? u.launches l with
    | none => rfl
    | some v => exact hf v
  have h1 : s.still (u.modLaunch l f) := h
  generalize u.modLaunch l f = x at htails h1
  have h2 := State.endSignal_quiet (State.quiet_refl 0 x) (x.launch l).ctx (4, l) (x.launch l).params.signal (x.launch l).params.value (x.launch l).params.sigadd (x.launch l).addr
  unfold State.launchCheck
  dsimp only
  split
  · exact h1
  · rw [htails]
    split
    · exact State.still_trans h1 (State.originDone_quiet (u := State.modLaunch _ _ _) h2 _).still
    · exact State.still_trans h1 h2.still

theorem State.still_dropLaunches (h : s.still u) (c : Nat) : s.still (u.dropLaunches c) := by
  unfold State.dropLaunches
  refine State.still_foldl _ _ ?_ (State.still_foldl _ _ (fun v l hv => State.still_launchCheck_ended hv _ _ fun _ => rfl) h)
  intro v g hv
  exact State.still_trans hv (State.graphCheck_quiet (u := v.modGraph _ _) (State.quiet_refl 0 v) g).still

/-! ### The reset as a whole -/

theorem State.isSome_of_still (h : s.still u) (hc : (FMap.find? s.ctxs c).isSome = true) : (FMap.find? u.ctxs c).isSome = true := by
  have := congrArg Option.isSome (h.ctxs c)
  rw [Option.isSome_map, Option.isSome_map] at this
  rw [this]; exact hc

/-- The context's teams. -/
def State.ctxTeams (s : State) (c : Nat) : List Nat := (FMap.keys s.teams).filter fun t => (s.team t).ctx == c

/-- Steps 2 and 3 of a reset, but for the mailbox. -/
def State.workDropped (s : State) (c : Nat) : State :=
  (List.range 4).foldl State.refillQueue (((s.stopAll c).completeAll (s.ctxTeams c)).cleared c (s.ctxTeams c))

theorem State.dropWork_eq (s : State) (c : Nat) :
    s.dropWork c = (s.workDropped c).setMailbox c { ((s.workDropped c).ctx c).mailbox with id := 0, wanted := 0, owed := 0 } none true := by
  unfold State.dropWork State.workDropped State.stopAll State.completeAll State.cleared State.ctxTeams Team.gone
  rfl

/-- Step 1 of a reset. -/
def State.admissionStopped (s : State) (c : Nat) : State := (s.modCtx c fun v => { v with stopped := true }).dropPackets c

/-- The steps of a reset, before the context goes on. -/
def State.resetDone (s : State) (c : Nat) : State :=
  ((((s.admissionStopped c).dropWork c).writeIndices c).dropLaunches c).appendLog c (LogRec.plain 0x0024 4 0 0)

theorem State.resetCtx_eq (hc : (FMap.find? s.ctxs c).isSome = true) :
    s.resetCtx c = (s.resetDone c).modCtx c fun v => { v with stopped := false, halted := false, absent := [] } := by
  unfold State.resetCtx
  rw [if_neg (Option.isNone_iff_eq_none.not.mpr (Option.isSome_iff_ne_none.mp hc))]
  rfl

/-- After the work has been dropped memory is written, and nothing that is apart from it. -/
theorem State.resetDone_apart (s : State) (c : Nat) :
    (s.resetDone c).apart = (((s.admissionStopped c).stopAll c).completeAll ((s.admissionStopped c).ctxTeams c) |>.cleared c ((s.admissionStopped c).ctxTeams c)).apart := by
  unfold State.resetDone
  rw [State.appendLog_apart, State.dropLaunches_apart, State.writeIndices_apart, State.dropWork_eq, State.setMailbox_apart]
  exact State.apart_foldl _ _ (fun u d _ => u.refillQueue_apart d) _

theorem State.admissionStopped_still (s : State) (c : Nat) : (s.modCtx c fun v => { v with stopped := true }).still (s.admissionStopped c) :=
  State.still_dropPackets (State.still_refl _) c

theorem State.workDropped_still (s : State) (c : Nat) : s.still (s.workDropped c) := by
  refine State.still_foldl _ _ (fun v d hv => State.still_refillQueue hv d) ?_
  exact State.still_cleared (State.steady_completeAll (State.steady_stopAll (State.steady_refl s) c) _).still c _

theorem State.setMailbox_ctx {w : State} (hw : (FMap.find? w.ctxs c).isSome = true) (m : Mailbox) (d : Option Nat) (b : Bool) :
    (FMap.find? (w.setMailbox c m d b).ctxs c).isSome = true ∧ ((w.setMailbox c m d b).ctx c).mailbox = m := by
  unfold State.setMailbox
  rw [State.invalidate_ctxs, State.invalidate_ctx, State.ctx_modCtx_self _ hw, State.modCtx, FMap.isSome_modify]
  exact ⟨hw, rfl⟩

theorem State.signals_still (z : State) (c : Nat) : z.still (((z.writeIndices c).dropLaunches c).appendLog c (LogRec.plain 0x0024 4 0 0)) :=
  State.still_trans (State.still_dropLaunches (State.still_writeIndices (State.still_refl z) c) c) (State.appendLog_quiet (State.quiet_refl 0 _) c _).still

/-- The context is there through the reset, and its mailbox names no request. -/
theorem State.resetDone_ctx (hc : (FMap.find? s.ctxs c).isSome = true) :
    (FMap.find? (s.resetDone c).ctxs c).isSome = true ∧ ((s.resetDone c).ctx c).mailbox.id = 0 := by
  have hstopped : (FMap.find? (s.admissionStopped c).ctxs c).isSome = true := by
    refine State.isSome_of_still (s.admissionStopped_still c) ?_
    rw [State.modCtx, FMap.isSome_modify]
    exact hc
  have hwork := State.isSome_of_still ((s.admissionStopped c).workDropped_still c) hstopped
  have hbox := State.setMailbox_ctx hwork { (((s.admissionStopped c).workDropped c).ctx c).mailbox with id := 0, wanted := 0, owed := 0 } none true
  rw [← State.dropWork_eq] at hbox
  unfold State.resetDone
  generalize (s.admissionStopped c).dropWork c = z at hbox
  have hrest := State.signals_still z c
  exact ⟨State.isSome_of_still hrest hbox.1, (congrArg (fun v : Ctx => v.mailbox.id) (State.ctx_of_still hrest c)).trans (congrArg Mailbox.id hbox.2)⟩

/-- What is left of a context that was reset: no team in place, no thread going on, no spilled write. -/
theorem State.resetCtx_left (hc : (FMap.find? s.ctxs c).isSome = true) :
    ((s.resetCtx c).ctx c).stopped = false ∧ ((s.resetCtx c).ctx c).halted = false ∧ ((s.resetCtx c).ctx c).mailbox.id = 0 ∧
    (∀ t v, FMap.find? (s.resetCtx c).teams t = some v → v.ctx = c → v.place = .retired ∧ v.slot = none ∧ v.queue = []) ∧
    (∀ e v, FMap.find? (s.resetCtx c).engines e = some v → v.ctx = c → v.done = true ∨ v.stopped = true) ∧
    (∀ d v, FMap.find? (s.resetCtx c).dies d = some v → ∀ x ∈ v.spill, x.ctx ≠ c) := by
  obtain ⟨hin, hbox⟩ := State.resetDone_ctx hc
  have happ := s.resetDone_apart c
  rw [State.resetCtx_eq hc, State.ctx_modCtx_self _ hin]
  refine ⟨rfl, rfl, hbox, fun t v hv hvc => ?_, fun e v hv hvc => ?_, fun d v hv x hx => ?_⟩
  · have hteams : (s.resetDone c).teams = _ := congrArg (fun a => a.2.2.1) happ
    have hv' : FMap.find? (s.resetDone c).teams t = some v := hv
    rw [hteams] at hv'
    exact State.cleared_team (ts := (s.admissionStopped c).ctxTeams c) (s := ((s.admissionStopped c).stopAll c).completeAll ((s.admissionStopped c).ctxTeams c)) hv' hvc
  · have hengines : (s.resetDone c).engines = _ := congrArg (fun a => a.2.1) happ
    have hv2 : FMap.find? (((s.admissionStopped c).stopAll c).completeAll ((s.admissionStopped c).ctxTeams c)).engines e = some v := by
      rw [← hv]
      exact congrArg (FMap.find? · e) hengines.symm
    obtain ⟨w, hw, hctx, hdone, hstop⟩ := (State.steady_completeAll (State.steady_refl _) _).engines e v hv2
    exact (State.stopAll_idle hw (hctx.symm.trans hvc)).imp hdone hstop
  · have hdies := congrArg (fun a => a.2.2.2) happ
    have hmem : (d, v.spill) ∈ (s.resetDone c).dies.map fun e => (e.1, e.2.spill) := List.mem_map.mpr ⟨_, FMap.mem_of_find? hv, rfl⟩
    rw [show ((s.resetDone c).dies.map fun e => (e.1, e.2.spill)) = _ from hdies] at hmem
    obtain ⟨y, hy, he⟩ := List.mem_map.mp hmem
    obtain ⟨w, -, rfl⟩ := List.mem_map.mp hy
    have hspill : (w.2.spill.filter fun x => x.ctx != c) = v.spill := congrArg Prod.snd he
    rw [← hspill] at hx
    simpa using (List.mem_filter.mp hx).2

end

/-- Settles O57. -/
theorem contextResults : Obligations.ContextResults := by
  intro s
  refine ⟨fun c h1 h2 h3 h4 h5 h6 h7 h8 h9 h10 => ?_, fun q h1 h2 h3 h4 h5 h6 h7 h8 h9 => ?_, fun c hc => ⟨?_, ?_⟩⟩
  · refine State.gives_of (fun u => u.createCtx c) rfl ?_
    refine if_pos ⟨h1, by rw [h2]; rfl, h3, h4, h5, h6, h7, ?_, h9, h10⟩
    exact List.all_eq_true.mpr fun b hb => beq_iff_eq.mpr (h8 b hb)
  · refine State.gives_of (fun u => u.createQueue q) rfl ?_
    exact if_pos ⟨h1, by rw [h2]; rfl, h3, h4, h5, h6, h7, h8, h9⟩
  · refine ⟨s.partAll (s.resetCtx c), rfl, ?_⟩
    rw [State.partAll_rest]
    exact State.resetCtx_left hc
  · refine ⟨s.partAll (s.destroyCtx c), rfl, ?_⟩
    rw [State.partAll_rest]
    unfold State.destroyCtx
    rw [if_neg (Option.isNone_iff_eq_none.not.mpr (Option.isSome_iff_ne_none.mp hc))]
    refine ⟨?_, fun q v hv => ?_, fun e v hv => ?_⟩
    · exact (FMap.find?_erase ..).trans (if_pos rfl)
    · simpa using FMap.pass_of_find?_filter hv
    · simpa using FMap.pass_of_find?_filter hv

/-! ### Reset (R358 to R360) and management (R357, R363, R364) -/

section
variable {s : State}

theorem State.resetCtx_module (s : State) (c : Nat) : (s.resetCtx c).module = s.module := by
  by_cases hc : (FMap.find? s.ctxs c).isSome = true
  · rw [State.resetCtx_eq hc]
    have hdone : (s.resetDone c).module = _ := congrArg Prod.fst (s.resetDone_apart c)
    have hstop : (s.admissionStopped c).module = s.module := congrArg Prod.fst ((State.dropPackets_apart _ c).trans (State.modCtx_apart s c _))
    have hclear := (State.steady_completeAll (State.steady_stopAll (State.steady_refl (s.admissionStopped c)) c) ((s.admissionStopped c).ctxTeams c)).module
    exact (hdone.trans hclear).trans hstop
  · unfold State.resetCtx
    rw [if_pos (by simpa using hc)]

/-- The state as a module reset finds it: after a junction's thermal limit every context has been reset (R358). -/
def State.beforeReset (s : State) (cause : Nat) : State := if cause = 1 then (FMap.keys s.ctxs).foldl State.resetCtx s else s

theorem State.beforeReset_module (s : State) (cause : Nat) : (s.beforeReset cause).module = s.module := by
  have hfold : ∀ (cs : List Nat) (v : State), (cs.foldl State.resetCtx v).module = v.module := fun cs => by
    induction cs with
    | nil => intro _; rfl
    | cons c cs ih => exact fun v => (ih _).trans (v.resetCtx_module c)
  unfold State.beforeReset
  split
  · exact hfold _ s
  · rfl

/-- What a module reset leaves nothing of, of what it keeps, and which images it starts from. -/
theorem State.moduleReset_left (v : State) (cause : Nat) :
    let u := v.moduleReset cause
    Out.restart cause ∈ u.out ∧ u.ctxs = [] ∧ u.teams = [] ∧ u.slices = [] ∧ u.blocks = [] ∧ u.llc = [] ∧ u.engines = [] ∧ u.queues = [] ∧ u.launches = [] ∧
    u.graphs = [] ∧ u.groups = [] ∧ u.mem = v.mem.filter (fun e => v.isHost e.1) ∧ u.module.powerLimit = 2600 ∧
    u.module.mapA = v.module.mapA ∧ u.module.mapB = v.module.mapB ∧ u.module.bootA = v.module.bootA ∧ u.module.bootB = v.module.bootB ∧ u.module.cause = cause ∧
    (∀ b r, v.module.chooseBoot = some b → v.module.chooseMap = some r → u.module.inReset = false ∧ u.module.boot = some b ∧ u.module.map = some r ∧
      u.module.bootVer = b.version ∧ u.module.mapSeq = r.seq) ∧
    ((v.module.chooseBoot = none ∨ v.module.chooseMap = none) → u.module.inReset = true) := by
  unfold State.moduleReset
  dsimp only
  cases hb : v.module.chooseBoot with
  | none =>
    refine ⟨List.mem_append_right _ (List.mem_singleton_self _), rfl, rfl, rfl, rfl, rfl, rfl, rfl, rfl, rfl, rfl, rfl, rfl, rfl, rfl, rfl, rfl, rfl, ?_, fun _ => rfl⟩
    intro b r h
    cases h
  | some b =>
    cases hr : v.module.chooseMap with
    | none =>
      refine ⟨List.mem_append_right _ (List.mem_singleton_self _), rfl, rfl, rfl, rfl, rfl, rfl, rfl, rfl, rfl, rfl, rfl, rfl, rfl, rfl, rfl, rfl, rfl, ?_, fun _ => rfl⟩
      intro b r _ h
      cases h
    | some r =>
      refine ⟨List.mem_append_right _ (List.mem_singleton_self _), rfl, rfl, rfl, rfl, rfl, rfl, rfl, rfl, rfl, rfl, rfl, rfl, rfl, rfl, rfl, rfl, rfl, ?_, ?_⟩
      · rintro b' r' ⟨⟩ ⟨⟩
        exact ⟨rfl, rfl, rfl, rfl, rfl⟩
      · rintro (h | h) <;> cases h

/-- The three causes of a module reset. -/
theorem exec_reset {x : Instr × Nat} (hx : x ∈ [(Instr.moduleReset, 0), (Instr.thermalReset, 1), (Instr.powerOn, 2)]) :
    exec x.1 s = .next (s.partAll ((s.beforeReset x.2).moduleReset x.2)) := by
  rcases List.mem_cons.mp hx with rfl | hx
  · rfl
  rcases List.mem_pair.mp hx with rfl | rfl <;> rfl

end

/-- Settles O60. -/
theorem managementResults : Obligations.ManagementResults := by
  intro s nonce w
  refine ⟨State.gives_of (fun u => { u with out := u.out ++ [.certificate u.module.certificate] }) rfl rfl,
    State.gives_of (fun u => { u with out := u.out ++ [.report (u.module.report nonce u.draws)], draws := u.draws + 1 }) rfl rfl,
    fun b => State.gives_of (fun u => { u with module := u.module.writeBoot b }) rfl rfl,
    fun r => State.gives_of (fun u => { u with module := u.module.writeMap { r with sig := some (r.sig.getD []) } }) rfl rfl,
    fun hin => ⟨fun hlo hhi h50 => ?_, ?_⟩, fun x hx => ⟨_, exec_reset hx, ?_⟩⟩
  · refine State.gives_of (fun u => if u.module.inReset ∨ w < 1600 ∨ 2600 < w ∨ w % 50 ≠ 0 then u else { u with module := { u.module with powerLimit := w } }) rfl ?_
    refine if_neg ?_
    rw [hin]
    rintro (h | h | h | h)
    · cases h
    · exact Nat.not_lt.mpr hlo h
    · exact Nat.not_lt.mpr hhi h
    · exact h h50
  · refine ⟨(List.range 4).map fun d => Config.reading (s.draws + d), Config.reading (s.draws + 4), State.gives_of State.healthReport rfl ?_⟩
    unfold State.healthReport
    rw [if_neg (by rw [hin]; exact Bool.false_ne_true)]
  · have hleft := (s.beforeReset x.2).moduleReset_left x.2
    rw [s.beforeReset_module] at hleft
    rw [State.partAll_rest]
    exact hleft

end Sys2Proof.Machine
end

section
/-! SUPPORT. Teams placed, swapped out and retired; the command processor's packets and nodes -/

namespace Sys2Proof.Machine

/-! ### Teams placed, swapped out, ready again, retired (R317 to R324) -/

section
variable {s u : State} {t : Nat}

/-! ### What placing and halting a team keep -/

theorem State.freeImage_keeps (s : State) (t : Nat) : (s.freeImage t).slices = s.slices ∧ (s.freeImage t).gangs = s.gangs ∧
    (s.freeImage t).launches = s.launches ∧ (s.freeImage t).teams = FMap.modify s.teams t fun v => { v with image := [] } := by
  have hfold : ∀ (l : List Nat) (v : State), let w := l.foldl (fun u g => u.modDie (s.teamDie t) fun v => v.giveBack (ownerBits none) g) v
      w.slices = v.slices ∧ w.gangs = v.gangs ∧ w.launches = v.launches ∧ w.teams = v.teams := fun l => by
    induction l with
    | nil => exact fun _ => ⟨rfl, rfl, rfl, rfl⟩
    | cons x l ih => exact fun v => ih (v.modDie _ _)
  obtain ⟨h1, h2, h3, h4⟩ := hfold (s.team t).image s
  refine ⟨h1, h2, h3, ?_⟩
  unfold State.freeImage State.modTeam
  dsimp only
  rw [h4]

/-- A slice without copies of NC lines is as it was after every copy has gone. -/
theorem State.dropCopies_slice {j k : Nat} (h : (s.slice j k).nc = []) (t : Nat) : (s.dropCopies t).slice j k = s.slice j k := by
  have hstep : ∀ (v : State) (i : Nat), (v.slice j k).nc = [] → (v.modSlice t i fun x => { x with nc := [] }).slice j k = v.slice j k := by
    intro v i hv
    unfold State.slice State.modSlice at *
    dsimp only
    rw [FMap.get_eq_find?] at hv
    rw [FMap.get_eq_find?, FMap.get_eq_find?, FMap.find?_modify]
    split
    · cases hf : FMap.find? v.slices (sliceKey j k) with
      | none => rfl
      | some x =>
        rw [hf] at hv
        have hx : x.nc = [] := hv
        show ({ x with nc := [] } : Slice) = x
        rw [← hx]
    · rfl
  have hfold : ∀ (l : List Nat) (v : State), (v.slice j k).nc = [] → (l.foldl (fun u i => u.modSlice t i fun x => { x with nc := [] }) v).slice j k = v.slice j k := by
    intro l
    induction l with
    | nil => exact fun _ _ => rfl
    | cons i l ih =>
      intro v hv
      have h1 := hstep v i hv
      exact (ih _ (by rw [h1]; exact hv)).trans h1
  exact hfold _ s h

theorem State.dropCopies_keeps (s : State) (t : Nat) : (s.dropCopies t).gangs = s.gangs ∧ (s.dropCopies t).teams = s.teams := by
  have hfold : ∀ (l : List Nat) (v : State), let w := l.foldl (fun u i => u.modSlice t i fun x => { x with nc := [] }) v
      w.gangs = v.gangs ∧ w.teams = v.teams := fun l => by
    induction l with
    | nil => exact fun _ => ⟨rfl, rfl⟩
    | cons i l ih => exact fun v => ih (v.modSlice t i _)
  exact hfold _ s

/-- A gang whose slices stand alike, none having entered its handler, is a gang still when gangs part. -/
theorem State.mem_partAll {g : Gang} (hg : g ∈ u.gangs) (h0 : g.ks ≠ []) (ht : s.trapped u g = []) (hx : ∀ k ∈ g.ks, (u.slice g.team k).status ≠ .exited)
    (ha : ∀ j ∈ g.ks, ∀ k ∈ g.ks, (u.slice g.team j).stand = (u.slice g.team k).stand) : g ∈ (s.partAll u).gangs := by
  have hstep : ∀ (v : State) (x : Gang), v.slices = u.slices → g ∈ v.gangs → g ∈ (v.regroup x.team x.ks (s.trapped u x)).gangs := by
    intro v x hv hgv
    by_cases hsame : x.team = g.team ∧ x.ks = g.ks
    · have hslice : ∀ k, v.slice g.team k = u.slice g.team k := fun k => by unfold State.slice; rw [hv]
      have htx : s.trapped u x = [] := by
        unfold State.trapped at ht ⊢
        rw [hsame.1, hsame.2]
        exact ht
      rw [htx, hsame.1, hsame.2, State.regroup_alike h0 (fun k hk => by rw [hslice]; exact hx k hk) fun j hj k hk => by rw [hslice, hslice]; exact ha j hj k hk]
      exact hgv
    · refine List.mem_flatMap.mpr ⟨g, hgv, ?_⟩
      rw [if_neg fun h => hsame ⟨h.1.symm, h.2.symm⟩]
      exact List.mem_singleton_self g
  have hfold : ∀ (l : List Gang) (v : State), v.slices = u.slices → g ∈ v.gangs → g ∈ (l.foldl (fun v x => v.regroup x.team x.ks (s.trapped u x)) v).gangs := by
    intro l
    induction l with
    | nil => exact fun _ _ h => h
    | cons x l ih => exact fun v hv hgv => ih _ hv (hstep v x hv hgv)
  exact hfold u.gangs u rfl hg

/-! ### A team's start (R97, R237, R327) -/

/-- The home gang of a team's slices from number 8 × g. -/
def Team.homeGang (v : Team) (t g : Nat) : Gang := { team := t, ks := (List.range (min 8 (v.slices - 8 * g))).map (8 * g + ·), age := 0, wait := none }

theorem Team.mem_homeGang {v : Team} {g k : Nat} (h : k ∈ (v.homeGang t g).ks) : k < v.slices := by
  obtain ⟨i, hi, rfl⟩ := List.mem_map.mp h
  have := List.mem_range.mp hi
  omega

theorem Team.homeGang_ne_nil {v : Team} {g : Nat} (h : g < (v.slices + 7) / 8) : (v.homeGang t g).ks ≠ [] := by
  have : min 8 (v.slices - 8 * g) ≠ 0 := by omega
  simpa [Team.homeGang] using this

theorem find?_foldl_put {v : Slice} {k : Nat} (l : List Nat) (hk : k ∈ l) (m : FMap Slice) :
    FMap.find? (l.foldl (fun m k => FMap.put m (sliceKey t k) v) m) (sliceKey t k) = some v := by
  have hkeep : ∀ (l : List Nat) (m : FMap Slice), FMap.find? m (sliceKey t k) = some v →
      FMap.find? (l.foldl (fun m k => FMap.put m (sliceKey t k) v) m) (sliceKey t k) = some v := by
    intro l
    induction l with
    | nil => exact fun _ h => h
    | cons i l ih =>
      intro m hm
      refine ih _ ?_
      rw [FMap.find?_put]
      split
      · rfl
      · exact hm
  induction l generalizing m with
  | nil => cases hk
  | cons i l ih =>
    rcases List.mem_cons.mp hk with rfl | hk
    · exact hkeep l _ (by rw [FMap.find?_put, if_pos rfl])
    · exact ih hk _

/-- A team that starts without channels has its slices at the entry and its home gangs. -/
theorem State.startTeam_starts (ht : (FMap.find? s.teams t).isSome = true) :
    ((s.startTeam t []).team t) = { s.team t with started := true, slot := s.freeSlot (s.team t).ctx, chans := [] } ∧
    (FMap.find? (s.startTeam t []).teams t).isSome = true ∧
    (∀ k < (s.team t).slices, (s.startTeam t []).slice t k = Slice.start (s.ctx (s.team t).ctx) (s.params t).entry) ∧
    ∀ g < ((s.team t).slices + 7) / 8, (s.team t).homeGang t g ∈ (s.startTeam t []).gangs := by
  refine ⟨FMap.get_modify_eq _ _ ht, ?_, fun k hk => ?_, fun g hg => ?_⟩
  · show (FMap.find? (FMap.modify s.teams t _) t).isSome = true
    rw [FMap.isSome_modify]
    exact ht
  · exact FMap.get_of_find? (find?_foldl_put _ (List.mem_range.mpr hk) _)
  · exact List.mem_append_right _ (List.mem_map.mpr ⟨g, List.mem_range.mpr hg, rfl⟩)

/-- A team placed on a core is resident there; its slot, its channels, its slices that hold no copy of an NC line, and the gangs are as they were. -/
theorem State.settleOn_keeps (ht : (FMap.find? s.teams t).isSome = true) (c : Nat) (floor : Bool) :
    (s.settleOn t c floor).gangs = s.gangs ∧ (∀ k, (s.slice t k).nc = [] → (s.settleOn t c floor).slice t k = s.slice t k) ∧
    (s.settleOn t c floor).teamCore t = some c ∧ ((s.settleOn t c floor).team t).started = (s.team t).started ∧
    ((s.settleOn t c floor).team t).slot = (s.team t).slot ∧ ((s.settleOn t c floor).team t).chans = (s.team t).chans := by
  let s1 := if (s.team t).last = some c then s else s.dropCopies t
  have h1 : s1.gangs = s.gangs ∧ s1.teams = s.teams := by
    show (if (s.team t).last = some c then s else s.dropCopies t).gangs = s.gangs ∧ (if (s.team t).last = some c then s else s.dropCopies t).teams = s.teams
    split
    · exact ⟨rfl, rfl⟩
    · exact s.dropCopies_keeps t
  have hslice : ∀ k, (s.slice t k).nc = [] → s1.slice t k = s.slice t k := fun k hk => by
    show (if (s.team t).last = some c then s else s.dropCopies t).slice t k = s.slice t k
    split
    · rfl
    · exact State.dropCopies_slice hk t
  obtain ⟨hsl, hg, -, hteams⟩ := s1.freeImage_keeps t
  have hteam : (s.settleOn t c floor).team t = 
      { s.team t with
        image := [], place := .resident c (s.quartersFor (s.residents c) t) (s.nextOrder c) 0, passed := 0
        whole := s.fresh (s.teamDie t), floor := floor, last := some c } := by
    have hin : (FMap.find? (s1.freeImage t).teams t).isSome = true := by rw [hteams, FMap.isSome_modify, h1.2]; exact ht
    refine (FMap.get_modify_eq Team.blank _ hin).trans ?_
    rw [hteams, FMap.get_modify_eq Team.blank _ (by rw [h1.2]; exact ht), h1.2]
    rfl
  refine ⟨hg.trans h1.1, fun k hk => ?_, ?_, ?_, ?_, ?_⟩
  · show FMap.get _ (s1.freeImage t).slices (sliceKey t k) = _
    rw [hsl]
    exact hslice k hk
  · unfold State.teamCore
    rw [hteam]
  · rw [hteam]
  · rw [hteam]
  · rw [hteam]

/-- A read of no byte touches nothing but the free choices and the transactions. -/
theorem State.cpReads_none (s : State) (c : Nat) (va : W64) : ∃ d o, s.cpReads c va 0 = { s with draws := d, out := o } := by
  unfold State.cpReads
  have ht : s.cpTouch c va 0 = s := rfl
  rw [ht]
  split
  · split
    · exact ⟨_, _, rfl⟩
    · exact ⟨_, _, rfl⟩
  · exact ⟨_, _, rfl⟩

theorem State.isSome_of_next {d : Nat} (h : s.nextTeam d = some t) : (FMap.find? s.teams t).isSome = true := by
  have hmem : ∀ p, t ∈ s.considered d p → t ∈ FMap.keys s.teams := by
    intro p
    induction p with
    | zero => exact fun h => nomatch h
    | succ p ih =>
      intro hp
      unfold State.considered at hp
      dsimp only at hp
      split at hp
      · exact List.mem_of_mem_filter (List.mem_of_mem_take hp)
      · rcases List.mem_append.mp hp with hp | hp
        · exact List.mem_of_mem_filter hp
        · exact ih hp
  have := hmem 8 (List.mem_of_find?_eq_some h)
  obtain ⟨e, he, rfl⟩ := List.mem_map.mp this
  have hfind : ∀ (m : FMap Team), e ∈ m → (FMap.find? m e.1).isSome = true := by
    intro m
    induction m with
    | nil => exact fun h => nomatch h
    | cons x m ih =>
      intro hm
      obtain ⟨k, v⟩ := x
      unfold FMap.find?
      split
      · rfl
      · next hne =>
        rcases List.mem_cons.mp hm with rfl | hm
        · exact absurd rfl hne
        · exact ih hm
  exact hfind _ he

/-- TEAM_PLACE of a team that has not started and has no channel. -/
theorem State.teamPlaced_starts {c : Nat} (hn : s.nextTeam (s.teamDie t) = some t) (hc : s.coreFor t = some c) (hs : (s.team t).started = false)
    (hch : (s.params t).chan = 0) :
    let u := s.partAll (s.teamPlaced t)
    (u.team t).started = true ∧ (u.team t).slot = s.freeSlot (s.team t).ctx ∧ (u.team t).chans = [] ∧ u.teamCore t = some c ∧
    (∀ k < (s.team t).slices, u.slice t k = Slice.start (s.ctx (s.team t).ctx) (s.params t).entry) ∧
    ∀ g < ((s.team t).slices + 7) / 8, (s.team t).homeGang t g ∈ u.gangs := by
  obtain ⟨d, o, hr⟩ := s.cpReads_none (s.team t).ctx (s.params t).chtab
  have hplaced : s.teamPlaced t = (State.startTeam { s with draws := d, out := o } t []).settleOn t c false := by
    have haccess : s.tableAccess t = .ok := by
      unfold State.tableAccess
      rw [hch]
      simp
    have hchans : s.tableChans t = some [] := by
      unfold State.tableChans
      dsimp only
      rw [hch]
      rfl
    unfold State.teamPlaced
    rw [if_pos hn, hc]
    dsimp only
    unfold State.placeOn
    rw [hs, haccess, hchans, hch, Nat.mul_zero, hr]
    rfl
  obtain ⟨hteam, hin, hslices, hgangs⟩ := State.startTeam_starts (s := { s with draws := d, out := o }) (t := t) (show (FMap.find? s.teams t).isSome = true from State.isSome_of_next hn)
  obtain ⟨kgangs, kslice, kcore, kstarted, kslot, kchans⟩ := State.settleOn_keeps hin c false
  rw [← hplaced] at kgangs kslice kcore kstarted kslot kchans
  rw [hteam] at kstarted kslot kchans
  dsimp only at kslot
  have hfree : State.freeSlot { s with draws := d, out := o } (s.team t).ctx = s.freeSlot (s.team t).ctx := by
    unfold State.freeSlot
    rfl
  have hsl : ∀ k < (s.team t).slices, (s.teamPlaced t).slice t k = Slice.start (s.ctx (s.team t).ctx) (s.params t).entry := fun k hk => by
    have h1 := hslices k hk
    exact (kslice k (by rw [h1]; rfl)).trans h1
  have hrest := State.partAll_rest s (s.teamPlaced t)
  refine ⟨?_, ?_, ?_, ?_, fun k hk => ?_, fun g hg => ?_⟩
  · rw [hrest]; exact kstarted
  · rw [hrest, ← hfree]; exact kslot
  · rw [hrest]; exact kchans
  · rw [hrest]; exact kcore
  · rw [hrest]; exact hsl k hk
  · refine State.mem_partAll (by rw [kgangs]; exact hgangs g hg) (Team.homeGang_ne_nil hg) ?_ (fun k hk => ?_) fun j hj k hk => ?_
    · refine List.filter_eq_nil_iff.mpr fun k hk => ?_
      dsimp only [Team.homeGang]
      rw [hsl k (Team.mem_homeGang hk)]
      simp [Slice.start]
    · dsimp only [Team.homeGang]
      rw [hsl k (Team.mem_homeGang hk)]
      simp [Slice.start]
    · dsimp only [Team.homeGang]
      rw [hsl j (Team.mem_homeGang hj), hsl k (Team.mem_homeGang hk)]

end

/-! ### Swap-out (R153, R323) -/

section
variable {s u : State} {t k : Nat}

/-- A slice with nothing left of a commit past its commit point, and no flag to tell. -/
def Slice.settledDown (v : Slice) : Prop := v.post = [] ∧ v.tell = none

theorem Slice.told_none {v : Slice} (h : v.tell = none) : v.told = none := by
  unfold Slice.told
  rw [h]
  split <;> rfl

theorem State.finishPost_settled (h : (s.slice t k).settledDown) : s.finishPost t k = s := by
  unfold State.finishPost
  rw [h.1]
  rfl

theorem State.completeLast_settled (h : (s.slice t k).settledDown) : s.completeLast t k = s := by
  unfold State.completeLast
  dsimp only
  rw [State.finishPost_settled h, Slice.told_none h.2]

theorem State.tellCommit_settled (h : (s.slice t k).settledDown) : s.tellCommit t k = s := by
  unfold State.tellCommit
  rw [Slice.told_none h.2]

theorem State.foldl_id {α : Type} (f : State → α → State) (l : List α) (h : ∀ x ∈ l, f s x = s) : l.foldl f s = s := by
  induction l with
  | nil => rfl
  | cons x l ih => rw [List.foldl_cons, h x (List.mem_cons_self ..)]; exact ih fun y hy => h y (List.mem_cons_of_mem _ hy)

theorem State.completeTeam_settled (h : ∀ k < (s.team t).slices, (s.slice t k).settledDown) : s.completeTeam t = s := by
  refine State.foldl_id _ _ fun k hk => ?_
  have hs := h k (List.mem_range.mp hk)
  rw [State.finishPost_settled hs, State.tellCommit_settled hs]
  split <;> rfl

/-- One change made to some slices of a team, each once. -/
theorem State.slice_foldl_modSlice {ks : List Nat} (f : Slice → Slice) (hn : ks.Nodup) (hk : k ∈ ks) (hex : (FMap.find? s.slices (sliceKey t k)).isSome = true) :
    (ks.foldl (fun u k => u.modSlice t k f) s).slice t k = f (s.slice t k) := by
  have hother : ∀ (l : List Nat) (v : State), k ∉ l → (l.foldl (fun u k => u.modSlice t k f) v).slice t k = v.slice t k := by
    intro l
    induction l with
    | nil => exact fun _ _ => rfl
    | cons i l ih =>
      intro v hv
      exact (ih _ (List.not_mem_of_not_mem_cons hv)).trans (State.slice_modSlice_ne v f (List.ne_of_not_mem_cons hv))
  induction ks generalizing s with
  | nil => cases hk
  | cons i l ih =>
    obtain ⟨hi, hl⟩ := List.nodup_cons.mp hn
    rcases List.mem_cons.mp hk with rfl | hk
    · exact (hother l _ hi).trans (State.slice_modSlice_self f hex)
    · have hne : k ≠ i := fun h => hi (h ▸ hk)
      rw [List.foldl_cons, ih hl hk (by rw [State.modSlice, FMap.isSome_modify]; exact hex), State.slice_modSlice_ne s f hne]

/-- A slice as its team stops: as it is where it has exited or has performed a lane at another agent, else at its checkpoint. -/
def Slice.stopped (v : Slice) : Slice :=
  match v.status with
  | .exited => v
  | .run | .asleep _ => if v.wentFar then v else { v.fallBack.rewind with status := .run }

theorem Slice.stopped_kept {v : Slice} (h : v.status = .exited ∨ v.wentFar = true) : v.stopped = v := by
  unfold Slice.stopped
  split
  · rfl
  · next hs =>
    rw [hs] at h
    rw [if_pos (h.resolve_left nofun)]
  · next hs =>
    rw [hs] at h
    rw [if_pos (h.resolve_left nofun)]

theorem Slice.stopped_rewound {v : Slice} (h : v.status ≠ .exited) (hw : v.wentFar = false) : v.stopped = { v.fallBack.rewind with status := .run } := by
  unfold Slice.stopped
  split
  · next hs => exact absurd hs h
  · rw [hw]; rfl
  · rw [hw]; rfl

/-- The state with every slice of a team stopped. -/
def State.stopSlices (s : State) (t : Nat) : State := (List.range (s.team t).slices).foldl (fun u k => u.modSlice t k Slice.stopped) s

theorem State.stopSlices_rest (s : State) (t : Nat) : s.stopSlices t = { s with slices := (s.stopSlices t).slices } := by
  have hfold : ∀ (l : List Nat) (v : State), l.foldl (fun u k => u.modSlice t k Slice.stopped) v =
      { v with slices := (l.foldl (fun u k => u.modSlice t k Slice.stopped) v).slices } := by
    intro l
    induction l with
    | nil => exact fun _ => rfl
    | cons k l ih => exact fun v => ih (v.modSlice t k _)
  exact hfold _ s

theorem State.foldl_regroup_rest {α : Type} (f : α → List Nat) (g : α → List Nat) (t : Nat) (l : List α) (s : State) :
    ∃ gs, l.foldl (fun u x => u.regroup t (f x) (g x)) s = { s with gangs := gs } := by
  induction l generalizing s with
  | nil => exact ⟨_, rfl⟩
  | cons x l ih =>
    obtain ⟨gs, h⟩ := ih (s.regroup t (f x) (g x))
    exact ⟨gs, h⟩

/-- A team halted whose slices have nothing of a commit left: they stop, and its gangs part. -/
theorem State.halt_settled (h : ∀ k < (s.team t).slices, (s.slice t k).settledDown) : ∃ gs pages bars, s.halt t =
    { (s.stopSlices t).modTeam t fun v => { v with awaited := pages, arrivals := v.arrivals - bars } with gangs := gs } := by
  have hlast : (List.range (s.team t).slices).foldl (fun u k => u.completeLast t k) s = s :=
    State.foldl_id _ _ fun k hk => State.completeLast_settled (h k (List.mem_range.mp hk))
  unfold State.halt
  dsimp only
  rw [hlast]
  exact Exists.imp (fun gs hgs => ⟨_, _, hgs⟩) (State.foldl_regroup_rest (α := Gang) (·.ks) _ t _ _)

theorem State.die_modDie_self {d : Nat} (f : Die → Die) (h : (FMap.find? s.dies d).isSome = true) : (s.modDie d f).die d = f (s.die d) :=
  FMap.get_modify_eq _ _ h

theorem State.writeImage_teams (s : State) (t : Nat) :
    (s.writeImage t).teams = FMap.modify s.teams t fun v => { v with image := (s.drawOn (s.teamDie t) (imageGranules (s.image t))).1 } := rfl

theorem State.writeImage_mem (s : State) (t : Nat) : (s.writeImage t).mem = s.mem := rfl

theorem State.writeImage_dies (s : State) (t : Nat) :
    ∃ f, (s.writeImage t).dies = FMap.modify s.dies (s.teamDie t) f ∧ ∀ v, (f v).swapOuts = v.swapOuts := ⟨_, rfl, fun _ => rfl⟩

/-- A team swapped out whose slices have nothing of a commit left: its slices stop, its image is drawn, its place is given up. -/
theorem State.swapOut_settled (h : ∀ k < (s.team t).slices, (s.slice t k).settledDown) (hc : (s.teamCore t).isSome = true) :
    ((s.swapOut t).team t).place = .swapped ∧ ((s.swapOut t).team t).floor = false ∧ (s.swapOut t).mem = s.mem ∧
    ((FMap.find? s.dies (s.teamDie t)).isSome = true → ((s.swapOut t).die (s.teamDie t)).swapOuts = (s.die (s.teamDie t)).swapOuts + 1) ∧
    (FMap.find? (s.swapOut t).teams t).isSome = true ∧ (s.swapOut t).slices = (s.stopSlices t).slices := by
  obtain ⟨c, qs, o, n, hp⟩ : ∃ c qs o n, (s.team t).place = .resident c qs o n := by
    unfold State.teamCore at hc
    split at hc
    · exact ⟨_, _, _, _, ‹_›⟩
    · cases hc
    · cases hc
    · cases hc
  have hin : (FMap.find? s.teams t).isSome = true := by
    rw [Option.isSome_iff_ne_none]
    intro hnone
    unfold State.team at hp
    rw [FMap.get_eq_find?, hnone] at hp
    cases hp
  obtain ⟨gs, pages, bars, hhalt⟩ := State.halt_settled h
  have hteams : (s.halt t).teams = FMap.modify s.teams t fun v => { v with awaited := pages, arrivals := v.arrivals - bars } := by
    rw [hhalt, State.stopSlices_rest]; rfl
  have hswap : s.swapOut t = (((s.halt t).writeImage t).modTeam t fun v => { v with place := .swapped, floor := false }).modDie (s.teamDie t) fun v =>
      { v with swapOuts := v.swapOuts + 1 } := by
    unfold State.swapOut
    rw [hp]
  have hdies : (s.halt t).dies = s.dies := by rw [hhalt, State.stopSlices_rest]; rfl
  have hw : (s.halt t).writeImage t = { (s.halt t) with teams := ((s.halt t).writeImage t).teams, dies := ((s.halt t).writeImage t).dies } := rfl
  have hteam : FMap.find? (s.swapOut t).teams t = (FMap.find? s.teams t).map fun v =>
      { v with awaited := pages, arrivals := v.arrivals - bars, image := ((s.halt t).drawOn ((s.halt t).teamDie t) (imageGranules ((s.halt t).image t))).1,
               place := .swapped, floor := false } := by
    rw [hswap]
    rw [State.modDie_teams]
    unfold State.modTeam
    dsimp only
    rw [State.writeImage_teams, hteams, FMap.find?_modify, if_pos rfl, FMap.find?_modify, if_pos rfl, FMap.find?_modify, if_pos rfl]
    cases FMap.find? s.teams t <;> rfl
  obtain ⟨v, hv⟩ := Option.isSome_iff_exists.mp hin
  rw [hv] at hteam
  have hget := FMap.get_of_find? (d := Team.blank) hteam
  refine ⟨congrArg Team.place hget, congrArg Team.floor hget, ?_, fun hd => ?_, by rw [hteam]; rfl, ?_⟩
  · rw [hswap]
    rw [State.modDie_mem, State.modTeam_mem, State.writeImage_mem, hhalt, State.stopSlices_rest]
    rfl
  · have hdie : (s.halt t).teamDie t = s.teamDie t := by
      have hteam' : (s.halt t).team t = { v with awaited := pages, arrivals := v.arrivals - bars } := by
        refine FMap.get_of_find? ?_
        rw [hteams, FMap.find?_modify, if_pos rfl, hv]; rfl
      have hv' : s.team t = v := FMap.get_of_find? hv
      have hlaunch : (s.halt t).launches = s.launches := by rw [hhalt, State.stopSlices_rest]; rfl
      unfold State.teamDie State.launch
      rw [hteam', hv', hlaunch]
    rw [hswap]
    obtain ⟨f, hf, hk⟩ := (s.halt t).writeImage_dies t
    rw [hdie, hdies] at hf
    generalize hX : ((s.halt t).writeImage t).modTeam t (fun v => { v with place := .swapped, floor := false }) = X
    have hXdies : X.dies = FMap.modify s.dies (s.teamDie t) f := by rw [← hX, ← hf]; rfl
    rw [State.die_modDie_self _ (by rw [hXdies, FMap.isSome_modify]; exact hd)]
    have hXdie : X.die (s.teamDie t) = f (s.die (s.teamDie t)) := by
      unfold State.die
      rw [hXdies]
      exact FMap.get_modify_eq _ _ hd
    rw [hXdie]
    exact congrArg (· + 1) (hk _)
  · rw [hswap]
    rw [State.modDie_slices, State.modTeam_slices, State.writeImage_slices, hhalt]
    rfl

/-! ### Whether a team has started is kept by a swap-out -/

/-- Each team has started in `u` just where it has in `s`. -/
def State.startsKept (s u : State) : Prop := ∀ w, (u.team w).started = (s.team w).started

theorem State.startsKept_refl (s : State) : s.startsKept s := fun _ => rfl

theorem State.startsKept_apart (h : s.startsKept u) {v : State} (ha : v.apart = u.apart) : s.startsKept v := fun w => by
  have ht : v.teams = u.teams := congrArg (fun a => a.2.2.1) ha
  rw [← h w]
  unfold State.team
  rw [ht]

theorem State.startsKept_modTeam (h : s.startsKept u) (t : Nat) (f : Team → Team) (hf : ∀ v, (f v).started = v.started) : s.startsKept (u.modTeam t f) := fun w => by
  rw [← h w]
  unfold State.team State.modTeam
  rw [FMap.get_eq_find?, FMap.get_eq_find?, FMap.find?_modify]
  split
  · cases FMap.find? u.teams w with
    | none => rfl
    | some v => exact hf v
  · rfl

theorem State.startsKept_foldl {α : Type} (f : State → α → State) (l : List α) (hf : ∀ u x, s.startsKept u → s.startsKept (f u x)) {u : State} (h : s.startsKept u) :
    s.startsKept (l.foldl f u) := by
  induction l generalizing u with
  | nil => exact h
  | cons x l ih => exact ih (hf u x h)

theorem State.startsKept_halt (h : s.startsKept u) (t : Nat) : s.startsKept (u.halt t) := by
  have hmod : ∀ v : State, s.startsKept v → ∀ (l : List Nat) (f : Slice → Slice), s.startsKept (l.foldl (fun u k => u.modSlice t k f) v) := by
    intro v hv l f
    refine State.startsKept_foldl _ _ ?_ hv
    intro _ _ hu
    exact hu
  unfold State.halt
  dsimp only
  refine State.startsKept_foldl _ _ ?_ (State.startsKept_modTeam (hmod _ ?_ _ _) _ _ (by intro; rfl))
  · intro _ _ hu
    exact hu
  · exact State.startsKept_foldl _ _ (fun v k hv => State.startsKept_apart hv (v.completeLast_apart t k)) h

theorem State.startsKept_swapOut (h : s.startsKept u) (t : Nat) : s.startsKept (u.swapOut t) := by
  have himage : ∀ v : State, s.startsKept v → s.startsKept (v.writeImage t) := fun v hv =>
    State.startsKept_modTeam (u := (v.drawOn (v.teamDie t) (imageGranules (v.image t))).2) hv t _ (by intro; rfl)
  have hdie : ∀ (v : State) (d : Nat) (f : Die → Die), s.startsKept v → s.startsKept (v.modDie d f) := fun _ _ _ hv => hv
  unfold State.swapOut
  split
  · exact hdie _ _ _ (State.startsKept_modTeam (himage _ (State.startsKept_halt h t)) t _ (by intro; rfl))
  · exact h
  · exact h
  · exact h

theorem State.startsKept_contextFault (h : s.startsKept u) (c code : Nat) (r : LogRec) : s.startsKept (u.contextFault c code r) := by
  have hteam : ∀ v t, s.startsKept v → s.startsKept (v.haltTeam t) := fun v t hv => by
    unfold State.haltTeam
    split
    · split
      · exact State.startsKept_swapOut hv t
      · exact State.startsKept_halt hv t
    · exact hv
    · exact hv
    · exact hv
  have hout : ∀ (v : State) (o : List Out), s.startsKept v → s.startsKept { v with out := o } := fun _ _ hv => hv
  unfold State.contextFault
  dsimp only
  refine hout _ _ (State.startsKept_apart ?_ (State.appendLog_apart _ c r))
  refine State.startsKept_foldl _ _ (fun v t hv => hteam v t hv) ?_
  exact h

theorem State.startsKept_tellCommit (h : s.startsKept u) (t k : Nat) : s.startsKept (u.tellCommit t k) := by
  have hdeliver : ∀ (v : State) (en : BitVec 6) (pc resume : W64), s.startsKept v → s.startsKept (v.deliver t k en pc resume) := by
    intro v en pc resume hv
    have hr := State.startsKept_apart hv (v.recordFlags_apart t k pc)
    unfold State.deliver State.enterHandler
    dsimp only
    split
    · exact hr
    · split
      · exact State.startsKept_contextFault hr _ _ _
      · exact State.startsKept_apart hr (State.enterFrame_apart _ _ _ _)
  unfold State.tellCommit
  split
  · refine hdeliver _ _ _ _ ?_
    exact h
  · exact h

theorem State.startsKept_swapAway (s : State) (t : Nat) : s.startsKept (s.swapAway t) := by
  have hteam : s.startsKept (s.completeTeam t) := by
    refine State.startsKept_foldl _ _ (fun v k hv => ?_) (State.startsKept_refl s)
    split
    · exact hv
    · exact State.startsKept_tellCommit (State.startsKept_apart hv (v.finishPost_apart t k)) t k
  unfold State.swapAway
  dsimp only
  split
  · exact hteam
  · exact State.startsKept_modTeam (State.startsKept_swapOut hteam t) t _ (by intro; rfl)

/-- TEAM_SWAP_OUT where none waits for the place and the slices have nothing of a commit left. -/
theorem State.swapped_alone (hc : (s.teamCore t).isSome = true) (hm : s.maySwap t = true) (hs : s.slicer t = none)
    (h : ∀ k < (s.team t).slices, (s.slice t k).settledDown) :
    ∃ f : Team → Team, (∀ v, (f v).place = v.place ∧ (f v).floor = v.floor) ∧ s.swapped t = (s.swapOut t).modTeam t f := by
  have hres : s.resident t = true := hc
  have hspent : ((s.ctx (s.team t).ctx).halted && !(s.team t).spent) = false := by
    unfold State.maySwap at hm
    dsimp only at hm
    split at hm
    · rw [hm, Bool.not_true, Bool.and_false]
    · next hh => rw [Bool.not_eq_true] at hh; rw [hh, Bool.false_and]
  unfold State.swapped State.swapAway
  rw [State.completeTeam_settled h]
  dsimp only
  rw [hm, hs, hres, hspent]
  exact ⟨fun v => { v with watch := (s.sleeps t).map fun z => (z.1, z.2, (s.swapOut t).watched t z.1 z.2) }, fun _ => ⟨rfl, rfl⟩, rfl⟩

theorem State.placeOn_started {gone : List Nat} {c : Nat} {floor : Bool} (h : (s.team t).started = true) : s.placeOn gone t c floor = s.settleOn t c floor := by
  unfold State.placeOn
  rw [if_pos h]

/-- TEAM_SWAP_OUT where a team that has started waits for the place. -/
theorem State.swapped_sliced {w c : Nat} (hm : s.maySwap t = true) (hs : s.slicer t = some w) (hc : (s.swapAway t).coreFor w = some c)
    (hw : (s.team w).started = true) : s.swapped t = (s.swapAway t).settleOn w c false := by
  unfold State.swapped
  rw [hm, hs]
  dsimp only
  rw [hc]
  exact State.placeOn_started ((State.startsKept_swapAway s t w).trans hw)

theorem State.runnable_of (hp : (s.team t).place = .swapped) (ha : (s.team t).awaited = [])
    (hw : (s.team t).watch = [] ∨ ∃ w ∈ (s.team t).watch, s.watched t w.1 w.2.1 ≠ w.2.2) (hh : (s.ctx (s.team t).ctx).halted = false) :
    s.runnable t = s.modTeam t fun v => { v with place := .ready, passed := 0, whole := s.fresh (s.teamDie t), watch := [] } := by
  have hmay : s.mayRunAgain t = true := by
    have hany : ((s.team t).watch.isEmpty || decide ((s.team t).watch.length < (s.live t).length) || (s.team t).watch.any (s.stirred t)) = true := by
      rcases hw with hw | ⟨w, hin, hw⟩
      · rw [hw]; rfl
      · have : (s.team t).watch.any (s.stirred t) = true := List.any_eq_true.mpr ⟨w, hin, by unfold State.stirred; simp [hw]⟩
        rw [this, Bool.or_true]
    unfold State.mayRunAgain
    dsimp only
    rw [ha, hany]
    simp
  unfold State.runnable
  rw [hp, hmay, hh]
  rfl

theorem State.retire_of (ho : s.teamOver t = true) (hc : (s.team t).conds = []) :
    s.retire t = (({ (s.freeImage t).modTeam t (fun v =>
          { v with slot := none, place := .retired, tmem := [], scale := [], bstore := [], acc := [], conds := [], chans := [], awaited := [], watch := [] }) with
        slices := s.slices.filter fun e => e.1 / 256 != t, gangs := s.gangs.filter fun g => g.team != t }.modLaunch (s.team t).launch fun v =>
          { v with retired := v.retired + 1 }).invalidate ((List.range (s.team t).chans.length).map fun c => .chan t c) none).launchCheck (s.team t).launch := by
  have hlog : s.logConds t = s := by
    unfold State.logConds
    rw [hc]
    rfl
  obtain ⟨hsl, hg, -, -⟩ := s.freeImage_keeps t
  unfold State.retire
  rw [ho]
  dsimp only
  rw [hlog, ← hsl, ← hg]
  rfl

theorem State.floorPlace_of {c d x : Nat} (ha : 63 ≤ FMap.get 0 (s.ctx c).absent d) (ho : (s.die d).opps = 0) (hf : s.floorTeam c d = some t)
    (hs : (s.team t).started = true) (hx : s.coreFor t = some x) : s.floorPlace c d = s.settleOn t x true := by
  have hdue : s.floorDue c d = true := by
    unfold State.floorDue State.fresh
    rw [ho, hf]
    dsimp only
    rw [hx, decide_eq_true ha]
    rfl
  have haccess : s.tableAccess t = .ok := by
    unfold State.tableAccess
    rw [hs]
    rfl
  unfold State.floorPlace
  rw [hdue, hf]
  dsimp only
  rw [haccess, if_neg (by decide), hx]
  refine (if_neg (by simp)).trans ?_
  dsimp only [Option.isSome_some]
  rw [if_pos rfl, hx]
  exact State.placeOn_started hs

end

/-- Settles O53. -/
theorem teamResults : Obligations.TeamResults := by
  intro s t
  refine ⟨fun c hn hc => ⟨fun hs => ?_, fun hs hch => ⟨_, rfl, State.teamPlaced_starts hn hc hs hch⟩⟩, fun hc hm => ⟨fun hs h => ?_, fun w c hs hc hw => ?_⟩,
    fun hp ha hw hh => State.gives_of (fun u => u.runnable t) rfl (State.runnable_of hp ha hw hh),
    fun ho hc => State.gives_of (fun u => u.retire t) rfl (State.retire_of ho hc),
    fun c d x ha ho hf hs hx => State.gives_of (fun u => u.floorPlace c d) rfl (State.floorPlace_of ha ho hf hs hx)⟩
  · refine State.gives_of (fun u => u.teamPlaced t) rfl ?_
    unfold State.teamPlaced
    rw [if_pos hn, hc]
    exact State.placeOn_started hs
  · have hset : ∀ k < (s.team t).slices, (s.slice t k).settledDown := fun k hk => ⟨(h k hk).1, (h k hk).2.1⟩
    obtain ⟨f, hkeep, hsw⟩ := State.swapped_alone hc hm hs hset
    obtain ⟨hplace, hfloor, hmem, hdie, hin, hslices⟩ := State.swapOut_settled hset hc
    have hteam : ((s.swapOut t).modTeam t f).team t = f ((s.swapOut t).team t) := FMap.get_modify_eq _ _ hin
    refine ⟨s.partAll (s.swapped t), rfl, ?_⟩
    rw [State.partAll_rest, hsw]
    refine ⟨?_, ?_, hmem, hdie, fun k hk => ?_⟩
    · exact (congrArg Team.place hteam).trans ((hkeep _).1.trans hplace)
    · exact (congrArg Team.floor hteam).trans ((hkeep _).2.trans hfloor)
    · have hslice : (s.swapOut t).slice t k = (s.slice t k).stopped := by
        unfold State.slice
        rw [hslices]
        exact State.slice_foldl_modSlice Slice.stopped List.nodup_range (List.mem_range.mpr hk) (h k hk).2.2
      exact ⟨fun hkept => hslice.trans (Slice.stopped_kept hkept), fun hx hw => hslice.trans (Slice.stopped_rewound hx hw)⟩
  · exact State.gives_of (fun u => u.swapped t) rfl (State.swapped_sliced hm hs hc hw)

/-! ### Notify registers, packets, waiting queues (R299 to R303) -/

section
variable {s : State} {q : Nat} {v : HostQueue}

theorem State.queue_of_find (h : FMap.find? s.queues q = some v) : s.queue q = v := FMap.get_of_find? h

theorem State.queue_modQueue_self (h : (FMap.find? s.queues q).isSome = true) (f : HostQueue → HostQueue) : (s.modQueue q f).queue q = f (s.queue q) :=
  FMap.get_modify_eq _ _ h

theorem State.modQueue_modQueue (s : State) (q : Nat) (f g : HostQueue → HostQueue) : (s.modQueue q f).modQueue q g = s.modQueue q (g ∘ f) := by
  unfold State.modQueue
  dsimp only
  rw [FMap.modify_modify]

/-- A packet that has passed: the read index has moved on, and its word is written. -/
def State.passed (s : State) (q : Nat) (v : HostQueue) (run : List PacketRun) : State :=
  (s.modQueue q fun y => { y with read := (v.read + 1) % 2 ^ 64, packets := y.packets ++ run, owes := false }).vaWrite v.ctx v.rix (leBytes 8 ((v.read + 1) % 2 ^ 64))

theorem State.pass1_of (h : FMap.find? s.queues q = some v) (hr : s.cpAccess v.ctx v.rix 8 true = .ok) (run : Option PacketRun) :
    s.pass1 q run = s.passed q v run.toList := by
  have hq := State.queue_of_find h
  have hw := State.queue_modQueue_self (s := s) (q := q) (by rw [h]; rfl) fun y => { y with read := (v.read + 1) % 2 ^ 64, packets := y.packets ++ run.toList }
  rw [hq] at hw
  unfold State.pass1 State.writeIndex
  rw [hq]
  dsimp only
  rw [hw]
  dsimp only
  have haccess : (s.modQueue q fun y => { y with read := (v.read + 1) % 2 ^ 64, packets := y.packets ++ run.toList }).cpAccess v.ctx v.rix 8 true = .ok := hr
  rw [haccess, State.modQueue_modQueue]
  rfl

theorem State.headAccess_ok (h1 : s.cpAccess v.ctx (v.slotAddr v.read) 64 false = .ok) (h2 : s.cpAccess v.ctx v.rix 8 true = .ok) : s.headAccess v = .ok := by
  unfold State.headAccess
  rw [h1, h2]
  rfl

/-- The bytes of the packet at the head of a queue. -/
def State.headBytes (s : State) (v : HostQueue) : List Byte := s.vaRun v.ctx (v.slotAddr v.read) 64

/-- The next packet can be read: the queue is open, and both its accesses may be made, on pages whose accessed bits are set. -/
structure State.readable (s : State) (q : Nat) (v : HostQueue) : Prop where
  found  : FMap.find? s.queues q = some v
  isOpen : s.queueOpen v = true
  slot   : s.cpAccess v.ctx (v.slotAddr v.read) 64 false = .ok
  index  : s.cpAccess v.ctx v.rix 8 true = .ok
  same   : s.cpReads v.ctx (v.slotAddr v.read) 64 = s

/-- The packet may be acted on. -/
structure State.actable (s : State) (v : HostQueue) : Prop where
  ok     : packetOk (s.headBytes v) = true
  first  : pAfter (s.headBytes v) = false ∨ v.packets = []
  target : s.targetAccess v.ctx (s.headBytes v) = .ok

theorem State.consume_acts (h : s.readable q v) (ha : s.actable v) {k : Nat} (hk : pType (s.headBytes v) = k) :
    s.consume [] q (some k) = s.actPacket q (s.headBytes v) := by
  obtain ⟨hf, ho, hs, hi, hsame⟩ := h
  obtain ⟨hok, hfirst, ht⟩ := ha
  have hafter : (pAfter (s.headBytes v) && !v.packets.isEmpty) = false := by
    rcases hfirst with h | h
    · rw [h, Bool.false_and]
    · rw [h]; simp
  unfold State.headBytes at *
  unfold State.consume
  rw [State.queue_of_find hf]
  dsimp only
  rw [ho, State.headAccess_ok hs hi, hsame]
  dsimp only [Access.without]
  rw [if_neg (by simp), if_neg (by simp [hok]), if_neg (by simp [hafter]), if_neg (by simp [hk]), ht]

/-- A refused packet passes with its record. -/
theorem State.consume_refused (h : s.readable q v) (hok : packetOk (s.headBytes v) = false) (k : Nat) :
    s.consume [] q (some k) = (s.appendLog v.ctx (LogRec.plain 0x0021 3 (v.slotAddr v.read) (BitVec.ofNat 32 q))).pass1 q none := by
  obtain ⟨hf, ho, hs, hi, hsame⟩ := h
  unfold State.headBytes at hok
  unfold State.consume State.refusePacket
  rw [State.queue_of_find hf]
  dsimp only
  rw [ho, State.headAccess_ok hs hi, hsame]
  dsimp only [Access.without]
  rw [if_neg (by simp), if_pos (by simp [hok]), State.queue_of_find hf]

/-- A queue with a packet posted is no blank one, so one that is read is listed. -/
theorem State.find_of_queue {u : State} (ho : s.queueOpen v = true) (h : u.queue q = v) : FMap.find? u.queues q = some v := by
  unfold State.queue at h
  rw [FMap.get_eq_find?] at h
  cases hf : FMap.find? u.queues q with
  | some w => rw [hf] at h; rw [← h]; rfl
  | none =>
    rw [hf] at h
    have hblank : v = HostQueue.blank := h.symm
    have hahead : (v.ahead v.posted != 0) = false := by rw [hblank]; decide
    unfold State.queueOpen at ho
    rw [hahead] at ho
    simp at ho

/-- A waiting WAITSIG whose word meets its condition. -/
theorem State.rereadQueue_holds {seen : Nat} {p : PacketRun} (hf : FMap.find? s.queues q = some v) (hw : v.waiting = some seen)
    (hp : v.packets.find? (fun x => x.kind == 3) = some p) (hn : seen < (s.ctx v.ctx).notified) (ha : s.cpAccess v.ctx p.addr 8 false = .ok)
    (hr : s.cpReads v.ctx p.addr 8 = s) (hc : codeHolds p.cond (s.vaWord v.ctx p.addr) p.value = true) :
    s.rereadQueue [] q = (s.packetDone q p.idx).modQueue q fun y => { y with waiting := none } := by
  unfold State.rereadQueue
  rw [State.queue_of_find hf]
  dsimp only
  rw [hw, hp]
  dsimp only
  rw [if_neg (Nat.not_le.mpr hn), ha]
  dsimp only [Access.without]
  rw [hr, if_pos hc]

theorem State.actPacket_launch (h : FMap.find? s.queues q = some v) (hi : s.cpAccess v.ctx v.rix 8 true = .ok) {bs : List Byte} (hk : pType bs = 1)
    (hr : s.cpReads v.ctx (pAddr bs) 256 = s) : s.actPacket q bs =
      (s.passed q v [{ idx := v.read, kind := 1, addr := pAddr bs, value := pValue bs, cond := pCond bs }]).admitLaunch v.ctx (pAddr bs)
        (s.vaRun v.ctx (pAddr bs) 256) (.packet q v.read) := by
  unfold State.actPacket
  rw [State.queue_of_find h, hk]
  dsimp only
  rw [hr, State.pass1_of h hi]
  rfl

theorem State.actPacket_graph (h : FMap.find? s.queues q = some v) (hi : s.cpAccess v.ctx v.rix 8 true = .ok) {bs : List Byte} (hk : pType bs = 2)
    (hr : s.cpReads v.ctx (pAddr bs) 64 = s) : s.actPacket q bs =
      (s.passed q v [{ idx := v.read, kind := 2, addr := pAddr bs, value := pValue bs, cond := pCond bs }]).graphStart v.ctx (pAddr bs)
        (s.vaRun v.ctx (pAddr bs) 64) (.packet q v.read) := by
  unfold State.actPacket
  rw [State.queue_of_find h, hk]
  dsimp only
  rw [hr, State.pass1_of h hi]
  rfl

theorem State.actPacket_wait (h : FMap.find? s.queues q = some v) (hi : s.cpAccess v.ctx v.rix 8 true = .ok) {bs : List Byte} (hk : pType bs = 3)
    (hr : s.cpReads v.ctx (pAddr bs) 8 = s) : s.actPacket q bs =
      if codeHolds (pCond bs) (s.vaWord v.ctx (pAddr bs)) (pValue bs) then s.passed q v []
      else (s.passed q v [{ idx := v.read, kind := 3, addr := pAddr bs, value := pValue bs, cond := pCond bs }]).modQueue q fun y =>
        { y with waiting := some (s.ctx v.ctx).notified } := by
  unfold State.actPacket
  rw [State.queue_of_find h, hk]
  dsimp only
  rw [hr, State.pass1_of h hi, State.pass1_of h hi]
  rfl

theorem State.actPacket_signal (h : FMap.find? s.queues q = some v) (hi : s.cpAccess v.ctx v.rix 8 true = .ok) {bs : List Byte} (hk : pType bs = 4) :
    s.actPacket q bs = s.passed q v [{ idx := v.read, kind := 4, addr := pAddr bs, value := pValue bs, cond := pCond bs }] := by
  unfold State.actPacket
  rw [State.queue_of_find h, hk]
  dsimp only
  rw [State.pass1_of h hi]
  rfl

end

/-- Settles O55. -/
theorem queueResults : Obligations.QueueResults := by
  intro s q v hf
  have hq := State.queue_of_find hf
  refine ⟨fun x hle hlt => ?_, fun x hlt => ?_, fun ho hs hi hsame => ?_, fun p hp ha => ?_, fun seen p hqs hgs hw hp hn ha hr hc => ?_⟩
  · refine State.gives_of (fun u => u.writeNotify q x) rfl ?_
    unfold State.writeNotify
    rw [hf]
    dsimp only
    rw [if_neg (Nat.not_lt.mpr hle), if_pos hlt]
  · refine State.gives_of (fun u => u.writeNotify q x) rfl ?_
    unfold State.writeNotify
    rw [hf]
    dsimp only
    rw [if_pos hlt]
  · have hread : s.readable q v := ⟨hf, ho, hs, hi, hsame⟩
    refine ⟨fun hok hfirst ht => ?_, fun hok u hu huq hui => ?_⟩
    · have hact : s.actable v := ⟨hok, hfirst, ht⟩
      refine ⟨fun hk hr => ?_, fun hk hr => ?_, fun hk hr hc => ?_, fun hk hr hc => ?_, fun hk hn => ?_⟩
      · exact State.gives_of (fun u => u.consume [] q (some 1)) rfl ((State.consume_acts hread hact hk).trans (State.actPacket_launch hf hi hk hr))
      · exact State.gives_of (fun u => u.consume [] q (some 2)) rfl ((State.consume_acts hread hact hk).trans (State.actPacket_graph hf hi hk hr))
      · exact State.gives_of (fun u => u.consume [] q (some 3)) rfl ((State.consume_acts hread hact hk).trans ((State.actPacket_wait hf hi hk hr).trans (if_pos hc)))
      · exact State.gives_of (fun u => u.consume [] q (some 3)) rfl
          ((State.consume_acts hread hact hk).trans ((State.actPacket_wait hf hi hk hr).trans (if_neg (by rw [hc]; exact Bool.false_ne_true))))
      · refine State.gives_of (fun u => match (u.queue q).signalReady with
          | some p => u.signalNow [] q p
          | none => u.consume [] q (some 4)) rfl ?_
        dsimp only
        rw [hq, hn]
        exact (State.consume_acts hread hact hk).trans (State.actPacket_signal hf hi hk)
    · have hpass : ∀ k, s.consume [] q (some k) = u.passed q v [] := fun k => by
        rw [State.consume_refused hread hok, ← show u = s.appendLog v.ctx (LogRec.plain 0x0021 3 (v.slotAddr v.read) (BitVec.ofNat 32 q)) from hu]
        exact State.pass1_of (State.find_of_queue ho huq) hui none
      exact ⟨State.gives_of (fun u => u.consume [] q (some 1)) rfl (hpass 1), State.gives_of (fun u => u.consume [] q (some 2)) rfl (hpass 2),
        State.gives_of (fun u => u.consume [] q (some 3)) rfl (hpass 3)⟩
  · refine State.gives_of (fun u => match (u.queue q).signalReady with
      | some p => u.signalNow [] q p
      | none => u.consume [] q (some 4)) rfl ?_
    rw [hq, hp]
    dsimp only
    unfold State.signalNow
    rw [hq]
    dsimp only
    rw [ha]
    rfl
  · refine State.gives_of (fun u => u.reread v.ctx) rfl ?_
    have hread := State.rereadQueue_holds hf hw hp hn ha hr hc
    have hgraphs : ((s.packetDone q p.idx).modQueue q fun y => { y with waiting := none }).graphsOf v.ctx = [] := hgs
    unfold State.reread
    rw [hqs, List.foldl_cons, List.foldl_nil, hread]
    dsimp only
    rw [hgraphs]
    rfl

/-! ### Nodes of a running graph (R311 to R313) -/

section
variable {s : State} {g n : Nat} {v : GraphRun}

/-- A ready node of the kind, its access granted, acts. -/
theorem State.startNode_acts (hg : s.graph g = some v) (hs : (s.ctx v.ctx).stopped = false) (ha : s.nodeAccess v.ctx (v.node n) = .ok)
    (hr : v.ready n = true) {k : Nat} (hk : (v.node n).kind = k) : s.startNode [] g n k = s.actNode g n v := by
  unfold State.startNode
  rw [hg]
  dsimp only
  rw [hs, hr, hk, ha]
  simp [Access.without]

/-- A LOOP whose word does not meet its condition any more is left. -/
theorem State.loopRead_leaves (hr : s.cpReads v.ctx (v.node n).p0 8 = s) {k : Nat}
    (hc : codeHolds (v.node n).cond (s.vaWord v.ctx (v.node n).p0) (v.node n).p1 = false) :
    s.loopRead g n k v = (s.modGraph g fun y => { y with entered := y.entered.set n false }).nodeDone g n false := by
  unfold State.loopRead
  dsimp only
  rw [hr, if_pos (by rw [hc]; rfl)]

/-- A LOOP at its last iteration is left with a record. -/
theorem State.loopRead_ends (hr : s.cpReads v.ctx (v.node n).p0 8 = s) {k : Nat}
    (hc : codeHolds (v.node n).cond (s.vaWord v.ctx (v.node n).p0) (v.node n).p1 = true) (hk : k = (v.node n).max) :
    s.loopRead g n k v = ((s.appendLog v.ctx (LogRec.plain 0x0019 3 v.header (BitVec.ofNat 32 n))).modGraph g fun y =>
      { y with entered := y.entered.set n false }).nodeDone g n false := by
  unfold State.loopRead
  dsimp only
  rw [hr, if_neg (by rw [hc]; exact Bool.false_ne_true), if_pos hk]

/-- A LOOP goes on: the nodes of its body are as at the graph's start. -/
theorem State.loopRead_enters (hr : s.cpReads v.ctx (v.node n).p0 8 = s) {k : Nat}
    (hc : codeHolds (v.node n).cond (s.vaWord v.ctx (v.node n).p0) (v.node n).p1 = true) (hk : k ≠ (v.node n).max) :
    s.loopRead g n k v = s.modGraph g fun y =>
      { y with
        counts := (List.range y.counts.length).map fun i => if inBody (v.node n) i then (y.node i).deps else y.counts.getD i 0
        states := (List.range y.states.length).map fun i => if inBody (v.node n) i then .idle else if i = n then .running else y.states.getD i .idle
        iters := (List.range y.iters.length).map fun i => if inBody (v.node n) i then 0 else if i = n then k else y.iters.getD i 0
        entered := (List.range y.entered.length).map fun i => if inBody (v.node n) i then false else if i = n then true else y.entered.getD i false } := by
  unfold State.loopRead
  dsimp only
  rw [hr, if_neg (by rw [hc]; exact Bool.false_ne_true), if_neg hk]

/-- An iteration of a running LOOP whose body is still ends. -/
theorem State.iterate_reads (hg : s.graph g = some v) (hs : (s.ctx v.ctx).stopped = false) (ha : s.nodeAccess v.ctx (v.node n) = .ok)
    (hr : v.running n = true) (hk : (v.node n).kind = 6) (hb : v.bodyStill n = true) (hf : v.refused = false) :
    s.iterate [] g n = s.loopRead g n (v.iters.getD n 0 + 1) v := by
  unfold State.iterate
  rw [hg]
  dsimp only
  rw [hs, hr, hk, hb, hf, ha]
  simp [Access.without]

/-- The thread of a COPY node. -/
def GraphRun.copyEngine (v : GraphRun) (g n : Nat) (bs : List Byte) : Engine :=
  { Engine.blank with ctx := v.ctx, die := 0, core := 0xFFFF, slice := 0xFFFF, desc := bs, va := (v.node n).p0, origin := .node g n, done := false }

/-! The action of a node by its kind. -/

theorem State.actNode_launch (hk : (v.node n).kind = 1) (hr : s.cpReads v.ctx (v.node n).p0 256 = s) :
    s.actNode g n v = (s.setNode g n .running).admitLaunch v.ctx (v.node n).p0 (s.vaRun v.ctx (v.node n).p0 256) (.node g n) := by
  unfold State.actNode
  simp only [hk, hr]

theorem State.actNode_copy (hk : (v.node n).kind = 2) (hr : s.cpReads v.ctx (v.node n).p0 128 = s) (hok : copyNodeOk (s.vaRun v.ctx (v.node n).p0 128) = true) :
    s.actNode g n v = { (s.setNode g n .running) with
      engines := FMap.put s.engines (nextKey s.engines) (v.copyEngine g n (s.vaRun v.ctx (v.node n).p0 128)) } := by
  unfold State.actNode
  simp only [hk, hr, hok]
  rfl

theorem State.actNode_signal (hk : (v.node n).kind = 3) : s.actNode g n v = (s.writeSignal v.ctx (v.node n).p0 (v.node n).p1 false).nodeDone g n false := by
  unfold State.actNode
  simp only [hk]

theorem State.actNode_wait (hk : (v.node n).kind = 4) (hr : s.cpReads v.ctx (v.node n).p0 8 = s) :
    s.actNode g n v = if codeHolds (v.node n).cond (s.vaWord v.ctx (v.node n).p0) (v.node n).p1 then s.nodeDone g n false
      else (s.setNode g n .running).modGraph g fun y => { y with seen := y.seen.set n (s.ctx v.ctx).notified } := by
  unfold State.actNode
  simp only [hk, hr]

theorem State.actNode_cond (hk : (v.node n).kind = 5) (hr : s.cpReads v.ctx (v.node n).p0 8 = s) :
    s.actNode g n v = s.nodeDone g n (!codeHolds (v.node n).cond (s.vaWord v.ctx (v.node n).p0) (v.node n).p1) := by
  unfold State.actNode
  simp only [hk, hr]

theorem State.actNode_loop (hk : (v.node n).kind = 6) : s.actNode g n v = s.loopRead g n 0 v := by
  unfold State.actNode
  simp only [hk]

end

/-- Settles O56. -/
theorem nodeResults : Obligations.NodeResults := by
  intro s g n v hg hs x word read leave enter ha
  refine ⟨fun hr => ⟨fun hk h => ?_, fun hk h hok => ?_, fun hk => ?_, fun hk h hc => ?_, fun hk h hc => ?_, fun hk h => ?_, fun hk h hc => ?_, fun hk h hc hm => ?_⟩,
    fun hr hk h hb hf => ⟨fun hc => ?_, fun hc hm => ?_, fun hc hm => ?_⟩⟩
  · exact State.gives_of (fun u => u.startNode [] g n 1) rfl ((State.startNode_acts hg hs ha hr hk).trans (State.actNode_launch hk h))
  · exact State.gives_of (fun u => u.startNode [] g n 2) rfl ((State.startNode_acts hg hs ha hr hk).trans (State.actNode_copy hk h hok))
  · exact State.gives_of (fun u => u.startNode [] g n 3) rfl ((State.startNode_acts hg hs ha hr hk).trans (State.actNode_signal hk))
  · exact State.gives_of (fun u => u.startNode [] g n 4) rfl ((State.startNode_acts hg hs ha hr hk).trans ((State.actNode_wait hk h).trans (if_pos hc)))
  · exact State.gives_of (fun u => u.startNode [] g n 4) rfl
      ((State.startNode_acts hg hs ha hr hk).trans ((State.actNode_wait hk h).trans (if_neg (by rw [hc]; exact Bool.false_ne_true))))
  · exact State.gives_of (fun u => u.startNode [] g n 5) rfl ((State.startNode_acts hg hs ha hr hk).trans (State.actNode_cond hk h))
  · exact State.gives_of (fun u => u.startNode [] g n 6) rfl
      ((State.startNode_acts hg hs ha hr hk).trans ((State.actNode_loop hk).trans (State.loopRead_leaves h hc)))
  · exact State.gives_of (fun u => u.startNode [] g n 6) rfl
      ((State.startNode_acts hg hs ha hr hk).trans ((State.actNode_loop hk).trans (State.loopRead_enters h hc (Nat.ne_of_lt hm))))
  · exact State.gives_of (fun u => u.iterate [] g n) rfl ((State.iterate_reads hg hs ha hr hk hb hf).trans (State.loopRead_leaves h hc))
  · exact State.gives_of (fun u => u.iterate [] g n) rfl ((State.iterate_reads hg hs ha hr hk hb hf).trans (State.loopRead_ends h hc hm))
  · exact State.gives_of (fun u => u.iterate [] g n) rfl ((State.iterate_reads hg hs ha hr hk hb hf).trans (State.loopRead_enters h hc hm))

end Sys2Proof.Machine
end

section
/-! SUPPORT. Matrix events, engines, rounds and REGANG -/

namespace Sys2Proof.Machine

/-! ### Copies that are bound to nothing (R286 to R288) -/

section
variable {s : State} {e : Nat}

theorem State.engine_modEngine_bind (s : State) (e : Nat) (f : Engine → Engine) (hf : ∀ v, (f v).bind = v.bind) : ((s.modEngine e f).engine e).bind = (s.engine e).bind := by
  unfold State.engine State.modEngine
  rw [FMap.get_eq_find?, FMap.get_eq_find?, FMap.find?_modify, if_pos rfl]
  cases FMap.find? s.engines e with
  | none => rfl
  | some v => exact hf v

/-- Bytes delivered by a thread that is bound to no gate are counted. -/
theorem State.engineSent_free (h : (s.engine e).bind = .none) (n : Nat) : s.engineSent e n = s.modEngine e fun x => { x with sent := x.sent + n } := by
  unfold State.engineSent
  dsimp only
  rw [h]

theorem State.perfSent_free (h : (s.engine e).bind = .none) (k n : Nat) :
    (s.enginePerf e k).engineSent e n = (s.modEngine e fun x => { x with perf := x.perf ++ [k] }).modEngine e fun x => { x with sent := x.sent + n } :=
  State.engineSent_free ((State.engine_modEngine_bind s e _ (by intro; rfl)).trans h) n

/-- A copy under way that is bound to no gate and no channel. -/
structure Engine.plain (v : Engine) : Prop where
  done    : v.done = false
  stopped : v.stopped = false
  void    : v.void = false
  kind    : v.kind = .copy
  chan    : v.chan = none

theorem State.engineAccess_plain (h : (s.engine e).plain) (i : Nat) :
    s.engineAccess e i = if i % 2 = 0 then s.copyRead e (i / 2 / 128) (i / 2 % 128) else s.copyWrite e (i / 2 / 16) (i / 2 % 16) := by
  unfold State.engineAccess
  simp only [h.done, h.stopped, h.void, h.kind, h.chan, Bool.or_self, Bool.false_eq_true, if_false]

theorem State.engineAccess_read (h : (s.engine e).plain) {rk q : Nat} (hq : q < 128) : s.engineAccess e (2 * (128 * rk + q)) = s.copyRead e rk q := by
  have h1 : 2 * (128 * rk + q) % 2 = 0 := Nat.mul_mod_right ..
  have h2 : 2 * (128 * rk + q) / 2 = 128 * rk + q := Nat.mul_div_cancel_left _ (by decide)
  have h3 : (128 * rk + q) / 128 = rk := by omega
  have h4 : (128 * rk + q) % 128 = q := by omega
  rw [State.engineAccess_plain h, if_pos h1, h2, h3, h4]

theorem State.engineAccess_write (h : (s.engine e).plain) (u : Nat) : s.engineAccess e (2 * (16 * u) + 1) = s.copyWrite e u 0 := by
  have h1 : ¬ (2 * (16 * u) + 1) % 2 = 0 := by omega
  have h2 : (2 * (16 * u) + 1) / 2 = 16 * u := by omega
  rw [State.engineAccess_plain h, if_neg h1, h2, Nat.mul_div_cancel_left u (by decide), Nat.mul_mod_right]

/-- A source sector that is read is kept by its number. -/
theorem State.copyRead_of {rk q sec : Nat} (hlim : rk < if cConv (s.engine e).desc = 2 then cBlocks (s.engine e).desc else dataUnits (s.engine e).desc (s.engine e).slot)
    (hgot : FMap.find? (s.engine e).got (128 * rk + q) = none) (hsec : (keySectors (s.engine e).desc (s.engine e).slot rk)[q]? = some sec) :
    (cSkind (s.engine e).desc = false → s.copyRead e rk q = s.engineRead e (128 * rk + q) sec) ∧
    (∀ t, cSkind (s.engine e).desc = true → (s.engine e).team = some t → s.resident t = true →
      s.copyRead e rk q = s.engineGot e (128 * rk + q) ((s.team t).readBytes (32 * sec) 32)) := by
  have hno : ¬ ((if cConv (s.engine e).desc = 2 then cBlocks (s.engine e).desc else dataUnits (s.engine e).desc (s.engine e).slot) ≤ rk ∨
      (FMap.find? (s.engine e).got (128 * rk + q)).isSome = true) := by
    rintro (h | h)
    · exact absurd hlim (Nat.not_lt.mpr h)
    · rw [hgot] at h; cases h
  refine ⟨fun hk => ?_, fun t hk ht hr => ?_⟩
  · unfold State.copyRead
    dsimp only
    rw [if_neg hno, hsec]
    dsimp only
    rw [if_neg (by rw [hk]; exact Bool.false_ne_true)]
  · unfold State.copyRead
    dsimp only
    rw [if_neg hno, hsec]
    dsimp only
    rw [if_pos hk, ht]
    dsimp only
    rw [if_pos hr]

theorem State.engineRead_ok {key sec a : Nat} {l : Leaf}
    (hp : s.threadPage (s.engineWho (s.engine e)) (s.engine e).gone false (BitVec.ofNat 64 (32 * sec)) = .ok l a) (hf : isFabric a = false)
    (ht : s.touch (s.engine e).ctx [BitVec.ofNat 64 (32 * sec)] = s) (hpo : s.poisoned (s.loadAddr (s.engine e).die l a) = false) :
    s.engineRead e key sec = s.engineGot e key (s.readBytes (s.loadAddr (s.engine e).die l a) 32) := by
  have hread : s.threadRead (s.engineWho (s.engine e)) (s.engine e).asked (s.engine e).gone (BitVec.ofNat 64 (32 * sec)) 32 =
      .ok s (s.readBytes (s.loadAddr (s.engine e).die l a) 32) := by
    have ht' : s.touch (s.engineWho (s.engine e)).ctx [BitVec.ofNat 64 (32 * sec)] = s := ht
    have hpo' : s.poisoned (s.loadAddr (s.engineWho (s.engine e)).die l a) = false := hpo
    unfold State.threadRead
    dsimp only
    rw [hp, ht']
    dsimp only
    rw [hf, hpo']
    rfl
  unfold State.engineRead
  dsimp only
  rw [hread]

/-- A unit may be written to its first target. -/
structure State.writable (s : State) (v : Engine) (u : Nat) : Prop where
  unit : u < unitCount v.desc v.slot
  perf : v.perf.contains (16 * u) = false
  read : v.hasRead u = true

theorem State.copyWrite_target {u : Nat} (h : s.writable (s.engine e) u) (hb : (s.engine e).bind = .none) (ht : 0 < s.unitTargets (s.engine e) u) :
    ¬ (unitCount (s.engine e).desc (s.engine e).slot ≤ u ∨ s.unitTargets (s.engine e) u ≤ 0 ∨ (s.engine e).perf.contains (16 * u + 0) = true ∨
      (!(s.engine e).hasRead u) = true ∨ (!s.gateOpen (s.engine e)) = true) := by
  obtain ⟨hu, hp, hr⟩ := h
  have hg : s.gateOpen (s.engine e) = true := by
    unfold State.gateOpen
    rw [hb]
  rw [hr, hg, Nat.add_zero, hp]
  rintro (h | h | h | h | h)
  · exact absurd hu (Nat.not_lt.mpr h)
  · exact absurd ht (Nat.not_lt.mpr h)
  · cases h
  · cases h
  · cases h

/-- A unit written to global memory. -/
theorem State.copyWrite_global {u : Nat} {b : Nat × Byte × Byte} {bs : List (Nat × Byte × Byte)} {w : State} (h : s.writable (s.engine e) u)
    (hb : (s.engine e).bind = .none) (hbytes : (s.engine e).unitBytes u = (.global, b :: bs)) (hsp : unitSpace (s.engine e).desc (s.engine e).slot u = .global)
    (hw : (s.reach (s.engineWho (s.engine e)) (b :: bs)).threadWrite (s.engineWho (s.engine e)) (s.engine e).gone (b :: bs) = .ok w) (hwb : (w.engine e).bind = .none) :
    s.copyWrite e u 0 = (w.modEngine e fun x => { x with perf := x.perf ++ [16 * u] }).modEngine e fun x => { x with sent := x.sent + (b :: bs).length } := by
  have ht : 0 < s.unitTargets (s.engine e) u := by
    unfold State.unitTargets
    rw [if_pos hsp]
    exact Nat.one_pos
  unfold State.copyWrite
  dsimp only
  rw [if_neg (State.copyWrite_target h hb ht), hbytes]
  dsimp only
  unfold State.engineGlobal
  dsimp only
  rw [hw]
  exact State.perfSent_free hwb _ _

/-- A unit written to the memory of the one team that it goes to. -/
theorem State.copyWrite_team {u t : Nat} {b : Nat × Byte × Byte} {bs : List (Nat × Byte × Byte)} (h : s.writable (s.engine e) u)
    (hb : (s.engine e).bind = .none) (hch : (s.engine e).chan = none) (hbytes : (s.engine e).unitBytes u = (.team, b :: bs))
    (hsp : unitSpace (s.engine e).desc (s.engine e).slot u = .team) (htg : s.copyTargets (s.engine e) = [t]) (hr : s.resident t = true) :
    s.copyWrite e u 0 = (((s.modTeam t fun y => y.putSpace .team (b :: bs)).invalidate (((b :: bs).map fun y => LineId.team t (y.1 / 128)).dedup) none).modEngine e
      fun x => { x with perf := x.perf ++ [16 * u] }).modEngine e fun x => { x with sent := x.sent + (b :: bs).length } := by
  have howners : s.unitOwners (s.engine e) u = [t] := by
    unfold State.unitOwners
    rw [hch, if_neg (by simp), htg]
  have ht : 0 < s.unitTargets (s.engine e) u := by
    unfold State.unitTargets
    rw [hsp, howners]
    exact Nat.one_pos
  have hzero : (b :: bs).map (fun y => (y.1 + 0, y.2)) = b :: bs := List.map_id _
  unfold State.copyWrite
  dsimp only
  rw [if_neg (State.copyWrite_target h hb ht), hbytes, howners, hch]
  dsimp only [List.getElem?_cons_zero]
  rw [hr, hzero]
  refine State.perfSent_free ?_ _ _
  have he := congrArg (fun a => a.2.1) (State.invalidate_apart (s.modTeam t fun y => y.putSpace .team (b :: bs)) (((b :: bs).map fun y => LineId.team t (y.1 / 128)).dedup) none)
  unfold State.engine at hb ⊢
  rw [← hb]
  exact congrArg (fun m => (FMap.get Engine.blank m e).bind) he

/-- A copy of a team, all its writes made, completes. -/
theorem State.engineEnd_plain {t : Nat} (h : (s.engine e).done = false) (hs : (s.engine e).stopped = false) (hch : (s.engine e).chan = none)
    (hb : (s.engine e).bind = .none) (ht : (s.engine e).team = some t) (hf : (s.engine e).failed = none) (hw : s.engineWritten (s.engine e) = true)
    (hsp : s.engineSpilled e = false) :
    s.engineEnd e = ((s.modEngine e fun x => { x with done := true, got := [], perf := [] }).modTeam t fun x =>
      { x with ended := x.ended ++ [(s.engine e).ticket] }).invalidate [.done t] none := by
  have hgate : s.gateOpen (s.engine e) = true := by
    unfold State.gateOpen
    rw [hb]
  have hslot : s.slotOpen (s.engine e) = true := by
    unfold State.slotOpen
    rw [hch]
  have hsettle : s.engineSettle (s.engine e) = s := by
    unfold State.engineSettle
    rw [hb]
  have hpub : s.enginePublish (s.engine e) = s := by
    unfold State.enginePublish
    rw [hch]
  unfold State.engineEnd
  dsimp only
  rw [h, hs, hw, hsp, hgate, hslot, hf, ht]
  dsimp only
  rw [hsettle, hpub]
  rfl

theorem State.engine_reach (s : State) (w : Who) (bs : List (Nat × Byte × Byte)) : (s.reach w bs).engine e = s.engine e := by
  have he := congrArg (fun a => a.2.1) (s.touch_apart w.ctx ((bs.take 1).map fun b => BitVec.ofNat 64 b.1))
  unfold State.engine
  exact congrArg (fun m => FMap.get Engine.blank m e) he

/-- A copy's spilled write made again. -/
theorem State.replaySpill_plain {die i : Nat} {x : Spill} {w : State} (hx : (s.die die).spill[i]? = some x) (hxe : x.engine = some e)
    (hk : (s.engine e).kind = .copy) (hb : (s.engine e).bind = .none)
    (hw : (s.reach (s.engineWho (s.engine e)) x.bytes).threadWrite (s.engineWho (s.engine e)) (s.engine e).gone x.bytes = .ok w) (hwb : (w.engine e).bind = .none) :
    s.replaySpill die i = (w.modDie die fun y => { y with spill := y.spill.eraseIdx i }).modEngine e fun y => { y with sent := y.sent + x.bytes.length } := by
  have hwho : s.spillWho die x = (s.engineWho (s.engine e), (s.engine e).asked, (s.engine e).gone) := by
    unfold State.spillWho
    rw [hxe]
  have hopen : ∀ u : State, u.engine e = s.engine e → u.spillOpen x = true := fun u hu => by
    unfold State.spillOpen State.gateOpen
    rw [hxe]
    dsimp only
    rw [hu, hb]
  have hreach := s.engine_reach (e := e) (s.engineWho (s.engine e)) x.bytes
  have hagain : (s.reach (s.engineWho (s.engine e)) x.bytes).spillAgain (s.engineWho (s.engine e)) (s.engine e).gone x = .ok w := by
    unfold State.spillAgain
    rw [hxe]
    dsimp only
    rw [hreach, hk, if_neg (by simp), hw]
  have hsent : (w.modDie die fun y => { y with spill := y.spill.eraseIdx i }).spillSent x =
      (w.modDie die fun y => { y with spill := y.spill.eraseIdx i }).modEngine e fun y => { y with sent := y.sent + x.bytes.length } := by
    unfold State.spillSent
    rw [hxe]
    exact State.engineSent_free (s := w.modDie die _) hwb _
  have hsettle : ∀ u : State, u.drainSettle die x = u := fun u => by
    unfold State.drainSettle
    rw [hxe]
  unfold State.replaySpill
  rw [hx]
  dsimp only
  rw [hwho, if_pos (hopen s rfl), if_neg (by rw [hopen _ hreach]; decide)]
  dsimp only
  rw [hagain]
  dsimp only
  rw [hsent, hsettle]

end

/-- Settles O48. -/
theorem engineEventResults : Obligations.EngineEventResults := by
  intro s e v hdone hstop hkind hchan hbind
  refine ⟨fun rk q sec l a hvoid hq hlim hgot hsec => ⟨fun hk hp hf ht hpo => ?_, fun t hk ht hr => ?_⟩,
    fun u b bs hvoid hu hperf hread => ⟨fun hbytes hsp w hw hwb => ?_, fun t hbytes hsp htg hr => ?_⟩, fun t ht hf hw hsp => ?_, fun die i x w hx hxe hw hwb => ?_⟩
  · have hp' : (s.engine e).plain := ⟨hdone, hstop, hvoid, hkind, hchan⟩
    exact State.gives_of (fun u => u.engineAccess e (2 * (128 * rk + q))) rfl
      ((State.engineAccess_read hp' hq).trans (((State.copyRead_of hlim hgot hsec).1 hk).trans (State.engineRead_ok hp hf ht hpo)))
  · have hp' : (s.engine e).plain := ⟨hdone, hstop, hvoid, hkind, hchan⟩
    exact State.gives_of (fun u => u.engineAccess e (2 * (128 * rk + q))) rfl
      ((State.engineAccess_read hp' hq).trans ((State.copyRead_of hlim hgot hsec).2 t hk ht hr))
  · have hp' : (s.engine e).plain := ⟨hdone, hstop, hvoid, hkind, hchan⟩
    exact State.gives_of (fun v => v.engineAccess e (2 * (16 * u) + 1)) rfl
      ((State.engineAccess_write hp' u).trans (State.copyWrite_global ⟨hu, hperf, hread⟩ hbind hbytes hsp hw hwb))
  · have hp' : (s.engine e).plain := ⟨hdone, hstop, hvoid, hkind, hchan⟩
    exact State.gives_of (fun v => v.engineAccess e (2 * (16 * u) + 1)) rfl
      ((State.engineAccess_write hp' u).trans (State.copyWrite_team ⟨hu, hperf, hread⟩ hbind hchan hbytes hsp htg hr))
  · exact State.gives_of (fun u => u.engineEnd e) rfl (State.engineEnd_plain hdone hstop hchan hbind ht hf hw hsp)
  · exact State.gives_of (fun u => u.replaySpill die i) rfl (State.replaySpill_plain hx hxe hkind hbind hw hwb)

/-! ### An ALLRED's round within the module (R292) -/

section
variable {s : State} {g : Nat} {seq : W64} {x : Group} {d d' : List Byte}

/-- Descriptors that agree in what a round computes: the count, the type, the operation, the rounding and the saturation. -/
structure AllredAgree (d d' : List Byte) : Prop where
  count : aCount d' = aCount d
  type  : aType d' = aType d
  op    : aOp d' = aOp d
  rnd   : aRnd d' = aRnd d
  sat   : aSat d' = aSat d

theorem allredStep_agree (h : AllredAgree d d') : allredStep d' = allredStep d := by
  obtain ⟨-, ht, ho, hr, hs⟩ := h
  unfold allredStep
  rw [ht, ho, hr, hs]

theorem allredTree_agree (h : AllredAgree d d') : allredTree d' = allredTree d := by
  unfold allredTree
  rw [allredStep_agree h]

theorem aWidth_agree (h : AllredAgree d d') : aWidth d' = aWidth d := by
  unfold aWidth
  rw [h.type]

/-- Every rank of a group has contributed, once each, within this module. -/
structure State.roundFull (s : State) (g : Nat) (seq : W64) (x : Group) (d : List Byte) : Prop where
  found   : FMap.find? s.groups g = some x
  isOpen  : x.isOpen = true
  round   : x.round = seq
  ne      : s.roundOf g seq ≠ []
  near    : ∀ m ∈ x.members, m.module = s.module.domain
  nodup   : ((s.roundOf g seq).map fun e => aRank e.2.desc).Nodup
  all     : ∀ r, r < x.members.length → r ∈ (s.roundOf g seq).map fun e => aRank e.2.desc
  members : ∀ e ∈ s.roundOf g seq, e.2.contributed = true ∧ e.2.failed = none ∧ AllredAgree d e.2.desc

/-- What the member of a rank contributes. -/
def contributionOf (es : List (Nat × Engine)) (r i : Nat) : Nat :=
  match es.find? fun e => aRank e.2.desc == r with
  | some e => e.2.contribution.getD i 0
  | none => 0

/-- The round's result: the tree over the contributions, element by element. -/
def roundResult (es : List (Nat × Engine)) (x : Group) (d : List Byte) : List Byte :=
  (List.range (aCount d)).flatMap fun i => leBytes (aWidth d) (allredTree d ((List.range x.members.length).map fun r => contributionOf es r i))

theorem State.foldl_modEngine_groups (es : List (Nat × Engine)) (f : Engine → Engine) (s : State) :
    (es.foldl (fun (u : State) e => u.modEngine e.1 f) s).groups = s.groups := by
  induction es generalizing s with
  | nil => rfl
  | cons e es ih => exact ih _

theorem State.allredCombine_full (h : s.roundFull g seq x d) : ∃ n, s.allredCombine g seq =
    { (s.roundOf g seq).foldl (fun (u : State) e => u.modEngine e.1 fun v => { v with got := FMap.put v.got resultKey (roundResult (s.roundOf g seq) x d) })
        { s with draws := n } with groups := FMap.modify s.groups g fun y => { y with round := y.round + 1, isOpen := false } } := by
  obtain ⟨hf, ho, hr, hne, hnear, hnd, hall, hm⟩ := h
  have haway : (x.members.filter fun m => m.module != s.module.domain && !((s.roundOf g seq).map fun e => aRank e.2.desc).contains m.rank) = [] := by
    refine List.filter_eq_nil_iff.mpr fun m hmem => ?_
    rw [hnear m hmem]
    simp
  have hpresent : ((List.range x.members.length).all fun r => ((s.roundOf g seq).map fun e => aRank e.2.desc).contains r || ([] : List Nat).contains r) = true := by
    refine List.all_eq_true.mpr fun r hrr => ?_
    rw [List.contains_iff_mem.mpr (hall r (List.mem_range.mp hrr))]
    rfl
  have htwice : (((s.roundOf g seq).map fun e => aRank e.2.desc).dedup.length != ((s.roundOf g seq).map fun e => aRank e.2.desc).length) = false := by
    rw [hnd.dedup]
    simp
  have hcontr : ((s.roundOf g seq).all fun e => e.2.contributed) = true := List.all_eq_true.mpr fun e he => (hm e he).1
  have hfail : ((s.roundOf g seq).any fun e => e.2.failed.isSome) = false := by
    refine List.any_eq_false.mpr fun e he => ?_
    rw [(hm e he).2.1]
    simp
  generalize hes : s.roundOf g seq = es at *
  obtain ⟨e0, l, rfl⟩ := List.exists_cons_of_ne_nil hne
  have hdiffer : ((e0 :: l).any fun e => aCount e.2.desc != aCount e0.2.desc || aType e.2.desc != aType e0.2.desc || aOp e.2.desc != aOp e0.2.desc) = false := by
    refine List.any_eq_false.mpr fun e he => ?_
    obtain ⟨hc, ht, hop, -, -⟩ := (hm e he).2.2
    obtain ⟨hc0, ht0, hop0, -, -⟩ := (hm e0 (List.mem_cons_self ..)).2.2
    rw [hc, ht, hop, hc0, ht0, hop0]
    simp
  have hvalue : ∀ (w : Nat → Nat → Nat) (i : Nat), ((List.range x.members.length).map fun r => match (e0 :: l).find? fun e => aRank e.2.desc == r with
      | some e => e.2.contribution.getD i 0
      | none => w r i) = (List.range x.members.length).map fun r => contributionOf (e0 :: l) r i := by
    intro w i
    refine List.map_congr_left fun r hrr => ?_
    obtain ⟨e, he, hrank⟩ := List.mem_map.mp (hall r (List.mem_range.mp hrr))
    have hsome : ((e0 :: l).find? fun e => aRank e.2.desc == r).isSome = true := List.find?_isSome.mpr ⟨e, he, by rw [hrank]; exact beq_self_eq_true r⟩
    obtain ⟨y, hy⟩ := Option.isSome_iff_exists.mp hsome
    unfold contributionOf
    rw [hy]
  have hpick : ∀ n : Nat, AllredAgree d (((e0 :: l)[n % (e0 :: l).length]?).getD e0).2.desc := by
    intro n
    refine (hm _ ?_).2.2
    cases hn : (e0 :: l)[n % (e0 :: l).length]? with
    | none => exact List.mem_cons_self ..
    | some y => exact List.mem_of_getElem? hn
  refine ⟨s.draws + 3 + 2 ^ 20, ?_⟩
  unfold State.allredCombine
  rw [hf]
  dsimp only
  rw [hes]
  dsimp only
  rw [haway, List.map_nil, hpresent, htwice, hcontr, hdiffer, hfail, ho, hr]
  rw [if_neg (by simp), if_neg (by simp), if_neg (by simp)]
  have hp := hpick (Config.word (s.draws + 2)).toNat
  generalize (((e0 :: l)[(Config.word (s.draws + 2)).toNat % (e0 :: l).length]?).getD e0).2.desc = d' at hp
  have hout : ((List.range (aCount d')).flatMap fun i => leBytes (aWidth d') (allredTree d' ((List.range x.members.length).map fun r =>
      match (e0 :: l).find? fun e => aRank e.2.desc == r with
      | some e => e.2.contribution.getD i 0
      | none => (Config.word (s.draws + 3 + r * 8192 + i)).toNat % 2 ^ (8 * aWidth d')))) = roundResult (e0 :: l) x d := by
    unfold roundResult
    rw [hp.count]
    refine congrArg (List.flatMap · _) (funext fun i => ?_)
    rw [hvalue fun r i => (Config.word (s.draws + 3 + r * 8192 + i)).toNat % 2 ^ (8 * aWidth d'), allredTree_agree hp, aWidth_agree hp]
  refine (congrArg (fun o => (((e0 :: l).foldl (fun (u : State) e => u.engineGot e.1 resultKey o) { s with draws := s.draws + 3 + 2 ^ 20 }).closeRound g)) hout).trans ?_
  unfold State.closeRound
  rw [show ∀ u : State, ((e0 :: l).foldl (fun (u : State) e => u.engineGot e.1 resultKey (roundResult (e0 :: l) x d)) u).groups = u.groups from
    fun u => State.foldl_modEngine_groups _ _ u]
  rfl

end

/-- Settles O49. -/
theorem allredRounds : Obligations.AllredRounds := by
  intro s g seq x d es ranks hf ho hr hne hnear hnd hall hm value out
  have hfull : s.roundFull g seq x d := ⟨hf, ho, hr, hne, hnear, hnd, hall, fun e he => by
    obtain ⟨h1, h2, h3, h4, h5, h6, h7⟩ := hm e he
    exact ⟨h1, h2, h3, h4, h5, h6, h7⟩⟩
  obtain ⟨n, hn⟩ := State.allredCombine_full hfull
  exact ⟨n, State.gives_of (fun u => u.allredCombine g seq) rfl hn⟩

/-! ### The matrix queue's events (R259 to R273) -/

section
variable {s : State} {t i : Nat} {m : MatCmd}

/-- What completing a command leaves, but for the error log: its place and its conditions. -/
def State.cmdDone (s : State) (t : Nat) (m : MatCmd) (fl : Flags) : State := s.modTeam t fun x =>
  { x with queue := x.queue.filter fun q => q.num != m.num, conds := FMap.set 0 x.conds m.slice (FMap.get 0 x.conds m.slice ||| fl) }

theorem State.matrixDone_clean (s : State) (t : Nat) (m : MatCmd) (hw : m.wrapped = false) (hb : m.bad = none) : s.matrixDone t m = s.cmdDone t m m.flags := by
  unfold State.matrixDone
  rw [hw, hb]
  rfl

theorem State.performCmd_zero (hq : (s.team t).queue[i]? = some m) (hr : s.mayRun t i = true) (hop : m.op = .zero n) :
    s.performCmd t i = (s.modTeam t fun v => v.setTile n []).matrixDone t m := by
  unfold State.performCmd
  rw [hq]
  dsimp only
  rw [hr, hop]
  rfl

theorem State.performCmd_write (hq : (s.team t).queue[i]? = some m) (hr : s.mayRun t i = true) (hop : m.op = .write n r c ls) : s.performCmd t i =
    (s.modTeam t fun v => ls.foldl (fun y e => { y with acc := FMap.set 0 y.acc (tileKey n r (c + e.1)) e.2 }) v).matrixDone t m := by
  unfold State.performCmd
  rw [hq]
  dsimp only
  rw [hr, hop]
  rfl

theorem State.performCmd_scale (hq : (s.team t).queue[i]? = some m) (hr : s.mayRun t i = true) (hop : m.op = .scale off idx g) : s.performCmd t i =
    (s.modTeam t fun v => (List.range (32 * g)).foldl (fun y e =>
      { y with scale := FMap.set 0 y.scale (idx + e) (BitVec.ofNat 16 (leNat (v.readBytes (off + 2 * e) 2))) }) v).matrixDone t m := by
  unfold State.performCmd
  rw [hq]
  dsimp only
  rw [hr, hop]
  rfl

theorem State.stepLoop_noTurn (hq : (s.team t).queue[i]? = some m) (hop : m.op = .loop c) (ht : s.turnOf t = false) : s.stepLoop t i = s := by
  unfold State.stepLoop
  rw [hq]
  dsimp only
  rw [hop]
  dsimp only
  rw [ht, Bool.and_false]
  rfl

/-- A K-step in which no sum wraps. -/
theorem State.stepLoop_turn (hq : (s.team t).queue[i]? = some m) (hr : s.mayRun t i = true) (hw : m.wrapped = false) (hop : m.op = .loop c)
    (hs : m.steps < pCount c.params) (ht : s.turnOf t = true) (hx : ∀ x ∈ (s.team t).kStep c m.steps, x.2 = false) : s.stepLoop t i =
    let v := ((s.takeTurn t).modTeam t fun x => x.setTile c.tile (((s.team t).kStep c m.steps).map (·.1))).modCmd t m.num fun _ => { m with steps := m.steps + 1 }
    if m.steps + 1 = pCount c.params ∧ pDe c.params = false then v.matrixDone t { m with steps := m.steps + 1 } else v := by
  have hany : ((s.team t).kStep c m.steps).any (·.2) = false := List.any_eq_false.mpr fun x hm => by
    rw [hx x hm]
    exact Bool.false_ne_true
  unfold State.stepLoop
  rw [hq]
  dsimp only
  rw [hop]
  dsimp only
  rw [hr, ht, decide_eq_true hs, hany, Bool.or_false]
  exact (if_pos rfl).trans (if_congr (and_congr_right' (Bool.not_eq_true' _).to_iff) rfl rfl)

/-! Drains with no residual. -/

theorem foldl_or_init (l : List α) (f : α → Flags) (z : Flags) : l.foldl (fun g e => g ||| f e) z = z ||| l.foldl (fun g e => g ||| f e) 0 := by
  induction l generalizing z with
  | nil => exact (BitVec.or_zero).symm
  | cons e l ih => rw [List.foldl_cons, List.foldl_cons, ih, ih (0 ||| f e), show (0 : Flags) ||| f e = f e from BitVec.zero_or, BitVec.or_assoc]

/-- The cells of a drain, row by row. -/
def drainCells (d : List Byte) : List (Nat × Nat) := (List.range (dRows d)).flatMap fun r => (List.range (dCols d)).map fun n => (r, n)

/-- The element of a drain with no residual. -/
def Team.drained (v : Team) (tile : Nat) (p : List W64) (d : List Byte) (x : Nat × Nat) : Nat × Flags := drainElement p d (v.element tile x.1 x.2) 0 x.1 x.2

/-- The first byte of a drain's element. -/
def drainPlace (p : List W64) (d : List Byte) (x : Nat × Nat) : Nat := (pDst p + BitVec.ofNat 64 (x.1 * dOpitch d + x.2 * fmtBytes (dOfmt d))).toNat

theorem State.drainRow_plain (s : State) (t tile : Nat) (w : Who) (p : List W64) {d : List Byte} (m : Nat) (hd : dRes d = false) :
    (s.drainRow t tile w p d m).filterMap id = (List.range (dCols d)).map fun n =>
      (drainPlace p d (m, n), ((s.team t).drained tile p d (m, n)).1, ((s.team t).drained tile p d (m, n)).2) := by
  have hres : ∀ n, s.residual t w d m n = some 0 := fun n => by
    unfold State.residual
    rw [hd]
    rfl
  unfold State.drainRow
  rw [List.filterMap_map]
  simp only [hres]
  exact congrFun List.filterMap_eq_map _

theorem rows_flags (v : Team) (tile : Nat) (p : List W64) (d : List Byte) (z : Flags) :
    ((List.range (dRows d)).map fun r => (List.range (dCols d)).map fun n => (drainPlace p d (r, n), (v.drained tile p d (r, n)).1, (v.drained tile p d (r, n)).2)).foldl
      (fun f r => r.foldl (fun g e => g ||| e.2.2) f) z = (drainCells d).foldl (fun f x => f ||| (v.drained tile p d x).2) z := by
  unfold drainCells
  rw [List.foldl_map, List.foldl_flatMap]
  simp only [List.foldl_map]

theorem rows_bytes (v : Team) (tile : Nat) (p : List W64) (d : List Byte) :
    (((List.range (dRows d)).map fun r => (List.range (dCols d)).map fun n => (drainPlace p d (r, n), (v.drained tile p d (r, n)).1, (v.drained tile p d (r, n)).2)).map
      fun r => r.flatMap fun e => byteRun e.1 (leBytes (fmtBytes (dOfmt d)) e.2.1)).flatMap id =
    (drainCells d).flatMap fun x => byteRun (drainPlace p d x) (leBytes (fmtBytes (dOfmt d)) (v.drained tile p d x).1) := by
  unfold drainCells
  rw [List.map_map, List.flatMap_map, List.flatMap_assoc]
  refine congrArg (List.flatMap · _) (funext fun r => ?_)
  show List.flatMap _ _ = _
  rw [List.flatMap_map, List.flatMap_map]

/-- The bytes of team memory that a drain puts. -/
def Team.drainBytes (v : Team) (tile : Nat) (p : List W64) (d : List Byte) : List (Nat × Byte) :=
  (drainCells d).flatMap fun x => byteRun (drainPlace p d x) (leBytes (fmtBytes (dOfmt d)) (v.drained tile p d x).1)

theorem State.drainTile_team (hq : (s.team t).queue[i]? = some m) (hr : s.mayRun t i = true) (hdo : m.drainOf = some (tile, p, d))
    (ht : dDtm d = true) (hd : dRes d = false) : s.drainTile t i =
    ((s.modTeam t fun v => ((s.team t).drainBytes tile p d).foldl (fun y b => { y with tmem := FMap.set 0 y.tmem b.1 b.2 }) v).invalidate
      ((((s.team t).drainBytes tile p d).map fun b => LineId.team t (b.1 / 128)).dedup) none).matrixDone t
      { m with flags := m.flags ||| (drainCells d).foldl (fun f x => f ||| ((s.team t).drained tile p d x).2) 0, bad := none, drained := true, asked := m.asked.dedup } := by
  have hp : ∀ w, s.residualPoison t w d = none := fun w => by
    unfold State.residualPoison
    rw [hd]
    rfl
  unfold State.drainTile
  rw [hq]
  dsimp only
  rw [hdo]
  dsimp only
  rw [hr, hd, ht]
  simp only [State.drainRow_plain s t tile _ p _ hd]
  simp only [rows_flags, rows_bytes, hp]
  simp
  rfl
end

/-- Settles O47. -/
theorem matrixEventResults : Obligations.MatrixEventResults := by
  intro s t i m hq hr hw hb done
  have hdone : ∀ (v : State) (m' : MatCmd), m'.wrapped = false → m'.bad = none → m'.num = m.num → m'.slice = m.slice → v.matrixDone t m' = done v m'.flags := by
    intro v m' hw' hb' hn hs
    rw [State.matrixDone_clean v t m' hw' hb']
    unfold State.cmdDone
    rw [hn, hs]
  refine ⟨?_, ?_, ?_, ?_, ?_, ?_⟩
  · exact fun n hop => State.gives_of (fun u => u.performCmd t i) rfl ((State.performCmd_zero hq hr hop).trans (hdone _ m hw hb rfl rfl))
  · exact fun n r c ls hop => State.gives_of (fun u => u.performCmd t i) rfl ((State.performCmd_write hq hr hop).trans (hdone _ m hw hb rfl rfl))
  · exact fun off idx g hop => State.gives_of (fun u => u.performCmd t i) rfl ((State.performCmd_scale hq hr hop).trans (hdone _ m hw hb rfl rfl))
  · exact fun c hop ht => State.gives_of (fun u => u.stepLoop t i) rfl (State.stepLoop_noTurn hq hop ht)
  · intro c hop hs ht hx v
    refine State.gives_of (fun u => u.stepLoop t i) rfl ((State.stepLoop_turn hq hr hw hop hs ht hx).trans ?_)
    dsimp only
    rw [hdone _ { m with steps := m.steps + 1 } hw hb rfl rfl]
  · intro tile p d hdo ht hd e cells bs
    refine State.gives_of (fun u => u.drainTile t i) rfl ((State.drainTile_team hq hr hdo ht hd).trans ?_)
    rw [hdone]
    · dsimp only
      rw [← foldl_or_init]
      rfl
    · exact hw
    · rfl
    · rfl
    · rfl

open Sys2Proof.Tests

set_option maxRecDepth 100000

/-! ### Slices that arrive at a REGANG may stand at different places (R97, R99) -/

/-- Slice 0, hit by an invalidation and asleep at address 0, heads a gang that has waited to the limit; slice 1 of that gang stands where slice 0 goes on,
at address 4. Slice 2 waits at address 0 in a gang of its own. -/
def hitHead : State :=
  { placed.modTeam 0 (fun v => { v with slices := 3 }) with
    slices := [(sliceKey 0 0, { Slice.start Ctx.blank 0 with hit := true, status := .asleep .bar }), (sliceKey 0 1, Slice.start Ctx.blank 4),
      (sliceKey 0 2, Slice.start Ctx.blank 0)],
    gangs := [{ team := 0, ks := [0, 1], age := 0, wait := some 1024 }, { team := 0, ks := [2], age := 0, wait := some 0 }] }

theorem hitHead_arrived : hitHead.arrived 0 0 0 = [1, 2] := by decide

/-- The two go on to different places, so that the gang that they join parts at once. -/
theorem hitHead_parts : ({ team := 0, ks := [1, 2], age := 0, wait := none } : Gang) ∉
    (hitHead.partAll (if hitHead.regangDue 0 0 0 then hitHead.regangJoin 0 0 0 else hitHead)).gangs := by decide

/-- Refutes O46: the time limit of a gang whose head, hit by an invalidation, sleeps at the REGANG's address lets its other slice go on too, which stands one
instruction further than the slice of another gang that has arrived; the two have one MODE and are in no gang together. -/
theorem not_regangWaits : ¬ Obligations.RegangWaits := by
  intro h
  obtain ⟨-, hlimit⟩ := h hitHead 0 [] [] [] { team := 0, ks := [], age := 0, wait := none }
  obtain ⟨u, hu, hone, -⟩ := hlimit 0 0 (by decide) (by decide) (by decide) (by decide)
  have hue : hitHead.partAll (if hitHead.regangDue 0 0 0 then hitHead.regangJoin 0 0 0 else hitHead) = u := Host.Outcome.next.inj hu
  have hgang := (hone 1 (by decide)).2
  rw [← hue, hitHead_arrived] at hgang
  have hmode : ([1, 2].filter fun j => (hitHead.slice 0 j).regs.mode = (hitHead.slice 0 1).regs.mode) = [1, 2] := by decide
  rw [hmode] at hgang
  exact hitHead_parts hgang

end Sys2Proof.Machine
end

section
/-! SUPPORT. Commands held at issue, and their commits -/

namespace Sys2Proof.Machine

/-! ### A gang instruction, slice after slice -/

section
variable {s : State} {t : Nat} {ks : List Nat} {i : Instr} {X : Nat → Slice} {f : State → Nat → Nat → State × Did}

/-- What an instruction does with a slice of a gang whose other slices it may have changed already. -/
def State.eachBecomes (s : State) (t : Nat) (ks : List Nat) (f : State → Nat → Nat → State × Did) (X : Nat → Slice) : Prop :=
  ∀ k ∈ ks, ∀ v : State, v = { s with slices := v.slices } → FMap.find? v.slices (sliceKey t k) = FMap.find? s.slices (sliceKey t k) →
    ∃ w, f v t k = (w, .plain) ∧ Became v w t k (X k)

theorem slice_of_find {v : State} {k : Nat} (h : FMap.find? v.slices (sliceKey t k) = FMap.find? s.slices (sliceKey t k)) : v.slice t k = s.slice t k := by
  unfold State.slice
  rw [FMap.get_eq_find?, FMap.get_eq_find?, h]

theorem eachSlice_becomes (hn : ks.Nodup) (h : s.eachBecomes t ks f X) : ∃ w, eachSlice f s t ks = (w, ks.map fun k => (k, .plain)) ∧
    (∀ k ∈ ks, FMap.find? w.slices (sliceKey t k) = some (X k)) ∧
    (∀ j, (∀ k ∈ ks, j ≠ sliceKey t k) → FMap.find? w.slices j = FMap.find? s.slices j) ∧ w = { s with slices := w.slices } := by
  suffices ∀ (l : List Nat) (a : State × List (Nat × Did)), (∀ k ∈ l, k ∈ ks) → l.Nodup → a.1 = { s with slices := a.1.slices } →
      (∀ k ∈ l, FMap.find? a.1.slices (sliceKey t k) = FMap.find? s.slices (sliceKey t k)) →
      ∃ w, l.foldl (fun (a : State × List (Nat × Did)) k =>
          if s.haltedSince a.1 t then (a.1, a.2 ++ [(k, .gone)]) else ((f a.1 t k).1, a.2 ++ [(k, (f a.1 t k).2)])) a = (w, a.2 ++ l.map fun k => (k, .plain)) ∧
        (∀ k ∈ l, FMap.find? w.slices (sliceKey t k) = some (X k)) ∧
        (∀ j, (∀ k ∈ l, j ≠ sliceKey t k) → FMap.find? w.slices j = FMap.find? a.1.slices j) ∧ w = { s with slices := w.slices } from
    this ks (s, []) (fun _ h => h) hn rfl fun _ _ => rfl
  intro l
  induction l with
  | nil => exact fun a _ _ ha _ => ⟨a.1, by simp, by simp, fun _ _ => rfl, ha⟩
  | cons k l ih =>
    intro a hsub hnd ha hfind
    obtain ⟨hk, hnd⟩ := List.nodup_cons.mp hnd
    obtain ⟨w, hw, hb⟩ := h k (hsub k (List.mem_cons_self ..)) a.1 ha (hfind k (List.mem_cons_self ..))
    have hgo : s.haltedSince a.1 t = false := State.haltedSince_same (by rw [ha]) (by rw [ha])
    have hrest : w = { s with slices := w.slices } := by rw [hb.rest, ha]
    have hne : ∀ j ∈ l, sliceKey t j ≠ sliceKey t k := fun j hj e => hk (sliceKey_inj e ▸ hj)
    obtain ⟨w', hw', h1, h2, h3⟩ := ih (w, a.2 ++ [(k, .plain)]) (fun j hj => hsub j (List.mem_cons_of_mem _ hj)) hnd hrest fun j hj =>
      (hb.others _ (hne j hj)).trans (hfind j (List.mem_cons_of_mem _ hj))
    refine ⟨w', ?_, ?_, ?_, h3⟩
    · rw [List.foldl_cons, hgo, hw]
      simpa using hw'
    · intro j hj
      rcases List.mem_cons.mp hj with rfl | hj
      · exact (h2 _ fun i hi => (hne i hi).symm).trans hb.self
      · exact h1 j hj
    · exact fun j hj => (h2 j fun i hi => hj i (List.mem_cons_of_mem _ hi)).trans (hb.others j (hj k (List.mem_cons_self ..)))

/-- What `issue` does where its body goes slice after slice and every slice goes on. -/
theorem issue_each {body : State → State → Nat → List Nat → State × List (Nat × Did)} (ha : s.acts t ks) (hl : s.lets t ks i)
    (hb : body s s t ks = eachSlice f s t ks) (h : s.eachBecomes t ks f X)
    (hx : ∀ k ∈ ks, (X k).handler = (s.slice t k).handler ∧ (touchesMemory i = false ∨ (X k).level < 2) ∧ (X k).commits = (s.slice t k).commits) :
    s.runs t ks (issue i body s) fun k => s.ran i t k (X k) (X k).regs := by
  obtain ⟨w, hw, h1, h2, h3⟩ := eachSlice_becomes ha.2.1 h
  exact issue_effect ha hl (hb.trans hw) h1 h2 h3 hx

theorem acts_some (ha : s.acts t ks) {k : Nat} (hk : k ∈ ks) : (FMap.find? s.slices (sliceKey t k)).isSome = true := (ha.2.2 k hk).2

/-- A slice of a gang, in a state where it is as it was, with other registers. -/
theorem Became.regs {v : State} {k : Nat} (hs : (FMap.find? s.slices (sliceKey t k)).isSome = true)
    (h : FMap.find? v.slices (sliceKey t k) = FMap.find? s.slices (sliceKey t k)) (g : Slice → Slice) : Became v (v.modSlice t k g) t k (g (s.slice t k)) := by
  have := (Became.refl (s := v) (t := t) (k := k) (by rw [h]; exact hs)).modSlice g
  rwa [slice_of_find h] at this
end

/-! ### The commit of an effect that writes no global memory (R204) -/

section
variable {s : State} {t k : Nat} {it : HeldItem}

/-- An effect that neither writes bytes of global memory nor leaves anything to step 6. -/
def Held.local : Held → Bool
  | .tstore _ | .redt _ _ _ _ | .gate _ _ | .chan _ _ _ | .matrix _ | .engine _ _ | .launchN _ _ | .launchT _ _ | .graph _ _ | .csr _ _ => true
  | .store _ _ _ | .red _ _ _ _ _ | .signal _ _ | .range _ _ _ _ => false

theorem Trial.effect_local (o : Sorts) (s : State) (c : Nat) (tr : Trial) (h : it.eff.local = true) : Trial.effect o s c tr it = tr := by
  obtain ⟨pc, num, eff⟩ := it
  cases eff <;> first | rfl | exact absurd h Bool.false_ne_true

theorem HeldItem.local_rest (s : State) (c : Nat) (h : it.eff.local = true) :
    it.leaves = [] ∧ s.rangeLeaves c it = [] ∧ s.discarded c [it] = Trial.start s ∧ it.late = false := by
  obtain ⟨pc, num, eff⟩ := it
  cases eff <;> first | exact ⟨rfl, rfl, rfl, rfl⟩ | exact absurd h Bool.false_ne_true

/-- Steps 2 to 5 of R204 for one such effect. -/
theorem State.perform_local (h : it.eff.local = true) : s.perform t k [it] = .ok (State.heldEffect t k (s.team t).ctx (s, 0) it) := by
  obtain ⟨h1, h2, h3, -⟩ := HeldItem.local_rest s (s.team t).ctx h
  have htrial : ∀ o, s.trial o (s.team t).ctx [it] = Trial.start s := fun o => Trial.effect_local o s _ _ h
  have hcodes : s.chargeCodes (Trial.start s) (Trial.start s) = [] := rfl
  have hpins : (Trial.start s).pins = [] := rfl
  have hmarks : (Trial.start s).marks = [] := rfl
  unfold State.perform
  simp only [htrial, hcodes, hpins, hmarks, State.charge_nil, h3, List.flatMap_cons, List.flatMap_nil, h1, h2, List.append_nil, List.foldl_nil]
  rw [State.makeTrial_nil rfl, State.makeTrial_nil rfl]
  rfl

/-- A chunk that holds one such effect commits: what the effect makes of the state, and the next chunk of the slice. -/
theorem State.commits_local {pc : W64} {e : Held} {X : State} {fl : Flags} (h : e.local = true)
    (hX : ∀ num, State.heldEffect t k (s.team t).ctx (s, 0) { pc := pc, num := num, eff := e } = (X, fl)) : s.commits t k pc e X fl := by
  intro num now hheld
  have hlate : ([{ pc := pc, num := num, eff := e }] : List HeldItem).filter HeldItem.late = [] := by
    rw [List.filter_cons, (HeldItem.local_rest s 0 (it := { pc := pc, num := num, eff := e }) h).2.2.2]
    rfl
  unfold State.commitChunk
  rw [hheld]
  dsimp only
  rw [State.perform_local (it := { pc := pc, num := num, eff := e }) h, hX, hlate]
  cases now <;> rfl
end

/-! ### Matrix commands at issue (R265 to R274) -/

section
variable {s : State} {t k : Nat} {i : Instr}

theorem State.passes_nil (s : State) (t k : Nat) : s.passes t k [] [] := ⟨rfl, rfl, fun _ h => absurd h (List.not_mem_nil)⟩

theorem solo_cur (h : s.solo t k i) : s.cur = { team := t, ks := [k] } := h.1.1

/-- A matrix command that each slice holds, in one slice. -/
theorem holdMatrix_holds {op : Regs → MatOp} (he : exec i s = holdMatrix i op s) : s.holds t k i [.matrix (op (s.slice t k).regs)] [] [] Regs.adv := by
  intro ho hf
  rw [he]
  exact issue_holdAndGo (eachSlice_one ..) ho hf

/-- A slice instruction whose accesses pass and whose act holds effects. -/
theorem sliceAccess_holds {kind : Nat} {look : State → Nat → Nat → List (W64 × Want)} {act : State → State → Nat → Nat → List (Acc × Leaf × Nat) → State × Did}
    {oks : List (Acc × Leaf × Nat)} {es : List Held} {wl rl : List LineId} (he : exec i s = issue i (sliceAccess i kind false look act) s)
    (hp : s.passes t k (look s t k) oks) (hact : act s s t k oks = s.holdAndGo s t k es wl rl) : s.holds t k i es wl rl Regs.adv := by
  intro ho hf
  rw [he]
  refine issue_holdAndGo ?_ ho hf
  rw [sliceAccess_of_passes hp ho.2.2.2.1, hact]

/-- MSCL whose checks pass. -/
theorem mscl_holds {a b n : Nat} (h : sclFault (s.params t) ((s.slice t k).regs.getS a) ((s.slice t k).regs.getS b) (n + 1) (s.firstLane k) = none) :
    s.holds t k (.mscl a b n) [.matrix (.scale ((s.slice t k).regs.getS a).toNat ((s.slice t k).regs.getS b).toNat (n + 1))] [] [] Regs.adv := by
  intro ho hf
  have he : exec (.mscl a b n) s = execMscl a b n s := rfl
  rw [he]
  unfold execMscl
  refine issue_holdAndGo ?_ ho hf
  rw [eachSlice_one]
  dsimp only
  rw [h]

/-- The parameters that MLOOP and MDRAIN read at issue, and MLOOP's slots. -/
def State.matParams (s : State) (t k d : Nat) : List W64 := blockRegs d (s.slice t k).regs

section
variable {d fa fb tile l : Nat} {ka : Bool} {oks : List (Acc × Leaf × Nat)}

/-- MLOOP without a drain. -/
theorem mloop_holds_plain (hf : loopFault (s.params t) ((s.params t).slots.getD fa 0) ((s.params t).slots.getD fb 0) ka (s.matParams t k d) (s.firstLane k) = none)
    (hd : pDe (s.matParams t k d) = false) : s.holds t k (.mloop d fa fb tile ka l)
      [.matrix (.loop { tile := tile, fa := (s.params t).slots.getD fa 0, fb := (s.params t).slots.getD fb 0, ka := ka, params := s.matParams t k d, desc := [] })]
      [] [] Regs.adv := by
  intro ho
  have hcur := solo_cur ho
  unfold State.matParams at hf hd
  refine sliceAccess_holds (oks := []) rfl ?_ ?_ ho
  · rw [hcur]
    simp only [hf, hd]
    exact State.passes_nil s t k
  · rw [hcur]
    simp only [hf, hd]
    rfl

/-- MLOOP with a drain. -/
theorem mloop_holds_drain (hf : loopFault (s.params t) ((s.params t).slots.getD fa 0) ((s.params t).slots.getD fb 0) ka (s.matParams t k d) (s.firstLane k) = none)
    (hd : pDe (s.matParams t k d) = true) (hp : s.passes t k [(pDesc (s.matParams t k d), wantDesc 64 fun c => c == .nc || c == .io)] oks)
    (hdf : drainFault (s.params t).tmem (s.matParams t k d) (pDesc (s.matParams t k d)) (s.descBytes t k 64 oks).2 (s.firstLane k) = none) :
    s.holds t k (.mloop d fa fb tile ka l)
      [.matrix (.loop { tile := tile, fa := (s.params t).slots.getD fa 0, fb := (s.params t).slots.getD fb 0, ka := ka, params := s.matParams t k d,
                        desc := (s.descBytes t k 64 oks).2 })]
      [] (s.loadLines t oks) Regs.adv := by
  intro ho
  have hcur := solo_cur ho
  have hdesc := State.descBytes_local (n := 64) hp
  unfold State.matParams at hf hd hp hdf
  refine sliceAccess_holds (oks := oks) rfl ?_ ?_ ho
  · rw [hcur]
    simp only [hf, hd]
    exact hp
  · rw [hcur]
    simp only [hf, hd, hdf]
    rw [hdesc]
    rfl

theorem mdrain_holds (hp : s.passes t k [(pDesc (s.matParams t k d), wantDesc 64 fun c => c == .nc || c == .io)] oks)
    (hdf : drainFault (s.params t).tmem (s.matParams t k d) (pDesc (s.matParams t k d)) (s.descBytes t k 64 oks).2 (s.firstLane k) = none) :
    s.holds t k (.mdrain d tile) [.matrix (.drain tile (s.matParams t k d) (s.descBytes t k 64 oks).2)] [] (s.loadLines t oks) Regs.adv := by
  have hdesc := State.descBytes_local (n := 64) hp
  unfold State.matParams at hp hdf
  have he : exec (.mdrain d tile) s = execMdrain d tile s := rfl
  refine sliceAccess_holds (oks := oks) he hp ?_
  simp only [hdf]
  rw [hdesc]
  rfl
end

/-- MRD where no command of its tile is pending. -/
theorem mrd_sets {d a tile l : Nat} {ks : List Nat} (ha : s.acts t ks) (hm : ∀ j ∈ ks, (s.slice t j).mark = none)
    (hp : (s.team t).pending (s.team t).released (some tile) = false) : s.sets t ks (.mrd d a tile l) fun _ r =>
      (singleLanes (fun j => (s.team t).element tile (tileRow (r.getS a)) (tileCol (r.getS a) + j)) d r).adv := by
  intro hl
  let g : Regs → Regs := fun r => (singleLanes (fun j => (s.team t).element tile (tileRow (r.getS a)) (tileCol (r.getS a) + j)) d r).adv
  have he : exec (.mrd d a tile l) s = execMrd d a tile l s := rfl
  rw [he]
  unfold execMrd
  refine issue_each (X := fun k => { s.slice t k with regs := g (s.slice t k).regs }) ha hl rfl ?_ fun j _ => ⟨rfl, .inl rfl, rfl⟩
  intro j hj v hv hfind
  have hteam : v.team t = s.team t := by rw [hv]; rfl
  refine ⟨_, ?_, Became.regs (acts_some ha hj) hfind fun sl => { sl with regs := g (s.slice t j).regs }⟩
  dsimp only
  rw [slice_of_find hfind, hm j hj, hteam]
  exact if_neg (by simp [hp])
end

/-- Settles O27. -/
theorem matrixCommandResults : Obligations.MatrixCommandResults := by
  intro s t k d a b n l fa fb tile ka oks regs p sa sb desc
  refine ⟨holdMatrix_holds (op := fun _ => .zero tile) rfl,
    holdMatrix_holds (op := fun r => .write tile (tileRow (r.getS a)) (tileCol (r.getS a)) ((laneList r.active).map fun j => (j, r.getV d j))) rfl, mscl_holds, mloop_holds_plain, ?_, fun ks ha hm hp => mrd_sets ha hm hp, ?_⟩
  · exact fun hp hdf => ⟨fun hf hd => mloop_holds_drain hf hd hp hdf, mdrain_holds hp hdf⟩
  · exact fun pc o => State.commits_local rfl fun num => rfl

/-! ### Engine commands at issue (R276, R277, R285) -/

section
variable {s : State} {t k d a b : Nat} {i : Instr}

/-- An instruction of one slice that holds an engine command and writes its ticket. -/
theorem issue_holdEngine {rl : List LineId} {o : EngOp} {body : State → State → Nat → List Nat → State × List (Nat × Did)}
    (hb : body s s t [k] = ((s.holdEngine s i t k d rl o).1, [(k, (s.holdEngine s i t k d rl o).2)])) (ho : s.solo t k i)
    (hf : s.fits2 t k [] (.issued t :: rl)) :
    s.runs t [k] (issue i body s) fun _ => s.ran i t k ((s.slice t k).hold [.engine (s.ticket t k) o] [] (.issued t :: rl))
      ((s.slice t k).regs.setS d (BitVec.ofNat 64 (s.ticket t k))).adv := by
  have he : s.holdEngine s i t k d rl o = (s.modSlice t k fun sl =>
      let h := sl.hold [.engine (s.ticket t k) o] [] (.issued t :: rl)
      { h with regs := (h.regs.setS d (BitVec.ofNat 64 (s.ticket t k))).adv }, .plain) := by
    unfold State.holdEngine
    rw [State.room_of_fits hf]
    exact State.atOnce_solo ho rfl
  rw [he] at hb
  exact issue_holds ho hb ((Became.refl (solo_some ho)).modSlice _)

section
variable {f : Binding} {oks : List (Acc × Leaf × Nat)}

theorem copy_holds (hp : s.passes t k [((s.slice t k).regs.getS a, wantDesc 128 fun c => c == .io)] oks)
    (ht : s.copyTrap t f ((s.slice t k).regs.getS b) ((s.slice t k).regs.getS a) (s.descBytes t k 128 oks).2 (s.firstLane k) = none) :
    s.holds t k (.copy f d a b)
      [.engine (s.ticket t k) (.copy f (if f == .gate then ((s.slice t k).regs.getS b).toNat else 0)
        (if f == .channel then s.handleOf t ((s.slice t k).regs.getS b) else none) ((s.slice t k).regs.getS a) (s.descBytes t k 128 oks).2
        ((s.params t).slots.getD (cSlot (s.descBytes t k 128 oks).2) 0))] [] (.issued t :: s.loadLines t oks)
      fun r => (r.setS d (BitVec.ofNat 64 (s.ticket t k))).adv := by
  intro ho hf
  have he : exec (.copy f d a b) s = execCopy f d a b s := rfl
  have hdesc := State.descBytes_local (n := 128) hp
  rw [he]
  unfold execCopy
  refine issue_holdEngine ?_ ho hf
  rw [sliceAccess_of_passes hp ho.2.2.2.1, hdesc]
  dsimp only
  rw [ht]

theorem allred_holds (hp : s.passes t k [((s.slice t k).regs.getS a, wantDesc 64 fun c => c == .io)] oks)
    (ht : s.allredTrap ((s.slice t k).regs.getS a) (s.descBytes t k 64 oks).2 (s.firstLane k) = none) :
    s.holds t k (.allred d a)
      [.engine (s.ticket t k) (.allred (s.descBytes t k 64 oks).2 ((s.slice t k).regs.getS a))] [] (.issued t :: s.loadLines t oks)
      fun r => (r.setS d (BitVec.ofNat 64 (s.ticket t k))).adv := by
  intro ho hf
  have he : exec (.allred d a) s = execAllred d a s := rfl
  have hdesc := State.descBytes_local (n := 64) hp
  rw [he]
  unfold execAllred
  refine issue_holdEngine ?_ ho hf
  rw [sliceAccess_of_passes hp ho.2.2.2.1, hdesc]
  dsimp only
  rw [ht]
end

theorem repsync_holds (hb : repRangeBad ((s.slice t k).regs.getS a) ((s.slice t k).regs.getS b) = false)
    (ht : repsyncTrap (s.rangeLeavesAt (s.team t).ctx ((s.slice t k).regs.getS a) ((s.slice t k).regs.getS b)) (s.firstLane k) = none)
    (hu : s.touch (s.team t).ctx ((s.rangeLeavesAt (s.team t).ctx ((s.slice t k).regs.getS a) ((s.slice t k).regs.getS b)).map (·.1)) = s) :
    s.holds t k (.repsync d a b) [.engine (s.ticket t k) (.repsync ((s.slice t k).regs.getS a) ((s.slice t k).regs.getS b))] [] [.issued t]
      fun r => (r.setS d (BitVec.ofNat 64 (s.ticket t k))).adv := by
  intro ho hf
  have he : exec (.repsync d a b) s = execRepsync d a b s := rfl
  rw [he]
  unfold execRepsync
  refine issue_holdEngine ?_ ho hf
  rw [eachSlice_one]
  dsimp only
  rw [hu, ht, if_neg (by rw [hb]; exact Bool.false_ne_true)]
end

/-- Settles O28. -/
theorem engineCommandResults : Obligations.EngineCommandResults := by
  intro s t k d a b f oks regs va h ticket
  refine ⟨copy_holds, allred_holds, fun hb ht hu => repsync_holds hb ht hu, ?_⟩
  intro pc n g ch desc slot e fork
  exact ⟨State.commits_local rfl fun _ => rfl, State.commits_local rfl fun _ => rfl, State.commits_local rfl fun _ => rfl⟩

/-! ### Device-side launches, graphs and SIGNAL at issue (R314, R315) -/

section
variable {s : State} {t k d a : Nat} {i : Instr} {oks : List (Acc × Leaf × Nat)}

/-- A command on a record whose lines pass. -/
theorem recordOp_holds {n : Nat} {op : W64 → List Byte → Held} (he : exec i s = recordOp i a n op s) (hp : s.passes t k (wantRecord n ((s.slice t k).regs.getS a)) oks) :
    s.holds t k i [op ((s.slice t k).regs.getS a) (s.recordBytes t k n oks).2] [] (s.loadLines t oks) Regs.adv := by
  refine sliceAccess_holds he hp ?_
  dsimp only
  rw [State.recordBytes_local hp]

theorem signal_holds {x : Acc × Leaf × Nat} (hp : s.passes t k [((s.slice t k).regs.getS a, wantSignal)] [x]) :
    s.holds t k (.signal d a)
      [.signal (storeRun x.2.1.rep x.1.va.toNat x.2.2 (leBytes 8 ((s.slice t k).regs.getS d).toNat)) [x.2.1.addr]] (writeLine x.2.1 x.2.2) [] Regs.adv := by
  have he : exec (.signal d a) s = execSignal d a s := rfl
  refine sliceAccess_holds he hp ?_
  dsimp only
  rw [List.map_singleton, List.flatMap_singleton]
end

/-! ### The waiters that a signal is told to (R315): nothing else of a commit counts for them -/

/-- How often each context's waiters have been told of a signal. -/
def State.toldOf (s : State) : List (Nat × Nat) := s.ctxs.map fun e => (e.1, e.2.notified)

section
variable {s : State}

theorem State.toldOf_modCtx (s : State) (c : Nat) (f : Ctx → Ctx) (hf : ∀ v, (f v).notified = v.notified) : (s.modCtx c f).toldOf = s.toldOf :=
  FMap.map_modify s.ctxs c f (fun e => (e.1, e.2.notified)) fun k v => congrArg (Prod.mk k) (hf v)

theorem State.toldOf_foldl {α : Type} (f : State → α → State) (l : List α) (hf : ∀ u, ∀ x ∈ l, (f u x).toldOf = u.toldOf) (s : State) :
    (l.foldl f s).toldOf = s.toldOf := by
  induction l generalizing s with
  | nil => rfl
  | cons x l ih => exact (ih (fun u y hy => hf u y (List.mem_cons_of_mem _ hy)) _).trans (hf s x (List.mem_cons_self ..))

@[simp] theorem State.setBlock_toldOf (s : State) (b : Nat) (v : Block) : (s.setBlock b v).toldOf = s.toldOf := rfl

@[simp] theorem State.draw_toldOf (s : State) (b n : Nat) : (s.draw b n).2.toldOf = s.toldOf := by
  unfold State.draw
  split
  · split
    · split <;> rfl
    · rfl
  · rfl

@[simp] theorem State.drawAlways_toldOf (s : State) (b n : Nat) : (s.drawAlways b n).2.toldOf = s.toldOf := by
  unfold State.drawAlways
  dsimp only
  split
  · exact s.draw_toldOf b n
  · exact s.draw_toldOf b n

@[simp] theorem State.release_toldOf (s : State) (b g : Nat) : (s.release b g).toldOf = s.toldOf := by
  unfold State.release
  split <;> rfl

@[simp] theorem State.occupy_toldOf (s : State) (o : Option Nat) (up down : Nat) : (s.occupy o up down).toldOf = s.toldOf := by
  unfold State.occupy
  split
  · exact State.toldOf_modCtx _ _ _ fun _ => rfl
  · rfl

@[simp] theorem State.attach_toldOf (s : State) (b : Nat) (gs : List Nat) : (s.attach b gs).toldOf = s.toldOf := by
  unfold State.attach
  dsimp only
  split
  · rfl
  · simp

@[simp] theorem State.attachAlways_toldOf (s : State) (b n : Nat) (gs : List Nat) : (s.attachAlways b n gs).toldOf = s.toldOf := by
  unfold State.attachAlways
  dsimp only
  split
  · rfl
  · simp

@[simp] theorem State.repack_toldOf (s : State) (b : Nat) : (s.repack b).toldOf = s.toldOf := by
  unfold State.repack
  dsimp only
  split
  · rfl
  · rw [State.toldOf_foldl _ _ fun u g _ => u.release_toldOf b g]
    simp

@[simp] theorem State.growAlways_toldOf (s : State) (chg : List (Nat × Nat)) : (s.growAlways chg).toldOf = s.toldOf :=
  State.toldOf_foldl _ _ (fun u b _ => by simp) s

@[simp] theorem State.invalidate_toldOf (s : State) (ls : List LineId) (skip : Option Nat) : (s.invalidate ls skip).toldOf = s.toldOf := by
  unfold State.invalidate
  split <;> rfl

@[simp] theorem State.writeBack_toldOf (s : State) (line : Nat) (keep : Bool) : (s.writeBack line keep).toldOf = s.toldOf := by
  unfold State.writeBack
  split
  · rfl
  · split
    · rfl
    · dsimp only
      split
      · rw [State.repack_toldOf]; rfl
      · rfl

@[simp] theorem State.countEvicts_toldOf (s : State) (d i n : Nat) : (s.countEvicts d i n).toldOf = s.toldOf := rfl

@[simp] theorem State.fit_toldOf (line : Nat) (skip : Option Nat) (n : Nat) (s : State) : (s.fit line skip n).toldOf = s.toldOf := by
  induction n generalizing s with
  | zero => rfl
  | succ n ih =>
    unfold State.fit
    split
    · rfl
    · split
      · rfl
      · rw [ih]
        split <;> simp

@[simp] theorem State.setLine_toldOf (s : State) (skip : Option Nat) (e : Nat × Nat) : (s.setLine skip e).toldOf = s.toldOf :=
  State.fit_toldOf _ _ _ { s with llc := _, clock := _ }

@[simp] theorem State.foldl_setLine_toldOf (s : State) (skip : Option Nat) (chg : List (Nat × Nat)) :
    (chg.foldl (fun t e => t.setLine skip e) s).toldOf = s.toldOf := State.toldOf_foldl _ _ (fun u e _ => u.setLine_toldOf skip e) s

@[simp] theorem State.applyBytes_toldOf (s : State) (ws : List (Nat × Byte)) : (s.applyBytes ws).toldOf = s.toldOf := rfl

@[simp] theorem State.agentWrite_toldOf (s : State) (ws : List (Nat × Byte)) (skip : Option Nat) : (s.agentWrite ws skip).toldOf = s.toldOf := by
  unfold State.agentWrite
  simp

@[simp] theorem State.tableWrite_toldOf (s : State) (ws : List (Nat × Byte)) : (s.tableWrite ws).toldOf = s.toldOf := by
  unfold State.tableWrite
  dsimp only
  rw [State.foldl_setLine_toldOf, State.growAlways_toldOf]
  rfl

@[simp] theorem State.setA_toldOf (s : State) (l : Leaf) : (s.setA l).toldOf = s.toldOf := by
  unfold State.setA
  split <;> simp

@[simp] theorem State.setD_toldOf (s : State) (a : Nat) : (s.setD a).toldOf = s.toldOf := by
  unfold State.setD
  dsimp only
  split <;> simp

@[simp] theorem State.appendLog_toldOf (s : State) (x : Nat) (r : LogRec) : (s.appendLog x r).toldOf = s.toldOf := by
  unfold State.appendLog
  dsimp only
  rw [State.invalidate_toldOf, State.toldOf_modCtx _ _ _ (by intro; rfl)]
  split <;> simp

@[simp] theorem State.poisonRecords_toldOf (s : State) (t k c : Nat) (tr : Trial) : (s.poisonRecords t k c tr).toldOf = s.toldOf := by
  refine State.toldOf_foldl _ _ (fun u l _ => ?_) s
  split
  · rfl
  · split
    · simp
    · split <;> simp

@[simp] theorem State.makeTrial_toldOf (s : State) (t k c : Nat) (tr : Trial) (tracked : Bool) : (s.makeTrial t k c tr tracked).toldOf = s.toldOf := by
  unfold State.makeTrial
  dsimp only
  rw [State.foldl_setLine_toldOf]
  split <;> simp

theorem State.charge_toldOf {s u : State} {c : Nat} {chg : List (Nat × Nat)} {pins : List Nat} {marks : List Mark} (h : s.charge c chg pins marks = .ok u) :
    u.toldOf = s.toldOf := by
  unfold State.charge State.growOwnerless at h
  dsimp only at h
  split at h
  · cases h
    simp
  · split at h
    · cases h
    · split at h
      · cases h
      · cases h
        rw [State.toldOf_foldl _ _ fun u e _ => by simp]
        simp

theorem State.find_toldOf (s : State) (c : Nat) : FMap.find? s.toldOf c = (FMap.find? s.ctxs c).map Ctx.notified := by
  unfold State.toldOf
  induction s.ctxs with
  | nil => rfl
  | cons e l ih =>
    rw [List.map_cons]
    unfold FMap.find?
    split
    · rfl
    · exact ih

theorem State.notifyAll_toldOf (s : State) : s.notifyAll.toldOf = s.toldOf.map fun e => (e.1, e.2 + 1) := by
  unfold State.notifyAll State.toldOf
  rw [List.map_map, List.map_map]
  rfl

/-- The commit of a SIGNAL tells every context's waiters once. -/
theorem State.commitChunk_signal {t k num : Nat} {pc : W64} {now : Bool} {w : State} {ys : List StoreByte} {ls : List Nat}
    (hheld : (s.slice t k).chunk.held = [{ pc := pc, num := num, eff := .signal ys ls }]) (h : s.commitChunk t k now = .ok w) :
    w.toldOf = s.toldOf.map fun e => (e.1, e.2 + 1) := by
  unfold State.commitChunk State.perform at h
  rw [hheld] at h
  dsimp only at h
  split at h
  · cases h
  · next r hr =>
    split at hr
    · cases hr
    · next v hv =>
      cases hr
      have hlate : ([{ pc := pc, num := num, eff := .signal ys ls }] : List HeldItem).filter HeldItem.late = [] := rfl
      rw [hlate] at h
      have hstep : ∀ u : State, (if now then u.stepSix t k (s.team t).ctx [] else u) = u := fun u => by
        cases now <;> rfl
      rw [hstep] at h
      cases h
      show (State.notifyAll _).toldOf = _
      rw [State.notifyAll_toldOf, State.makeTrial_toldOf, State.makeTrial_toldOf, State.toldOf_foldl _ _ (fun u a _ => u.setD_toldOf a), State.charge_toldOf hv]

theorem State.commitChunk_notified {t k num : Nat} {pc : W64} {now : Bool} {w : State} {ys : List StoreByte} {ls : List Nat}
    (hheld : (s.slice t k).chunk.held = [{ pc := pc, num := num, eff := .signal ys ls }]) (h : s.commitChunk t k now = .ok w)
    {c : Nat} {x : Ctx} (hx : FMap.find? s.ctxs c = some x) : (w.ctx c).notified = x.notified + 1 := by
  have hfind : FMap.find? w.toldOf c = some (x.notified + 1) := by
    have hs := s.find_toldOf c
    rw [hx] at hs
    have hmap : ∀ l : List (Nat × Nat), FMap.find? (l.map fun e => (e.1, e.2 + 1)) c = (FMap.find? l c).map (· + 1) := fun l => by
      induction l with
      | nil => rfl
      | cons e l ih =>
        rw [List.map_cons]
        unfold FMap.find?
        split
        · rfl
        · exact ih
    rw [State.commitChunk_signal hheld h, hmap, hs]
    rfl
  rw [State.find_toldOf] at hfind
  obtain ⟨y, hy, hn⟩ := Option.map_eq_some_iff.mp hfind
  unfold State.ctx
  rw [FMap.get_of_find? hy, hn]
end

/-- Settles O29. -/
theorem launchCommandResults : Obligations.LaunchCommandResults := by
  intro s t k d a oks va
  refine ⟨fun hp => ⟨recordOp_holds rfl hp, recordOp_holds rfl hp⟩, fun hp => recordOp_holds rfl hp, ?_, ?_, ?_⟩
  · intro x hx hp
    subst hx
    exact signal_holds hp
  · intro pc bs c l
    refine ⟨State.commits_local rfl fun _ => rfl, State.commits_local rfl fun _ => rfl, fun hl => State.commits_local rfl fun num => ?_⟩
    have htail : s.addTail l va bs = s.modLaunch l fun x => { x with tails := x.tails ++ [(va, bs)] } := if_pos hl
    exact Prod.ext htail rfl
  · exact fun pc num now w ls ys hheld h c x hx => State.commitChunk_notified hheld h hx

/-! ### Gates and channels at issue (R235, R239, R240) -/

section
variable {s : State} {t k a b d : Nat} {i : Instr}

theorem gateOp_holds {o : Regs → GateOp} (he : exec i s = gateOp i a o s) (h16 : ((s.slice t k).regs.getS a).toNat % 16 = 0)
    (hsize : ((s.slice t k).regs.getS a).toNat + 16 ≤ (s.params t).tmem) :
    s.holds t k i [.gate ((s.slice t k).regs.getS a).toNat (o (s.slice t k).regs)] [.team t (((s.slice t k).regs.getS a).toNat / 128)] [] Regs.adv := by
  intro ho hf
  have hfault : gateFault (s.params t).tmem ((s.slice t k).regs.getS a) (s.firstLane k) = none := by
    unfold gateFault
    rw [if_neg (by omega), if_neg (by omega)]
  rw [he]
  refine issue_holdAndGo ?_ ho hf
  rw [eachSlice_one]
  dsimp only
  rw [hfault]

theorem chanRelease_holds {op : ChanOp} {o c : Nat} (he : exec i s = chanRelease i a op s) (hh : s.handle t ((s.slice t k).regs.getS a) = some (o, c)) :
    s.holds t k i [.chan o c op] [] [] Regs.adv := by
  intro ho hf
  rw [he]
  refine issue_holdAndGo ?_ ho hf
  rw [eachSlice_one, hh]

/-- A non-blocking acquire or take of a counter above 0. -/
theorem chanTry_ready {op : ChanOp} {o c : Nat} {v : Chan} (he : exec i s = chanTry i d a op s) (hh : s.handle t ((s.slice t k).regs.getS a) = some (o, c))
    (hc : s.chanSeen t k o c = some v) (hr : v.ready op = true) :
    s.holds t k i [.chan o c op] [] [.chan o c] fun r => (r.setS d (BitVec.ofNat 64 (v.slot op))).adv := by
  intro ho hf
  rw [he]
  have hbody := State.atOnce_solo ho (d := .plain) (G := fun sl =>
    let h := sl.hold [.chan o c op] [] [.chan o c]
    { h with regs := (h.regs.setS d (BitVec.ofNat 64 (v.slot op))).adv }) rfl
  refine issue_holds ho ?_ ((Became.refl (solo_some ho)).modSlice fun sl =>
    let h := sl.hold [.chan o c op] [] [.chan o c]
    { h with regs := (h.regs.setS d (BitVec.ofNat 64 (v.slot op))).adv })
  rw [eachSlice_one, hh]
  dsimp only
  rw [State.room_of_fits hf]
  dsimp only
  rw [hc]
  dsimp only
  rw [if_pos hr, hbody]

/-- The same of a counter at 0. -/
theorem chanTry_empty {op : ChanOp} {o c : Nat} {v : Chan} (he : exec i s = chanTry i d a op s) (hh : s.handle t ((s.slice t k).regs.getS a) = some (o, c))
    (hc : s.chanSeen t k o c = some v) (hr : v.ready op = false) : s.holds t k i [] [] [.chan o c] fun r => (r.setS d ones64).adv := by
  intro ho hf
  rw [he]
  refine issue_holds ho ?_ ((Became.refl (solo_some ho)).modSlice fun sl =>
    let h := sl.hold [] [] [.chan o c]
    { h with regs := (h.regs.setS d ones64).adv })
  rw [eachSlice_one, hh]
  dsimp only
  rw [State.room_of_fits hf]
  dsimp only
  rw [hc]
  dsimp only
  rw [if_neg (by rw [hr]; exact Bool.false_ne_true)]

theorem csrw_holds {n : Nat} (h : n ≠ 0x010 ∨ ((s.slice t k).regs.getS a).toNat % 4 = 0) :
    s.holds t k (.csrw a n) [.csr n ((s.slice t k).regs.getS a)] [] [] Regs.adv := by
  intro ho hf
  have he : exec (.csrw a n) s = execCsrw a n s := rfl
  rw [he]
  refine issue_holdAndGo ?_ ho hf
  rw [eachSlice_one]
  dsimp only
  rw [if_neg (by tauto)]
end

/-! ### Gates and channels as data (R234, R235, R237) -/

theorem Team.tmem_putBytes (bs : List Byte) (v : Team) (off i : Nat) : FMap.get 0 (v.putBytes off bs).tmem i =
    if off ≤ i ∧ i < off + bs.length then bs.getD (i - off) 0 else FMap.get 0 v.tmem i := by
  induction bs generalizing v off with
  | nil =>
    rw [if_neg (by simp)]
    rfl
  | cons b bs ih =>
    unfold Team.putBytes
    rw [ih]
    dsimp only
    rw [FMap.get_set, List.length_cons]
    rcases Nat.lt_trichotomy i off with h | rfl | h
    · rw [if_neg (by omega), if_neg (by omega), if_neg (by omega)]
    · rw [if_neg (by omega), if_pos rfl, if_pos (by omega), Nat.sub_self]
      rfl
    · have hsub : i - off = (i - (off + 1)) + 1 := by omega
      by_cases hi : i < off + 1 + bs.length
      · rw [if_pos (by omega), if_pos (by omega), hsub]
        rfl
      · rw [if_neg (by omega), if_neg (by omega), if_neg (by omega)]

/-- Team memory read where bytes were put. -/
theorem Team.readBytes_putBytes (v : Team) (off : Nat) (bs : List Byte) : (v.putBytes off bs).readBytes off bs.length = bs := by
  unfold Team.readBytes
  refine List.ext_getElem (by simp) fun i h1 h2 => ?_
  rw [List.getElem_map, List.getElem_range, Team.tmem_putBytes, if_pos (by omega), Nat.add_sub_cancel_left, List.getD_eq_getElem _ _ h2]

theorem Gate.bits_lt (g : Gate) : g.bits < 2 ^ 128 := by
  have h1 := g.bpend.isLt
  have h2 := g.err.toNat_lt
  have h3 := g.ecur.toNat_lt
  have h4 := g.resv.isLt
  have h5 := g.erounds.isLt
  have h6 := g.apend.isLt
  have h7 := g.arrive.isLt
  have h8 := g.round.isLt
  unfold Gate.bits
  omega

theorem bool_of_bit {n : Nat} {x : Bool} (h : n % 2 = x.toNat) : (n % 2 != 0) = x := by
  rw [h]
  cases x <;> rfl

theorem Gate.ofBits_bits (g : Gate) : Gate.ofBits g.bits = g := by
  have h1 := g.bpend.isLt
  have h2 := g.err.toNat_lt
  have h3 := g.ecur.toNat_lt
  have h4 := g.resv.isLt
  have h5 := g.erounds.isLt
  have h6 := g.apend.isLt
  have h7 := g.arrive.isLt
  have h8 := g.round.isLt
  have hbits : ∀ i, g.bits.testBit i = (g.bits / 2 ^ i % 2 != 0) := fun i => by
    rw [Nat.testBit, Nat.shiftRight_eq_div_pow, Nat.one_and_eq_mod_two]
  have hround : BitVec.ofNat 16 (g.bits / 2 ^ 112) = g.round := BitVec.eq_of_toNat_eq (by rw [BitVec.toNat_ofNat]; unfold Gate.bits; omega)
  have harrive : BitVec.ofNat 16 (g.bits / 2 ^ 96) = g.arrive := BitVec.eq_of_toNat_eq (by rw [BitVec.toNat_ofNat]; unfold Gate.bits; omega)
  have hapend : BitVec.ofNat 16 (g.bits / 2 ^ 80) = g.apend := BitVec.eq_of_toNat_eq (by rw [BitVec.toNat_ofNat]; unfold Gate.bits; omega)
  have herounds : BitVec.ofNat 16 (g.bits / 2 ^ 64) = g.erounds := BitVec.eq_of_toNat_eq (by rw [BitVec.toNat_ofNat]; unfold Gate.bits; omega)
  have hresv : BitVec.ofNat 30 (g.bits / 2 ^ 34) = g.resv := BitVec.eq_of_toNat_eq (by rw [BitVec.toNat_ofNat]; unfold Gate.bits; omega)
  have hbpend : BitVec.ofNat 32 g.bits = g.bpend := BitVec.eq_of_toNat_eq (by rw [BitVec.toNat_ofNat]; unfold Gate.bits; omega)
  have hecur : g.bits.testBit 33 = g.ecur := (hbits 33).trans (bool_of_bit (by unfold Gate.bits; omega))
  have herr : g.bits.testBit 32 = g.err := (hbits 32).trans (bool_of_bit (by unfold Gate.bits; omega))
  unfold Gate.ofBits
  rw [hround, harrive, hapend, herounds, hresv, hecur, herr, hbpend]

theorem Team.gate_setGate (v : Team) (x : Nat) (g : Gate) : (v.setGate x g).gate x = g := by
  have h := Team.readBytes_putBytes v x (leBytes 16 g.bits)
  rw [leBytes_length] at h
  have hgate : (v.setGate x g).gate x = Gate.ofBits (leNat ((v.putBytes x (leBytes 16 g.bits)).readBytes x 16)) := rfl
  rw [hgate, h, leNat_leBytes, Nat.mod_eq_of_lt (by have := g.bits_lt; omega), Gate.ofBits_bits]

/-- Settles O26. -/
theorem gateChannelResults : Obligations.GateChannelResults := by
  intro s t k a b d n regs off
  refine ⟨?_, ?_, csrw_holds, ?_, Team.gate_setGate, ?_, ?_, ?_⟩
  · exact fun h16 hs => ⟨gateOp_holds (o := fun r => .init ((r.getS b).setWidth 16)) rfl h16 hs,
      gateOp_holds (o := fun r => .expect ((r.getS b).setWidth 32)) rfl h16 hs, gateOp_holds (o := fun _ => .arrive) rfl h16 hs⟩
  · intro o c hh
    refine ⟨chanRelease_holds rfl hh, chanRelease_holds rfl hh, fun v hv => ⟨?_, ?_, ?_, ?_⟩⟩
    · exact fun h => chanTry_ready rfl hh hv (decide_eq_true h)
    · exact fun h => chanTry_empty rfl hh hv (decide_eq_false (by simp [h]))
    · exact fun h => chanTry_ready rfl hh hv (decide_eq_true h)
    · exact fun h => chanTry_empty rfl hh hv (decide_eq_false (by simp [h]))
  · exact fun pc o x => State.commits_local rfl fun _ => rfl
  · intro g m w close
    refine ⟨fun hm => ?_, rfl, fun h => if_neg h, fun h => if_pos h⟩
    have hopen : Gate.settle { round := 0, arrive := m, apend := m, erounds := 0, resv := 0, ecur := false, err := false, bpend := 0 } = _ :=
      if_neg fun h => hm h.1
    exact Prod.ext hopen rfl
  · intro pc o c v hv own under
    have heff : ∀ op, s.chanEffect t k (s.team t).ctx pc o c op = if (v.update op).2 then under else own (v.update op).1 := fun op => by
      unfold State.chanEffect
      rw [hv]
    have hcommits : ∀ op X, (if (v.update op).2 then under else own (v.update op).1) = X → s.commits t k pc (.chan o c op) X 0 := fun op X hX =>
      State.commits_local rfl fun _ => Prod.ext ((heff op).trans hX) rfl
    refine ⟨fun h => hcommits .pub _ ?_, fun h => hcommits .pub _ ?_, fun h => hcommits .free _ ?_, fun h => hcommits .free _ ?_, hcommits .acq _ rfl, hcommits .take _ rfl⟩
    · unfold Chan.update
      rw [if_pos h]
      rfl
    · unfold Chan.update
      rw [if_neg (not_not.mpr h)]
      rfl
    · unfold Chan.update
      rw [if_pos h]
      rfl
    · unfold Chan.update
      rw [if_neg (not_not.mpr h)]
      rfl
  · exact fun pc x => ⟨State.commits_local rfl fun _ => rfl, State.commits_local rfl fun _ => rfl, State.commits_local rfl fun _ => rfl⟩

end Sys2Proof.Machine
end

section
/-! SUPPORT. FORFEIT, the range commands, stores and loads: states that fail their statements -/

namespace Sys2Proof.Machine

open Sys2Proof.Tests

set_option maxRecDepth 100000

/-! ### FORFEIT marks a leaf, whose block may be the context's own (R18, R183, R195) -/

/-- One page to give up, its leaf in a block that the context owns and that holds no granule yet. -/
def ownTable : State := (ss 0 0x10000).setBlock (blockOf page.addr) { (ss 0 0x10000).block (blockOf page.addr) with owner := some 0 }

theorem ownTable_calm : ownTable.calm 0 0 (.forfeit 8 1 2) := by
  unfold State.calm State.acts State.lets
  decide

/-- The written leaf's block takes a granule, which its owner is charged for. -/
theorem ownTable_occupied : (ownTable.ctx 0).occupied = 0 ∧ ((after (exec (.forfeit 8 1 2) ownTable)).ctx 0).occupied = 1 := by decide

/-- Refutes O37: where the block of the leaf entry belongs to the context, the forfeited mark makes the entry's line grow, and the granule that it takes
counts as occupied beside those that are freed. -/
theorem not_forfeitResults : ¬ Obligations.ForfeitResults := by
  intro h
  obtain ⟨-, hgive⟩ := h ownTable 0 0 8 1 2
  obtain ⟨-, heffect⟩ := hgive (by decide) (by decide) (by decide) (by decide) (by decide) (by decide) (by decide)
  obtain ⟨u, n, hu, -, ⟨-, -, hocc⟩, -⟩ := heffect ownTable_calm (by decide) (by decide) (by decide) (by decide)
  obtain ⟨hbefore, hafter⟩ := ownTable_occupied
  rw [hu] at hafter
  rw [show (ownTable.team 0).ctx = 0 from rfl, hbefore] at hocc
  have : ((after (.next u)).ctx 0).occupied = (u.ctx 0).occupied := rfl
  omega

/-! ### A commit of RSVPIN whose charge changes what its range translates to (R179, R192, R346) -/

/-- The first block of the page of code. -/
def pageBlock : Nat := page.frame / 4096

/-- A chunk that pins the second block of the page, which lies in an expander. Another expander, listed under the same number, keeps the page's first block
from being host memory. -/
def twinExpanders : State :=
  { (holding (.range .pin 4096 128 0)).setBlock (pageBlock + 1) { placed.block (pageBlock + 1) with owner := some 0 } with
    hostMem := [(pageBlock / 16, 1)],
    expanders := [(0, { first := pageBlock + 1, blocks := 1, pool := List.range 10, failed := false }),
      (0, { first := pageBlock, blocks := 1, pool := [], failed := false })] }

/-- The one line of the range. -/
def pinnedLine : RangeLine := { va := 4096, npa := 4096 * (pageBlock + 1), whole := true, leaf := page }

/-- What the commit leaves. -/
def twinPinned : State :=
  match twinExpanders.commitChunk 0 0 true with
  | .ok w => w
  | .error _ => placed

theorem twinExpanders_commits : twinExpanders.commitChunk 0 0 true = .ok twinPinned := by
  have hgoes : (match twinExpanders.commitChunk 0 0 true with
    | .ok _ => true
    | .error _ => false) = true := by decide
  unfold twinPinned
  split at hgoes
  · next w hw => rw [hw]
  · exact absurd hgoes Bool.false_ne_true

/-- The block has its granules and is not pinned. -/
theorem twinPinned_block : (twinPinned.block (blockOf pinnedLine.npa)).pinned = false ∧ (twinPinned.block (blockOf pinnedLine.npa)).count = 8 := by decide

/-- Refutes O24: a pool drawn on rewrites its expander's entry, and of two entries under one number drops the other; the page's first frame is host memory
from then on, its DEV leaf is malformed, and the commit of RSVPIN finds no block to pin. -/
theorem not_rangeResults : ¬ Obligations.RangeResults := by
  intro h
  obtain ⟨-, -, -, hcommits, -⟩ := h twinExpanders 0 0 0 0 0 false []
  obtain ⟨-, -, hpin⟩ := hcommits 4096 128 0
  obtain ⟨hpinned, -⟩ := hpin 0 0 true twinPinned pinnedLine (by decide) pinnedLine.npa (by decide) (by decide) twinExpanders_commits
  have := (hpinned (by decide)).symm.trans twinPinned_block.1
  exact Bool.noConfusion this

/-! ### A commit of a store whose charge changes which expander answers for its line (R183, R351) -/

/-- A byte stored to the page of code. -/
def pageByte : StoreByte := { va := 0, npa := page.frame + 0x100, val := 5, rep := false }

/-- Two expanders are listed for the page's first block; the first listed one is sound, the other, of the lower number, has failed. The block's granules come
from the expander's pool. -/
def shadedExpander : State :=
  { (holding (.store false [pageByte] [])).setBlock (page.frame / 4096) { placed.block (page.frame / 4096) with owner := some 0 } with
    expanders := [(5, { first := page.frame / 4096, blocks := 1, pool := List.range 10, failed := false }),
      (3, { first := page.frame / 4096, blocks := 1, pool := [], failed := true })] }

/-- What the commit leaves. -/
def shadedAfter : State :=
  match shadedExpander.commitChunk 0 0 true with
  | .ok w => w
  | .error _ => placed

theorem shadedExpander_commits : shadedExpander.commitChunk 0 0 true = .ok shadedAfter := by
  have hgoes : (match shadedExpander.commitChunk 0 0 true with
    | .ok _ => true
    | .error _ => false) = true := by decide
  unfold shadedAfter
  split at hgoes
  · next w hw => rw [hw]
  · exact absurd hgoes Bool.false_ne_true

theorem shadedExpander_sound : ∀ b ∈ [pageByte], ∀ a ∈ shadedExpander.copies b.rep b.npa, shadedExpander.sound a := by
  unfold State.sound
  decide

/-- The byte was dropped. -/
theorem shadedAfter_byte : Memory.read shadedAfter.mem pageByte.npa = 0 := by decide

/-- Refutes O31: the charge of a commit lists the expander that it drew on anew, in the order of numbers; where a failed one of a lower number is listed for
the same block, that one answers for the block from then on, and the commit drops the bytes it was to write. -/
theorem not_commitResults : ¬ Obligations.CommitResults := by
  intro h
  obtain ⟨-, -, hstores, -⟩ := h
  obtain ⟨hstore, -⟩ := hstores shadedExpander 0 0 [pageByte] [] (by simp) shadedExpander_sound
  have hbyte := hstore 0 0 true shadedAfter rfl shadedExpander_commits pageByte.npa
  rw [shadedAfter_byte] at hbyte
  revert hbyte
  decide

/-! ### A fault on a die of which no table says anything (R152) -/

/-- Lane 0 reads a mapped word, lane 1 one of a missing page; the state lists no die. -/
def dieless : State := { half with dies := [] }

theorem dieless_passes : ∀ y ∈ [(acc 0xFFFC, page, placePage + 0xFFFC)],
    dieless.fateOf 0 (wantLoad 4) y.1 = .ok y.2.1 y.2.2 ∧ isRemote y.2.1 y.2.2 = false ∧ y.2.1.cc ≠ .nc := by
  intro y hy
  obtain rfl := List.mem_singleton.mp hy
  exact ⟨rfl, by decide, by decide⟩

/-- Refutes O21: a fault is posted into the queue of the team's die, and where the state lists no such die, none is posted. -/
theorem not_loadResults : ¬ Obligations.LoadResults := by
  intro h
  obtain ⟨-, -, -, -, -, hmissing, -⟩ := h dieless 0 0 8 1 4 0 false .d 0 [(acc 0xFFFC, page, placePage + 0xFFFC)]
  have hsolo : dieless.solo 0 0 (.vld 8 1 4 false 0) := by
    unfold State.solo State.acts State.lets
    decide
  obtain ⟨u, hu, -, -, hposted⟩ := hmissing hsolo (by decide) (by decide) (by decide) rfl dieless_passes (by decide) (by unfold State.fits2; decide)
  obtain ⟨hqueue, -⟩ := hposted 1 (by decide) (by decide)
  obtain ⟨e, he, -⟩ := hqueue (by decide)
  have hempty : ((after (exec (.vld 8 1 4 false 0) dieless)).die 0).fq = [] := by decide
  rw [hu] at hempty
  rw [show dieless.teamDie 0 = 0 by decide] at he
  rw [show (u.die 0).fq = [] from hempty] at he
  exact absurd he List.not_mem_nil

end Sys2Proof.Machine
end

section
/-! SUPPORT. ATOM; the traps that an instruction takes -/

namespace Sys2Proof.Machine

/-! ### The charge of a commit does not look at slices (R179) -/

/-- A state with other slices. -/
def State.withSlices (s : State) (x : FMap Slice) : State := { s with slices := x }

section
variable (s : State) (x : FMap Slice)

theorem State.draw_withSlices (b n : Nat) : (s.withSlices x).draw b n = ((s.draw b n).1, (s.draw b n).2.withSlices x) := by
  have hx : (s.withSlices x).expanderOf b = s.expanderOf b := rfl
  have he : (s.withSlices x).expanders = s.expanders := rfl
  unfold State.draw
  rw [hx]
  cases s.expanderOf b with
  | none => rfl
  | some e =>
    dsimp only
    rw [he]
    cases FMap.find? s.expanders e with
    | none => rfl
    | some v =>
      dsimp only
      split <;> rfl

theorem State.drawAlways_withSlices (b n : Nat) : (s.withSlices x).drawAlways b n = ((s.drawAlways b n).1, (s.drawAlways b n).2.withSlices x) := by
  have hx : (s.withSlices x).expanderOf b = s.expanderOf b := rfl
  unfold State.drawAlways
  rw [State.draw_withSlices, hx]
  dsimp only
  split <;> rfl

theorem State.attachAlways_withSlices (b n : Nat) (gs : List Nat) : (s.withSlices x).attachAlways b n gs = (s.attachAlways b n gs).withSlices x := by
  have hb : (s.withSlices x).block b = s.block b := rfl
  unfold State.attachAlways
  rw [hb]
  dsimp only
  split
  · rfl
  · unfold State.occupy
    cases (s.block b).owner <;> rfl

theorem State.growAlways_withSlices (chg : List (Nat × Nat)) : (s.withSlices x).growAlways chg = (s.growAlways chg).withSlices x := by
  unfold State.growAlways
  induction blocksOf (chg.map (·.1)) generalizing s with
  | nil => rfl
  | cons b l ih =>
    have hneed : (s.withSlices x).need chg [] b = s.need chg [] b := rfl
    rw [List.foldl_cons, List.foldl_cons]
    dsimp only
    rw [hneed, State.drawAlways_withSlices, State.attachAlways_withSlices, ih]

/-- A charge goes through or fails whatever the slices are. -/
theorem State.charge_withSlices (c : Nat) (chg : List (Nat × Nat)) (pins : List Nat) (marks : List Mark) {v : State} (h : s.charge c chg pins marks = .ok v) :
    ∃ w, (s.withSlices x).charge c chg pins marks = .ok w := by
  have hgrow : (s.withSlices x).growOwnerless chg = (s.growOwnerless chg).withSlices x := State.growAlways_withSlices s x _
  unfold State.charge at h ⊢
  rw [hgrow]
  generalize s.growOwnerless chg = u at *
  have hneeds : (u.withSlices x).needs chg pins = u.needs chg pins := rfl
  have hblock : ∀ b, (u.withSlices x).block b = u.block b := fun _ => rfl
  have hctx : (u.withSlices x).ctx c = u.ctx c := rfl
  have hshort : ∀ ns, (u.withSlices x).shortBlocks ns = u.shortBlocks ns := fun _ => rfl
  dsimp only at h ⊢
  simp only [hneeds, hblock, hctx, hshort]
  split at h
  · exact ⟨_, if_pos ‹_›⟩
  · rw [if_neg ‹_›]
    split at h
    · cases h
    · rw [if_neg ‹_›]
      split at h
      · cases h
      · exact ⟨_, if_neg ‹_›⟩

end

/-- Whether a commit goes through is a matter of its charge. -/
theorem State.perform_of_charge {s : State} {t k : Nat} {held : List HeldItem} : (∃ r, s.perform t k held = .ok r) ↔
    ∃ v, s.charge (s.team t).ctx (s.chargeCodes (s.trial allSorts (s.team t).ctx held) (s.trial charged (s.team t).ctx held))
      (s.trial allSorts (s.team t).ctx held).pins (s.trial allSorts (s.team t).ctx held).marks = .ok v := by
  unfold State.perform
  dsimp only
  split
  · next f hf => simp [hf]
  · next v hv => simp [hv]

theorem State.perform_withSlices {s : State} {x : FMap Slice} {t k : Nat} {held : List HeldItem} (h : ∃ r, s.perform t k held = .ok r) :
    ∃ r, (s.withSlices x).perform t k held = .ok r := by
  obtain ⟨v, hv⟩ := State.perform_of_charge.mp h
  exact State.perform_of_charge.mpr (State.charge_withSlices s x _ _ _ _ hv)

/-- A commit goes through whatever else the slices are than what the one holds. -/
theorem State.commitChunk_withSlices {s w : State} {x : FMap Slice} {t k : Nat} {now : Bool} (hh : ((s.withSlices x).slice t k).chunk.held = (s.slice t k).chunk.held)
    (h : s.commitChunk t k now = .ok w) : ∃ w', (s.withSlices x).commitChunk t k now = .ok w' := by
  have hperform : ∃ r, s.perform t k (s.slice t k).chunk.held = .ok r := by
    unfold State.commitChunk at h
    dsimp only at h
    split at h
    · cases h
    · exact ⟨_, ‹_›⟩
  obtain ⟨r, hr⟩ := State.perform_withSlices (x := x) hperform
  unfold State.commitChunk
  rw [hh]
  dsimp only
  rw [hr]
  exact ⟨_, rfl⟩

/-! ### ATOM of one lane (R228) -/

section
variable {s : State} {t k : Nat} {i : Instr}

/-- The commit before a closer in a calm slice changes that slice alone. -/
theorem preIn_calm_eq (hc : s.calm t k i) : s.preIn s t k = .ok (s.modSlice t k fun _ => (s.slice t k).preClosed (s.ctx (s.team t).ctx)) := by
  have hk := calm_some hc
  obtain ⟨-, hl, ⟨hh, hx, hp, hph, hq, -⟩, -⟩ := hc
  have hwin := (hl k (List.mem_singleton_self k)).2
  have htrue : s.trueRegs s t k = s := State.modSlice_self fun x hx => by
    rw [show s.slice t k = x from FMap.get_of_find? hx]
  unfold State.preIn State.preCommit
  rw [htrue]
  simp only [hph, Bool.false_eq_true, if_false, State.settlePrev_of_idle hp hq, hx]
  unfold Slice.preClosed
  by_cases hn : (s.slice t k).chunk.instrs = 0
  · simp only [hn, if_true]
    exact congrArg Pre.ok (State.modSlice_congr (by rw [Regs.complete_of_wins hwin]))
  · simp only [hn, if_false]
    rw [State.commitChunk_nil hh]
    exact congrArg Pre.ok ((State.modSlice_modSlice ..).trans (State.modSlice_congr (by simp [Slice.committed])))

/-- A lane instruction that is a closer for every slice, its lanes passing: the checks follow the commit of the calm slice's chunk. -/
theorem gangCheck_closer {w : Want} {addr : Regs → Nat → W64} {oks : List (Acc × Leaf × Nat)} (hc : s.calm t k i) (h : s.lanesPass t k w addr oks) :
    s.gangCheck s t [k] i w addr true = .ok (s.modSlice t k fun _ => (s.slice t k).preClosed (s.ctx (s.team t).ctx), [k],
      oks.map fun x => (x.1, Fate.ok x.2.1 x.2.2)) := by
  have hk := calm_some hc
  have hwin := (hc.2.1 k (List.mem_singleton_self k)).2
  generalize hX : (s.slice t k).preClosed (s.ctx (s.team t).ctx) = X
  have hXpark : X.park = (s.slice t k).park := by rw [← hX, Slice.preClosed_park]
  have hXregs : X.regs = (s.slice t k).regs := by rw [← hX, Slice.preClosed_regs _ hwin]
  generalize hv : s.modSlice t k (fun _ => X) = v
  have hb : Became s v t k X := hv ▸ (Became.refl hk).modSlice fun _ => X
  have hpark := hb.park hXpark
  obtain ⟨h1, h2, h3, h4⟩ := h
  have haccs : v.laneAccs t [k] addr = s.laneAccs t [k] addr := by
    have hcur : v.cur = s.cur := by rw [hb.rest]
    unfold State.laneAccs
    simp only [List.flatMap_cons, List.flatMap_nil, hb.slice, hXpark, hXregs, hcur]
  have hl : (s.laneAccs t [k] addr).map (fun x => (x, v.fateOf t w x)) = oks.map fun x => (x.1, Fate.ok x.2.1 x.2.2) := by
    rw [← h3, List.map_map] at h2 ⊢
    rw [List.map_inj_left] at h2
    exact List.map_congr_left fun x hx => by
      rw [Function.comp_apply, State.fateOf_slices hb.rest hpark, ← h2 x hx]; rfl
  have hw := worst_of_ok (oks.map fun x => (x.1, Fate.ok x.2.1 x.2.2)) fun e he => by
    obtain ⟨x, _, rfl⟩ := List.mem_map.mp he; exact ⟨_, _, rfl⟩
  have hpre : preEach s t s [k] = (v, [k]) := by
    unfold preEach
    rw [List.foldl_cons, List.foldl_nil, State.haltedSince_same rfl rfl, if_neg (by simp), preIn_calm_eq hc, hX, hv]
  have hgo : s.haltedSince v t = false := State.haltedSince_same (by rw [hb.rest]) (by rw [hb.rest])
  unfold State.gangCheck
  simp only [h1, if_true, hpre, List.contains_cons, List.filter_cons, List.filter_nil, beq_self_eq_true, Bool.true_or, haccs, hl, hw, hgo, Bool.false_eq_true,
    if_false]

/-- The effect of a store raises no flag. -/
theorem State.perform_store_flags {it : HeldItem} {nc : Bool} {bs : List StoreByte} {ls : List Nat} {r : State × Flags} (he : it.eff = .store nc bs ls)
    (h : s.perform t k [it] = .ok r) : r.2 = 0 := by
  have hfl : (s.trial atPoint (s.team t).ctx [it]).fl = 0 := by
    unfold State.trial
    rw [List.foldl_cons, List.foldl_nil, Trial.effect, he]
    dsimp only
    split <;> rfl
  unfold State.perform at h
  dsimp only at h
  split at h
  · cases h
  · cases h
    rw [List.foldl_cons, List.foldl_nil, State.heldEffect, he]
    exact hfl

/-- A slice's registers with a lane of a vector register written keep their flags. -/
theorem putLane_flags (v : Nat) (dbl : Bool) (r : Regs) (l n : Nat) :
    (putLane v dbl r l n).fpx = r.fpx ∧ (putLane v dbl r l n).delivered = r.delivered ∧ (putLane v dbl r l n).wins = r.wins := by
  unfold putLane
  split <;> exact ⟨rfl, rfl, rfl⟩

end

theorem overlay_nil (lands : StoreByte → Nat) (a : Nat) (bs : List Byte) : overlay lands [] a bs = bs := by
  induction bs generalizing a with
  | nil => rfl
  | cons b bs ih => rw [overlay, ih]; rfl

section
variable (s : State) (t k v b : Nat) (i : Instr) (op : AtomOp) (dbl : Bool) (y : Acc × Leaf × Nat)

/-- The old value of ATOM's word. -/
def atomOld : Nat := leNat (s.readBytes y.2.2 (dblBytes dbl))

/-- The new value of ATOM's word, with the flags of the operation. -/
def atomNew : Nat × Flags :=
  let r := (s.slice t k).regs
  atomApply op (8 * dblBytes dbl) r.mode (atomOld s dbl y) (getLane v dbl r y.1.l) (if op == .cas then casValue v dbl r y.1.l else 0)

/-- A slice, the chunk before ATOM having committed, with the new word held and the old one in its register. -/
def atomHeld : Slice :=
  let V := (s.slice t k).preClosed (s.ctx (s.team t).ctx)
  let h := V.hold [.store false (storeRun y.2.1.rep y.1.va.toNat y.2.2 (leBytes (dblBytes dbl) (atomNew s t k v op dbl y).1)) [y.2.1.addr]]
    [.mem (lineOf y.2.2)] []
  { h with regs := ((putLane v dbl (s.slice t k).regs y.1.l (atomOld s dbl y)).raise (atomNew s t k v op dbl y).2).adv }

/-- The same once ATOM has completed, its own chunk still to commit. -/
def atomDone : Slice :=
  let h := atomHeld s t k v op dbl y
  { h with regs := { h.regs with wins := [] }, chunk := { h.chunk with instrs := h.chunk.instrs + 1 } }

variable {s t k v b i op dbl y}

/-- The one lane of ATOM, in the state in which the chunk before it has committed. -/
theorem atomLane_held {w : State} {V : Slice} (hb : Became s w t k V) (hV : V = (s.slice t k).preClosed (s.ctx (s.team t).ctx))
    (hheld : V.heldAll = []) (hregs : V.regs = (s.slice t k).regs) (hfar : isRemote y.2.1 y.2.2 = false) :
    (atomLane op v dbl t k w y).modSlice t k (fun sl => { sl with regs := sl.regs.adv }) = w.modSlice t k fun _ => atomHeld s t k v op dbl y := by
  have hmem : w.readBytes y.2.2 (dblBytes dbl) = s.readBytes y.2.2 (dblBytes dbl) := by rw [hb.rest]; rfl
  unfold atomLane
  dsimp only
  rw [if_neg (by rw [hfar]; simp), hb.slice, hheld, overlay_nil, hmem, hregs, State.modSlice_modSlice]
  refine State.modSlice_congr ?_
  rw [hb.slice]
  unfold atomHeld
  rw [← hV]
  show _ = _
  rw [Function.comp_apply]
  simp only [Slice.hold, hregs]
  rfl

/-- The body of ATOM in a calm slice whose one lane passes, where the commit of its own chunk goes through. -/
theorem atomBody_one {x : Nat} {w : State} (hc : s.calm t k i) (hpass : s.lanesPass t k (wantAtom op dbl true s t) (laneAddr b x) [y])
    (hla : lookaheadOf i = 0) (hw : (s.modSlice t k fun _ => atomDone s t k v op dbl y).commitChunk t k true = .ok w) :
    ∃ z1, z1.modSlice t k (fun sl => let w := s.settled i t k sl; { w with regs := w.regs.complete }) = s.modSlice t k (fun _ => atomDone s t k v op dbl y) ∧
      atomBody i op v x b dbl s s t [k] = (s.finishSlice i t z1 (k, .closer), [(k, .ended)]) := by
  have hk := calm_some hc
  obtain ⟨-, hl, ⟨hheld, -, hprev, -, hpost, -⟩, -, -, hpark, hmark⟩ := id hc
  have hwin := (hl k (List.mem_singleton_self k)).2
  generalize hV : (s.slice t k).preClosed (s.ctx (s.team t).ctx) = V
  generalize hv : s.modSlice t k (fun _ => V) = u
  have hb : Became s u t k V := hv ▸ (Became.refl hk).modSlice fun _ => V
  have hVheld : V.heldAll = [] := by
    rw [← hV]
    unfold Slice.preClosed
    split
    · simp [Slice.heldAll, hpost, hprev, hheld]
    · simp [Slice.heldAll, Slice.committed, Slice.countCommit, Slice.relevel, hprev, Chunk.begin]
  have hVregs : V.regs = (s.slice t k).regs := by rw [← hV, Slice.preClosed_regs _ hwin]
  have hlane := atomLane_held (v := v) (op := op) (dbl := dbl) hb hV.symm hVheld hVregs (hpass.2.2.2 y (List.mem_singleton_self y)).1
  generalize hz : (atomLane op v dbl t k u y).modSlice t k (fun sl => { sl with regs := sl.regs.adv }) = z1 at hlane
  have hz1 : z1 = s.modSlice t k fun _ => atomHeld s t k v op dbl y := by rw [hlane, ← hv, State.modSlice_modSlice]; rfl
  have hdone : z1.modSlice t k (fun sl => let w := s.settled i t k sl; { w with regs := w.regs.complete }) =
      s.modSlice t k (fun _ => atomDone s t k v op dbl y) := by
    rw [hz1, State.modSlice_modSlice]
    refine State.modSlice_congr ?_
    rw [Function.comp_apply]
    have hset : s.settleRegs i t k (atomHeld s t k v op dbl y) = { (atomHeld s t k v op dbl y).regs with wins := [] } := by
      rw [State.settleRegs_of_wins hwin]; simp [Regs.nextWins, hla]
    have hstand : (atomHeld s t k v op dbl y).park = none ∧ (atomHeld s t k v op dbl y).mark = none := by
      unfold atomHeld Slice.preClosed
      split
      · exact ⟨hpark, hmark⟩
      · exact ⟨hpark, hmark⟩
    dsimp only
    rw [State.settled, hset, ← hstand.1, ← hstand.2]
    rfl
  have hgoes : ∃ w', z1.commitChunk t k true = .ok w' := by
    have h1 : z1 = (s.modSlice t k fun _ => atomDone s t k v op dbl y).withSlices z1.slices := by rw [hz1]; rfl
    rw [h1]
    refine State.commitChunk_withSlices ?_ hw
    rw [← h1, hz1, State.slice_modSlice_self _ hk, State.slice_modSlice_self _ hk]
    rfl
  obtain ⟨w', hw'⟩ := hgoes
  refine ⟨z1, hdone, ?_⟩
  have hown : ofSlice k [y] = [y] := (lanesPass_lists hpass).1
  unfold atomBody
  rw [gangCheck_closer hc hpass, hV, hv]
  simp only [missesOf_ok, oksOf_ok, hown, List.isEmpty_nil, if_true, eachSlice_one, List.foldl_cons, List.foldl_nil, hz, hw', List.contains_cons,
    beq_self_eq_true, Bool.true_or, Bool.not_true, List.filter_cons, List.filter_nil, Bool.false_eq_true, if_false, List.map_nil, List.nil_append]

/-- A chunk that holds one store commits: its slice's next chunk begins with no flag raised. -/
theorem commitChunk_store {s w : State} {pc : W64} {num : Nat} {bs : List StoreByte} {ls : List Nat}
    (hheld : (s.slice t k).chunk.held = [{ pc := pc, num := num, eff := .store false bs ls }]) (hw : s.commitChunk t k true = .ok w) :
    ∃ v, s.quiet (s.team t).ctx v ∧ w = v.modSlice t k (Slice.committedWith (v.ctx (s.team t).ctx) 0 []) := by
  unfold State.commitChunk at hw
  rw [hheld] at hw
  dsimp only at hw
  split at hw
  · cases hw
  · next r hr =>
    cases hw
    have hq := State.perform_quiet hr fun it hit => by rw [List.mem_singleton.mp hit]; rfl
    refine ⟨r.1.stepSix t k (s.team t).ctx [], State.stepSix_quiet hq t k _ _, ?_⟩
    rw [State.perform_store_flags rfl hr]
    rfl

/-- Where the operation has no flag to deliver, its registers have none. -/
theorem atomDone_flags (hfx : (s.slice t k).regs.fpx &&& ~~~ (s.slice t k).regs.delivered = 0)
    (hm : (atomNew s t k v op dbl y).2 &&& ~~~ (s.slice t k).regs.delivered = 0) :
    (atomDone s t k v op dbl y).regs.fpx &&& ~~~ (atomDone s t k v op dbl y).regs.delivered = 0 := by
  obtain ⟨h1, h2, -⟩ := putLane_flags v dbl (s.slice t k).regs y.1.l (atomOld s dbl y)
  show ((putLane v dbl (s.slice t k).regs y.1.l (atomOld s dbl y)).fpx ||| (atomNew s t k v op dbl y).2) &&&
    ~~~ (putLane v dbl (s.slice t k).regs y.1.l (atomOld s dbl y)).delivered = 0
  rw [h1, h2]
  exact and_not_or_eq_zero hfx hm

/-- ATOM in a calm slice whose one lane passes completes, its own chunk committed. -/
theorem atom_commits {x : Nat} {w : State} (hc : s.calm t k (.atom op v x b dbl)) (hpass : s.lanesPass t k (wantAtom op dbl true s t) (laneAddr b x) [y])
    (hm : (atomNew s t k v op dbl y).2 &&& ~~~ (s.slice t k).regs.delivered = 0)
    (hw : (s.modSlice t k fun _ => atomDone s t k v op dbl y).commitChunk t k true = .ok w) :
    ∃ u, exec (.atom op v x b dbl) s = .next u ∧ Leaves w u t k (w.slice t k) ∧ (u.slice t k).regs = (atomDone s t k v op dbl y).regs := by
  obtain ⟨z1, hdone, hbody⟩ := atomBody_one (i := .atom op v x b dbl) (b := b) hc hpass rfl hw
  have hk := calm_some hc
  obtain ⟨ha, hl, ⟨hheld, -, hprev, -, hpost, -⟩, hfx, hrun, -, -⟩ := hc
  have hflags := atomDone_flags hfx hm
  generalize hX : atomDone s t k v op dbl y = X at *
  have hXw : X.regs.wins = [] := by rw [← hX]; rfl
  have hXs : X.status = .run ∧ X.handler = (s.slice t k).handler := by
    rw [← hX]
    unfold atomDone atomHeld Slice.preClosed
    split <;> exact ⟨hrun, rfl⟩
  have hXh : ∃ pc num bs ls, X.chunk.held = [{ pc := pc, num := num, eff := .store false bs ls }] := by
    rw [← hX]
    unfold atomDone atomHeld Slice.preClosed
    split
    · exact ⟨_, _, _, _, by simp only [Slice.hold, hheld]; rfl⟩
    · exact ⟨_, _, _, _, rfl⟩
  generalize hs : s.modSlice t k (fun _ => X) = s1 at *
  have hb : Became s s1 t k X := hs ▸ (Became.refl hk).modSlice fun _ => X
  obtain ⟨pc, num, bs, ls, hXh⟩ := hXh
  obtain ⟨q, hq, rfl⟩ := commitChunk_store (by rw [hb.slice]; exact hXh) hw
  have hteam : s1.team t = s.team t := by rw [hb.rest]; rfl
  have hexq : (FMap.find? q.slices (sliceKey t k)).isSome = true := by
    rw [← Option.isSome_map (f := Slice.core), hq.slices, Option.isSome_map, hb.self]; rfl
  have hcore : (q.slice t k).core = X.core := by rw [hq.sliceCore, hb.slice]
  have hqregs : (q.slice t k).regs = X.regs := by
    have h : (q.slice t k).core.regs = X.core.regs := by rw [hcore]
    exact h
  have hqstatus : (q.slice t k).status = X.status := by
    have h : (q.slice t k).core.status = X.core.status := by rw [hcore]
    exact h
  have hqhandler : (q.slice t k).handler = X.handler := by
    have h : (q.slice t k).core.handler = X.core.handler := by rw [hcore]
    exact h
  generalize hF : Slice.committedWith (q.ctx (s1.team t).ctx) 0 [] = F at *
  have hFregs : (F (q.slice t k)).regs = X.regs := by
    rw [← hF]
    show (Regs.complete ((q.slice t k).regs.raise 0)) = _
    rw [hqregs, Regs.raise_zero, Regs.complete_of_wins hXw]
  have hslice : (q.modSlice t k F).slice t k = F (q.slice t k) := State.slice_modSlice_self F hexq
  -- the end of the closer
  have hfin : s.finishSlice (.atom op v x b dbl) t z1 (k, .closer) = q.modSlice t k F := by
    have hclose : s.finishSlice (.atom op v x b dbl) t z1 (k, .closer) =
        (z1.modSlice t k fun sl => let w := s.settled (.atom op v x b dbl) t k sl; { w with regs := w.regs.complete }).closeOwn t k
          (s.slice t k).regs.pc (z1.slice t k).regs.pc := rfl
    have hcalm : ((q.modSlice t k F).slice t k).regs.fpx &&& ~~~ ((q.modSlice t k F).slice t k).regs.delivered = 0 := by rw [hslice, hFregs]; exact hflags
    rw [hclose, hdone, State.closeOwn, hw]
    dsimp only
    rw [State.deliver_calm hcalm]
    exact State.modSlice_self fun z hz => by
      have : z = F (q.slice t k) := by rw [← hslice]; exact (FMap.get_of_find? hz).symm
      rw [this, ← hF]
      rfl
  have hgo : s.haltedSince (q.modSlice t k F) t = false := by
    have hsame : s1.haltedSince (q.modSlice t k F) t = s.haltedSince (q.modSlice t k F) t := by rw [hb.rest]; rfl
    rw [← hsame]
    exact hq.haltedSince
  have hu := issue_performed (i := .atom op v x b dbl) (v2 := q.modSlice t k F) ha hl hbody
    (by rw [State.finishAll, List.foldl_cons, List.foldl_nil, hfin]; split <;> rfl) (by
      intro t' j hj
      by_cases h : sliceKey t' j = sliceKey t k
      · rw [State.slice, h, show FMap.get _ (q.modSlice t k F).slices (sliceKey t k) = _ from hslice] at hj
        rw [State.slice, h, show FMap.get _ s.slices (sliceKey t k) = s.slice t k from rfl, ← hXs.2, ← hqhandler]
        rw [← hF] at hj
        exact hj
      · have h2 : FMap.find? (q.modSlice t k F).slices (sliceKey t' j) = FMap.find? q.slices (sliceKey t' j) := FMap.find?_modify_ne _ h
        have h3 : (q.slice t' j).core.handler = (s1.slice t' j).core.handler := by rw [hq.sliceCore]
        rw [State.slice, FMap.get_eq_find?, h2, ← FMap.get_eq_find?] at hj
        rw [State.slice, FMap.get_eq_find?, ← hb.others _ h, ← FMap.get_eq_find?]
        exact h3 ▸ hj)
    (State.orLater_committed (by simp [Slice.heldAll, hpost, hprev, hheld]) (by simp [hheld]) fun hpos => by
      have h1 : s.team t = s1.team t := by rw [hteam]
      rw [h1]
      exact hq.released hpos)
  rw [State.regroup_alike (s := q.modSlice t k F) (by simp) (fun j hj => by
    rw [List.mem_singleton.mp hj, hslice]
    have : (F (q.slice t k)).status = (q.slice t k).status := by rw [← hF]; rfl
    rw [this, hqstatus, hXs.1]; simp) fun i hi j hj => by rw [List.mem_singleton.mp hi, List.mem_singleton.mp hj]] at hu
  exact ⟨_, hu, ⟨rfl, fun _ _ => rfl, rfl⟩, by rw [hslice, hFregs]⟩

/-- Settles O36, through the commit of ATOM's own chunk, which goes through or fails as that of the same store in the completed slice does. -/
theorem atomicResults : Obligations.AtomicResults := by
  intro s w t k v x b op dbl y hc hpass c n r old m v0 hm hw
  exact atom_commits hc hpass hm hw

end

/-! ### An instruction that ends in a trap of a slice with nothing held (R329) -/

section
variable {s u v w : State} {t k : Nat} {i : Instr} {f : Frame} {body : State → State → Nat → List Nat → State × List (Nat × Did)}

/-- Slices that have entered their handlers leave their gangs, and nothing else changes. -/
theorem State.partTrapped_rest (s u : State) : s.partTrapped u = { u with gangs := (s.partTrapped u).gangs } := by
  unfold State.partTrapped
  generalize u.gangs.filter (fun g => !(s.trapped u g).isEmpty) = l
  suffices ∀ w : State, w = { u with gangs := w.gangs } →
      l.foldl (fun v g => v.regroup g.team g.ks (s.trapped u g)) w = { u with gangs := (l.foldl (fun v g => v.regroup g.team g.ks (s.trapped u g)) w).gangs } from
    this u rfl
  induction l with
  | nil => exact fun _ h => h
  | cons g l ih =>
    intro w hw
    exact ih _ ((State.regroup_rest ..).trans (by rw [hw]))

theorem State.enterFrame_eq (v : State) (t k : Nat) (f : Frame) : v.enterFrame t k f =
    (v.framed t k f).modSlice t k (Slice.entered ((v.framed t k f).ctx (v.team t).ctx) (v.frameAddr t k)) := rfl

theorem State.framed_quiet (v : State) (t k : Nat) (f : Frame) : v.quiet (v.team t).ctx (v.framed t k f) :=
  Quiet.modCtx (State.lossRecord_quiet (State.vaWrite_quiet (State.quiet_refl _ v) ..) ..) _ _ (by intro; rfl)

/-- Where an instruction comes to the entry of slice k into its handler, in a state `v` that has the teams as they were, nothing is left to wait for. -/
theorem issue_entered (hcur : s.cur = { team := t, ks := [k] }) (hheld : (s.slice t k).heldAll = []) (hteams : v.teams = s.teams)
    (hk : (FMap.find? v.slices (sliceKey t k)).isSome = true)
    (hfin : s.finishAll i t (body s ((s.admitted i t [k]).2.foldl (s.exposeSlice i t) (s.admitted i t [k]).1) t (s.admitted i t [k]).2) = v.enterFrame t k f) :
    let b := v.framed t k f
    ∃ u, issue i body s = .next u ∧ u.slice t k = (b.slice t k).entered (b.ctx (v.team t).ctx) (v.frameAddr t k) ∧ u.mem = b.mem ∧
      ((s.slice t k).regs.wins = [] → Leaves b u t k ((b.slice t k).entered (b.ctx (v.team t).ctx) (v.frameAddr t k))) := by
  intro b
  generalize hw : v.enterFrame t k f = w at hfin
  have hwb : w = b.modSlice t k (Slice.entered (b.ctx (v.team t).ctx) (v.frameAddr t k)) := by rw [← hw, State.enterFrame_eq]
  have hwteams : w.teams = s.teams := by
    have h := congrArg (fun a => a.2.2.1) (State.enterFrame_apart v t k f)
    rw [hw] at h
    exact h.trans hteams
  have hbk : (FMap.find? b.slices (sliceKey t k)).isSome = true := by
    rw [← Option.isSome_map (f := Slice.core), (State.framed_quiet v t k f).slices, Option.isSome_map, hk]
  have hslice : w.slice t k = (b.slice t k).entered (b.ctx (v.team t).ctx) (v.frameAddr t k) := by rw [hwb, State.slice_modSlice_self _ hbk]
  generalize hz : { s.partTrapped (w.regroup t [k] ([k].filter fun k => (w.slice t k).handler && !(s.slice t k).handler)) with
    draws := if [k].all fun k => (s.slice t k).regs.wins.isEmpty then w.draws else s.draws + 2 ^ 19 } = z
  have hzrest : z = { w with gangs := z.gangs, draws := z.draws } := by
    rw [← hz, State.partTrapped_rest, State.regroup_rest]
  have hzdraws : (s.slice t k).regs.wins = [] → z.draws = w.draws := fun h => by
    rw [← hz]
    simp [h]
  refine ⟨z, ?_, by rw [hzrest]; exact hslice, by rw [hzrest, hwb]; rfl, fun hwins => ⟨by rw [hzrest]; exact hslice, fun key hkey => ?_, ?_⟩⟩
  · unfold issue
    simp only [hcur, hfin, hz]
    refine congrArg _ (State.orLater_of fun j hj => .inr ⟨by rw [List.mem_singleton.mp hj]; exact hheld, ?_⟩)
    have hzteams : z.teams = s.teams := by rw [hzrest]; exact hwteams
    unfold State.team
    rw [hzteams]
  · have : z.slices = w.slices := by rw [hzrest]
    rw [this, hwb]
    exact FMap.find?_modify_ne _ hkey
  · rw [hzrest, hzdraws hwins, hwb]
    rfl

/-- The commits before a trap, in a slice with none under way that holds nothing (R215). -/
theorem State.preCommit_idle (hi : (s.slice t k).idle) : s.preCommit t k = .ok (s.modSlice t k (Slice.settled (s.ctx (s.team t).ctx))) := by
  obtain ⟨hh, hx, hp, hph, hq, -⟩ := hi
  unfold State.preCommit
  simp only [hph, Bool.false_eq_true, if_false, State.settlePrev_of_idle hp hq, hx]
  by_cases hn : (s.slice t k).chunk.instrs = 0
  · simp only [hn, if_true]
    refine congrArg Pre.ok (State.modSlice_self fun v hv => ?_).symm
    have : s.slice t k = v := FMap.get_of_find? hv
    rw [← this, Slice.settled, if_pos hn]
  · simp only [hn, if_false]
    rw [State.commitChunk_nil hh]
    exact congrArg Pre.ok (State.modSlice_congr (by rw [Slice.settled, if_neg hn]))

/-- A trap of an instruction in a slice with nothing held, whose handler can be entered. -/
theorem State.trapAt_idle {x : Trap} (hk : (FMap.find? s.slices (sliceKey t k)).isSome = true) (hi : (s.slice t k).idle) (hh : s.handles t k) :
    s.trapAt t k i x = (s.modSlice t k (Slice.settled (s.ctx (s.team t).ctx))).enterFrame t k
      { cause := x.cause, sub := x.sub, pc := (s.slice t k).regs.pc, cpc := (s.slice t k).regs.pc, addr := x.addr, word := instrWord i, info := x.info } := by
  obtain ⟨hhandler, htvec⟩ := hh
  have hsettled : ((s.modSlice t k (Slice.settled (s.ctx (s.team t).ctx))).slice t k).handler = false := by
    rw [State.slice_modSlice_self _ hk, ← hhandler]
    unfold Slice.settled
    split <;> rfl
  unfold State.trapAt State.takeTrap
  dsimp only
  rw [State.preCommit_idle hi]
  unfold State.enterHandler
  dsimp only
  rw [if_neg (by rw [hsettled]; simpa using htvec)]

theorem State.trapIn_calm {x : Trap} (hc : s.calm t k i) (hh : s.handles t k) :
    s.trapIn s t k i x = (s.modSlice t k (Slice.settled (s.ctx (s.team t).ctx))).enterFrame t k
      { cause := x.cause, sub := x.sub, pc := (s.slice t k).regs.pc, cpc := (s.slice t k).regs.pc, addr := x.addr, word := instrWord i, info := x.info } := by
  have htrue : s.trueRegs s t k = s := State.modSlice_self fun x hx => by
    rw [show s.slice t k = x from FMap.get_of_find? hx]
  unfold State.trapIn
  rw [htrue]
  exact State.trapAt_idle (calm_some hc) hc.2.2.1 hh

theorem calm_heldAll (hc : s.calm t k i) : (s.slice t k).heldAll = [] := by
  obtain ⟨-, -, ⟨hh, -, hp, -, hq, -⟩, -⟩ := hc
  simp [Slice.heldAll, hh, hp, hq]

/-- An instruction of one calm slice whose body comes to the entry into the slice's handler from `v`. -/
theorem issue_enters (hc : s.calm t k i) (hv : ∃ F, v = s.modSlice t k F) {d : Did} (hd : d = .gone ∨ d = .ended)
    (hb : body s s t [k] = (v.enterFrame t k f, [(k, d)])) (he : exec i s = issue i body s) : s.enters t k i v f := by
  obtain ⟨F, rfl⟩ := hv
  obtain ⟨ha, hl, -⟩ := id hc
  have hfin : s.finishAll i t (body s s t [k]) = (s.modSlice t k F).enterFrame t k f := by
    rw [hb, State.finishAll, List.foldl_cons, List.foldl_nil]
    rcases hd with rfl | rfl <;> exact ite_self _
  obtain ⟨u, hu, -, -, hleaves⟩ := issue_entered (v := s.modSlice t k F) (f := f) (i := i) (body := body) ha.1 (calm_heldAll hc) rfl
    (by rw [State.modSlice, FMap.isSome_modify]; exact calm_some hc)
    (by rw [State.admitted_of_lets hl]; dsimp only; rw [State.expose_of_lets hl]; exact hfin)
  exact ⟨u, he.trans hu, hleaves (hl k (List.mem_singleton_self k)).2⟩

/-- An instruction of one calm slice that takes a trap in place of its effect. -/
theorem issue_traps {x : Trap} (hc : s.calm t k i) (hh : s.handles t k) (hb : body s s t [k] = (s.trapIn s t k i x, [(k, .gone)]))
    (he : exec i s = issue i body s) : s.enters t k i (s.modSlice t k (Slice.settled (s.ctx (s.team t).ctx)))
      { cause := x.cause, sub := x.sub, pc := (s.slice t k).regs.pc, cpc := (s.slice t k).regs.pc, addr := x.addr, word := instrWord i, info := x.info } :=
  issue_enters hc ⟨_, rfl⟩ (.inl rfl) (by rw [hb, State.trapIn_calm hc hh]) he

end

/-! ### TRAP and BRK (R331) -/

section
variable {s : State} {t k : Nat} {i : Instr}

/-- A slice whose own chunk, of a TRAP or BRK, has committed after the one before it. -/
def Slice.trapped (c : Ctx) (v : Slice) : Slice := { (v.settled c).committed c with park := none }

/-- The own commit of a TRAP or BRK in a calm slice, once the chunk before it has committed. -/
theorem State.trapOwn_calm {cause n : Nat} {resume : W64} (hc : s.calm t k i) (hh : s.handles t k) :
    (s.modSlice t k fun _ => (s.slice t k).preClosed (s.ctx (s.team t).ctx)).trapOwn t k i cause n resume =
      (s.modSlice t k (Slice.trapped (s.ctx (s.team t).ctx))).enterFrame t k
        { cause := cause, sub := 0, pc := resume, cpc := (s.slice t k).regs.pc, addr := 0, word := instrWord i, info := BitVec.ofNat 32 n } := by
  have hk := calm_some hc
  obtain ⟨hhandler, htvec⟩ := hh
  obtain ⟨-, hl, ⟨hheld, -, -, -, -, -⟩, hfx, -, -, -⟩ := hc
  have hwin := (hl k (List.mem_singleton_self k)).2
  generalize hx : s.ctx (s.team t).ctx = x at *
  generalize hV : (s.slice t k).preClosed x = V
  have hVs : V = (s.slice t k).settled x := by rw [← hV]; rfl
  have hVregs : V.regs = (s.slice t k).regs := by rw [← hV, Slice.preClosed_regs _ hwin]
  have hVheld : V.chunk.held = [] := by
    rw [← hV]
    unfold Slice.preClosed
    split
    · exact hheld
    · rfl
  have hVhandler : V.handler = false := by
    rw [← hV, ← hhandler]
    unfold Slice.preClosed
    split <;> rfl
  let f : Slice → Slice := fun v => { v with park := none, regs := { v.regs with wins := [] }, chunk := { v.chunk with instrs := 1 } }
  have hb0 := (((Became.refl hk).modSlice fun _ => V).modSlice f)
  generalize hs0 : (s.modSlice t k fun _ => V).modSlice t k f = s0 at hb0
  have hcommit : s0.commitChunk t k true = .ok (s0.modSlice t k (Slice.committed x)) := by
    rw [State.commitChunk_nil (by rw [hb0.slice]; exact hVheld)]
    have : s0.ctx (s0.team t).ctx = x := by rw [← hx, hb0.rest]; rfl
    rw [this]
  have hb1 := hb0.modSlice (Slice.committed x)
  have hctx : (s0.modSlice t k (Slice.committed x)).ctx ((s0.modSlice t k (Slice.committed x)).team t).ctx = x := by
    rw [hb1.rest]
    exact hx
  have hfregs : (f V).regs = V.regs := by
    show ({ V.regs with wins := [] } : Regs) = V.regs
    exact Regs.withoutWins (by rw [hVregs]; exact hwin)
  have hcregs : ((f V).committed x).regs = V.regs := by
    show (f V).regs.complete = _
    rw [hfregs, Regs.complete_of_wins (by rw [hVregs]; exact hwin)]
  have hdeliver : ∀ en pc, (s0.modSlice t k (Slice.committed x)).deliver t k en pc pc = s0.modSlice t k (Slice.committed x) := fun en pc => by
    rw [State.deliver_calm (by rw [hb1.slice, hcregs, hVregs]; exact hfx)]
    exact State.modSlice_self fun z hz => by
      rw [show z = (f V).committed x from (Option.some.inj (hb1.self.symm.trans hz)).symm]
      rfl
  have hnone : (s0.slice t k).delivers = false := by
    rw [hb0.slice]
    exact Slice.delivers_calm (by rw [hfregs, hVregs]; exact hfx)
  have hend : s0.modSlice t k (Slice.committed x) = s.modSlice t k (Slice.trapped x) := by
    rw [← hs0, State.modSlice_modSlice, State.modSlice_modSlice]
    refine State.modSlice_congr ?_
    show (f V).committed x = { ((s.slice t k).settled x).committed x with park := none }
    rw [← hVs]
    unfold Slice.committed
    rw [hfregs]
    rfl
  have hpc : ((s.modSlice t k fun _ => V).slice t k).regs.pc = (s.slice t k).regs.pc := by rw [State.slice_modSlice_self _ hk, hVregs]
  unfold State.trapOwn
  dsimp only
  rw [hs0, hcommit]
  dsimp only
  rw [hdeliver, if_neg (by rw [hnone]; simp), hpc]
  unfold State.enterHandler
  dsimp only
  rw [if_neg (by
    rw [hb1.slice, show ((f V).committed x).handler = false from hVhandler, hctx]
    simpa using htvec), hend]

/-- TRAP and BRK in a calm slice whose handler can be entered. -/
theorem trapOp_enters {cause n step : Nat} (hc : s.calm t k i) (hh : s.handles t k) (he : exec i s = trapOp i cause n step s) :
    s.enters t k i (s.modSlice t k (Slice.trapped (s.ctx (s.team t).ctx)))
      { cause := cause, sub := 0, pc := (s.slice t k).regs.pc + BitVec.ofNat 64 step, cpc := (s.slice t k).regs.pc, addr := 0, word := instrWord i,
        info := BitVec.ofNat 32 n } := by
  refine issue_enters hc ⟨_, rfl⟩ (.inr rfl) ?_ he
  have hpc : ((s.modSlice t k fun _ => (s.slice t k).preClosed (s.ctx (s.team t).ctx)).slice t k).regs.pc = (s.slice t k).regs.pc := by
    rw [State.slice_modSlice_self _ (calm_some hc), Slice.preClosed_regs _ (hc.2.1 k (List.mem_singleton_self k)).2]
  rw [eachSlice_one, preIn_calm_eq hc]
  dsimp only
  rw [State.trapOwn_calm hc hh, hpc]

end

/-- Settles O39, through the own commit of the instruction, which leaves the slice with nothing to deliver. -/
theorem softwareTraps : Obligations.SoftwareTraps := by
  intro s t k n hh pc c v
  refine ⟨fun hc => ?_, fun hc => ?_⟩
  · exact trapOp_enters (cause := 11) (n := n) (step := 4) hc hh rfl
  · have h := trapOp_enters (cause := 12) (n := n) (step := 0) hc hh rfl
    rw [show (s.slice t k).regs.pc + BitVec.ofNat 64 0 = (s.slice t k).regs.pc from BitVec.add_zero _] at h
    exact h

/-! ### The checks of an access that fail (R150) -/

section
variable {s : State} {t k : Nat} {i : Instr} {w : Want} {va named : W64} {row cause sub : Nat}

/-- An access of a plain load, store or reduction: nothing about it is special but its bytes, its permissions and the classes barred. -/
def Want.plain (w : Want) : Prop := w.noHost = false ∧ w.noRemote = false ∧ w.deadOk = false ∧ (w.lead = true → w.data = false)

/-- Every translation of an address is in this module's memory. -/
def State.local (s : State) (t : Nat) (va : W64) : Prop := ∀ l, s.walk (s.team t).ctx va = .leaf l → isFabric (l.npa va) = false

/-- What a translation in this module's memory comes to. -/
def State.leafFate (s : State) (t : Nat) (w : Want) (va : W64) (l : Leaf) : Fate :=
  let a := s.loadAddr (s.teamDie t) l (l.npa va)
  let trap (row cause sub : Nat) (addr : W64) : Fate := .trap row { cause := cause, sub := sub, addr := addr, info := 0 }
  if l.ff then trap 4 5 0 va
  else if w.bars l.cc then trap 5 4 0 va
  else if (w.r && !l.r) || (w.w && !l.w) then trap 5 4 1 va
  else if w.data && s.lostDirty a then trap 7 8 0 (BitVec.ofNat 64 (va.toNat / 128 * 128))
  else if s.expanderDown (l.npa va) then trap 6 7 0 va
  else if w.data && s.poisoned a then trap 7 8 0 (BitVec.ofNat 64 (va.toNat / 128 * 128))
  else .ok l (l.npa va)

theorem State.fate_of_leaf (hw : w.plain) (hlocal : s.local t va) (coin : Nat) (hn : va.toNat % w.n = 0) (hcan : canonical va = true) {l : Leaf}
    (hwalk : s.walk (s.team t).ctx va = .leaf l) : s.fate (s.team t).ctx (s.teamDie t) w coin va = s.leafFate t w va l := by
  obtain ⟨hhost, hremote, hdead, hlead⟩ := hw
  have hsrc : ∀ p : Nat → Bool, (w.data && p (if w.lead then l.npa va else s.loadAddr (s.teamDie t) l (l.npa va))) =
      (w.data && p (s.loadAddr (s.teamDie t) l (l.npa va))) := fun p => by
    cases hd : w.data with
    | false => rfl
    | true => rw [if_neg fun hl => by simp [hlead hl] at hd]
  unfold State.fate State.leafFate
  rw [if_neg (by simpa using hn), if_neg (by simp [hcan]), hwalk]
  simp only [hhost, hremote, hdead, hlocal l hwalk, hsrc, Bool.false_and, Bool.or_false, Bool.not_false, Bool.true_and]

/-- The permissions that an access needs and its page does not give. -/
theorem permits_iff (w : Want) (l : Leaf) : ((w.r && !l.r) || (w.w && !l.w)) = false ↔ (w.r = true → l.r = true) ∧ (w.w = true → l.w = true) := by
  cases w.r <;> cases w.w <;> simp

/-- A translated access traps just as the check that fails says. -/
theorem State.leafFate_trap {l : Leaf} : s.leafFate t w va l = .trap row { cause := cause, sub := sub, addr := named, info := 0 } ↔
    (let permits := (w.r = true → l.r = true) ∧ (w.w = true → l.w = true)
     let down := s.expanderDown (l.npa va) = true
     let a := s.loadAddr (s.teamDie t) l (l.npa va)
     let lost := w.data = true ∧ s.lostDirty a = true
     (l.ff = true ∧ row = 4 ∧ cause = 5 ∧ sub = 0 ∧ named = va) ∨
     (l.ff = false ∧ w.bars l.cc = true ∧ row = 5 ∧ cause = 4 ∧ sub = 0 ∧ named = va) ∨
     (l.ff = false ∧ w.bars l.cc = false ∧ ¬ permits ∧ row = 5 ∧ cause = 4 ∧ sub = 1 ∧ named = va) ∨
     (l.ff = false ∧ w.bars l.cc = false ∧ permits ∧ down ∧ ¬ lost ∧ row = 6 ∧ cause = 7 ∧ sub = 0 ∧ named = va) ∨
     (l.ff = false ∧ w.bars l.cc = false ∧ permits ∧ (lost ∨ (¬ down ∧ w.data = true ∧ s.poisoned a = true)) ∧ row = 7 ∧ cause = 8 ∧ sub = 0 ∧
       named = BitVec.ofNat 64 (va.toNat / 128 * 128))) := by
  have hperm := permits_iff w l
  unfold State.leafFate
  dsimp only
  generalize s.loadAddr (s.teamDie t) l (l.npa va) = a
  rw [← hperm, ← Bool.and_eq_true, ← Bool.and_eq_true]
  generalize ((w.r && !l.r) || (w.w && !l.w)) = refused
  cases l.ff <;> cases w.bars l.cc <;> cases refused <;> cases (w.data && s.lostDirty a) <;> cases s.expanderDown (l.npa va) <;>
    cases (w.data && s.poisoned a) <;> simp [eq_comm, and_assoc]

/-- An address traps just as the check that it fails says. -/
theorem State.fate_trap_iff (hw : w.plain) (hlocal : s.local t va) (coin : Nat) :
    s.fate (s.team t).ctx (s.teamDie t) w coin va = .trap row { cause := cause, sub := sub, addr := named, info := 0 } ↔ s.fails t w va row cause sub named := by
  by_cases hn : va.toNat % w.n = 0
  · cases hcan : canonical va with
    | false =>
      have hfate : s.fate (s.team t).ctx (s.teamDie t) w coin va = .trap 2 { cause := 4, sub := 2, addr := va, info := 0 } := by
        unfold State.fate
        rw [if_neg (by simpa using hn), if_pos (by simp [hcan])]
      rw [hfate]
      constructor
      · intro h
        cases h
        exact .inr (.inl ⟨hn, hcan, rfl, rfl, rfl, rfl⟩)
      · rintro (⟨h, -⟩ | ⟨-, -, rfl, rfl, rfl, rfl⟩ | ⟨-, h, -⟩)
        · exact absurd hn h
        · rfl
        · exact absurd h (by simp [hcan])
    | true =>
      cases hwalk : s.walk (s.team t).ctx va with
      | none m =>
        have hfate : s.fate (s.team t).ctx (s.teamDie t) w coin va = .missing (pageOf va) m true := by
          unfold State.fate
          rw [if_neg (by simpa using hn), if_neg (by simp [hcan]), hwalk]
        rw [hfate]
        unfold State.fails
        simp [hn, hcan, hwalk]
      | leaf l =>
        rw [State.fate_of_leaf hw hlocal coin hn hcan hwalk, State.leafFate_trap]
        have hleaf : ∀ l', Walk.leaf l = Walk.leaf l' ↔ l' = l := fun l' => ⟨fun h => (Walk.leaf.inj h).symm, fun h => by rw [h]⟩
        unfold State.fails
        simp only [hn, hcan, hwalk, ne_eq, not_true_eq_false, false_and, false_or, true_and, Bool.true_eq_false, hleaf, exists_eq_left]
  · have hfate : s.fate (s.team t).ctx (s.teamDie t) w coin va = .trap 1 { cause := 3, sub := 0, addr := va, info := 0 } := by
      unfold State.fate
      rw [if_pos hn]
    rw [hfate]
    constructor
    · intro h
      cases h
      exact .inl ⟨hn, rfl, rfl, rfl, rfl⟩
    · rintro (⟨-, rfl, rfl, rfl, rfl⟩ | ⟨h, -⟩ | ⟨h, -⟩)
      · rfl
      · exact absurd h hn
      · exact absurd h hn

/-- A trap that an access takes has no lane named yet. -/
theorem State.fate_trap_info {coin : Nat} {x : Trap} (hw : w.plain) (hlocal : s.local t va)
    (h : s.fate (s.team t).ctx (s.teamDie t) w coin va = .trap row x) : s.fails t w va row x.cause x.sub x.addr ∧ x.info = 0 := by
  have hinfo : x.info = 0 := by
    unfold State.fate at h
    dsimp only at h
    repeat' split at h
    all_goals first | (cases h; rfl) | cases h
  refine ⟨(State.fate_trap_iff hw hlocal coin).mp ?_, hinfo⟩
  rw [h, ← hinfo]

/-! ### The trap of several accesses: the lowest row's, at its lowest lane (R150) -/

/-- No trap among some fates comes before that of `row` at gang lane `gl`, which is `x`. -/
def leastTrap (fs : List (Acc × Fate)) (row gl : Nat) (x : Trap) : Prop :=
  ∀ e ∈ fs, ∀ row' x', e.2 = .trap row' x' → row < row' ∨ (row = row' ∧ (gl < e.1.gl ∨ (gl = e.1.gl ∧ x' = x)))

theorem worst_of_least {fs : List (Acc × Fate)} {e : Acc × Fate} {x : Trap} (he : e ∈ fs) (hx : e.2 = .trap row x) (hleast : leastTrap fs row e.1.gl x) :
    worst fs = some { x with info := BitVec.ofNat 32 e.1.gl } := by
  suffices ∀ (l : List (Acc × Fate)) (b : Option (Nat × Nat × Trap)), leastTrap l row e.1.gl x → (e ∈ l ∨ b = some (row, e.1.gl, x)) →
      (∀ r g y, b = some (r, g, y) → row < r ∨ (row = r ∧ (e.1.gl < g ∨ (e.1.gl = g ∧ y = x)))) → l.foldl lowerTrap b = some (row, e.1.gl, x) by
    rw [worst, this fs none hleast (.inl he) (fun _ _ _ h => by cases h)]
    rfl
  intro l
  induction l with
  | nil => exact fun b _ hb _ => hb.resolve_left List.not_mem_nil
  | cons d l ih =>
    intro b hl hb hlow
    rw [List.foldl_cons]
    have hl' : leastTrap l row e.1.gl x := fun z hz => hl z (List.mem_cons_of_mem _ hz)
    have hd := hl d (List.mem_cons_self ..)
    by_cases hbx : b = some (row, e.1.gl, x)
    · -- the least trap has been met, and stays
      have hstep : lowerTrap b d = some (row, e.1.gl, x) := by
        rw [hbx, lowerTrap]
        cases hf : d.2 with
        | trap row' x' =>
          have := hd row' x' hf
          dsimp only
          rw [if_neg (by omega)]
        | missing _ _ _ => rfl
        | ok _ _ => rfl
      rw [hstep]
      exact ih _ hl' (.inr rfl) fun r g y h => by cases h; exact .inr ⟨rfl, .inr ⟨rfl, rfl⟩⟩
    · have he' : e = d ∨ e ∈ l := List.mem_cons.mp (hb.resolve_right hbx)
      rcases he' with rfl | he'
      · have hstep : lowerTrap b e = some (row, e.1.gl, x) := by
          rw [lowerTrap, hx]
          match b, hlow, hbx with
          | none, _, _ => rfl
          | some (r, g, y), hlow, hbx =>
            dsimp only
            rw [if_pos]
            rcases hlow r g y rfl with h | ⟨h, h' | ⟨h', rfl⟩⟩
            · exact .inl h
            · exact .inr ⟨h, h'⟩
            · exact absurd (by rw [h, h']) hbx
        rw [hstep]
        exact ih _ hl' (.inr rfl) fun r g y h => by cases h; exact .inr ⟨rfl, .inr ⟨rfl, rfl⟩⟩
      · refine ih _ hl' (.inl he') ?_
        intro r g y h
        unfold lowerTrap at h
        cases hf : d.2 with
        | trap row' x' =>
          rw [hf] at h
          match b, hlow with
          | none, _ =>
            cases h
            exact hd _ _ hf
          | some (r', g', y'), hlow =>
            dsimp only at h
            split at h
            · cases h
              exact hd _ _ hf
            · exact hlow r g y h
        | missing _ _ _ => rw [hf] at h; exact hlow r g y h
        | ok _ _ => rw [hf] at h; exact hlow r g y h

/-! ### Accesses that a check refuses, by lanes and alone -/

/-- The accesses of a lane instruction in a slice with nothing parked are told apart by their gang lanes. -/
theorem laneAccs_inj {addr : Regs → Nat → W64} (hp : (s.slice t k).park = none) {y z : Acc} (hy : y ∈ s.laneAccs t [k] addr) (hz : z ∈ s.laneAccs t [k] addr)
    (h : y.gl = z.gl) : y = z := by
  have hform : ∀ x ∈ s.laneAccs t [k] addr, ∃ l, x = { k := k, l := l, gl := 4 * posOf k s.cur.ks + l, va := addr (s.slice t k).regs l } := by
    intro x hx
    unfold State.laneAccs at hx
    rw [List.flatMap_cons, List.flatMap_nil, List.append_nil] at hx
    dsimp only at hx
    rw [hp] at hx
    obtain ⟨l, -, rfl⟩ := List.mem_map.mp hx
    exact ⟨l, rfl⟩
  obtain ⟨l, rfl⟩ := hform y hy
  obtain ⟨m, rfl⟩ := hform z hz
  have : l = m := by simpa using h
  rw [this]

/-- The check of an access of a slice with nothing parked. -/
theorem State.fateOf_of_park {x : Acc} (hp : (s.slice t x.k).park = none) (w : Want) :
    s.fateOf t w x = s.fate (s.team t).ctx (s.teamDie t) w (s.draws + x.gl) x.va := by
  unfold State.fateOf
  rw [hp]

/-- A lane instruction of one slice of which a lane's check is the first to fail takes that check's trap. -/
theorem laneBody_traps {ws : State → Nat → Want} {addr : Regs → Nat → W64} {act : State → Nat → List (Acc × Fate) → State → Nat → State × Did}
    (hw : (ws s t).plain) (hp : (s.slice t k).park = none) (htouch : s.touch (s.team t).ctx ((s.laneAccs t [k] addr).map (·.va)) = s)
    (hlocal : ∀ z ∈ s.laneAccs t [k] addr, s.local t z.va) {y : Acc} (hy : y ∈ s.laneAccs t [k] addr) (hf : s.fails t (ws s t) y.va row cause sub named)
    (hleast : ∀ z ∈ s.laneAccs t [k] addr, ∀ row' cause' sub' named', s.fails t (ws s t) z.va row' cause' sub' named' → row < row' ∨ (row = row' ∧ y.gl ≤ z.gl)) :
    laneBody i ws addr act s s t [k] =
      (s.trapIn s t k i { cause := cause, sub := sub, addr := named, info := BitVec.ofNat 32 y.gl }, [(k, .gone)]) := by
  have hacc : ∀ z ∈ s.laneAccs t [k] addr, s.fateOf t (ws s t) z = s.fate (s.team t).ctx (s.teamDie t) (ws s t) (s.draws + z.gl) z.va := by
    intro z hz
    have hzk : z.k = k := by
      unfold State.laneAccs at hz
      rw [List.flatMap_cons, List.flatMap_nil, List.append_nil] at hz
      dsimp only at hz
      rw [hp] at hz
      obtain ⟨l, -, rfl⟩ := List.mem_map.mp hz
      rfl
    exact State.fateOf_of_park (by rw [hzk]; exact hp) _
  have hyfate : s.fateOf t (ws s t) y = .trap row { cause := cause, sub := sub, addr := named, info := 0 } := by
    rw [hacc y hy]
    exact (State.fate_trap_iff hw (hlocal y hy) _).mpr hf
  have hworst : worst ((s.laneAccs t [k] addr).map fun x => (x, s.fateOf t (ws s t) x)) =
      some { cause := cause, sub := sub, addr := named, info := BitVec.ofNat 32 y.gl } := by
    refine (worst_of_least (e := (y, s.fateOf t (ws s t) y)) (List.mem_map_of_mem (f := fun x => (x, s.fateOf t (ws s t) x)) hy) hyfate fun e he row' x' hx' => ?_).trans rfl
    obtain ⟨z, hz, rfl⟩ := List.mem_map.mp he
    have hfz := State.fate_trap_info hw (hlocal z hz) ((hacc z hz).symm.trans hx')
    rcases hleast z hz _ _ _ _ hfz.1 with h | ⟨h, hgl⟩
    · exact .inl h
    · rcases Nat.lt_or_eq_of_le hgl with hlt | heq
      · exact .inr ⟨h, .inl hlt⟩
      · have hyz := laneAccs_inj hp hy hz heq
        subst hyz
        have := hyfate.symm.trans hx'
        cases this
        exact .inr ⟨rfl, .inr ⟨rfl, rfl⟩⟩
  have hgo : ∀ b, s.haltedSince s t = b → b = false := fun b hb => hb ▸ State.haltedSince_same rfl rfl
  have hcheck : s.gangCheck s t [k] i (ws s t) addr false =
      .error (s.trapIn s t k i { cause := cause, sub := sub, addr := named, info := BitVec.ofNat 32 y.gl }) := by
    unfold State.gangCheck
    simp only [htouch, hworst, Option.isSome_some, Option.isNone_some, if_true, Bool.false_eq_true, if_false, preEach, List.foldl_nil, Bool.false_and, Bool.false_or,
      List.contains_nil, Bool.not_false, List.filter_cons, List.filter_nil, hgo _ rfl, eachTrap, eachSlice_one]
  unfold laneBody
  rw [hcheck]
  rfl

/-- A slice instruction with one access, whose check fails, takes that check's trap. -/
theorem sliceAccess_traps {kind : Nat} {look : State → Nat → Nat → List (W64 × Want)} {act : State → State → Nat → Nat → List (Acc × Leaf × Nat) → State × Did}
    (hlook : look s t k = [(va, w)]) (hw : w.plain) (hp : (s.slice t k).park = none) (htouch : s.touch (s.team t).ctx [va] = s) (hlocal : s.local t va)
    (hf : s.fails t w va row cause sub named) :
    sliceAccess i kind false look act s s t [k] =
      (s.trapIn s t k i { cause := cause, sub := sub, addr := named, info := BitVec.ofNat 32 (s.firstLane k) }, [(k, .gone)]) := by
  have hcheck : s.aloneCheck t k [(va, w)] = .trap { cause := cause, sub := sub, addr := named, info := BitVec.ofNat 32 (s.firstLane k) } := by
    generalize hy : ({ k := k, l := 0, gl := 4 * posOf k s.cur.ks, va := va } : Acc) = y
    have hfate : s.fateOf t w y = .trap row { cause := cause, sub := sub, addr := named, info := 0 } := by
      rw [State.fateOf_of_park (by rw [← hy]; exact hp), ← hy]
      exact (State.fate_trap_iff hw hlocal _).mpr hf
    have hworst : worst [(y, s.fateOf t w y)] = some { cause := cause, sub := sub, addr := named, info := BitVec.ofNat 32 (s.firstLane k) } := by
      rw [worst, List.foldl_cons, List.foldl_nil, hfate, lowerTrap, ← hy]
      rfl
    unfold State.aloneCheck aloneOf
    simp only [List.map_cons, List.map_nil, hy, hworst]
  have hfin : (s.slice t k).finished = false := by unfold Slice.finished; rw [hp]
  have hslice : checkSlice i false look s s t k =
      .error (s.trapIn s t k i { cause := cause, sub := sub, addr := named, info := BitVec.ofNat 32 (s.firstLane k) }) := by
    unfold checkSlice
    simp only [hlook, List.map_cons, List.map_nil, htouch, hcheck, Bool.or_false, Bool.false_eq_true, if_false]
  unfold sliceAccess
  simp only [List.any_cons, List.any_nil, hfin, hlook, hcheck, List.foldl_cons, List.foldl_nil, State.haltedSince_same, Bool.false_eq_true, if_false, hslice]
  rfl

theorem wantLoad_plain (n : Nat) : (wantLoad n).plain := ⟨rfl, rfl, rfl, fun h => Bool.noConfusion h⟩
theorem wantStore_plain (n : Nat) : (wantStore n).plain := ⟨rfl, rfl, rfl, fun h => Bool.noConfusion h⟩
theorem wantRed_plain (op : AtomOp) (dbl : Bool) (s : State) (t : Nat) : (wantAtom op dbl false s t).plain := ⟨rfl, rfl, rfl, fun _ => rfl⟩

/-- Addresses whose walks set no accessed bit and find this module's memory alone. -/
def State.here (s : State) (t : Nat) (vas : List W64) : Prop :=
  s.touch (s.team t).ctx vas = s ∧ ∀ va ∈ vas, s.local t va

/-- The frame of a trap of the instruction at a slice's PC. -/
def State.frameOf (s : State) (t k cause sub : Nat) (addr : W64) (word info : W32) : Frame :=
  { cause := cause, sub := sub, pc := (s.slice t k).regs.pc, cpc := (s.slice t k).regs.pc, addr := addr, word := word, info := info }

/-- A lane instruction that takes the trap of the first check that fails among its lanes. -/
theorem lanes_trap {ws : State → Nat → Want} {addr : Regs → Nat → W64} {act : State → Nat → List (Acc × Fate) → State → Nat → State × Did}
    (hw : (ws s t).plain) (he : exec i s = issue i (laneBody i ws addr act) s) (hh : s.handles t k) {y : Acc} (hy : y ∈ s.laneAccs t [k] addr)
    (hc : s.calm t k i) (hhere : s.here t ((s.laneAccs t [k] addr).map (·.va))) (hf : s.fails t (ws s t) y.va row cause sub named)
    (hleast : ∀ z ∈ s.laneAccs t [k] addr, ∀ row' cause' sub' named', s.fails t (ws s t) z.va row' cause' sub' named' → row < row' ∨ (row = row' ∧ y.gl ≤ z.gl)) :
    s.enters t k i (s.modSlice t k (Slice.settled (s.ctx (s.team t).ctx))) (s.frameOf t k cause sub named (instrWord i) (BitVec.ofNat 32 y.gl)) :=
  issue_traps (x := { cause := cause, sub := sub, addr := named, info := BitVec.ofNat 32 y.gl }) hc hh (laneBody_traps hw hc.2.2.2.2.2.1 hhere.1 (fun z hz => hhere.2 _ (List.mem_map_of_mem (f := (·.va)) hz)) hy hf hleast) he

/-- A slice instruction that takes the trap of the check that its access fails. -/
theorem alone_traps {kind : Nat} {look : State → Nat → Nat → List (W64 × Want)} {act : State → State → Nat → Nat → List (Acc × Leaf × Nat) → State × Did}
    (hlook : look s t k = [(va, w)]) (hw : w.plain) (he : exec i s = issue i (sliceAccess i kind false look act) s) (hh : s.handles t k) (hc : s.calm t k i)
    (hhere : s.here t [va]) (hf : s.fails t w va row cause sub named) :
    s.enters t k i (s.modSlice t k (Slice.settled (s.ctx (s.team t).ctx)))
      (s.frameOf t k cause sub named (instrWord i) (BitVec.ofNat 32 (s.firstLane k))) :=
  issue_traps (x := { cause := cause, sub := sub, addr := named, info := BitVec.ofNat 32 (s.firstLane k) }) hc hh (sliceAccess_traps hlook hw hc.2.2.2.2.2.1 hhere.1 (hhere.2 va (List.mem_singleton_self va)) hf) he

/-- Every slice of a gang takes one trap, in a gang of one. -/
theorem eachTrap_one (s : State) (t k : Nat) (i : Instr) (x : Trap) : eachTrap s i x s t [k] = (s.trapIn s t k i x, [(k, .gone)]) := eachSlice_one ..

/-- RTE of a slice that is in no handler (R330). -/
theorem State.rte_outside {m : Bool} {u : State} (hn : (u.slice t k).handler = false) :
    State.rte m s u t k = (s.trapIn u t k .rte { cause := 1, sub := 1, addr := 0, info := 0 }, .gone) := by
  unfold State.rte
  exact if_pos (by rw [hn]; rfl)

/-- A jump of a calm slice to a misaligned address (R95). -/
theorem jumpOp_traps {n : Nat} (hh : s.handles t k) (hc : s.calm t k i) (ha : ((s.slice t k).regs.getS n).toNat % 4 ≠ 0) (he : exec i s = jumpOp i n s) :
    s.enters t k i (s.modSlice t k (Slice.settled (s.ctx (s.team t).ctx)))
      (s.frameOf t k 3 0 ((s.slice t k).regs.getS n) (instrWord i) (BitVec.ofNat 32 (s.firstLane k))) := by
  unfold jumpOp issueRegs at he
  refine issue_traps (x := { cause := 3, sub := 0, addr := (s.slice t k).regs.getS n, info := BitVec.ofNat 32 (s.firstLane k) }) hc hh ?_ he
  rw [eachSlice_one]
  dsimp only
  rw [if_pos ha]
  rfl

end

/-- Settles O41: whichever check comes first, the body of the instruction is the trap of the slice, which enters its handler from there. -/
theorem instructionTraps : Obligations.InstructionTraps := by
  intro s t k hh regs c v frame
  refine ⟨fun w hc => ?_, fun w sub hc => ?_, fun a ha hc => ?_, fun ha hc => ?_, fun hc => ?_, ?_⟩
  · have he : exec (.extensionEmulation w) s = execExtensionEmulation w s := rfl
    unfold execExtensionEmulation eachTraps at he
    exact issue_traps (x := { cause := 2, sub := 0, addr := 0, info := 0 }) hc hh (eachTrap_one ..) he
  · have he : exec (.illegalInstruction w sub) s = execIllegalInstruction w sub s := rfl
    unfold execIllegalInstruction eachTraps at he
    exact issue_traps (x := { cause := 1, sub := sub, addr := 0, info := 0 }) hc hh (eachTrap_one ..) he
  · have he : exec (.jmpr a) s = execJmpr a s := rfl
    unfold execJmpr at he
    exact jumpOp_traps hh hc ha he
  · have he : exec .ret s = execRet s := rfl
    unfold execRet at he
    exact jumpOp_traps hh hc ha he
  · have he : exec .rte s = execRte s := rfl
    unfold execRte at he
    refine issue_traps (x := { cause := 1, sub := 1, addr := 0, info := 0 }) hc hh ?_ he
    rw [eachSlice_one, State.rte_outside hh.1]
  · intro d x b l dbl sz o op row cause sub named cx here lanes alone
    have hhere : ∀ vas, here vas → s.here t vas := fun vas h => h
    have hvld : exec (.vld d x b dbl l) s = execVld d x b dbl l s := rfl
    have hvldc : exec (.vldc d b dbl o) s = execVldc d b dbl o s := rfl
    have hvst : exec (.vst d x b dbl l) s = execVst d x b dbl l s := rfl
    have hvstc : exec (.vstc d b dbl o) s = execVstc d b dbl o s := rfl
    have hred : exec (.red op d x b dbl) s = execRed op d x b dbl s := rfl
    have hsld : exec (.sld d b sz o) s = execSld d b sz o s := rfl
    have hsst : exec (.sst d b sz o) s = execSst d b sz o s := rfl
    unfold execVld loadBody at hvld
    unfold execVldc loadBody at hvldc
    unfold execVst storeLanes storeBody at hvst
    unfold execVstc storeLanes storeBody at hvstc
    unfold execRed storeBody at hred
    unfold execSld at hsld
    unfold execSst at hsst
    exact ⟨fun y hy hc hl hf hleast => lanes_trap (wantLoad_plain _) hvld hh hy hc (hhere _ hl) hf hleast,
      fun y hy hc hl hf hleast => lanes_trap (wantLoad_plain _) hvldc hh hy hc (hhere _ hl) hf hleast,
      fun y hy hc hl hf hleast => lanes_trap (wantStore_plain _) hvst hh hy hc (hhere _ hl) hf hleast,
      fun y hy hc hl hf hleast => lanes_trap (wantStore_plain _) hvstc hh hy hc (hhere _ hl) hf hleast,
      fun y hy hc hl hf hleast => lanes_trap (ws := wantAtom op dbl false) (wantRed_plain op dbl s t) hred hh hy hc (hhere _ hl) hf hleast,
      fun hc hl hf => alone_traps (hlook := rfl) (wantLoad_plain _) hsld hh hc (hhere _ hl) hf,
      fun hc hl hf => alone_traps (hlook := rfl) (wantStore_plain _) hsst hh hc (hhere _ hl) hf⟩

end Sys2Proof.Machine
end

section
/-! SUPPORT. RTE from a frame -/

namespace Sys2Proof.Machine

open Sys2Proof.Tests

set_option maxRecDepth 100000

/-! ### A context fault completes other slices' commits, whose frames may lie at another module (R204, R334, R353) -/

/-- Slice 0 of team 0 in its handler, its frame with a misaligned PC. Another team of the context has a slice whose CMIT has an enabled flag to deliver; its
frame's page is another module's memory. -/
def farFrame : State :=
  let s : State := { after (exec (.trap 5) armed) with cur := armed.cur }
  let leaf := (byteRun (placeRoot + 16384 + 8) (leBytes 8 (2 ^ 47 + 0x605D))).foldl (fun m x => Memory.write m x.1 x.2) s.mem
  { s with mem := Memory.write leaf (placePage + 0x1000 + 64) 6,
           teams := s.teams ++ [(1, { s.team 0 with slot := some 2, place := .resident 1 [0] 0 0 })],
           slices := s.slices ++ [(sliceKey 1 0, { Slice.start Ctx.blank 0 with regs := { Regs.blank with fpx := 1 }, tell := some 63 })] }

theorem farFrame_calm : farFrame.calm 0 0 .rte ∧ (farFrame.slice 0 0).handler = true := by
  unfold State.calm State.acts State.lets
  decide

theorem farFrame_passes : farFrame.passes 0 0 [(farFrame.frameAddr 0 0, wantDesc 128 fun c => c == .io)] [(acc 0x1000, page, placePage + 0x1000)] :=
  ⟨by decide, rfl, by decide⟩

/-- The fault leaves a transaction beside its driver event. -/
theorem farFrame_out : farFrame.out = [] ∧ (after (exec .rte farFrame)).out.length = 2 := by decide

/-- Refutes O40: a bad frame's context fault completes the commits of the context's other slices; one that has a flag to deliver enters its handler, and its
frame, on a page of another module, leaves as a transaction before the driver event. -/
theorem not_returnResults : ¬ Obligations.ReturnResults := by
  intro h
  obtain ⟨hcalm, hhandler⟩ := farFrame_calm
  obtain ⟨hbad, -⟩ := h farFrame 0 0 _ hcalm hhandler farFrame_passes
  obtain ⟨u, hu, -, -, hout⟩ := hbad (.inr (by decide)) (by decide)
  obtain ⟨hbefore, hafter⟩ := farFrame_out
  rw [hu, show after (.next u) = u from rfl, hout, hbefore] at hafter
  exact absurd hafter (by decide)

end Sys2Proof.Machine
end

section
/-! SUPPORT. The operands that R61 refuses -/

namespace Sys2Proof.Machine

/-! ### Instructions that R61 refuses: the body is run on no slice (R61) -/

section
variable {s z : State} {i : Instr}

/-- A result that is the issue of an instruction from `z`, whose body does nothing where no slice is left to it. -/
def IssuedFrom (i : Instr) (z : State) (x : Result) : Prop := ∃ body, x = issue i body z ∧ ∀ st u t, body st u t [] = (u, [])

theorem issuedFrom_each {f : State → State → Nat → List Nat → State → Nat → Nat → State × Did} :
    IssuedFrom i z (issue i (fun st u t ks => eachSlice (f st u t ks) u t ks) z) := ⟨_, rfl, fun _ _ _ => rfl⟩

theorem issuedFrom_regs {f : State → Nat → Nat → Regs → Except Trap Regs} : IssuedFrom i z (issueRegs i f z) := issuedFrom_each

theorem issuedFrom_closer {f : State → Nat → Nat → State × Did} : IssuedFrom i z (issueCloser i f z) := issuedFrom_each

theorem sliceAccess_nil {kind : Nat} {closes : Bool} {look : State → Nat → Nat → List (W64 × Want)}
    {act : State → State → Nat → Nat → List (Acc × Leaf × Nat) → State × Did} (st u : State) (t : Nat) :
    sliceAccess i kind closes look act st u t [] = (u, []) := rfl

theorem issuedFrom_alone {kind : Nat} {closes : Bool} {look : State → Nat → Nat → List (W64 × Want)}
    {act : State → State → Nat → Nat → List (Acc × Leaf × Nat) → State × Did} :
    IssuedFrom i z (issue i (sliceAccess i kind closes look act) z) := ⟨_, rfl, sliceAccess_nil⟩

theorem State.gangCheck_nil (st u : State) (t : Nat) (w : Want) (addr : Regs → Nat → W64) (all : Bool) :
    st.gangCheck u t [] i w addr all = .ok (u, [], []) := by
  have hsame : u.haltedSince u t = false := State.haltedSince_same rfl rfl
  have hpre : preEach st t u [] = (u, []) := rfl
  have hlanes : ∀ v : State, v.laneAccs t [] addr = [] := fun _ => rfl
  have hworst : worst [] = none := rfl
  unfold State.gangCheck
  simp [hlanes, hworst, hpre, State.touch_nil, hsame, remoteSlices]

theorem issuedFrom_lanes {w : State → Nat → Want} {addr : Regs → Nat → W64} {act : State → Nat → List (Acc × Fate) → State → Nat → State × Did} :
    IssuedFrom i z (issue i (laneBody i w addr act) z) := ⟨_, rfl, fun _ _ _ => by unfold laneBody; rw [State.gangCheck_nil]; rfl⟩

theorem issuedFrom_team {n : Nat} {addr : Regs → Nat → W64} {wr rd : Bool} {act : State → Nat → Nat → List Acc → State} :
    IssuedFrom i z (issue i (teamBody i n addr wr rd act) z) := ⟨_, rfl, fun _ _ _ => rfl⟩

theorem issuedFrom_atom {o : AtomOp} {v x b : Nat} {dbl : Bool} : IssuedFrom i z (issue i (atomBody i o v x b dbl) z) :=
  ⟨_, rfl, fun _ _ _ => by unfold atomBody; rw [State.gangCheck_nil]; rfl⟩

theorem issuedFrom_checked {a b : Nat} {w : Want} {o : RangeOp} : IssuedFrom i z (checkedRange i a b w o z) :=
  ⟨_, rfl, fun _ u t => if_neg (Bool.eq_false_iff.mp (State.haltedSince_same (s := u) (u := u) (t := t) rfl rfl))⟩

/-- Where no commit is under way, an instruction that waits for those issues. -/
theorem issuedFrom_afterCommits {f : State → Result} {t k : Nat} (hcur : s.cur = { team := t, ks := [k] }) (hi : (s.slice t k).idle) (h : IssuedFrom i s (f s)) :
    IssuedFrom i s (afterCommits f s) := by
  obtain ⟨-, -, hp, -, hq, -⟩ := hi
  unfold afterCommits
  rwa [if_neg (by simp [hcur, hp, hq])]

/-- A REGANG names no operand, and nothing refuses it. -/
theorem State.refusal_regang (s : State) (t k : Nat) : s.refusal .regang t k = none := by
  have hbreach : ∀ w : Window, w.breach [] [] = false := fun _ => rfl
  simp [State.refusal, operandsOf, Operands.refuse, Operands.allocated, Operands.reads, Operands.writes, hbreach]

/-- The state from which an instruction issues: the clock has gone on for a reading of it. -/
def State.issuesFrom (s : State) : Instr → State
  | .srd _ n => if n = 0x00F then s.clockOn else s
  | _ => s

/-- Every instruction with a word that is refused in a lone idle slice is issued with no slice left to its body. -/
theorem issuedFrom_exec {t k : Nat} (hw : (encode i).isSome = true) (hcur : s.cur = { team := t, ks := [k] }) (hi : (s.slice t k).idle)
    (hr : (s.refusal i t k).isSome = true) : IssuedFrom i (s.issuesFrom i) (exec i s) := by
  cases i with
  | sadd | ssub | smul | smulh | smulhN | sdiv | sdivN | srem | sremN | sand | sor | sxor | sshl | sshr | ssra | smin | sminN | smax | smaxN | sslt | ssltn =>
    dsimp only [State.issuesFrom, exec, execSadd, execSsub, execSmul, execSmulh, execSmulhN, execSdiv, execSdivN, execSrem, execSremN, execSand, execSor,
      execSxor, execSshl, execSshr, execSsra, execSmin, execSminN, execSmax, execSmaxN, execSslt, execSsltn, scalarOp, regOp]
    exact issuedFrom_regs
  | saddi | sandi | sori | sxori | sshli =>
    dsimp only [State.issuesFrom, exec, execSaddi, execSandi, execSori, execSxori, execSshli, immOp, regOp]
    exact issuedFrom_regs
  | ssel | slui | swr | smovv | smovvLane | vrdl | nop | mode | moder | vand | vor | vxor | vnot | vsel | vcmp | vmovi | vfcmp | pand | por | pxor | pnot |
    pset | vpack | vunpk | vclass | vbperm | pref | rdcap =>
    dsimp only [State.issuesFrom, exec, execSsel, execSlui, execSwr, execSmovv, execSmovvLane, execVrdl, execNop, execMode, execModer, execVand, execVor,
      execVxor, execVnot, execVsel, execVcmp, execVmovi, execVfcmp, execPand, execPor, execPxor, execPnot, execPset, execVpack, execVunpk, execVclass,
      execVbperm, execPref, execRdcap, regOp]
    exact issuedFrom_regs
  | smovvTlane | call | vcvt | vqnt | vdqnt | vperm | vred | vscan | vballot | vcount | rdnpa | specrd | csrr =>
    dsimp only [State.issuesFrom, exec, execSmovvTlane, execCall, execVcvt, execVqnt, execVdqnt, execVperm, execVred, execVscan, execVballot, execVcount,
      execRdnpa, execSpecrd, execCsrr]
    exact issuedFrom_regs
  | br | brCc | bany | ball | bnone =>
    dsimp only [State.issuesFrom, exec, execBr, execBrCc, execBany, execBall, execBnone, branchOp]
    exact issuedFrom_regs
  | ret | jmpr =>
    dsimp only [State.issuesFrom, exec, execRet, execJmpr, jumpOp]
    exact issuedFrom_regs
  | vadd | vsub | vmul | vmulh | vmad | vmin | vmax | vshl | vshr | vabs | vneg | vaddi | vpopc | vclz | vbrev =>
    dsimp only [State.issuesFrom, exec, execVadd, execVsub, execVmul, execVmulh, execVmad, execVmin, execVmax, execVshl, execVshr, execVabs, execVneg,
      execVaddi, execVpopc, execVclz, execVbrev, intOp, regOp]
    exact issuedFrom_regs
  | vfadd | vfsub | vfmul | vfma | vfmin | vfmax | vfabs | vfneg =>
    dsimp only [State.issuesFrom, exec, execVfadd, execVfsub, execVfmul, execVfma, execVfmin, execVfmax, execVfabs, execVfneg, floatOp, regOp]
    exact issuedFrom_regs
  | vrcp | vrsq | vsqrt | vexp2 | vlog2 | vsin | vcos | vtanh | verf | vsigm =>
    dsimp only [State.issuesFrom, exec, execVrcp, execVrsq, execVsqrt, execVexp2, execVlog2, execVsin, execVcos, execVtanh, execVerf, execVsigm, specialOp,
      regOp]
    exact issuedFrom_regs
  | vslide | vshfl | vbcast =>
    dsimp only [State.issuesFrom, exec, execVslide, execVshfl, execVbcast, crossOp]
    exact issuedFrom_regs
  | cwb | cinv | cdisc =>
    dsimp only [State.issuesFrom, exec, execCwb, execCinv, execCdisc, eachRange]
    exact issuedFrom_each
  | ginit | gexpect | garrive =>
    dsimp only [State.issuesFrom, exec, execGinit, execGexpect, execGarrive, gateOp]
    exact issuedFrom_each
  | chacq | chtake =>
    dsimp only [State.issuesFrom, exec, execChacq, execChtake, chanBlock]
    exact issuedFrom_each
  | chacqNb | chtakeNb =>
    dsimp only [State.issuesFrom, exec, execChacqNb, execChtakeNb, chanTry]
    exact issuedFrom_each
  | chpub | chfree =>
    dsimp only [State.issuesFrom, exec, execChpub, execChfree, chanRelease]
    exact issuedFrom_each
  | mzero | mwr =>
    dsimp only [State.issuesFrom, exec, execMzero, execMwr, holdMatrix]
    exact issuedFrom_each
  | cseq | cspill =>
    dsimp only [State.issuesFrom, exec, execCseq, execCspill, readCounter]
    exact issuedFrom_each
  | trap | brk =>
    dsimp only [State.issuesFrom, exec, execTrap, execBrk, trapOp]
    exact issuedFrom_each
  | balack | mwait | cwait | fenceio =>
    dsimp only [State.issuesFrom, exec, execBalack, execMwait, execCwait, execFenceio]
    exact issuedFrom_closer
  | rsvpin | rsvunpin | czero =>
    dsimp only [State.issuesFrom, exec, execRsvpin, execRsvunpin, execCzero]
    exact issuedFrom_checked
  | exit | bar | gwait | cmit | forfeit | balrd | mrd | mscl | repsync | rte | csrw | pcrd | logrd =>
    dsimp only [State.issuesFrom, exec, execExit, execBar, execGwait, execCmit, execForfeit, execBalrd, execMrd, execMscl, execRepsync, execRte, execCsrw,
      execPcrd, execLogrd]
    exact issuedFrom_each
  | sld | sst | mloop | wait | copy | allred | signal | mdrain | launchN | launchT | graphgo =>
    dsimp only [State.issuesFrom, exec, execSld, execSst, execMloop, execWait, execCopy, execAllred, execSignal, execMdrain, execLaunchN, execLaunchT,
      execGraphgo, matrixIssue, recordOp]
    exact issuedFrom_alone
  | vld | vst | vldc | vstc | red =>
    dsimp only [State.issuesFrom, exec, execVld, execVst, execVldc, execVstc, execRed, loadBody, storeLanes, storeBody]
    exact issuedFrom_lanes
  | tld | tst | atomt | redt =>
    dsimp only [State.issuesFrom, exec, execTld, execTst, execAtomt, execRedt]
    exact issuedFrom_team
  | atom =>
    dsimp only [State.issuesFrom, exec, execAtom]
    exact issuedFrom_atom
  | rsvrd =>
    dsimp only [State.issuesFrom, exec, execRsvrd]
    exact issuedFrom_afterCommits hcur hi issuedFrom_regs
  | csize =>
    dsimp only [State.issuesFrom, exec, execCsize]
    exact issuedFrom_afterCommits hcur hi issuedFrom_alone
  | srd d n =>
    dsimp only [State.issuesFrom, exec, execSrd]
    split
    · exact issuedFrom_closer
    · exact issuedFrom_regs
  | regang => rw [State.refusal_regang] at hr; exact Bool.noConfusion hr
  | chunkCommit | rollback | levelChange | regangTimeout | faultAnswer | waitWake | gwaitWake | channelWake | cwaitWake | mwaitWake | engineComplete |
    spillReplay | allredRound | kStep | drain | matrixCommandPerform | writeBack | anteRefill | rowCapture | rowUnpin | bmePoisonReplace | balloonRequest |
    balloonUrgencyRaise | balloonRequestExpiry | teamPlace | teamSwapOut | teamRunnable | quantumEnd | residencyFloor | teamRetire | notifyRegisterWrite |
    launchPacket | graphPacket | waitsigPacket | signalPacket | notifiedReread | kernelNode | copyNode | signalNode | waitNode | condNode | loopNode |
    loopIteration | contextCreate | queueCreate | contextReset | hostRead | hostWrite | hostSnoop | expanderLinkDown | expanderTimeout | linkFailure |
    groupEnd | healthThreshold | spareBringIn | junctionThrottle | thermalReset | powerOn | getIdentityCertificate | getAttestationReport | getHealth |
    setPowerLimit | writeImage | moduleReset | contextDestroy | promiseChange | quotaChange | leafEntryChange | expanderBringBack | collectiveGroupDefine |
    engineSectorAccess | corePowerGate | extensionEmulation | illegalInstruction => exact Bool.noConfusion hw

end

section
variable {s z : State} {i : Instr} {t k cause sub : Nat}

/-- A lone slice that R61 refuses an instruction takes the trap, and none is left to execute. -/
theorem State.admitted_refused (hr : s.refusal i t k = some (cause, sub)) :
    s.admitted i t [k] = (s.trapAt t k i { cause := cause, sub := sub, addr := 0, info := 0 }, []) := by
  have hsame : s.haltedSince s t = false := State.haltedSince_same rfl rfl
  simp [State.admitted, hr, hsame]

/-- An instruction that is refused in a lone idle slice: the slice enters its handler with the refusal's cause, from its chunk committed. -/
theorem issue_refused (hcur : z.cur = { team := t, ks := [k] }) (hk : (FMap.find? z.slices (sliceKey t k)).isSome = true) (hh : z.handles t k)
    (hr : z.refusal i t k = some (cause, sub)) (hi : (z.slice t k).idle) {x : Result} (hx : IssuedFrom i z x) :
    let v := z.modSlice t k (Slice.settled (z.ctx (z.team t).ctx))
    let b := v.framed t k { cause := cause, sub := sub, pc := (z.slice t k).regs.pc, cpc := (z.slice t k).regs.pc, addr := 0, word := instrWord i, info := 0 }
    ∃ u, x = .next u ∧ u.slice t k = (b.slice t k).entered (b.ctx (v.team t).ctx) (v.frameAddr t k) ∧ u.mem = b.mem ∧
      ((z.slice t k).regs.wins = [] → Leaves b u t k ((b.slice t k).entered (b.ctx (v.team t).ctx) (v.frameAddr t k))) := by
  obtain ⟨body, rfl, hbody⟩ := hx
  have hheld : (z.slice t k).heldAll = [] := by
    obtain ⟨hh, -, hp, -, hq, -⟩ := hi
    simp [Slice.heldAll, hh, hp, hq]
  refine issue_entered (v := z.modSlice t k (Slice.settled (z.ctx (z.team t).ctx))) hcur hheld rfl (by rw [State.modSlice, FMap.isSome_modify]; exact hk) ?_
  rw [State.admitted_refused hr]
  dsimp only [List.foldl_nil]
  rw [hbody, State.trapAt_idle hk hi hh]
  rfl

/-- What a refusal of R61 depends on is not changed by the clock that goes on for a reading of it. -/
theorem State.issuesFrom_rest (s : State) (i : Instr) : s.issuesFrom i = { s with cores := (s.issuesFrom i).cores, draws := (s.issuesFrom i).draws } := by
  unfold State.issuesFrom
  split
  · split
    · exact s.clockOn_rest
    · rfl
  · rfl

/-- An instruction with a word that R61 refuses in a lone idle slice. -/
theorem exec_refused (hw : (encode i).isSome = true) (ha : s.acts t [k]) (hh : s.handles t k) (hr : s.refusal i t k = some (cause, sub))
    (hi : (s.slice t k).idle) :
    let v := (s.issuesFrom i).modSlice t k (Slice.settled (s.ctx (s.team t).ctx))
    let b := v.framed t k { cause := cause, sub := sub, pc := (s.slice t k).regs.pc, cpc := (s.slice t k).regs.pc, addr := 0, word := instrWord i, info := 0 }
    ∃ u, exec i s = .next u ∧ u.slice t k = (b.slice t k).entered (b.ctx (v.team t).ctx) (v.frameAddr t k) ∧ u.mem = b.mem ∧
      ((s.slice t k).regs.wins = [] → Leaves b u t k ((b.slice t k).entered (b.ctx (v.team t).ctx) (v.frameAddr t k))) := by
  have hx := issuedFrom_exec hw ha.1 hi (by rw [hr]; rfl)
  have hrest := s.issuesFrom_rest i
  generalize s.issuesFrom i = z at hx hrest ⊢
  have hslice : z.slice t k = s.slice t k := by rw [hrest]; rfl
  have hctx : z.ctx (z.team t).ctx = s.ctx (s.team t).ctx := by rw [hrest]; rfl
  have hfrom := issue_refused (z := z) (by rw [hrest]; exact ha.1) (by rw [hrest]; exact (ha.2.2 k (List.mem_singleton_self k)).2)
    (by rw [hrest]; exact hh) (by rw [hrest]; exact hr) (by rw [hslice]; exact hi) hx
  rw [hslice, hctx] at hfrom
  exact hfrom

end

/-! ### What R61 refuses, form by form -/

section
variable {o : Operands} {p : LaunchRec} {la : Bool} {r : Regs} {n c : Nat}

/-- Every register and tile is allocated, and every group aligned (R32, R33, R252). -/
def Operands.fits (o : Operands) (p : LaunchRec) : Prop := o.allocated p = true ∧ o.aligned = true

/-- What is checked past step 2 and the early slot check: a register or group first. -/
theorem Operands.refuse_of_not_fits (hw : o.word = none) (he : o.early = none) (h : ¬ o.fits p) : o.refuse p la r = some (1, 3) := by
  unfold Operands.refuse
  simp only [hw, he]
  exact if_pos (by simpa [Operands.fits, -not_and, not_and_or] using h)

/-- Then the type, the slot or the read-only register. -/
theorem Operands.refuse_of_late (hw : o.word = none) (he : o.early = none) (h : o.fits p) (hl : o.late = some c) : o.refuse p la r = some (1, c) := by
  unfold Operands.refuse
  simp only [hw, he, h.1, h.2, hl]
  rfl

/-- And the lookahead check last. -/
theorem Operands.refuse_of_fits (hw : o.word = none) (he : o.early = none) (h : o.fits p) (hl : o.late = none) :
    o.refuse p la r = if la && r.wins.any (fun w => w.breach (o.reads r.mode) o.writes) then some (9, 0) else none := by
  unfold Operands.refuse
  simp only [hw, he, h.1, h.2, hl]
  rfl

theorem Operands.refuse_of_fits_ne (hw : o.word = none) (he : o.early = none) (h : o.fits p) (hl : o.late = none) : o.refuse p la r ≠ some (1, n) := by
  rw [Operands.refuse_of_fits hw he h hl]
  split <;> simp

theorem Operands.refuse_registers (hw : o.word = none) (he : o.early = none) (hl : o.late ≠ some 3) : o.refuse p la r = some (1, 3) ↔ ¬ o.fits p := by
  by_cases h : o.fits p
  · refine iff_of_false ?_ (not_not_intro h)
    cases hlate : o.late with
    | some c =>
      rw [Operands.refuse_of_late hw he h hlate]
      exact fun hc => hl (by rw [hlate]; cases hc; rfl)
    | none => exact Operands.refuse_of_fits_ne hw he h hlate
  · exact iff_of_true (Operands.refuse_of_not_fits hw he h) h

theorem Operands.refuse_late (hw : o.word = none) (he : o.early = none) (hn : n ≠ 3) : o.refuse p la r = some (1, n) ↔ o.fits p ∧ o.late = some n := by
  by_cases h : o.fits p
  · cases hlate : o.late with
    | some c =>
      rw [Operands.refuse_of_late hw he h hlate]
      simp [h]
    | none => exact iff_of_false (Operands.refuse_of_fits_ne hw he h hlate) (by simp)
  · rw [Operands.refuse_of_not_fits hw he h]
    exact iff_of_false (fun hc => hn (by cases hc; rfl)) (fun hf => h hf.1)

/-! #### The subcodes -/

/-- No check, or one that answers with a subcode of R61. -/
def Subcode (x : Option Nat) : Prop := ∀ c, x = some c → 2 ≤ c ∧ c ≤ 6

theorem subcode_none : Subcode none := fun _ h => nomatch h
theorem subcode_some (h : 2 ≤ n ∧ n ≤ 6) : Subcode (some n) := fun _ hc => by cases hc; exact h
theorem subcode_ite {q : Prop} [Decidable q] {x y : Option Nat} (hx : Subcode x) (hy : Subcode y) : Subcode (if q then x else y) := by
  split
  · exact hx
  · exact hy
theorem subcode_needType (b : Bool) : Subcode (needType b) := subcode_ite subcode_none (subcode_some (by decide))

/-- The operands' checks answer with the subcodes of R61 alone. -/
structure Operands.Coded (o : Operands) : Prop where
  word : Subcode o.word
  early : Subcode o.early
  late : Subcode o.late

theorem Operands.Coded.refuse (h : o.Coded) {x : Nat × Nat} (hx : o.refuse p la r = some x) : (x.1 = 1 ∧ 2 ≤ x.2 ∧ x.2 ≤ 6) ∨ (x.1 = 9 ∧ x.2 = 0) := by
  unfold Operands.refuse at hx
  split at hx
  next c hc => cases hx; exact .inl ⟨rfl, h.word _ hc⟩
  next c _ hc => cases hx; exact .inl ⟨rfl, h.early _ hc⟩
  next =>
    split at hx
    · cases hx; exact .inl ⟨rfl, by decide⟩
    · split at hx
      next c hc => cases hx; exact .inl ⟨rfl, h.late _ hc⟩
      next =>
        split at hx <;> cases hx
        exact .inr ⟨rfl, rfl⟩

/-- The checks of every instruction answer with the subcodes of R61. -/
theorem operandsOf_coded (i : Instr) (r : Regs) (slots : List (BitVec 64)) : (operandsOf i r slots).Coded := by
  cases i with
  | swr | csrw | mloop => exact ⟨subcode_none, subcode_none, subcode_ite subcode_none (subcode_some (by decide))⟩
  | mode | moder | ginit => exact ⟨subcode_none, subcode_none, subcode_ite (subcode_some (by decide)) subcode_none⟩
  | vqnt | vdqnt => exact ⟨subcode_none, subcode_none, subcode_ite (subcode_some (by decide)) (subcode_ite subcode_none (subcode_some (by decide)))⟩
  | copy => exact ⟨subcode_ite (subcode_some (by decide)) subcode_none, subcode_none, subcode_none⟩
  | vcvt => exact ⟨subcode_ite (subcode_some (by decide)) subcode_none, subcode_ite (subcode_some (by decide)) (subcode_ite (subcode_some (by decide)) subcode_none), subcode_none⟩
  | vfadd | vfsub | vfmul | vfma | vfmin | vfmax | vfabs | vfneg | vrcp | vrsq | vsqrt | vexp2 | vlog2 | vsin | vcos | vpack | vunpk
    | vclass | vscan | vtanh | verf | vsigm | vadd | vsub | vmul | vmulh | vmad | vmin | vmax | vand | vor | vxor | vshl | vshr
    | vabs | vneg | vnot | vaddi | vpopc | vclz | vbrev | vsel | vcmp | vfcmp | vred | atom | red | atomt | redt => exact ⟨subcode_none, subcode_none, subcode_needType _⟩
  | _ => exact ⟨subcode_none, subcode_none, subcode_none⟩

/-! #### The lookahead check -/

/-- A window is breached by a read of what its instruction writes, or by a write of what that reads and does not write (R40, R41). -/
theorem Window.breach_iff {w : Window} {reads writes : List Reg} : w.breach reads writes = true ↔
    (∃ x ∈ reads, x ∈ w.wrote.map (·.1)) ∨ ∃ x ∈ writes, x ∈ w.read.map (·.1) ∧ x ∉ w.wrote.map (·.1) := by
  simp only [Window.breach, Bool.or_eq_true, List.any_eq_true, List.contains_iff_mem, Bool.and_eq_true, Bool.not_eq_true', ← Bool.not_eq_true]

/-- The lookahead check refuses only where it is on and a window is breached. -/
theorem Operands.refuse_lookahead (h : o.refuse p la r = some (9, 0)) :
    la = true ∧ ∃ w ∈ r.wins, w.breach (o.reads r.mode) o.writes = true := by
  unfold Operands.refuse at h
  split at h
  · cases h
  · cases h
  · split at h
    · cases h
    · split at h
      · cases h
      · split at h
        next hb => simpa using hb
        · cases h

/-- Where it is on and a window is breached, it refuses what no earlier check does. -/
theorem Operands.refuse_of_breach (hla : la = true) (hb : ∃ w ∈ r.wins, w.breach (o.reads r.mode) o.writes = true) : o.refuse p la r ≠ none := by
  have hany : (la && r.wins.any fun w => w.breach (o.reads r.mode) o.writes) = true := by simpa [hla] using hb
  unfold Operands.refuse
  split
  · simp
  · simp
  · split
    · simp
    · split
      · simp
      · simp [hany]

end

/-! #### The registers of the forms -/

section
variable {p : LaunchRec} {dst src : List Nat} {t : Nat} {ok : Bool}

theorem opScalar_fits : (opScalar dst src).fits p ↔ (∀ n ∈ src, n < p.sregs) ∧ ∀ n ∈ dst, n < p.sregs := by
  simp [Operands.fits, Operands.allocated, opScalar]

theorem opVec_fits : (opVec ok dst src).fits p ↔ (∀ n ∈ src, n < p.vregs) ∧ ∀ n ∈ dst, n < p.vregs := by
  simp [Operands.fits, Operands.allocated, opVec]

theorem opTyped_fits_single (ht : typePair t = false) : (opTyped t ok dst src).fits p ↔ (∀ n ∈ src, n < p.vregs) ∧ ∀ n ∈ dst, n < p.vregs := by
  simp [Operands.fits, Operands.allocated, opTyped, typed, evens, ht]

theorem opTyped_fits_pair (ht : typePair t = true) : (opTyped t ok dst src).fits p ↔
    (∀ n ∈ src, n + 1 < p.vregs ∧ n % 2 = 0) ∧ ∀ n ∈ dst, n + 1 < p.vregs ∧ n % 2 = 0 := by
  simp [Operands.fits, Operands.allocated, opTyped, typed, evens, ht]
  exact ⟨fun ⟨⟨hs, hd⟩, hd2, hs2⟩ => ⟨fun n hn => ⟨(hs n hn).2, hs2 n hn⟩, fun n hn => ⟨(hd n hn).2, hd2 n hn⟩⟩,
    fun ⟨hs, hd⟩ => ⟨⟨fun n hn => ⟨Nat.lt_of_succ_lt (hs n hn).1, (hs n hn).1⟩, fun n hn => ⟨Nat.lt_of_succ_lt (hd n hn).1, (hd n hn).1⟩⟩, fun n hn => (hd n hn).2, fun n hn => (hs n hn).2⟩⟩

theorem needType_eq {n : Nat} : needType ok = some n ↔ ok = false ∧ n = 4 := by
  cases ok <;> simp [needType, eq_comm]

end

section
variable {s : State} {t k : Nat} {i : Instr}

theorem State.refusal_eq (s : State) (i : Instr) (t k : Nat) : s.refusal i t k =
    (operandsOf i (s.slice t k).regs (s.params t).slots).refuse (s.params t) (s.slice t k).lachk (s.slice t k).regs := rfl

theorem State.refusal_registers (hw : (operandsOf i (s.slice t k).regs (s.params t).slots).word = none)
    (he : (operandsOf i (s.slice t k).regs (s.params t).slots).early = none) (hl : (operandsOf i (s.slice t k).regs (s.params t).slots).late ≠ some 3) :
    s.refusal i t k = some (1, 3) ↔ ¬ (operandsOf i (s.slice t k).regs (s.params t).slots).fits (s.params t) := Operands.refuse_registers hw he hl

theorem State.refusal_late {n : Nat} (hw : (operandsOf i (s.slice t k).regs (s.params t).slots).word = none)
    (he : (operandsOf i (s.slice t k).regs (s.params t).slots).early = none) (hn : n ≠ 3) : s.refusal i t k = some (1, n) ↔
      (operandsOf i (s.slice t k).regs (s.params t).slots).fits (s.params t) ∧ (operandsOf i (s.slice t k).regs (s.params t).slots).late = some n :=
  Operands.refuse_late hw he hn

/-- The three-register scalar forms. -/
def scalarForms (d a b : Nat) : List Instr :=
  [.sadd d a b, .ssub d a b, .smul d a b, .smulh d a b, .smulhN d a b, .sdiv d a b, .sdivN d a b, .srem d a b, .sremN d a b, .sand d a b,
    .sor d a b, .sxor d a b, .sshl d a b, .sshr d a b, .ssra d a b, .smin d a b, .sminN d a b, .smax d a b, .smaxN d a b, .sslt d a b, .ssltn d a b, .ssel d a b]

theorem scalarForms_operands {d a b : Nat} (hi : i ∈ scalarForms d a b) (r : Regs) (slots : List (BitVec 64)) :
    operandsOf i r slots = opScalar [d] [a, b] ∨ operandsOf i r slots = opScalar [d] [d, a, b] := by
  revert i
  unfold scalarForms
  simp only [List.forall_mem_cons]
  refine ⟨.inl rfl, .inl rfl, .inl rfl, .inl rfl, .inl rfl, .inl rfl, .inl rfl, .inl rfl, .inl rfl, .inl rfl, .inl rfl, .inl rfl, .inl rfl, .inl rfl, .inl rfl, .inl rfl,
    .inl rfl, .inl rfl, .inl rfl, .inl rfl, .inl rfl, .inr rfl, nofun⟩

/-- The three-register integer forms on a type. -/
def typedForms (d a b : Nat) : List Instr :=
  [.vadd d a b, .vsub d a b, .vmul d a b, .vmulh d a b, .vmad d a b, .vmin d a b, .vmax d a b, .vshl d a b, .vshr d a b]

theorem typedForms_operands {d a b : Nat} (hi : i ∈ typedForms d a b) (r : Regs) (slots : List (BitVec 64)) :
    ∃ src, (src = [a, b] ∨ src = [d, a, b]) ∧ operandsOf i r slots = opTyped (modeType r.mode) (typeInt (modeType r.mode)) [d] src := by
  revert i
  unfold typedForms
  simp only [List.forall_mem_cons]
  exact ⟨⟨_, .inl rfl, rfl⟩, ⟨_, .inl rfl, rfl⟩, ⟨_, .inl rfl, rfl⟩, ⟨_, .inl rfl, rfl⟩, ⟨_, .inr rfl, rfl⟩, ⟨_, .inl rfl, rfl⟩, ⟨_, .inl rfl, rfl⟩, ⟨_, .inl rfl, rfl⟩,
    ⟨_, .inl rfl, rfl⟩, nofun⟩

/-- The three-register float forms. -/
def floatForms (d a b : Nat) : List Instr := [.vfadd d a b, .vfsub d a b, .vfmul d a b, .vfma d a b, .vfmin d a b, .vfmax d a b]

theorem floatForms_operands {d a b : Nat} (hi : i ∈ floatForms d a b) (r : Regs) (slots : List (BitVec 64)) :
    ∃ src, (src = [a, b] ∨ src = [d, a, b]) ∧ operandsOf i r slots = opVec (typeFloat (modeType r.mode)) [d] src := by
  revert i
  unfold floatForms
  simp only [List.forall_mem_cons]
  exact ⟨⟨_, .inl rfl, rfl⟩, ⟨_, .inl rfl, rfl⟩, ⟨_, .inl rfl, rfl⟩, ⟨_, .inr rfl, rfl⟩, ⟨_, .inl rfl, rfl⟩, ⟨_, .inl rfl, rfl⟩, nofun⟩

/-- The three-register scalar forms are refused for their registers alone, where no promise is open. -/
theorem refusal_scalarForms {d a b : Nat} (hi : i ∈ scalarForms d a b) :
    (s.refusal i t k = some (1, 3) ↔ (s.params t).sregs ≤ d ∨ (s.params t).sregs ≤ a ∨ (s.params t).sregs ≤ b) ∧
      ((s.slice t k).regs.wins = [] → s.refusal i t k = none ∨ s.refusal i t k = some (1, 3)) := by
  have hops := scalarForms_operands hi (s.slice t k).regs (s.params t).slots
  rw [State.refusal_eq]
  generalize operandsOf i (s.slice t k).regs (s.params t).slots = o at hops
  have ho : o.word = none ∧ o.early = none ∧ o.late = none ∧ (o.fits (s.params t) ↔ ¬ ((s.params t).sregs ≤ d ∨ (s.params t).sregs ≤ a ∨ (s.params t).sregs ≤ b)) := by
    rcases hops with rfl | rfl
    · exact ⟨rfl, rfl, rfl, opScalar_fits.trans (by simp; omega)⟩
    · exact ⟨rfl, rfl, rfl, opScalar_fits.trans (by simp; omega)⟩
  obtain ⟨hw, he, hl, hf⟩ := ho
  refine ⟨(Operands.refuse_registers hw he (by rw [hl]; exact nofun)).trans (by rw [hf]; exact not_not), fun hwins => ?_⟩
  by_cases h : o.fits (s.params t)
  · exact .inl ((Operands.refuse_of_fits hw he h hl).trans (if_neg (by rw [hwins]; simp)))
  · exact .inr (Operands.refuse_of_not_fits hw he h)

/-- A form that needs a type: its registers first, then subcode 4 for a type that it does not accept. -/
theorem refusal_of_type {o : Operands} {ok : Bool} {out : Prop} (ho : operandsOf i (s.slice t k).regs (s.params t).slots = o) (hw : o.word = none) (he : o.early = none)
    (hl : o.late = needType ok) (hf : o.fits (s.params t) ↔ ¬ out) :
    (s.refusal i t k = some (1, 3) ↔ out) ∧ (s.refusal i t k = some (1, 4) ↔ ¬ out ∧ ok = false) := by
  rw [State.refusal_eq, ho]
  refine ⟨(Operands.refuse_registers hw he ?_).trans (by rw [hf]; exact not_not), (Operands.refuse_late hw he (by decide)).trans ?_⟩
  · rw [hl, ne_eq, needType_eq]
    simp
  · rw [hf, hl, needType_eq]
    simp

theorem refusal_typedForms {d a b : Nat} (hi : i ∈ typedForms d a b) :
    let wide := modeType (s.slice t k).regs.mode = 3 ∨ modeType (s.slice t k).regs.mode = 7
    let vregs := (s.params t).vregs
    let out := if wide then vregs ≤ d + 1 ∨ vregs ≤ a + 1 ∨ vregs ≤ b + 1 ∨ d % 2 = 1 ∨ a % 2 = 1 ∨ b % 2 = 1 else vregs ≤ d ∨ vregs ≤ a ∨ vregs ≤ b
    (s.refusal i t k = some (1, 3) ↔ out) ∧ (s.refusal i t k = some (1, 4) ↔ ¬ out ∧ 8 ≤ modeType (s.slice t k).regs.mode) := by
  intro wide vregs out
  obtain ⟨src, hsrc, hops⟩ := typedForms_operands hi (s.slice t k).regs (s.params t).slots
  have hf : (opTyped (modeType (s.slice t k).regs.mode) (typeInt (modeType (s.slice t k).regs.mode)) [d] src).fits (s.params t) ↔ ¬ out := by
    by_cases hwide : wide
    · rw [opTyped_fits_pair (by simpa [typePair] using hwide), show out = _ from if_pos hwide]
      rcases hsrc with rfl | rfl
      · simp; omega
      · simp; omega
    · rw [opTyped_fits_single (by simpa [wide, typePair] using hwide), show out = _ from if_neg hwide]
      rcases hsrc with rfl | rfl
      · simp; omega
      · simp; omega
  simpa [typeInt] using refusal_of_type hops rfl rfl rfl hf

theorem refusal_floatForms {d a b : Nat} (hi : i ∈ floatForms d a b) :
    let ty := modeType (s.slice t k).regs.mode
    let out := (s.params t).vregs ≤ d ∨ (s.params t).vregs ≤ a ∨ (s.params t).vregs ≤ b
    (s.refusal i t k = some (1, 3) ↔ out) ∧ (s.refusal i t k = some (1, 4) ↔ ¬ out ∧ ty ≠ 8 ∧ ty ≠ 9 ∧ ty ≠ 10) := by
  intro ty out
  obtain ⟨src, hsrc, hops⟩ := floatForms_operands hi (s.slice t k).regs (s.params t).slots
  have hf : (opVec (typeFloat ty) [d] src).fits (s.params t) ↔ ¬ out := by
    rw [opVec_fits]
    rcases hsrc with rfl | rfl
    · simp [out]; omega
    · simp [out]; omega
  simpa [typeFloat, and_assoc] using refusal_of_type hops rfl rfl rfl hf

/-- A double-width VLD needs an even pair. -/
theorem refusal_vld {v x b l : Nat} : s.refusal (.vld v x b true l) t k = some (1, 3) ↔
    (s.params t).sregs ≤ b ∨ (s.params t).vregs ≤ x ∨ (s.params t).vregs ≤ v + 1 ∨ v % 2 = 1 := by
  refine Iff.trans (State.refusal_registers rfl rfl nofun) ?_
  simp [Operands.fits, Operands.allocated, operandsOf, dblGroup, dblAligned]
  omega

theorem refusal_swr {a n : Nat} (ha : a < (s.params t).sregs) : s.refusal (.swr a n) t k = some (1, 6) ↔ n ≠ 0x010 := by
  refine Iff.trans (State.refusal_late rfl rfl (by decide)) ?_
  simp [Operands.fits, Operands.allocated, operandsOf, ha]

theorem refusal_csrw {a n : Nat} (ha : a < (s.params t).sregs) : s.refusal (.csrw a n) t k = some (1, 6) ↔ n ≠ 0x010 ∧ n ≠ 0x012 ∧ n ≠ 0x013 := by
  refine Iff.trans (State.refusal_late rfl rfl (by decide)) ?_
  simp [Operands.fits, Operands.allocated, operandsOf, ha]

/-- A MODE with a reserved bit, 13 to 15. -/
theorem modeReserved_iff (m : BitVec 16) : modeReserved m = true ↔ 2 ^ 13 ≤ m.toNat := by
  unfold modeReserved
  rw [bne_iff_ne, ne_eq, ← BitVec.toNat_inj, BitVec.extractLsb'_toNat, Nat.shiftRight_eq_div_pow]
  have := m.isLt
  simp
  omega

theorem refusal_mode (m : BitVec 16) : s.refusal (.mode m) t k = some (1, 4) ↔ 2 ^ 13 ≤ m.toNat := by
  rw [← modeReserved_iff]
  refine Iff.trans (State.refusal_late rfl rfl (by decide)) ?_
  simp [Operands.fits, Operands.allocated, operandsOf]

theorem refusal_ginit (a b : Nat) :
    let n := ((s.slice t k).regs.getS b).toNat
    (s.refusal (.ginit a b) t k = some (1, 3) ↔ (s.params t).sregs ≤ a ∨ (s.params t).sregs ≤ b) ∧
      (s.refusal (.ginit a b) t k = some (1, 2) ↔ a < (s.params t).sregs ∧ b < (s.params t).sregs ∧ (n % 65536 = 0 ∨ 65536 ≤ n)) := by
  refine ⟨Iff.trans (State.refusal_registers rfl rfl ?_) ?_, Iff.trans (State.refusal_late rfl rfl (by decide)) ?_⟩
  · simp [operandsOf]
  · simp [Operands.fits, Operands.allocated, operandsOf]
    omega
  · simp [Operands.fits, Operands.allocated, operandsOf]
    omega

/-- VCVT's slot comes before its registers. -/
theorem refusal_vcvt {d a n : Nat} {u : BitVec 4} {l : Nat} (hu : u = 15 ∨ modeType (s.slice t k).regs.mode = 15) (hs : slotAccepted ((s.params t).slots.getD n 0) = false) :
    s.refusal (.vcvt d a n u l) t k = some (1, 5) := by
  have huses : (u.toNat == 15 || modeType (s.slice t k).regs.mode == 15) = true := by
    rcases hu with rfl | h
    · rfl
    · simp [h]
  have hword : (operandsOf (.vcvt d a n u l) (s.slice t k).regs (s.params t).slots).word = none := if_neg (by simp [huses])
  have hearly : (operandsOf (.vcvt d a n u l) (s.slice t k).regs (s.params t).slots).early = some 5 := if_pos (by rw [huses, hs]; rfl)
  rw [State.refusal_eq]
  unfold Operands.refuse
  simp only [hword, hearly]

theorem refusal_mzero (tile : Nat) : s.refusal (.mzero tile) t k = some (1, 3) ↔ (s.params t).acc ≤ tile := by
  refine Iff.trans (State.refusal_registers rfl rfl nofun) ?_
  simp [Operands.fits, Operands.allocated, operandsOf]

/-- Whether an MLOOP reads five or all eight registers of its block, all eight must be allocated. -/
theorem mloop_fits {d fa fb tile : Nat} {ka : Bool} {l : Nat} {r : Regs} {p : LaunchRec} :
    (operandsOf (.mloop d fa fb tile ka l) r p.slots).fits p ↔ ¬ (p.acc ≤ tile ∨ 56 < d ∨ p.sregs ≤ d + 7) := by
  have hreads : loopReads d r = group 8 d ∨ loopReads d r = group 5 d := by
    unfold loopReads
    split
    · exact .inl rfl
    · exact .inr rfl
  rcases hreads with h | h
  · simp [Operands.fits, Operands.allocated, operandsOf, h, group, List.range_succ]
    omega
  · simp [Operands.fits, Operands.allocated, operandsOf, h, group, List.range_succ]
    omega

theorem refusal_mloop {d fa fb tile : Nat} {ka : Bool} {l : Nat} :
    let out := (s.params t).acc ≤ tile ∨ 56 < d ∨ (s.params t).sregs ≤ d + 7
    (s.refusal (.mloop d fa fb tile ka l) t k = some (1, 3) ↔ out) ∧
      (s.refusal (.mloop d fa fb tile ka l) t k = some (1, 5) ↔ ¬ out ∧ matrixSlots ((s.params t).slots.getD fa 0) ((s.params t).slots.getD fb 0) ka = false) := by
  refine ⟨Iff.trans (State.refusal_registers rfl rfl ?_) ?_, Iff.trans (State.refusal_late rfl rfl (by decide)) ?_⟩
  · simp [operandsOf]
  · rw [mloop_fits]
    exact not_not
  · rw [mloop_fits]
    simp [operandsOf]

/-- The lookahead check, of any instruction. -/
theorem refusal_lookahead (i : Instr) :
    let breach := ∃ w ∈ (s.slice t k).regs.wins, (∃ x ∈ s.reads i t k, x ∈ w.wrote.map (·.1)) ∨ ∃ x ∈ s.writes i t k, x ∈ w.read.map (·.1) ∧ x ∉ w.wrote.map (·.1)
    (s.refusal i t k = some (9, 0) → (s.slice t k).lachk = true ∧ breach) ∧ ((s.slice t k).lachk = true → breach → s.refusal i t k ≠ none) ∧
      (¬ breach → s.refusal i t k ≠ some (9, 0)) := by
  intro breach
  have hbreach : breach ↔ ∃ w ∈ (s.slice t k).regs.wins, w.breach (s.reads i t k) (s.writes i t k) = true :=
    exists_congr fun w => and_congr_right fun _ => Window.breach_iff.symm
  exact ⟨fun h => (Operands.refuse_lookahead h).imp_right hbreach.mpr, fun hla hb => Operands.refuse_of_breach hla (hbreach.mp hb),
    fun hb h => hb (hbreach.mpr (Operands.refuse_lookahead h).2)⟩

end

/-- Settles O42: a refused instruction is issued with no slice left to its body, so that the trap is all of it; what is refused is read off the operands of each form. -/
theorem refusedOperands : Obligations.RefusedOperands := by
  intro s t k r p slot bad
  refine ⟨fun i cause sub hh ha hw hr hi => ?_, fun i cause sub hr => (operandsOf_coded ..).refuse hr, fun d a b i hi => refusal_scalarForms hi, fun d a b i hi => refusal_typedForms hi,
    fun d a b i hi => refusal_floatForms hi, fun v x b l => refusal_vld, fun a n ha => ⟨refusal_swr ha, refusal_csrw ha⟩, refusal_mode, refusal_ginit,
    fun d a n u l hu hs => refusal_vcvt hu hs, refusal_mzero, fun d fa fb tile ka l => refusal_mloop, refusal_lookahead⟩
  obtain ⟨u, hu, hslice, hmem, hleaves⟩ := exec_refused hw ha hh hr hi
  exact ⟨fun hwins => ⟨u, hu, hleaves hwins⟩, u, hu, hslice, hmem⟩

end Sys2Proof.Machine
end

section
/-! SUPPORT. Stores, reductions and team memory -/

namespace Sys2Proof.Machine

/-! ### Team-memory loads, stores, atomics and reductions (R157, R231) -/

section
variable {s : State} {t k : Nat} {i : Instr} {n : Nat} {addr : Regs → Nat → W64}

/-- The lines of team memory that a slice's lanes name. -/
def State.teamLines (s : State) (t k : Nat) (addr : Regs → Nat → W64) : List LineId :=
  ((s.laneAccs t [k] addr).map fun y => LineId.team t (y.va.toNat / 128)).dedup

/-- Every lane's access is aligned and inside the team's memory. -/
def State.insideTeam (s : State) (t k n : Nat) (addr : Regs → Nat → W64) : Prop :=
  ∀ y ∈ s.laneAccs t [k] addr, y.va.toNat % n = 0 ∧ y.va.toNat + n ≤ (s.params t).tmem

theorem Slice.hold_hold (sl : Slice) (es : List Held) (wl rl : List LineId) : (sl.hold es [] []).hold [] wl rl = sl.hold es wl rl := by
  simp [Slice.hold, dedup_append_dedup]

/-- A team-memory instruction whose action makes `X` of its slice: the effects `es` held, and the registers those of `X`. -/
theorem teamBody_holds {wr rd : Bool} {act : State → Nat → Nat → List Acc → State} {es : List Held} {X : Slice}
    (he : exec i s = issue i (teamBody i n addr wr rd act) s) (h : s.insideTeam t k n addr)
    (ha : (FMap.find? s.slices (sliceKey t k)).isSome = true → Became s (act s t k (s.laneAccs t [k] addr)) t k X)
    (hX : ∀ wl rl, X.hold [] wl rl = ((s.slice t k).hold es wl rl).withRegs X.regs) :
    s.holds t k i es (if wr then s.teamLines t k addr else []) (if rd then s.teamLines t k addr else []) fun _ => X.regs.adv := by
  intro ho hf
  rw [he]
  have hlevel : X.level = (s.slice t k).level := by have h := congrArg Slice.level (hX [] []); exact h
  obtain ⟨v, hb, hv⟩ := teamBody_of_inside (i := i) (n := n) (addr := addr) (wr := wr) (rd := rd) (act := act) ho h hf (ha (solo_some ho)) hlevel
  refine issue_holds ho hb (hv.congr ?_)
  have hX' := congrArg (fun z => Slice.withRegs z X.regs.adv) (hX (if wr then s.teamLines t k addr else []) (if rd then s.teamLines t k addr else []))
  exact hX'

theorem Became.refl_regs (hk : (FMap.find? s.slices (sliceKey t k)).isSome = true) : Became s s t k ((s.slice t k).withRegs (s.slice t k).regs) := Became.refl hk

/-- A slice's registers written for one lane's access after another. -/
def State.putEach (v : State) (t k : Nat) (put : Regs → Acc → Regs) (xs : List Acc) : State :=
  xs.foldl (fun v a => v.modSlice t k fun sl => { sl with regs := put sl.regs a }) v

theorem State.putEach_became {put : Regs → Acc → Regs} (xs : List Acc) {v : State} {r : Regs} (h : Became s v t k ((s.slice t k).withRegs r)) :
    Became s (v.putEach t k put xs) t k ((s.slice t k).withRegs (xs.foldl put r)) := by
  induction xs generalizing v r with
  | nil => exact h
  | cons x xs ih => exact ih (h.modSlice fun sl => { sl with regs := put sl.regs x })

/-- TLD's load of a lane. -/
def tldPut (s : State) (t k v : Nat) (dbl : Bool) (r : Regs) (y : Acc) : Regs := putLane v dbl r y.l (s.teamLoad t k y.va.toNat (dblBytes dbl))

theorem tld_holds {v x b l : Nat} {dbl : Bool} (h : s.insideTeam t k (dblBytes dbl) (laneAddr b x)) :
    s.holds t k (.tld v x b dbl l) [] [] (s.teamLines t k (laneAddr b x)) (fun r =>
      ((s.laneAccs t [k] (laneAddr b x)).foldl (fun q y => putLane v dbl q y.l (s.teamLoad t k y.va.toNat (dblBytes dbl))) r).adv) := by
  have he : exec (.tld v x b dbl l) s = execTld v x b dbl l s := rfl
  unfold execTld at he
  exact teamBody_holds (wr := false) (rd := true) (act := fun w t k xs => w.putEach t k (tldPut w t k v dbl) xs) (es := []) (he.trans (by rfl)) h
    (fun hk => State.putEach_became (put := tldPut s t k v dbl) _ (Became.refl_regs hk)) fun _ _ => rfl

/-- A team-memory instruction that holds one effect where a lane is active. -/
theorem Became.hold_if {xs : List Acc} {e : Regs → Held} (hk : (FMap.find? s.slices (sliceKey t k)).isSome = true) :
    Became s (if xs.isEmpty then s else s.modSlice t k fun sl => sl.hold [e sl.regs] [] []) t k
      (if xs.isEmpty then s.slice t k else (s.slice t k).hold [e (s.slice t k).regs] [] []) := by
  cases xs.isEmpty
  · exact (Became.refl hk).modSlice fun sl => sl.hold [e sl.regs] [] []
  · exact Became.refl hk

theorem teamHold_holds {wr rd : Bool} {e : List Acc → Regs → Held}
    (he : exec i s = issue i (teamBody i n addr wr rd fun w tm k xs => if xs.isEmpty then w else w.modSlice tm k fun sl => sl.hold [e xs sl.regs] [] []) s)
    (h : s.insideTeam t k n addr) :
    s.holds t k i (if (s.laneAccs t [k] addr).isEmpty then [] else [e (s.laneAccs t [k] addr) (s.slice t k).regs]) (if wr then s.teamLines t k addr else [])
      (if rd then s.teamLines t k addr else []) Regs.adv := by
  have hholds := teamBody_holds he h (Became.hold_if (e := e (s.laneAccs t [k] addr))) (es := if (s.laneAccs t [k] addr).isEmpty then [] else
    [e (s.laneAccs t [k] addr) (s.slice t k).regs]) fun wl rl => by
      cases (s.laneAccs t [k] addr).isEmpty
      · exact Slice.hold_hold ..
      · rfl
  cases hempty : (s.laneAccs t [k] addr).isEmpty
  · rw [hempty] at hholds; exact hholds
  · rw [hempty] at hholds; exact hholds

/-- What TST holds of its lanes, and REDT. -/
def tstHeld (v : Nat) (dbl : Bool) (xs : List Acc) (r : Regs) : Held :=
  .tstore (xs.flatMap fun y => byteRun y.va.toNat (leBytes (dblBytes dbl) (getLane v dbl r y.l)))
def redtHeld (op : AtomOp) (v : Nat) (dbl : Bool) (xs : List Acc) (r : Regs) : Held :=
  .redt op dbl r.mode (xs.map fun y => { va := y.va.toNat, npa := y.va.toNat, rep := false, val := BitVec.ofNat 64 (getLane v dbl r y.l) })

theorem tst_holds {v x b l : Nat} {dbl : Bool} (h : s.insideTeam t k (dblBytes dbl) (laneAddr b x)) :
    s.holds t k (.tst v x b dbl l) (if (s.laneAccs t [k] (laneAddr b x)).isEmpty then [] else
      [.tstore ((s.laneAccs t [k] (laneAddr b x)).flatMap fun y => byteRun y.va.toNat (leBytes (dblBytes dbl) (getLane v dbl (s.slice t k).regs y.l)))])
      (s.teamLines t k (laneAddr b x)) [] Regs.adv := by
  have he : exec (.tst v x b dbl l) s = execTst v x b dbl l s := rfl
  unfold execTst at he
  exact teamHold_holds (wr := true) (rd := false) (e := tstHeld v dbl) (he.trans (by rfl)) h

theorem redt_holds {v x b : Nat} {dbl : Bool} {op : AtomOp} (h : s.insideTeam t k (dblBytes dbl) (laneAddr b x)) :
    s.holds t k (.redt op v x b dbl) (if (s.laneAccs t [k] (laneAddr b x)).isEmpty then [] else
      [.redt op dbl (s.slice t k).regs.mode
        ((s.laneAccs t [k] (laneAddr b x)).map fun y => { va := y.va.toNat, npa := y.va.toNat, rep := false, val := BitVec.ofNat 64 (getLane v dbl (s.slice t k).regs y.l) })])
      (s.teamLines t k (laneAddr b x)) [] Regs.adv := by
  have he : exec (.redt op v x b dbl) s = execRedt op v x b dbl s := rfl
  unfold execRedt at he
  exact teamHold_holds (wr := true) (rd := false) (e := redtHeld op v dbl) (he.trans (by rfl)) h

/-- ATOMT of one lane: the old word to the register, the new one held. -/
theorem atomt_holds {v x b : Nat} {dbl : Bool} {op : AtomOp} {y : Acc} (h : s.insideTeam t k (dblBytes dbl) (laneAddr b x))
    (hy : s.laneAccs t [k] (laneAddr b x) = [y]) :
    let n := dblBytes dbl
    let regs := (s.slice t k).regs
    let old := leNat (((s.team t).withHeld (s.slice t k).heldAll).readBytes y.va.toNat n)
    let m := atomApply op (8 * n) regs.mode old (getLane v dbl regs y.l) (if op == .cas then casValue v dbl regs y.l else 0)
    s.holds t k (.atomt op v x b dbl) [.tstore (byteRun y.va.toNat (leBytes n m.1))] (s.teamLines t k (laneAddr b x)) (s.teamLines t k (laneAddr b x))
      fun r => ((putLane v dbl r y.l old).raise m.2).adv := by
  intro n regs old m
  have he : exec (.atomt op v x b dbl) s = execAtomt op v x b dbl s := rfl
  unfold execAtomt at he
  let X : Slice := ((s.slice t k).hold [.tstore (byteRun y.va.toNat (leBytes n m.1))] [] []).withRegs ((putLane v dbl regs y.l old).raise m.2)
  refine teamBody_holds (wr := true) (rd := true) (es := [.tstore (byteRun y.va.toNat (leBytes n m.1))]) (X := X) he h (fun hk => ?_) fun wl rl => ?_
  · rw [hy]
    exact (Became.refl hk).modSlice fun sl =>
      let h := sl.hold [.tstore (byteRun y.va.toNat (leBytes n m.1))] [] []
      { h with regs := (putLane v dbl h.regs y.l old).raise m.2 }
  · exact congrArg (fun z => Slice.withRegs z X.regs) (Slice.hold_hold ..)

/-- The commit of bytes held for team memory. -/
theorem tstore_commits (pc : W64) (bs : List (Nat × Byte)) : s.commits t k pc (.tstore bs)
    ((s.modTeam t fun z => { z with tmem := bs.foldl (fun m e => FMap.set 0 m e.1 e.2) z.tmem }).invalidate ((bs.map fun e => LineId.team t (e.1 / 128)).dedup)
      (some (sliceKey t k))) 0 := by
  have hfold : ∀ z : Team, bs.foldl (fun y b => { y with tmem := FMap.set 0 y.tmem b.1 b.2 }) z = { z with tmem := bs.foldl (fun m e => FMap.set 0 m e.1 e.2) z.tmem } := by
    intro z
    induction bs generalizing z with
    | nil => rfl
    | cons b bs ih => exact ih _
  refine State.commits_local rfl fun num => ?_
  unfold State.heldEffect
  simp only [hfold]

/-- A team replaced by what a function makes of it. -/
theorem State.modTeam_const (s : State) (t : Nat) (f : Team → Team) : s.modTeam t (fun _ => f (s.team t)) = s.modTeam t f := by
  unfold State.modTeam
  rw [FMap.modify_congr fun v hv => ?_]
  rw [State.team, FMap.get_of_find? hv]

/-- The commit of a reduction of one word of team memory. -/
theorem redt_commits (pc : W64) (op : AtomOp) (dbl : Bool) (m : BitVec 16) (y : RedLane) :
    let n := dblBytes dbl
    let r := atomApply op (8 * n) m (leNat ((s.team t).readBytes y.npa n)) (y.val.toNat % 2 ^ (8 * n)) 0
    s.commits t k pc (.redt op dbl m [y])
      ((s.modTeam t fun z => z.putBytes y.npa (leBytes n r.1)).invalidate [.team t (y.npa / 128)] (some (sliceKey t k))) r.2 := by
  intro n r
  refine State.commits_local rfl fun num => ?_
  unfold State.heldEffect
  have hlane : redtLane op dbl m (s.team t, 0) y = ((s.team t).putBytes y.npa (leBytes n r.1), 0 ||| r.2) := rfl
  simp only [List.foldl_cons, List.foldl_nil, hlane, BitVec.zero_or, List.map_cons, List.map_nil]
  rw [State.modTeam_const s t fun z => z.putBytes y.npa (leBytes n r.1)]
  exact Prod.ext rfl (BitVec.zero_or.trans BitVec.zero_or)

end

/-- Settles O23. -/
theorem teamMemoryResults : Obligations.TeamMemoryResults := by
  intro s t k v x b l dbl op n xs lines regs
  exact ⟨fun h => ⟨tld_holds h, tst_holds h, redt_holds h, fun y hy => atomt_holds h hy⟩, tstore_commits, fun pc m y => redt_commits pc op dbl m y⟩

/-! ### What the lanes of a store or a reduction hold (R143, R199, R228) -/

/-- A list in ascending order of a key is its parts by that key, in ascending order. -/
theorem flatMap_filter_of_ascending {α : Type} (f : α → Nat) (n : Nat) (xs : List α) (hp : xs.Pairwise fun a b => f a ≤ f b) (hn : ∀ x ∈ xs, f x < n) :
    ((List.range n).flatMap fun l => xs.filter fun x => f x == l) = xs := by
  induction xs with
  | nil => simp
  | cons x xs ih =>
    obtain ⟨hx, hp⟩ := List.pairwise_cons.mp hp
    have ih := ih hp fun y hy => hn y (List.mem_cons_of_mem _ hy)
    have hlt := hn x (List.mem_cons_self ..)
    have hsplit : List.range n = List.range' 0 (f x) ++ f x :: List.range' (f x + 1) (n - (f x + 1)) := by
      have h := List.range'_append (s := 0) (m := f x) (n := n - (f x + 1) + 1) (step := 1)
      rw [Nat.one_mul, Nat.zero_add, List.range'_succ] at h
      rw [h, List.range_eq_range']
      congr 1
      omega
    have hlow : ∀ l ∈ List.range' 0 (f x), xs.filter (fun y => f y == l) = [] := fun l hl => List.filter_eq_nil_iff.mpr fun y hy => by
      have := hx y hy
      have := (List.mem_range'_1.mp hl).2
      simp; omega
    have hhigh : ∀ l ∈ List.range' (f x + 1) (n - (f x + 1)), ((x :: xs).filter fun y => f y == l) = xs.filter fun y => f y == l := fun l hl => by
      have := (List.mem_range'_1.mp hl).1
      rw [List.filter_cons, if_neg (by simp; omega)]
    have hlow' : ∀ l ∈ List.range' 0 (f x), ((x :: xs).filter fun y => f y == l) = [] := fun l hl => by
      have := (List.mem_range'_1.mp hl).2
      rw [List.filter_cons, if_neg (by simp; omega), hlow l hl]
    rw [hsplit] at ih ⊢
    rw [List.flatMap_append, List.flatMap_cons, List.flatMap_eq_nil_iff.mpr hlow] at ih
    rw [List.flatMap_append, List.flatMap_cons, List.flatMap_eq_nil_iff.mpr hlow', List.flatMap_congr hhigh, List.filter_cons, if_pos (by simp)]
    simpa using ih

/-- Accesses in ascending order of their lanes. -/
def LaneOrder (oks : List (Acc × Leaf × Nat)) : Prop := oks.Pairwise (fun a b => a.1.l ≤ b.1.l) ∧ ∀ x ∈ oks, x.1.l < 4

section
variable {oks : List (Acc × Leaf × Nat)} {n : Nat} {val : Regs → Nat → Nat} {r : Regs} {v : Nat} {dbl nc : Bool} {red : List RedLane → List Nat → Held}

theorem storeRun_nil_iff (rep : Bool) (va npa : Nat) (bs : List Byte) : storeRun rep va npa bs = [] ↔ bs = [] := by
  cases bs <;> simp [storeRun]

/-- Buffers in the order of their lanes, one for each access, by lane are what they were. -/
theorem buffers_by_lane {buf : Acc × Leaf × Nat → Buffered} (hl : LaneOrder oks) (hb : ∀ x, (buf x).lane = x.1.l) :
    ((List.range 4).flatMap fun l => (oks.map buf).filter fun b => b.lane == l) = oks.map buf :=
  flatMap_filter_of_ascending Buffered.lane 4 _ (List.pairwise_map.mpr (hl.1.imp fun h => by rw [hb, hb]; exact h))
    fun b hbm => by obtain ⟨x, hx, rfl⟩ := List.mem_map.mp hbm; rw [hb]; exact hl.2 x hx

/-- What the buffers of a store hold, on pages that are all NC, or all not. -/
theorem bufferedHeld_store (hl : LaneOrder oks) (hnc : ∀ x ∈ oks, (x.2.1.cc == .nc) = nc) :
    bufferedHeld (oks.map fun x => storeBuf n val r x.1 x.2.1 x.2.2) red = if oks = [] then [] else
      [.store nc (oks.flatMap fun y => storeRun y.2.1.rep y.1.va.toNat y.2.2 (leBytes n (val r y.1.l))) (oks.map fun y => y.2.1.addr).dedup] := by
  generalize hbuf : (fun x : Acc × Leaf × Nat => storeBuf n val r x.1 x.2.1 x.2.2) = buf
  have hord := buffers_by_lane (buf := buf) hl fun x => by rw [← hbuf]; rfl
  have hred : ∀ b ∈ oks.map buf, b.red = none := fun b hb => by obtain ⟨x, -, rfl⟩ := List.mem_map.mp hb; rw [← hbuf]; rfl
  have hbnc : ∀ b ∈ oks.map buf, b.nc = nc := fun b hb => by
    obtain ⟨x, hx, rfl⟩ := List.mem_map.mp hb
    rw [← hbuf]
    exact hnc x hx
  have hsame : ((oks.map buf).filter fun b => b.nc == nc && b.red.isNone) = oks.map buf := List.filter_eq_self.mpr fun b hb => by simp [hbnc b hb, hred b hb]
  have hother : ((oks.map buf).filter fun b => b.nc == !nc && b.red.isNone) = [] := List.filter_eq_nil_iff.mpr fun b hb => by simp [hbnc b hb]
  have hreds : ((oks.map buf).filter fun b => b.red.isSome) = [] := List.filter_eq_nil_iff.mpr fun b hb => by simp [hred b hb]
  have hbytes : (oks.map buf).flatMap (·.bytes) = oks.flatMap fun y => storeRun y.2.1.rep y.1.va.toNat y.2.2 (leBytes n (val r y.1.l)) := by
    rw [List.flatMap_map, ← hbuf]; rfl
  have hleaves : (oks.map buf).map (·.leaf) = oks.map fun y => y.2.1.addr := by rw [List.map_map, ← hbuf]; rfl
  unfold bufferedHeld
  rw [hord]
  cases nc
  · rw [Bool.not_false] at hother
    simp only [hsame, hother, hreds, hbytes, hleaves, List.isEmpty_nil, if_true, List.append_nil, List.isEmpty_iff, List.map_eq_nil_iff]
  · rw [Bool.not_true] at hother
    simp only [hsame, hother, hreds, hbytes, hleaves, List.isEmpty_nil, if_true, List.nil_append, List.append_nil, List.isEmpty_iff, List.map_eq_nil_iff]

/-- What the buffers of a reduction hold. -/
theorem bufferedHeld_red (hl : LaneOrder oks) :
    bufferedHeld (oks.map fun x => redBuf v dbl r x.1 x.2.1 x.2.2) red = if oks = [] then [] else
      [red (oks.map fun y => { va := y.1.va.toNat, npa := y.2.2, rep := y.2.1.rep, val := BitVec.ofNat 64 (getLane v dbl r y.1.l) }) (oks.map fun y => y.2.1.addr).dedup] := by
  generalize hbuf : (fun x : Acc × Leaf × Nat => redBuf v dbl r x.1 x.2.1 x.2.2) = buf
  have hord := buffers_by_lane (buf := buf) hl fun x => by rw [← hbuf]; rfl
  have hred : ∀ b ∈ oks.map buf, b.red.isSome = true := fun b hb => by obtain ⟨x, -, rfl⟩ := List.mem_map.mp hb; rw [← hbuf]; rfl
  have hstores : ∀ nc, ((oks.map buf).filter fun b => b.nc == nc && b.red.isNone) = [] := fun nc => List.filter_eq_nil_iff.mpr fun b hb => by
    simp [Option.isNone_eq_false_iff.mpr (hred b hb)]
  have hreds : ((oks.map buf).filter fun b => b.red.isSome) = oks.map buf := List.filter_eq_self.mpr hred
  have hlanes : (oks.map buf).filterMap (·.red) =
      oks.map fun y => { va := y.1.va.toNat, npa := y.2.2, rep := y.2.1.rep, val := BitVec.ofNat 64 (getLane v dbl r y.1.l) } := by
    rw [List.filterMap_map, ← hbuf]
    exact List.filterMap_eq_map (f := fun y : Acc × Leaf × Nat => _) ▸ rfl
  have hleaves : (oks.map buf).map (·.leaf) = oks.map fun y => y.2.1.addr := by rw [List.map_map, ← hbuf]; rfl
  unfold bufferedHeld
  rw [hord]
  simp only [hstores, hreds, hlanes, hleaves, List.isEmpty_nil, if_true, List.nil_append, List.isEmpty_iff, List.map_eq_nil_iff]

/-- The lines that the buffers of a store write: each lane writes bytes of one line. -/
theorem bufferedLines_store (hn : n ≠ 0) (hr : ∀ x ∈ oks, isRemote x.2.1 x.2.2 = false) :
    bufferedLines (oks.map fun x => storeBuf n val r x.1 x.2.1 x.2.2) = oks.flatMap fun x => writeLine x.2.1 x.2.2 := by
  unfold bufferedLines
  rw [List.flatMap_map]
  refine List.flatMap_congr fun x hx => ?_
  obtain ⟨m, rfl⟩ := Nat.exists_eq_succ_of_ne_zero hn
  simp [storeBuf, leBytes, storeRun, writeLine, hr x hx]

theorem bufferedLines_red (hr : ∀ x ∈ oks, isRemote x.2.1 x.2.2 = false) :
    bufferedLines (oks.map fun x => redBuf v dbl r x.1 x.2.1 x.2.2) = oks.flatMap fun x => writeLine x.2.1 x.2.2 := by
  unfold bufferedLines
  rw [List.flatMap_map]
  refine List.flatMap_congr fun x hx => ?_
  simp [redBuf, writeLine, hr x hx]

end

/-! ### Stores and reductions by lanes, of one slice and of a gang (R143, R150, R228) -/

section
variable {s : State} {t k : Nat} {ks : List Nat} {i : Instr} {w : Want} {addr : Regs → Nat → W64} {oks : List (Acc × Leaf × Nat)}

/-- The lanes of a slice's accesses are in ascending order. -/
theorem laneAccs_order (hp : (s.slice t k).park = none) :
    (s.laneAccs t [k] addr).Pairwise (fun a b => a.l ≤ b.l) ∧ ∀ x ∈ s.laneAccs t [k] addr, x.l < 4 := by
  have haccs : s.laneAccs t [k] addr = (laneList (s.slice t k).regs.active).map fun l =>
      { k := k, l := l, gl := 4 * posOf k s.cur.ks + l, va := addr (s.slice t k).regs l } := by
    unfold State.laneAccs
    simp only [List.flatMap_cons, List.flatMap_nil, List.append_nil, hp]
  have hsorted : (laneList (s.slice t k).regs.active).Pairwise (· ≤ ·) := List.pairwise_le_range.filter _
  rw [haccs]
  refine ⟨List.pairwise_map.mpr hsorted, fun x hx => ?_⟩
  obtain ⟨l, hl, rfl⟩ := List.mem_map.mp hx
  exact List.mem_range.mp (List.mem_filter.mp hl).1

theorem laneAccs_slice {x : Acc} (hx : x ∈ s.laneAccs t [k] addr) : x.k = k := by
  unfold State.laneAccs at hx
  rw [List.flatMap_cons, List.flatMap_nil, List.append_nil] at hx
  dsimp only at hx
  split at hx
  · obtain ⟨y, -, rfl⟩ := List.mem_map.mp hx; rfl
  · obtain ⟨y, -, rfl⟩ := List.mem_map.mp hx; rfl

theorem laneAccs_cons (s : State) (t k : Nat) (ks : List Nat) (addr : Regs → Nat → W64) : s.laneAccs t (k :: ks) addr = s.laneAccs t [k] addr ++ s.laneAccs t ks addr := by
  unfold State.laneAccs
  simp only [List.flatMap_cons, List.flatMap_nil, List.append_nil]

theorem laneAccs_mem {x : Acc} (hx : x ∈ s.laneAccs t ks addr) : x.k ∈ ks := by
  induction ks with
  | nil => exact absurd hx List.not_mem_nil
  | cons k ks ih =>
    rw [laneAccs_cons] at hx
    rcases List.mem_append.mp hx with h | h
    · rw [laneAccs_slice h]; exact List.mem_cons_self ..
    · exact List.mem_cons_of_mem _ (ih h)

/-- The accesses of one slice of a gang. -/
theorem laneAccs_filter (hn : ks.Nodup) (hk : k ∈ ks) : (s.laneAccs t ks addr).filter (fun x => x.k == k) = s.laneAccs t [k] addr := by
  induction ks with
  | nil => exact absurd hk List.not_mem_nil
  | cons j ks ih =>
    obtain ⟨hj, hn⟩ := List.nodup_cons.mp hn
    rw [laneAccs_cons, List.filter_append]
    rcases List.mem_cons.mp hk with rfl | hk
    · rw [List.filter_eq_self.mpr fun x hx => by simp [laneAccs_slice hx],
        List.filter_eq_nil_iff.mpr fun x hx => by
          have : x.k ≠ k := fun h => hj (h ▸ laneAccs_mem hx)
          simpa using this, List.append_nil]
    · have hne : j ≠ k := fun h => hj (h ▸ hk)
      rw [List.filter_eq_nil_iff.mpr fun x hx => by rw [laneAccs_slice hx]; simpa using hne, List.nil_append, ih hn hk]

/-- Accesses whose first parts are in the order of their lanes. -/
theorem LaneOrder.of_map {xs : List Acc} (h : oks.map (·.1) = xs) (hx : xs.Pairwise (fun a b => a.l ≤ b.l) ∧ ∀ x ∈ xs, x.l < 4) : LaneOrder oks :=
  ⟨(List.pairwise_map (f := fun x : Acc × Leaf × Nat => x.1) (R := fun a b => a.l ≤ b.l)).mp (h ▸ hx.1), fun y hy => hx.2 _ (h ▸ List.mem_map_of_mem (f := (·.1)) hy)⟩

theorem State.lanesPass.order (h : s.lanesPass t k w addr oks) (hp : (s.slice t k).park = none) : LaneOrder oks := .of_map h.2.2.1 (laneAccs_order hp)

theorem State.gangPass.order (h : s.gangPass t ks w addr oks) (hn : ks.Nodup) (hk : k ∈ ks) (hp : (s.slice t k).park = none) : LaneOrder (ofSlice k oks) := by
  refine .of_map ?_ (laneAccs_order (addr := addr) hp)
  rw [← laneAccs_filter hn hk, ← h.2.2.1, List.filter_map]
  rfl

/-- The checks of a gang's lane instruction whose lanes all pass (R150). -/
theorem State.gangCheck_of_gangPass (h : s.gangPass t ks w addr oks) :
    s.gangCheck s t ks i w addr false = .ok (s, ks, oks.map fun x => (x.1, Fate.ok x.2.1 x.2.2)) := by
  obtain ⟨h1, h2, h3, h4⟩ := h
  have hl : (s.laneAccs t ks addr).map (fun x => (x, s.fateOf t w x)) = oks.map fun x => (x.1, Fate.ok x.2.1 x.2.2) := by
    rw [← h3, List.map_map] at h2 ⊢
    rw [List.map_inj_left] at h2
    exact List.map_congr_left fun x hx => by rw [Function.comp_apply, ← h2 x hx]; rfl
  have hw := worst_of_ok (oks.map fun x => (x.1, Fate.ok x.2.1 x.2.2)) fun e he => by
    obtain ⟨x, _, rfl⟩ := List.mem_map.mp he; exact ⟨_, _, rfl⟩
  have hr : remoteSlices (oks.map fun x => (x.1, Fate.ok x.2.1 x.2.2)) ks = [] := by
    unfold remoteSlices
    rw [oksOf_ok, List.filter_eq_nil_iff]
    intro j _
    rw [Bool.not_eq_true, List.any_eq_false]
    intro x hx; rw [(h4 x hx).1]; simp
  unfold State.gangCheck
  simp only [h1, hl, hw, hr, Option.isSome_none, Bool.false_eq_true, if_false, preEach, List.foldl_nil, Option.isNone_none, Bool.true_and, Bool.false_or,
    List.contains_nil, Bool.not_false, Bool.or_true, List.filter_true, State.haltedSince_same]

/-- A lane instruction whose lanes all pass, in a gang: its act, slice after slice. -/
theorem laneBody_of_gangPass {ws : State → Nat → Want} {act : State → Nat → List (Acc × Fate) → State → Nat → State × Did} (h : s.gangPass t ks (ws s t) addr oks) :
    laneBody i ws addr act s s t ks = eachSlice (fun v t k => act s t (oks.map fun x => (x.1, Fate.ok x.2.1 x.2.2)) v k) s t ks := by
  have hgone : (ks.filter fun k => !ks.contains k) = [] := List.filter_eq_nil_iff.mpr fun k hk => by simpa using hk
  unfold laneBody
  rw [State.gangCheck_of_gangPass h]
  simp only [missesOf_ok, hgone, List.filter_nil, List.map_nil, List.nil_append]
  rfl

section
variable {bytes : Regs → Nat → List Byte} {buf : Regs → Acc → Leaf → Nat → Buffered} {red : Regs → List RedLane → List Nat → Held} {v : State}

/-- One slice of a store or a reduction by lanes that all pass, in a gang whose other slices may have performed it already. -/
theorem storeSlice_became (hk : (FMap.find? s.slices (sliceKey t k)).isSome = true) (hv : FMap.find? v.slices (sliceKey t k) = FMap.find? s.slices (sliceKey t k))
    (hp : (s.slice t k).park = none) (hr : ∀ x ∈ oks, isRemote x.2.1 x.2.2 = false)
    (hb : bufferedLines ((ofSlice k oks).map fun x => buf (s.slice t k).regs x.1 x.2.1 x.2.2) = (ofSlice k oks).flatMap fun x => writeLine x.2.1 x.2.2)
    (hf : s.fits2 t k ((ofSlice k oks).flatMap fun x => writeLine x.2.1 x.2.2) []) :
    ∃ u, storeSlice i bytes buf red s t (oks.map fun x => (x.1, Fate.ok x.2.1 x.2.2)) v k = (u, .plain) ∧
      Became v u t k (((s.slice t k).hold (bufferedHeld ((ofSlice k oks).map fun x => buf (s.slice t k).regs x.1 x.2.1 x.2.2) (red (s.slice t k).regs))
        ((ofSlice k oks).flatMap fun x => writeLine x.2.1 x.2.2) []).withRegs (s.slice t k).regs.adv) := by
  have hslice : v.slice t k = s.slice t k := slice_of_find hv
  have hmine : ∀ x ∈ ofSlice k oks, isRemote x.2.1 x.2.2 = false := fun x hx => hr x (List.mem_of_mem_filter hx)
  have hearly : earlyOks (ofSlice k oks) = ofSlice k oks := List.filter_eq_self.mpr fun x hx => by simp [hmine x hx]
  have hfar : ((ofSlice k oks).filter fun x => isRemote x.2.1 x.2.2) = [] := List.filter_eq_nil_iff.mpr fun x hx => by simp [hmine x hx]
  have hmiss : missesOf ((oks.map fun x => (x.1, Fate.ok x.2.1 x.2.2)).filter fun f => f.1.k == k) = [] := by
    rw [List.filter_map, missesOf_ok]
  have hfits : v.fits2 t k ((ofSlice k oks).flatMap fun x => writeLine x.2.1 x.2.2) [] := by
    unfold State.fits2
    rw [hslice]
    exact hf
  have hvk : (FMap.find? v.slices (sliceKey t k)).isSome = true := hv ▸ hk
  refine ⟨_, ?_, ((Became.refl hvk).modSlice fun sl =>
    let all := (sl.park.map (·.buf)).getD [] ++ (ofSlice k oks).map fun x => buf (s.slice t k).regs x.1 x.2.1 x.2.2
    let h := sl.hold (bufferedHeld all (red (s.slice t k).regs)) (bufferedLines all) []
    { h with regs := h.regs.adv }).congr (by simp [hslice, hp, hb, Slice.hold, Slice.withRegs])⟩
  unfold storeSlice
  simp only [missesOf_ok, oksOf_ok, hmiss, hearly, hfar, hslice, hp, Option.isSome_none, Bool.false_eq_true, if_false,
    List.map_nil, List.dedup_nil, List.append_nil, State.room_of_fits hfits, List.isEmpty_nil, if_true]

/-- A store or a reduction by lanes that all pass, in one slice. -/
theorem storeBody_holds {ws : State → Nat → Want} {es : List Held} (he : exec i s = issue i (storeBody i ws addr bytes buf red) s)
    (h : s.lanesPass t k (ws s t) addr oks)
    (hes : LaneOrder oks → bufferedHeld (oks.map fun x => buf (s.slice t k).regs x.1 x.2.1 x.2.2) (red (s.slice t k).regs) = es)
    (hb : bufferedLines (oks.map fun x => buf (s.slice t k).regs x.1 x.2.1 x.2.2) = oks.flatMap fun x => writeLine x.2.1 x.2.2) :
    s.holds t k i es (oks.flatMap fun x => writeLine x.2.1 x.2.2) [] Regs.adv := by
  intro ho hf
  rw [he]
  obtain ⟨u, hu, hbec⟩ := storeSlice_of_lanesPass (i := i) (bytes := bytes) (red := red) ho h hb hf
  rw [hes (State.lanesPass.order h ho.2.2.2.1)] at hbec
  refine issue_holds ho ?_ hbec
  unfold storeBody
  rw [laneBody_of_lanesPass h, hu]

theorem State.ran_withRegs (s : State) (i : Instr) (t k : Nat) (sl : Slice) (r : Regs) : s.ran i t k (sl.withRegs r) (sl.withRegs r).regs = s.ran i t k sl r := rfl

/-- The same in every slice of a gang. -/
theorem storeBody_gangHolds {ws : State → Nat → Want} {es : Nat → List Held} (he : exec i s = issue i (storeBody i ws addr bytes buf red) s)
    (h : s.gangPass t ks (ws s t) addr oks)
    (hes : ∀ k, LaneOrder (ofSlice k oks) → bufferedHeld ((ofSlice k oks).map fun x => buf (s.slice t k).regs x.1 x.2.1 x.2.2) (red (s.slice t k).regs) = es k)
    (hb : ∀ k, bufferedLines ((ofSlice k oks).map fun x => buf (s.slice t k).regs x.1 x.2.1 x.2.2) = (ofSlice k oks).flatMap fun x => writeLine x.2.1 x.2.2) :
    s.gangHolds t ks i es (fun j => (ofSlice j oks).flatMap fun x => writeLine x.2.1 x.2.2) (fun _ => []) fun _ r => r.adv := by
  intro ha hl hslices
  rw [he]
  let X (k : Nat) : Slice := ((s.slice t k).hold (es k) ((ofSlice k oks).flatMap fun x => writeLine x.2.1 x.2.2) []).withRegs (s.slice t k).regs.adv
  suffices hall : s.eachBecomes t ks (fun v t k => storeSlice i bytes buf red s t (oks.map fun x => (x.1, Fate.ok x.2.1 x.2.2)) v k) X by
    have hruns := issue_each (i := i) (body := storeBody i ws addr bytes buf red) ha hl (laneBody_of_gangPass h) hall
      fun k hk => ⟨rfl, .inr (hslices k hk).1, rfl⟩
    simp only [X, State.ran_withRegs] at hruns
    exact hruns
  intro k hk v hv hfind
  obtain ⟨-, hp, -, hf⟩ := hslices k hk
  obtain ⟨u, hu, hbec⟩ := storeSlice_became (i := i) (bytes := bytes) (red := red) (acts_some ha hk) hfind hp (fun x hx => (h.2.2.2 x hx).1) (hb k) hf
  rw [hes k (State.gangPass.order h ha.2.1 hk hp)] at hbec
  exact ⟨u, hu, hbec⟩

end

end

/-! ### SST: its access at this module's memory, at level 2, and at another agent (R144, R148, R203, R211) -/

section
variable {s w : State} {t k : Nat} {i : Instr} {oks : List (Acc × Leaf × Nat)}

/-- The check of one access answers with that access. -/
theorem State.aloneCheck_one {va : W64} {x : Want} (h : s.aloneCheck t k [(va, x)] = .go oks) :
    ∃ l a, oks = [({ k := k, l := 0, gl := s.firstLane k, va := va }, l, a)] := by
  unfold State.aloneCheck aloneOf at h
  simp only [List.map_cons, List.map_nil] at h
  generalize s.fateOf t x { k := k, l := 0, gl := 4 * posOf k s.cur.ks, va := va } = fate at h
  split at h
  · cases h
  · cases fate with
    | trap row y => next hw => exact absurd hw (by simp [worst, lowerTrap])
    | missing p m n => cases h
    | ok l a => cases h; exact ⟨l, a, rfl⟩

theorem LaneOrder.one {y : Acc × Leaf × Nat} (h : y.1.l = 0) : LaneOrder [y] :=
  ⟨List.pairwise_singleton .., fun x hx => by rw [List.mem_singleton.mp hx, h]; decide⟩

/-- A slice instruction over accesses of this module: its act, once. -/
theorem sliceAccess_of_here {kind : Nat} {look : State → Nat → Nat → List (W64 × Want)} {act : State → State → Nat → Nat → List (Acc × Leaf × Nat) → State × Did}
    (ht : s.touch (s.team t).ctx ((look s t k).map (·.1)) = s) (hgo : s.aloneCheck t k (look s t k) = .go oks) (hr : ∀ x ∈ oks, isRemote x.2.1 x.2.2 = false)
    (hp : (s.slice t k).park = none) :
    sliceAccess i kind false look act s s t [k] = ((act s s t k oks).1, [(k, (act s s t k oks).2)]) := by
  have hany : (oks.any fun o => isRemote o.2.1 o.2.2) = false := List.any_eq_false.mpr fun x hx => by rw [hr x hx]; simp
  have hd : (s.slice t k).finished = false := by simp [Slice.finished, hp]
  have hc : checkSlice i false look s s t k = .ok (s, oks, []) := by
    unfold checkSlice
    simp only [ht, hgo, hany, Bool.or_false, Bool.false_eq_true, if_false]
  unfold sliceAccess
  simp [hd, hgo, hc, State.haltedSince_same, State.postMisses, pageCounts]

section
variable {v b : Nat} {sz : Width} {o : BitVec 10}

theorem widthBytes_ne (sz : Width) : widthBytes sz ≠ 0 := by cases sz <;> decide

/-- What SST holds of its access. -/
def sstHeld (s : State) (t k v : Nat) (sz : Width) (nc : Bool) (oks : List (Acc × Leaf × Nat)) : List Held :=
  if oks = [] then [] else [.store nc (oks.flatMap fun y => storeRun y.2.1.rep y.1.va.toNat y.2.2 (leBytes (widthBytes sz) ((s.slice t k).regs.getS v).toNat))
    (oks.map fun y => y.2.1.addr).dedup]

/-- SST's act at this module's memory. -/
theorem sstAct_here {nc : Bool} (hl : LaneOrder oks) (hnc : ∀ x ∈ oks, (x.2.1.cc == .nc) = nc) (hr : ∀ x ∈ oks, isRemote x.2.1 x.2.2 = false) :
    sstAct i v (widthBytes sz) s s t k oks = s.holdAndGo s t k (sstHeld s t k v sz nc oks) (oks.flatMap fun x => writeLine x.2.1 x.2.2) [] := by
  unfold sstAct
  dsimp only
  rw [if_neg (by rw [List.any_eq_false.mpr fun x hx => by rw [hr x hx]; simp]; simp), bufferedHeld_store hl hnc]
  rfl

/-- SST's instruction, whose access passes at this module's memory. -/
theorem sst_body {nc : Bool} (ht : s.touch (s.team t).ctx [msBase b (widthBytes sz) o (s.slice t k).regs] = s)
    (hgo : s.aloneCheck t k [(msBase b (widthBytes sz) o (s.slice t k).regs, wantStore (widthBytes sz))] = .go oks)
    (hr : ∀ x ∈ oks, isRemote x.2.1 x.2.2 = false) (hnc : ∀ x ∈ oks, (x.2.1.cc == .nc) = nc) (hp : (s.slice t k).park = none) :
    ∃ body, exec (.sst v b sz o) s = issue (.sst v b sz o) body s ∧ body s s t [k] =
      ((s.holdAndGo s t k (sstHeld s t k v sz nc oks) (oks.flatMap fun x => writeLine x.2.1 x.2.2) []).1,
        [(k, (s.holdAndGo s t k (sstHeld s t k v sz nc oks) (oks.flatMap fun x => writeLine x.2.1 x.2.2) []).2)]) := by
  have hl : LaneOrder oks := by
    obtain ⟨l, a, rfl⟩ := State.aloneCheck_one hgo
    exact .one rfl
  have he : exec (.sst v b sz o) s = execSst v b sz o s := rfl
  refine ⟨_, he, ?_⟩
  rw [sliceAccess_of_here (oks := oks) ht hgo hr hp, sstAct_here hl hnc hr]

theorem sst_holds {nc : Bool} (ht : s.touch (s.team t).ctx [msBase b (widthBytes sz) o (s.slice t k).regs] = s)
    (hgo : s.aloneCheck t k [(msBase b (widthBytes sz) o (s.slice t k).regs, wantStore (widthBytes sz))] = .go oks)
    (hr : ∀ x ∈ oks, isRemote x.2.1 x.2.2 = false) (hnc : ∀ x ∈ oks, (x.2.1.cc == .nc) = nc) :
    s.holds t k (.sst v b sz o) (sstHeld s t k v sz nc oks) (oks.flatMap fun x => writeLine x.2.1 x.2.2) [] Regs.adv := by
  intro ho hf
  obtain ⟨body, he, hb⟩ := sst_body (v := v) ht hgo hr hnc ho.2.2.2.1
  rw [he]
  exact issue_holdAndGo hb ho hf

end

/-! #### The commit at level 2 -/

/-- An instruction of a calm slice at level 2 that leaves it `X`: its chunk commits at once. -/
theorem issue_commits {z : State} {X : Slice} {body : State → State → Nat → List Nat → State × List (Nat × Did)} (hc : s.calm t k i) (hm : touchesMemory i = true)
    (hb : body s s t [k] = (z, [(k, .plain)])) (hz : z.ctxs = s.ctxs ∧ z.teams = s.teams) (hset : z.modSlice t k (s.settled i t k) = s.modSlice t k fun _ => X)
    (hX : X.level = 2 ∧ X.hit = false ∧ X.prevHit = false ∧ X.prev = none ∧ X.post = []) (hrun : X.status = .run) (hhand : X.handler = (s.slice t k).handler)
    (hheld : ∀ it ∈ X.chunk.held, it.isMatrix = false) (hw : (s.modSlice t k fun _ => X).commitChunk t k false = .ok w) :
    ∃ u, issue i body s = .next u ∧ Leaves w u t k (w.slice t k) := by
  have hk := calm_some hc
  obtain ⟨ha, hl, ⟨hnone, -, hprev, -, hpost, -⟩, -⟩ := hc
  obtain ⟨hlevel, hhit, hphit, hprevX, hpostX⟩ := hX
  generalize hs : s.modSlice t k (fun _ => X) = s1 at *
  have hbec : Became s s1 t k X := hs ▸ (Became.refl hk).modSlice fun _ => X
  obtain ⟨q, fl, hq, rfl⟩ := State.commitChunk_ok hw (by rw [hbec.slice]; exact hheld)
  have hteam : s1.team t = s.team t := by rw [hbec.rest]; rfl
  have hexq : (FMap.find? q.slices (sliceKey t k)).isSome = true := by
    rw [← Option.isSome_map (f := Slice.core), hq.slices, Option.isSome_map, hbec.self]; rfl
  have hcore : (q.slice t k).core = X.core := by rw [hq.sliceCore, hbec.slice]
  have hqstatus : (q.slice t k).status = X.status := by
    have h : (q.slice t k).core.status = X.core.status := by rw [hcore]
    exact h
  have hqhandler : (q.slice t k).handler = X.handler := by
    have h : (q.slice t k).core.handler = X.core.handler := by rw [hcore]
    exact h
  generalize hpostq : (if false = true then [] else (s1.slice t k).chunk.held.filter HeldItem.late) = post at *
  generalize hF : Slice.committedWith (q.ctx (s1.team t).ctx) fl post = F at *
  have hslice : (q.modSlice t k F).slice t k = F (q.slice t k) := State.slice_modSlice_self F hexq
  have hfin : s.finishAll i t (z, [(k, .plain)]) = q.modSlice t k F := by
    have hend : s.finishSlice i t z (k, .plain) = (z.modSlice t k (s.settled i t k)).endChunk i t k := rfl
    have hgo : s.haltedSince z t = false := State.haltedSince_same hz.1 hz.2
    rw [State.finishAll, List.foldl_cons, List.foldl_nil, hgo, if_neg Bool.false_ne_true, hend, hset, State.endChunk, hbec.slice, hlevel]
    show (if touchesMemory i && !X.hit && !X.prevHit then s1.commitNow t k else s1) = _
    rw [if_pos (by simp [hm, hhit, hphit]), State.commitNow,
      State.settlePrev_of_idle (by rw [hbec.slice]; exact hprevX) (by rw [hbec.slice]; exact hpostX)]
    simp only [hw]
  have hu := issue_performed (i := i) (v2 := q.modSlice t k F) ha hl hb hfin (by
      intro t' j hj
      by_cases h : sliceKey t' j = sliceKey t k
      · rw [State.slice, h, show FMap.get _ (q.modSlice t k F).slices (sliceKey t k) = _ from hslice] at hj
        rw [State.slice, h, show FMap.get _ s.slices (sliceKey t k) = s.slice t k from rfl, ← hhand, ← hqhandler]
        rw [← hF] at hj
        exact hj
      · have h2 : FMap.find? (q.modSlice t k F).slices (sliceKey t' j) = FMap.find? q.slices (sliceKey t' j) := FMap.find?_modify_ne _ h
        have h3 : (q.slice t' j).core.handler = (s1.slice t' j).core.handler := by rw [hq.sliceCore]
        rw [State.slice, FMap.get_eq_find?, h2, ← FMap.get_eq_find?] at hj
        rw [State.slice, FMap.get_eq_find?, ← hbec.others _ h, ← FMap.get_eq_find?]
        exact h3 ▸ hj)
    (State.orLater_committed (by simp [Slice.heldAll, hpost, hprev, hnone]) (by simp [hnone]) fun hpos => by
      have h1 : s.team t = s1.team t := by rw [hteam]
      rw [h1]
      exact hq.released hpos)
  rw [State.regroup_alike (s := q.modSlice t k F) (by simp) (fun j hj => by
    rw [List.mem_singleton.mp hj, hslice]
    have : (F (q.slice t k)).status = (q.slice t k).status := by rw [← hF]; rfl
    rw [this, hqstatus, hrun]; simp) fun i hi j hj => by rw [List.mem_singleton.mp hi, List.mem_singleton.mp hj]] at hu
  exact ⟨_, hu, ⟨rfl, fun _ _ => rfl, rfl⟩⟩

/-- SST at level 2, its access passing at this module's memory: its chunk commits at once. -/
theorem sst_commits {v b : Nat} {sz : Width} {o : BitVec 10} (hc : s.calm t k (.sst v b sz o)) (h2 : (s.slice t k).level = 2)
    (hpass : s.passes t k [(msBase b (widthBytes sz) o (s.slice t k).regs, wantStore (widthBytes sz))] oks) (hf : s.fits2 t k (oks.flatMap fun x => writeLine x.2.1 x.2.2) [])
    (hw : (s.modSlice t k fun _ => s.ran (.sst v b sz o) t k ((s.slice t k).hold (sstHeld s t k v sz false oks) (oks.flatMap fun x => writeLine x.2.1 x.2.2) [])
      (s.slice t k).regs.adv).commitChunk t k false = .ok w) :
    ∃ u, exec (.sst v b sz o) s = .next u ∧ Leaves w u t k (w.slice t k) := by
  obtain ⟨-, hl, ⟨hheld, hhit, hprev, hphit, hpost, -⟩, -, hrun, hpark, -⟩ := id hc
  obtain ⟨ht, hgo, hr⟩ := hpass
  have hwin := (hl k (List.mem_singleton_self k)).2
  obtain ⟨body, he, hb⟩ := sst_body (v := v) (nc := false) ht hgo (fun x hx => (hr x hx).1) (fun x hx => by simpa using (hr x hx).2) hpark
  rw [State.holdAndGo_of_fits hf] at hb
  generalize hes : sstHeld s t k v sz false oks = es at *
  generalize oks.flatMap (fun x => writeLine x.2.1 x.2.2) = lines at *
  have hmatrix : ∀ e ∈ es, ∀ pc num, ({ pc := pc, num := num, eff := e } : HeldItem).isMatrix = false := by
    intro e hemem pc num
    rw [← hes] at hemem
    unfold sstHeld at hemem
    split at hemem
    · exact absurd hemem List.not_mem_nil
    · rw [List.mem_singleton.mp hemem]; rfl
  have hran : s.settled (.sst v b sz o) t k { (s.slice t k).hold es lines [] with regs := (s.slice t k).regs.adv } =
      s.ran (.sst v b sz o) t k ((s.slice t k).hold es lines []) (s.slice t k).regs.adv := by
    rw [State.settled, State.settleRegs_of_wins hwin]
    rfl
  have hchunk : (s.ran (.sst v b sz o) t k ((s.slice t k).hold es lines []) (s.slice t k).regs.adv).chunk.held =
      (s.slice t k).chunk.held ++ es.map fun e => { pc := (s.slice t k).regs.pc, num := (s.slice t k).chunk.instrs, eff := e } := rfl
  have hsame : ∀ X, X = s.ran (.sst v b sz o) t k ((s.slice t k).hold es lines []) (s.slice t k).regs.adv →
      (X.level = 2 ∧ X.hit = false ∧ X.prevHit = false ∧ X.prev = none ∧ X.post = []) ∧ X.status = .run ∧ X.handler = (s.slice t k).handler := by
    rintro X rfl
    exact ⟨⟨h2, hhit, hphit, hprev, hpost⟩, hrun, rfl⟩
  generalize s.ran (.sst v b sz o) t k ((s.slice t k).hold es lines []) (s.slice t k).regs.adv = X at *
  obtain ⟨hX, hXrun, hXhand⟩ := hsame X rfl
  rw [he]
  refine issue_commits hc rfl hb ⟨rfl, rfl⟩ ?_ hX hXrun hXhand ?_ hw
  · rw [State.modSlice_modSlice]
    refine State.modSlice_congr ?_
    rw [Function.comp_apply]
    exact hran
  · intro it hit
    rw [hchunk, hheld, List.nil_append] at hit
    obtain ⟨e, hemem, rfl⟩ := List.mem_map.mp hit
    exact hmatrix e hemem _ _

end

/-! ### SST at another agent (R148, R203, R354) -/

section
variable {s w : State} {t k : Nat} {i : Instr}

/-- A body that ends its slice as a closer itself is one that leaves the end to the issue. -/
theorem issue_closed_now {body : State → State → Nat → List Nat → State × List (Nat × Did)} (ha : s.acts t [k]) (hl : s.lets t [k] i)
    (hgo : s.haltedSince w t = false) (hb : body s s t [k] = (s.finishSlice i t w (k, .closer), [(k, .ended)])) :
    issue i body s = issue i (fun _ _ _ _ => (w, [(k, .closer)])) s := by
  have hfin : s.finishAll i t (s.finishSlice i t w (k, .closer), [(k, .ended)]) = s.finishAll i t (w, [(k, .closer)]) := by
    generalize hz : s.finishSlice i t w (k, .closer) = z
    have h1 : s.finishAll i t (z, [(k, .ended)]) = if s.haltedSince z t then z else z := rfl
    have h2 : s.finishAll i t (w, [(k, .closer)]) = if s.haltedSince w t then w else s.finishSlice i t w (k, .closer) := rfl
    rw [h1, h2, hgo, hz, ite_self, if_neg Bool.false_ne_true]
  unfold issue
  simp only [ha.1, State.admitted_of_lets hl, State.expose_of_lets hl]
  rw [hb, hfin]

/-- A page that is missing has no leaf, whatever free values are drawn. -/
theorem State.fate_missing {c die : Nat} {x : Want} {coin : Nat} {va : W64} {p : Nat} {m n : Bool} (h : s.fate c die x coin va = .missing p m n) :
    va.toNat % x.n = 0 ∧ canonical va = true ∧ s.walk c va = .none m ∧ p = pageOf va ∧ n = true := by
  unfold State.fate at h
  by_cases h1 : va.toNat % x.n = 0
  · by_cases h2 : canonical va = true
    · rw [if_neg (not_not_intro h1), if_neg (by simp [h2])] at h
      cases hwalk : s.walk c va with
      | none m' =>
        rw [hwalk] at h
        cases h
        exact ⟨h1, h2, rfl, rfl, rfl⟩
      | leaf l =>
        rw [hwalk] at h
        dsimp only at h
        split_ifs at h
    · rw [if_neg (not_not_intro h1), if_pos (by simp [h2])] at h
      cases h
  · rw [if_pos h1] at h
    cases h

theorem State.fate_missing_draws {c die : Nat} {x : Want} {coin : Nat} (coin' : Nat) {va : W64} {p : Nat} {m n : Bool} (h : s.fate c die x coin va = .missing p m n) :
    s.fate c die x coin' va = .missing p m n := by
  obtain ⟨h1, h2, h3, rfl, rfl⟩ := State.fate_missing h
  unfold State.fate
  rw [if_neg (not_not_intro h1), if_neg (by simp [h2]), h3]

/-- Where an access passes after free values are drawn, its page was not missing before. -/
theorem aloneCheck_drawn {d : Nat} {va : W64} {x : Want} {y : Acc × Leaf × Nat} (hp : (s.slice t k).park = none)
    (h : ({ s with draws := d } : State).aloneCheck t k [(va, x)] = .go [y]) : ∀ ms, s.aloneCheck t k [(va, x)] ≠ .wait ms := by
  intro ms hms
  have hdraw : ∀ z : State, (z.slice t k).park = none → z.fateOf t x { k := k, l := 0, gl := 4 * posOf k z.cur.ks, va := va } =
      z.fate (z.team t).ctx (z.teamDie t) x (z.draws + 4 * posOf k z.cur.ks) va := fun z hz => by
    unfold State.fateOf
    simp only [hz]
  unfold State.aloneCheck aloneOf at h hms
  simp only [List.map_cons, List.map_nil] at h hms
  rw [hdraw s hp] at hms
  rw [hdraw { s with draws := d } hp] at h
  cases hf : s.fate (s.team t).ctx (s.teamDie t) x (s.draws + 4 * posOf k s.cur.ks) va with
  | trap row z => rw [hf] at hms; cases hms
  | ok l a => rw [hf] at hms; cases hms
  | missing p m n =>
    have hf' : ({ s with draws := d } : State).fate (s.team t).ctx (s.teamDie t) x (d + 4 * posOf k s.cur.ks) va = .missing p m n :=
      State.fate_missing_draws (s := s) _ hf
    have hteam : ({ s with draws := d } : State).team t = s.team t := rfl
    have hdie : ({ s with draws := d } : State).teamDie t = s.teamDie t := rfl
    rw [hteam, hdie, show ({ s with draws := d } : State).cur = s.cur from rfl] at h
    rw [hf'] at h
    cases h

/-- A slice instruction whose one access is performed at another agent: its act, after the commit of the calm slice's chunk (R148, R203). -/
theorem sliceAccess_remote {kind d : Nat} {look : State → Nat → Nat → List (W64 × Want)} {act : State → State → Nat → Nat → List (Acc × Leaf × Nat) → State × Did}
    {va : W64} {x : Want} {y : Acc × Leaf × Nat} (hc : s.calm t k i) (hlook : ∀ v : State, (v.slice t k).regs = (s.slice t k).regs → look v t k = [(va, x)])
    (ht : s.touch (s.team t).ctx [va] = { s with draws := d }) (hgo : ({ s with draws := d } : State).aloneCheck t k [(va, x)] = .go [y])
    (hr : isRemote y.2.1 y.2.2 = true) {v : State}
    (hv : v = ({ s with draws := d } : State).modSlice t k fun _ => (s.slice t k).preClosed (s.ctx (s.team t).ctx)) :
    sliceAccess i kind false look act s s t [k] = ((act s v t k [y]).1, [(k, (act s v t k [y]).2)]) := by
  have hk := calm_some hc
  obtain ⟨ha, hl, hidle, hfx, hrun, hpark, hmark⟩ := id hc
  have hwin := (hl k (List.mem_singleton_self k)).2
  have hwait := aloneCheck_drawn hpark hgo
  generalize hs0 : ({ s with draws := d } : State) = s0 at *
  have hs : s = { s0 with draws := s.draws } := by rw [← hs0]
  have hslice : s0.slice t k = s.slice t k := by rw [← hs0]; rfl
  have hc0 : s0.calm t k i := by rw [← hs0]; exact hc
  have hctx : s0.ctx (s0.team t).ctx = s.ctx (s.team t).ctx := by rw [← hs0]; rfl
  have hpre : s.preIn s0 t k = .ok v := by
    have h : s.preIn s0 t k = s0.preIn s0 t k := by rw [← hs0]; rfl
    rw [h, preIn_calm_eq hc0, hslice, hctx, hv]
  have hbec : Became s0 v t k ((s.slice t k).preClosed (s.ctx (s.team t).ctx)) :=
    hv ▸ (Became.refl (calm_some hc0)).modSlice fun _ => (s.slice t k).preClosed (s.ctx (s.team t).ctx)
  have hvregs : (v.slice t k).regs = (s.slice t k).regs := by rw [hbec.slice, Slice.preClosed_regs _ hwin]
  have hvgo : v.aloneCheck t k [(va, x)] = .go [y] := by
    rw [State.aloneCheck_slices hbec.rest (hbec.park (by rw [Slice.preClosed_park, hslice])), hgo]
  have hcheck : checkSlice i false look s s t k = .ok (v, [y], []) := by
    unfold checkSlice
    simp only [hlook s rfl, List.map_cons, List.map_nil, ht, hlook s0 (by rw [hslice]), hgo, List.any_cons, List.any_nil, hr, Bool.true_or, Bool.or_true, if_true, hpre,
      hlook v hvregs, hvgo]
  have hd : (s.slice t k).finished = false := by simp [Slice.finished, hpark]
  have hgo' : s.haltedSince s t = false := State.haltedSince_same rfl rfl
  unfold sliceAccess
  rw [List.any_cons, List.any_nil, hd, hlook s rfl]
  cases hA : s.aloneCheck t k [(va, x)] with
  | wait ms => exact absurd hA (hwait ms)
  | go _ | trap _ =>
    simp only [Bool.or_false, List.foldl_cons, List.foldl_nil, hgo', hd, Bool.false_eq_true, if_false, hcheck, List.isEmpty_nil,
      Bool.not_true, Bool.not_false, if_true, List.nil_append]
    rfl

/-- SST's act at another agent. -/
theorem sstAct_far {v n : Nat} {u : State} {y : Acc × Leaf × Nat} (hr : isRemote y.2.1 y.2.2 = true) : sstAct i v n s u t k [y] =
    s.closeNow i t k ((u.remoteStores [y] fun _ => leBytes n ((u.slice t k).regs.getS v).toNat).modSlice t k fun sl => { sl with regs := sl.regs.adv }) :=
  if_pos (by simp [hr])

/-- A transaction through a leaf whose d bit is set already. -/
theorem State.remoteStores_one {u : State} {y : Acc × Leaf × Nat} {bytes : Acc → List Byte} (h : (u.readWord64 y.2.1.addr).getLsbD 14 = true) :
    u.remoteStores [y] bytes = { u with out := u.out ++ [remoteOut y.2.2 true (bytes y.1)] } := by
  have hset : u.setD y.2.1.addr = u := if_pos h
  unfold State.remoteStores
  rw [List.foldl_cons, List.foldl_nil, hset]
  rfl

/-- SST whose access is performed at another agent: one transaction of its own size, and its chunk commits. -/
theorem sst_closes {v b d : Nat} {sz : Width} {o : BitVec 10} {y : Acc × Leaf × Nat}
    (ht : s.touch (s.team t).ctx [msBase b (widthBytes sz) o (s.slice t k).regs] = { s with draws := d })
    (hgo : ({ s with draws := d } : State).aloneCheck t k [(msBase b (widthBytes sz) o (s.slice t k).regs, wantStore (widthBytes sz))] = .go [y])
    (hr : isRemote y.2.1 y.2.2 = true) (hd : (s.readWord64 y.2.1.addr).getLsbD 14 = true) :
    s.closes t k (.sst v b sz o) { s with draws := d, out := s.out ++ [remoteOut y.2.2 true (leBytes (widthBytes sz) ((s.slice t k).regs.getS v).toNat)] } Regs.adv := by
  intro hc
  have hk := calm_some hc
  have hwin := (hc.2.1 k (List.mem_singleton_self k)).2
  generalize hbs : leBytes (widthBytes sz) ((s.slice t k).regs.getS v).toNat = bs
  generalize hbase : ({ s with draws := d, out := s.out ++ [remoteOut y.2.2 true bs] } : State) = base
  generalize hX : (s.slice t k).preClosed (s.ctx (s.team t).ctx) = X
  have hXregs : X.regs = (s.slice t k).regs := by rw [← hX, Slice.preClosed_regs _ hwin]
  generalize hpre : ({ s with draws := d } : State).modSlice t k (fun _ => X) = pre
  have hbec : Became ({ s with draws := d } : State) pre t k X := hpre ▸ (Became.refl (s := { s with draws := d }) hk).modSlice fun _ => X
  have hact : sstAct (.sst v b sz o) v (widthBytes sz) s pre t k [y] = s.closeNow (.sst v b sz o) t k (base.modSlice t k fun _ => X.withRegs X.regs.adv) := by
    have hdp : (pre.readWord64 y.2.1.addr).getLsbD 14 = true := by rw [← hpre]; exact hd
    have hout : ({ pre with out := pre.out ++ [remoteOut y.2.2 true bs] } : State) = base.modSlice t k fun _ => X := by rw [← hpre, ← hbase]; rfl
    have hadv : (base.modSlice t k fun _ => X).modSlice t k (fun sl => { sl with regs := sl.regs.adv }) = base.modSlice t k fun _ => X.withRegs X.regs.adv :=
      State.modSlice_modSlice ..
    have hreg : (pre.slice t k).regs = (s.slice t k).regs := by rw [hbec.slice, hXregs]
    rw [sstAct_far hr, State.remoteStores_one hdp, hreg, hbs, hout, hadv]
  obtain ⟨body, he, hbody⟩ : ∃ body, exec (.sst v b sz o) s = issue (.sst v b sz o) body s ∧
      body s s t [k] = (s.finishSlice (.sst v b sz o) t (base.modSlice t k fun _ => X.withRegs X.regs.adv) (k, .closer), [(k, .ended)]) := by
    have he : exec (.sst v b sz o) s = execSst v b sz o s := rfl
    unfold execSst at he
    refine ⟨_, he, ?_⟩
    rw [sliceAccess_remote (look := fun v t k => [(msBase b (widthBytes sz) o (v.slice t k).regs, wantStore (widthBytes sz))]) hc (fun v hv => by rw [hv]) ht hgo hr
      (v := pre) (by rw [hX, hpre]), hact, State.closeNow]
  have hgone : s.haltedSince (base.modSlice t k fun _ => X.withRegs X.regs.adv) t = false := State.haltedSince_same (by rw [← hbase]; rfl) (by rw [← hbase]; rfl)
  have hbk : (FMap.find? base.slices (sliceKey t k)).isSome = true := by rw [← hbase]; exact hk
  have hv : Became s (s.modSlice t k fun _ => X) t k X := (Became.refl hk).modSlice fun _ => X
  rw [he, issue_closed_now hc.1 hc.2.1 hgone hbody]
  refine issue_closer_after (v := s.modSlice t k fun _ => X) (g := Regs.adv) hc rfl (by rw [hX]; exact hv) rfl ?_ (by rw [← hbase]; rfl) hc.2.2.2.1
    (fun key => by rw [← hbase]) (by rw [← hbase]; rfl)
  rw [hv.slice]
  exact (Became.refl hbk).modSlice fun _ => X.withRegs X.regs.adv

end

theorem isRemote_eq (l : Leaf) (npa : Nat) : isRemote l npa = (l.cc == .io || isFabric npa) := rfl

/-- SST through a leaf of an NC page of this module is held as such; at another agent it closes its chunk (R147, R148). -/
theorem sst_elsewhere (s : State) (t k v b : Nat) (sz : Width) (o : BitVec 10) (y : Acc × Leaf × Nat) :
    let n := widthBytes sz
    let va := msBase b n o (s.slice t k).regs
    let bs := leBytes n ((s.slice t k).regs.getS v).toNat
    let s0 := { s with draws := s.draws + if isFabric y.2.2 then 64 else 0 }
    s.touch (s.team t).ctx [va] = s0 → s0.aloneCheck t k [(va, wantStore n)] = .go [y] →
    (isFabric y.2.2 = false → y.2.1.cc = .nc → s.holds t k (.sst v b sz o) [.store true (storeRun y.2.1.rep va.toNat y.2.2 bs) [y.2.1.addr]] (writeLine y.2.1 y.2.2) [] Regs.adv) ∧
    (y.2.1.cc = .io ∨ isFabric y.2.2 = true → (s.readWord64 y.2.1.addr).getLsbD 14 = true →
      s.closes t k (.sst v b sz o) { s0 with out := s.out ++ [if isFabric y.2.2 then .remote y.2.2 true bs else .io y.2.2 true bs] } Regs.adv) := by
  intro n va bs s0 ht hgo
  refine ⟨fun hfab hnc => ?_, fun hfar hd => sst_closes ht hgo ?_ hd⟩
  · have hs0 : s0 = s := by
      have h : s0 = { s with draws := s.draws + if isFabric y.2.2 then 64 else 0 } := rfl
      rw [h, hfab]
      rfl
    rw [hs0] at ht hgo
    have hva : y.1.va = va := by
      obtain ⟨l, a, hy⟩ := State.aloneCheck_one hgo
      rw [(List.cons.inj hy).1]
    have hholds := sst_holds (v := v) (nc := true) ht hgo (fun x hx => by rw [List.mem_singleton.mp hx, isRemote_eq, hfab, hnc]; rfl)
      fun x hx => by rw [List.mem_singleton.mp hx, hnc]; rfl
    have hes : sstHeld s t k v sz true [y] = [.store true (storeRun y.2.1.rep va.toNat y.2.2 bs) [y.2.1.addr]] := by
      simp [sstHeld, hva, bs, n]
    have hlines : ([y].flatMap fun x => writeLine x.2.1 x.2.2) = writeLine y.2.1 y.2.2 := List.append_nil _
    rw [hes, hlines] at hholds
    exact hholds
  · rw [isRemote_eq]
    rcases hfar with h | h
    · rw [h]; rfl
    · rw [h, Bool.or_true]

/-- Settles O22. -/
theorem storeResults : Obligations.StoreResults := by
  intro s t k v x b l dbl sz o op oks regs held lines
  have hvst : exec (.vst v x b dbl l) s = execVst v x b dbl l s := rfl
  have hvstc : exec (.vstc v b dbl o) s = execVstc v b dbl o s := rfl
  have hred : exec (.red op v x b dbl) s = execRed op v x b dbl s := rfl
  unfold execVst storeLanes at hvst
  unfold execVstc storeLanes at hvstc
  unfold execRed at hred
  have hn : dblBytes dbl ≠ 0 := by cases dbl <;> decide
  have hplain : ∀ {p : Prop} {y : Acc × Leaf × Nat}, p ∧ y.2.1.cc ≠ .nc → (y.2.1.cc == .nc) = false := fun h => by simpa using h.2
  refine ⟨fun h => ?_, fun h => ?_, fun ⟨ht, hgo, hr⟩ => ?_, fun ks h => ?_, fun w hc h2 h hf hw => sst_commits hc h2 h hf hw, sst_elsewhere s t k v b sz o, fun h => ?_⟩
  · exact storeBody_holds hvst h (fun hl => bufferedHeld_store hl fun y hy => hplain (h.2.2.2 y hy)) (bufferedLines_store hn fun y hy => (h.2.2.2 y hy).1)
  · exact storeBody_holds hvstc h (fun hl => bufferedHeld_store hl fun y hy => hplain (h.2.2.2 y hy)) (bufferedLines_store hn fun y hy => (h.2.2.2 y hy).1)
  · exact sst_holds (nc := false) ht hgo (fun y hy => (hr y hy).1) fun y hy => hplain (hr y hy)
  · exact storeBody_gangHolds hvst h (fun j hl => bufferedHeld_store hl fun y hy => hplain (h.2.2.2 y (List.mem_of_mem_filter hy)))
      fun j => bufferedLines_store hn fun y hy => (h.2.2.2 y (List.mem_of_mem_filter hy)).1
  · exact storeBody_holds hred h (fun hl => bufferedHeld_red hl) (bufferedLines_red fun y hy => (h.2.2.2 y hy).1)

end Sys2Proof.Machine
end

section
/-! SUPPORT. Every step keeps memory in its canonical form -/

namespace Sys2Proof.Machine

/-! ### The predicates -/

/-- Memory is in its canonical form. -/
abbrev State.formed (s : State) : Prop := Memory.wf s.mem = true

/-- The state that a check before an instruction leaves, passed or not. -/
def Pre.state : Pre → State
  | .ok s => s
  | .left s => s

/-- A result whose next state, if it has one, has memory in its canonical form. -/
def Result.formed (x : Result) : Prop := ∀ w, x = .next w → w.formed

/-- A commit that, if it goes through, leaves memory in its canonical form. -/
def CommitFormed (x : Except CapFail State) : Prop := ∀ w, x = .ok w → w.formed

theorem Pre.formed_ok {p : Pre} {w : State} (h : p.state.formed) (hp : p = .ok w) : w.formed := by subst hp; exact h

theorem Pre.formed_left {p : Pre} {w : State} (h : p.state.formed) (hp : p = .left w) : w.formed := by subst hp; exact h

theorem Result.formed_next {s : State} (h : s.formed) : Result.formed (.next s) := by intro w hw; cases hw; exact h

theorem Result.formed_of_ne {x : Result} (h : ∀ w, x ≠ .next w) : x.formed := fun w hw => absurd hw (h w)

theorem State.formed_foldl {α : Type} {f : State → α → State} {l : List α} (hf : ∀ u x, u.formed → (f u x).formed) {s : State} (h : s.formed) :
    (l.foldl f s).formed := by
  induction l generalizing s with
  | nil => exact h
  | cons x l ih => exact ih (hf s x h)

theorem State.formed_foldl_pair {α β : Type} {f : State × β → α → State × β} {l : List α} (hf : ∀ u x, u.1.formed → (f u x).1.formed) {s : State × β}
    (h : s.1.formed) : (l.foldl f s).1.formed := by
  induction l generalizing s with
  | nil => exact h
  | cons x l ih => exact ih (hf s x h)

section
variable {s u v : State}

/-! ### Commits -/

theorem State.formed_finishPost (h : s.formed) (t k : Nat) : (s.finishPost t k).formed := (State.still_finishPost (State.still_refl s) t k).form h

theorem State.formed_stepSix (h : s.formed) (t k c : Nat) (post : List HeldItem) : (s.stepSix t k c post).formed :=
  (State.stepSix_quiet (State.quiet_refl 0 s) t k c post).form h

theorem heldEffect_formed {a : State × Flags} (h : a.1.formed) (t k c : Nat) (it : HeldItem) : (State.heldEffect t k c a it).1.formed := by
  cases hm : it.isMatrix with
  | false => exact (heldEffect_quiet (State.quiet_refl c a.1) it hm).form h
  | true =>
    have hmat : ∃ o, it.eff = .matrix o := by
      unfold HeldItem.isMatrix at hm
      split at hm
      · next o ho => exact ⟨o, ho⟩
      · cases hm
    obtain ⟨o, ho⟩ := hmat
    have hrel : (a.1.releaseMatrix t k o).formed := h
    simpa only [State.heldEffect, ho] using hrel

theorem State.formed_perform {t k : Nat} {held : List HeldItem} {r : State × Flags} (hr : s.perform t k held = .ok r) (h : s.formed) : r.1.formed := by
  obtain ⟨w, fl, hw, rfl⟩ := State.perform_ok hr
  exact State.formed_foldl_pair (fun a it ha => heldEffect_formed ha t k _ it) (hw.form h)

theorem State.formed_commitChunk (h : s.formed) (t k : Nat) (now : Bool) : CommitFormed (s.commitChunk t k now) := by
  intro w hw
  unfold State.commitChunk at hw
  dsimp only at hw
  split at hw
  · cases hw
  · next r hr =>
    cases hw
    have hp := State.formed_perform hr h
    cases now with
    | true => exact State.formed_stepSix hp t k _ _
    | false => exact hp

theorem State.formed_commitPrev (h : s.formed) (t k : Nat) : CommitFormed (s.commitPrev t k) := by
  intro w hw
  unfold State.commitPrev at hw
  split at hw
  · cases hw; exact h
  · split at hw
    · cases hw
    · next r hr => cases hw; exact State.formed_perform hr h

theorem State.formed_finishPosts (h : s.formed) (c : Nat) : (s.finishPosts c).formed := by
  unfold State.finishPosts
  exact State.formed_foldl (fun u x hu => State.formed_finishPost hu _ _) h

theorem State.formed_settlePrev (h : s.formed) (t k : Nat) : CommitFormed (s.settlePrev t k) := by
  intro w hw
  unfold State.settlePrev at hw
  split at hw
  · cases hw
  · next s1 hs1 =>
    cases hw
    exact State.formed_finishPost (State.formed_commitPrev (State.formed_finishPost h t k) t k s1 hs1) t k

/-! ### Rollbacks, faults and traps -/

theorem State.formed_rollbackSlice (h : s.formed) (t k : Nat) : (s.rollbackSlice t k).formed := by
  unfold State.rollbackSlice
  dsimp only
  split <;> exact h

theorem State.formed_contextFault (h : s.formed) (c code : Nat) (r : LogRec) : (s.contextFault c code r).formed := (contextFault_still s c code r).form h

theorem State.formed_enterHandler (h : s.formed) (t k : Nat) (f : Frame) : (s.enterHandler t k f).formed := by
  unfold State.enterHandler
  dsimp only
  split
  · exact State.formed_contextFault h _ _ _
  · exact (State.still_enterFrame (State.still_refl s) t k f).form h

theorem State.formed_capacityFault (h : s.formed) (t k : Nat) (f : CapFail) : (s.capacityFault t k f).formed := by
  unfold State.capacityFault
  refine State.formed_enterHandler ?_ t k _
  exact (State.poolFailed_quiet (State.quiet_refl 0 s) (s.team t).ctx f.g f.dies).form h

theorem State.formed_preCommit (h : s.formed) (t k : Nat) : (s.preCommit t k).state.formed := by
  unfold State.preCommit
  split
  · exact State.formed_rollbackSlice h t k
  · split
    · exact State.formed_capacityFault h t k _
    · next s1 hs1 =>
      have h1 := State.formed_settlePrev h t k s1 hs1
      dsimp only
      split
      · exact State.formed_rollbackSlice h1 t k
      · split
        · exact h1
        · split
          · next s2 hs2 => exact State.formed_commitChunk h1 t k true s2 hs2
          · exact State.formed_capacityFault h1 t k _

theorem State.formed_takeTrap (h : s.formed) (t k : Nat) (f : Frame) : (s.takeTrap t k f).formed := by
  have hp := State.formed_preCommit h t k
  unfold State.takeTrap
  split
  · next hs1 => exact State.formed_enterHandler (Pre.formed_ok hp hs1) t k f
  · next hs1 => exact Pre.formed_left hp hs1

theorem State.formed_deliver (h : s.formed) (t k : Nat) (en : BitVec 6) (pc resume : W64) : (s.deliver t k en pc resume).formed := by
  have h1 : (s.recordFlags t k pc).1.formed := (State.still_recordFlags (State.still_refl s) t k pc).form h
  unfold State.deliver
  dsimp only
  split
  · exact h1
  · exact State.formed_enterHandler h1 t k _

theorem State.formed_tellCommit (h : s.formed) (t k : Nat) : (s.tellCommit t k).formed := by
  unfold State.tellCommit
  split
  · exact State.formed_deliver (s := s.modSlice t k fun v => { v with tell := none }) h t k _ _ _
  · exact h

theorem State.formed_completeTeam (h : s.formed) (t : Nat) : (s.completeTeam t).formed := by
  unfold State.completeTeam
  refine State.formed_foldl (fun u k hu => ?_) h
  split
  · exact hu
  · exact State.formed_tellCommit (State.formed_finishPost hu t k) t k

theorem State.formed_closeOwn (h : s.formed) (t k : Nat) (pc resume : W64) : (s.closeOwn t k pc resume).formed := by
  unfold State.closeOwn
  dsimp only
  split
  · next s1 hs1 => exact State.formed_deliver (State.formed_commitChunk h t k true s1 hs1) t k _ _ _
  · exact State.formed_capacityFault h t k _

theorem State.formed_trapAt (h : s.formed) (t k : Nat) (i : Instr) (x : Trap) : (s.trapAt t k i x).formed := State.formed_takeTrap h t k _

theorem State.formed_trapIn (hv : v.formed) (s : State) (t k : Nat) (i : Instr) (x : Trap) : (s.trapIn v t k i x).formed :=
  State.formed_trapAt (s := s.trueRegs v t k) hv t k i x

theorem State.formed_preIn (hv : v.formed) (s : State) (t k : Nat) : (s.preIn v t k).state.formed := by
  have hp := State.formed_preCommit (s := s.trueRegs v t k) hv t k
  unfold State.preIn
  split
  · next w hw =>
    have h1 := Pre.formed_ok hp hw
    exact h1
  · next w hw => exact Pre.formed_left hp hw

/-! ### The end of an instruction -/

theorem State.formed_admitted (h : s.formed) (i : Instr) (t : Nat) (ks : List Nat) : (s.admitted i t ks).1.formed := by
  unfold State.admitted
  refine State.formed_foldl (fun u k hu => ?_) h
  split
  · split
    · exact hu
    · exact State.formed_trapAt hu t k i _
  · exact hu

theorem State.formed_exposeSlice (hu : u.formed) (s : State) (i : Instr) (t k : Nat) : (s.exposeSlice i t u k).formed := by
  unfold State.exposeSlice
  split <;> exact hu

theorem State.formed_commitNow (h : s.formed) (t k : Nat) : (s.commitNow t k).formed := by
  unfold State.commitNow
  split
  · exact State.formed_capacityFault h t k _
  · next s1 hs1 =>
    have h1 := State.formed_settlePrev h t k s1 hs1
    split
    · next s2 hs2 => exact State.formed_commitChunk h1 t k false s2 hs2
    · exact State.formed_capacityFault h1 t k _

theorem State.formed_endChunk (h : s.formed) (i : Instr) (t k : Nat) : (s.endChunk i t k).formed := by
  unfold State.endChunk
  dsimp only
  split
  · split <;> exact h
  · split <;> exact h
  · split
    · exact State.formed_commitNow h t k
    · exact h

theorem State.formed_endCmit (h : s.formed) (t k : Nat) (pc resume : W64) : (s.endCmit t k pc resume).formed := by
  unfold State.endCmit
  dsimp only
  split
  · exact State.formed_closeOwn h t k pc resume
  · exact h

theorem State.formed_finishSlice (hu : u.formed) (s : State) (i : Instr) (t : Nat) (d : Nat × Did) : (s.finishSlice i t u d).formed := by
  obtain ⟨k, w⟩ := d
  unfold State.finishSlice
  cases w with
  | plain =>
    refine State.formed_endChunk ?_ i t k
    exact hu
  | closer =>
    refine State.formed_closeOwn ?_ t k _ _
    exact hu
  | cmit =>
    refine State.formed_endCmit ?_ t k _ _
    exact hu
  | stay => exact hu
  | gone => exact hu
  | ended => exact hu

theorem State.formed_finishAll {x : State × List (Nat × Did)} (hx : x.1.formed) (s : State) (i : Instr) (t : Nat) : (s.finishAll i t x).formed := by
  unfold State.finishAll
  refine State.formed_foldl (fun u d hu => ?_) hx
  split
  · exact hu
  · exact State.formed_finishSlice hu s i t d

theorem State.formed_toPoint (ks : List Nat) (h : s.formed) (t : Nat) : ∀ w, s.toPoint t ks = some w → w.formed := by
  induction ks generalizing s with
  | nil => intro w hw; cases hw; exact h
  | cons k ks ih =>
    intro w hw
    unfold State.toPoint at hw
    split at hw
    · next u hu => exact ih (State.formed_commitChunk h t k false u hu) w hw
    · cases hw

theorem State.formed_waitRoom (h : s.formed) (t : Nat) (ks : List Nat) : (s.waitRoom t ks).formed := by
  unfold State.waitRoom
  refine State.formed_foldl ?_ ?_
  · intro _ _ hu
    exact hu
  · exact h

theorem State.formed_orLater (h : s.formed) (hu : u.formed) (t : Nat) (ks : List Nat) : (s.orLater u t ks).formed := by
  unfold State.orLater
  dsimp only
  split
  · exact State.formed_waitRoom h t ks
  · split
    · exact hu
    · split
      · next v hv =>
        split at hv
        · exact State.formed_toPoint _ h t v hv
        · cases hv
      · exact hu

theorem State.formed_regroup (h : s.formed) (t : Nat) (ks out : List Nat) : (s.regroup t ks out).formed := h

theorem State.formed_partTrapped (hu : u.formed) (s : State) : (s.partTrapped u).formed := by
  unfold State.partTrapped
  exact State.formed_foldl (fun v g hv => State.formed_regroup hv _ _ _) hu

theorem State.formed_partAll (hu : u.formed) (s : State) : (s.partAll u).formed := by
  unfold State.partAll
  exact State.formed_foldl (fun v g hv => State.formed_regroup hv _ _ _) hu

/-- A body that keeps memory's form. -/
def KeepsForm (body : State → State → Nat → List Nat → State × List (Nat × Did)) : Prop :=
  ∀ s u t ks, s.formed → u.formed → (body s u t ks).1.formed

theorem issue_formed {body : State → State → Nat → List Nat → State × List (Nat × Did)} (hb : KeepsForm body) (h : s.formed) (i : Instr) :
    Result.formed (issue i body s) := by
  have ha := State.formed_admitted h i s.cur.team s.cur.ks
  have hu := State.formed_foldl (f := s.exposeSlice i s.cur.team) (l := (s.admitted i s.cur.team s.cur.ks).2)
    (fun u k hu => State.formed_exposeSlice hu s i s.cur.team k) ha
  have hf := State.formed_finishAll (hb s _ s.cur.team (s.admitted i s.cur.team s.cur.ks).2 h hu) s i s.cur.team
  unfold issue
  refine Result.formed_next (State.formed_orLater h ?_ _ _)
  exact State.formed_partTrapped (State.formed_regroup hf _ _ _) s

theorem eachSlice_formed {f : State → Nat → Nat → State × Did} (hf : ∀ v t k, v.formed → (f v t k).1.formed) (h : u.formed) (t : Nat) (ks : List Nat) :
    (eachSlice f u t ks).1.formed := by
  unfold eachSlice
  refine State.formed_foldl_pair (fun a k ha => ?_) h
  split
  · exact ha
  · exact hf a.1 t k ha

theorem eachTrap_formed (hu : u.formed) (s : State) (i : Instr) (x : Trap) (t : Nat) (ks : List Nat) : (eachTrap s i x u t ks).1.formed :=
  eachSlice_formed (fun _ t k hv => State.formed_trapIn hv s t k i x) hu t ks

theorem issueEach_formed {f : State → State → Nat → List Nat → State → Nat → Nat → State × Did}
    (hf : ∀ st u t ks v t' k, st.formed → u.formed → v.formed → (f st u t ks v t' k).1.formed) (h : s.formed) (i : Instr) :
    Result.formed (issue i (fun st u t ks => eachSlice (f st u t ks) u t ks) s) :=
  issue_formed (fun st u t ks hst hu => eachSlice_formed (fun v t' k hv => hf st u t ks v t' k hst hu hv) hu t ks) h i

theorem issueRegs_formed (h : s.formed) (i : Instr) (f : State → Nat → Nat → Regs → Except Trap Regs) : Result.formed (issueRegs i f s) := by
  unfold issueRegs
  refine issueEach_formed (fun st u _ _ v t k _ _ hv => ?_) h i
  split
  · exact hv
  · exact State.formed_trapIn hv st t k i _

theorem issueCloser_formed {f : State → Nat → Nat → State × Did} (hf : ∀ v t k, v.formed → (f v t k).1.formed) (h : s.formed) (i : Instr) :
    Result.formed (issueCloser i f s) := by
  unfold issueCloser
  refine issueEach_formed (fun st _ _ _ v t k _ _ hv => ?_) h i
  have hp := State.formed_preIn hv st t k
  split
  · next hw => exact hf _ t k (Pre.formed_ok hp hw)
  · next hw => exact Pre.formed_left hp hw

theorem State.formed_endBefore (hv : v.formed) (s : State) (t k : Nat) : (s.endBefore v t k).state.formed := by
  unfold State.endBefore
  split
  · exact State.formed_rollbackSlice hv t k
  · split
    · exact State.formed_capacityFault hv t k _
    · next w hw => exact State.formed_settlePrev (s := s.trueRegs v t k) hv t k w hw

theorem State.formed_room (hv : v.formed) (s : State) (t k : Nat) (wl rl : List LineId) : (s.room v t k wl rl).state.formed := by
  unfold State.room
  dsimp only
  split
  · exact hv
  · exact State.formed_endBefore hv s t k

theorem State.formed_atOnce {x : State × Did} (hx : x.1.formed) (s : State) (i : Instr) (t k : Nat) : (s.atOnce i t k x).1.formed := by
  unfold State.atOnce
  split
  · exact State.formed_finishSlice hx s i t (k, .plain)
  · exact hx

theorem State.formed_holdAndGo (hv : v.formed) (s : State) (t k : Nat) (es : List Held) (wl rl : List LineId) : (s.holdAndGo v t k es wl rl).1.formed := by
  have hp := State.formed_room hv s t k wl rl
  unfold State.holdAndGo
  split
  · next w hw =>
    have h1 := Pre.formed_ok hp hw
    exact h1
  · next w hw => exact Pre.formed_left hp hw

theorem event_formed {f : State → State} (hf : (f s).formed) : Result.formed (event f s) := Result.formed_next (State.formed_partAll hf s)

end

/-- What an access does in one slice keeps memory's form. -/
def ActKeepsForm (act : State → State → Nat → Nat → List (Acc × Leaf × Nat) → State × Did) : Prop :=
  ∀ st v t k oks, v.formed → (act st v t k oks).1.formed

/-- What a lane instruction does in one slice keeps memory's form. -/
def LanesKeepForm (act : State → Nat → List (Acc × Fate) → State → Nat → State × Did) : Prop := ∀ st t fs v k, v.formed → (act st t fs v k).1.formed

section
variable {s u v : State}

/-! ### Operations below -/

theorem State.formed_of_quiet {c : Nat} (h : s.formed) (q : s.quiet c u) : u.formed := q.form h

theorem State.formed_touch (h : s.formed) (c : Nat) (vas : List W64) : (s.touch c vas).formed := (State.touch_quiet (State.quiet_refl 0 s) c vas).form h

theorem State.formed_setD (h : s.formed) (a : Nat) : (s.setD a).formed := (State.setD_quiet (State.quiet_refl 0 s) a).form h

theorem State.formed_appendLog (h : s.formed) (c : Nat) (r : LogRec) : (s.appendLog c r).formed := (State.appendLog_quiet (State.quiet_refl 0 s) c r).form h

theorem State.formed_postFault (h : s.formed) (d : Nat) (e : FaultEntry) : (s.postFault d e).formed := (State.postFault_quiet (State.quiet_refl 0 s) d e).form h

theorem State.formed_invalidate (h : s.formed) (ls : List LineId) (skip : Option Nat) : (s.invalidate ls skip).formed :=
  (State.invalidate_quiet (State.quiet_refl 0 s) ls skip).form h

/-! ### Sleepers, barriers, the clock, REGANG, EXIT -/

theorem State.formed_sleep (h : s.formed) (t k : Nat) (z : Sleep) : (s.sleep t k z).1.formed := h

theorem State.formed_wake (h : s.formed) (t k : Nat) (f : Regs → Regs) : (s.wake t k f).formed := by
  unfold State.wake
  refine State.formed_closeOwn ?_ t k _ _
  exact h

theorem State.formed_barCheck (h : s.formed) (t : Nat) : (s.barCheck t).formed := by
  unfold State.barCheck
  dsimp only
  split
  · exact h
  · refine State.formed_foldl (fun u k hu => ?_) ?_
    · split
      · exact hu
      · exact State.formed_wake hu t k id
    · exact h

theorem State.formed_clockOn (h : s.formed) : s.clockOn.formed := by
  unfold State.clockOn
  split <;> exact h

theorem State.formed_regangJoin (h : s.formed) (t home : Nat) (pc : W64) : (s.regangJoin t home pc).formed := by
  have hfold : ∀ l : List Nat, (l.foldl (fun u k => u.modSlice t k Slice.rejoin) s).formed := by
    intro l
    refine State.formed_foldl (fun _ _ hu => ?_) h
    exact hu
  exact hfold _

theorem State.formed_exitSlice (h : s.formed) (t k : Nat) : (s.exitSlice t k).1.formed := by
  unfold State.exitSlice
  split
  · exact State.formed_rollbackSlice h t k
  · split
    · exact State.formed_capacityFault h t k _
    · next s0 hs0 =>
      have h0 := State.formed_settlePrev h t k s0 hs0
      dsimp only
      split
      · exact State.formed_rollbackSlice h0 t k
      · split
        · exact State.formed_capacityFault h0 t k _
        · next s1 hs1 =>
          have h2 := fun en pc => State.formed_deliver (State.formed_commitChunk h0 t k true s1 hs1) t k en pc pc
          split
          · exact h2 _ _
          · refine State.formed_barCheck ?_ t
            exact h2 _ _

theorem State.formed_arrive (h : s.formed) (t k n : Nat) : (s.arrive t k n).formed := by
  unfold State.arrive
  dsimp only
  refine State.formed_sleep ?_ t k .bar
  show State.formed (if _ then _ else _)
  split
  · exact h
  · split
    · exact h
    · exact State.formed_appendLog h _ _

theorem State.formed_gateAgain (h : s.formed) (t k : Nat) : (s.gateAgain t k).formed := by
  unfold State.gateAgain
  split
  · dsimp only
    split
    · exact State.formed_wake h t k _
    · exact h
  · exact h

/-! ### Loads -/

theorem State.formed_postMisses (h : s.formed) (t kind : Nat) (ms : List (Nat × Bool)) : (s.postMisses t kind ms).formed := by
  unfold State.postMisses
  exact State.formed_foldl (fun u p hu => State.formed_postFault hu _ _) h

theorem State.formed_remoteLoad (h : s.formed) (npa n : Nat) : (s.remoteLoad npa n).1.formed := h

theorem State.formed_ncLoad (h : s.formed) (t k a n : Nat) : (s.ncLoad t k a n).1.formed := by
  unfold State.ncLoad
  dsimp only
  split
  · split <;> exact h
  · exact h

theorem State.formed_load (h : s.formed) (t k : Nat) (l : Leaf) (npa n : Nat) : (s.load t k l npa n).1.formed := by
  unfold State.load
  split
  · exact h
  · dsimp only
    split
    · exact State.formed_ncLoad h t k _ n
    · exact h

theorem State.formed_loadLanes (h : s.formed) (t k n : Nat) (put : Regs → Nat → Nat → Regs) (xs : List (Acc × Leaf × Nat)) :
    (s.loadLanes t k n put xs).formed := by
  unfold State.loadLanes
  exact State.formed_foldl (fun u x hu => State.formed_load hu t k x.2.1 x.2.2 n) h

theorem State.formed_fillNc (h : s.formed) (t k : Nat) (oks : List (Acc × Leaf × Nat)) : (s.fillNc t k oks).formed := by
  unfold State.fillNc
  refine State.formed_foldl (fun w x hw => ?_) h
  split
  · exact State.formed_ncLoad hw t k _ 1
  · exact hw

theorem State.formed_remoteStores (h : s.formed) (xs : List (Acc × Leaf × Nat)) (bytes : Acc → List Byte) : (s.remoteStores xs bytes).formed := by
  have hu : (xs.foldl (fun v x => v.setD x.2.1.addr) s).formed := State.formed_foldl (fun v x hv => State.formed_setD hv _) h
  unfold State.remoteStores
  generalize xs.foldl (fun v x => v.setD x.2.1.addr) s = u at hu
  exact hu

/-! ### The checks of a gang's access, and of one slice's -/

theorem preEach_formed (hu : u.formed) (s : State) (t : Nat) (ks : List Nat) : (preEach s t u ks).1.formed := by
  unfold preEach
  refine State.formed_foldl_pair (fun a k ha => ?_) hu
  have hp := State.formed_preIn ha s t k
  split
  · exact ha
  · split
    · next w hw => exact Pre.formed_ok hp hw
    · next w hw => exact Pre.formed_left hp hw

/-- The state that a check of a gang's access leaves, passed or not. -/
def checkState {α : Type} : Except State (State × α) → State
  | .error v => v
  | .ok r => r.1

theorem checkState_error {α : Type} {x : Except State (State × α)} {w : State} (h : (checkState x).formed) (hx : x = .error w) : w.formed := by
  subst hx; exact h

theorem checkState_ok {α : Type} {x : Except State (State × α)} {w : State} {a : α} (h : (checkState x).formed) (hx : x = .ok (w, a)) : w.formed := by
  subst hx; exact h

theorem State.formed_gangCheck (hu : u.formed) (s : State) (t : Nat) (ks : List Nat) (i : Instr) (w : Want) (addr : Regs → Nat → W64) (all : Bool) :
    (checkState (s.gangCheck u t ks i w addr all)).formed := by
  have hp := fun vas js => preEach_formed (State.formed_touch hu (u.team t).ctx vas) s t js
  unfold State.gangCheck
  dsimp only
  generalize hk : (if all = true then ks else _) = js
  have h1 := hp ((u.laneAccs t ks addr).map (·.va)) js
  generalize hq : preEach s t (u.touch (u.team t).ctx ((u.laneAccs t ks addr).map (·.va))) js = p at h1 ⊢
  split
  · exact h1
  · split
    · next x hx => exact eachTrap_formed h1 s i x t _
    · exact h1

theorem checkSlice_formed (hv : v.formed) (i : Instr) (closes : Bool) (look : State → Nat → Nat → List (W64 × Want)) (s : State) (t k : Nat) :
    (checkState (checkSlice i closes look s v t k)).formed := by
  have h0 := State.formed_touch hv (v.team t).ctx ((look v t k).map (·.1))
  have hp := State.formed_preIn h0 s t k
  have hpre : ∀ b : Bool, (if b = true then s.preIn (v.touch (v.team t).ctx ((look v t k).map (·.1))) t k
      else Pre.ok (v.touch (v.team t).ctx ((look v t k).map (·.1)))).state.formed := by
    intro b
    split
    · exact hp
    · exact h0
  unfold checkSlice
  dsimp only
  split
  · next w hw => exact Pre.formed_left (hpre _) hw
  · next w hw =>
    have h1 := Pre.formed_ok (hpre _) hw
    split
    · exact State.formed_trapIn h1 s t k i _
    · exact h1
    · exact h1

theorem sliceAccess_formed {act : State → State → Nat → Nat → List (Acc × Leaf × Nat) → State × Did} (ha : ActKeepsForm act) (i : Instr) (kind : Nat)
    (closes : Bool) (look : State → Nat → Nat → List (W64 × Want)) : KeepsForm (sliceAccess i kind closes look act) := by
  intro s u t ks _ hu
  unfold sliceAccess
  refine State.formed_postMisses (State.formed_foldl_pair (fun a k hk => ?_) hu) t kind _
  have hc := checkSlice_formed hk i closes look s t k
  dsimp only
  split
  · exact hk
  · split
    · split <;> exact hk
    · split
      · next hx => exact checkState_error hc hx
      · next hx =>
        have hv := checkState_ok hc hx
        split
        · exact hv
        · split
          · exact ha s _ t k _ hv
          · split
            · exact ha s _ t k _ hv
            · exact State.formed_fillNc hv t k _

theorem laneBody_formed {act : State → Nat → List (Acc × Fate) → State → Nat → State × Did} (ha : LanesKeepForm act) (i : Instr) (w : State → Nat → Want)
    (addr : Regs → Nat → W64) : KeepsForm (laneBody i w addr act) := by
  intro s u t ks _ hu
  have hc := State.formed_gangCheck hu s t ks i (w u t) addr false
  unfold laneBody
  split
  · next hx => exact checkState_error hc hx
  · next fs hx => exact State.formed_postMisses (eachSlice_formed (fun v t k hv => ha s t fs v k hv) (checkState_ok hc hx) t _) t _ _

/-! ### What a load or a store does in a slice -/

theorem State.formed_closeNow (hv : v.formed) (s : State) (i : Instr) (t k : Nat) : (s.closeNow i t k v).1.formed := by
  rw [State.closeNow]
  exact State.formed_finishSlice hv s i t (k, .closer)

/-- A slice's room for its lines, looked for where nothing of the instruction has been done in it. -/
theorem State.formed_roomUnlessParked (hv : v.formed) (s : State) (b : Bool) (t k : Nat) (wl rl : List LineId) :
    (if b = true then Pre.ok v else s.room v t k wl rl).state.formed := by
  split
  · exact hv
  · exact State.formed_room hv s t k wl rl

theorem loadSlice_formed (i : Instr) (n : Nat) (put : Regs → Nat → Nat → Regs) : LanesKeepForm (loadSlice i n put) := by
  intro s t fs v k hv
  have hr := fun wl rl => State.formed_roomUnlessParked hv s (v.slice t k).park.isSome t k wl rl
  unfold loadSlice
  dsimp only
  split
  · next hw => exact Pre.formed_left (hr _ _) hw
  · next w hw =>
    have hl := State.formed_loadLanes (Pre.formed_ok (hr _ _) hw) t k n put (ofSlice k (oksOf fs))
    split
    · split
      · refine State.formed_closeNow ?_ s i t k
        exact hl
      · exact hl
    · exact hl

theorem loadBody_formed (i : Instr) (n : Nat) (addr : Regs → Nat → W64) (put : Regs → Nat → Nat → Regs) : KeepsForm (loadBody i n addr put) :=
  laneBody_formed (loadSlice_formed i n put) i _ addr

theorem storeSlice_formed (i : Instr) (bytes : Regs → Nat → List Byte) (buf : Regs → Acc → Leaf → Nat → Buffered)
    (red : Regs → List RedLane → List Nat → Held) : LanesKeepForm (storeSlice i bytes buf red) := by
  intro s t fs v k hv
  have hr := fun wl rl => State.formed_roomUnlessParked hv s (v.slice t k).park.isSome t k wl rl
  unfold storeSlice
  dsimp only
  split
  · next hw => exact Pre.formed_left (hr _ _) hw
  · next w hw =>
    have h1 := Pre.formed_ok (hr _ _) hw
    split
    · split
      · exact h1
      · refine State.formed_closeNow ?_ s i t k
        split
        · rw [if_pos rfl]
          refine State.formed_remoteStores ?_ _ _
          exact h1
        · rw [if_neg (by decide)]
          exact h1
    · exact h1

theorem storeBody_formed (i : Instr) (w : State → Nat → Want) (addr : Regs → Nat → W64) (bytes : Regs → Nat → List Byte)
    (buf : Regs → Acc → Leaf → Nat → Buffered) (red : Regs → List RedLane → List Nat → Held) : KeepsForm (storeBody i w addr bytes buf red) :=
  laneBody_formed (storeSlice_formed i bytes buf red) i w addr

theorem sldAct_formed (i : Instr) (d n : Nat) : ActKeepsForm (sldAct i d n) := by
  intro s v t k oks hv
  have hr := State.formed_room hv s t k [] (v.loadLines t oks)
  unfold sldAct
  split
  · next hw => exact Pre.formed_left hr hw
  · next w hw =>
    have hl := State.formed_loadLanes (Pre.formed_ok hr hw) t k n (fun r _ x => r.setS d (BitVec.ofNat 64 x)) oks
    dsimp only
    split
    · refine State.formed_closeNow ?_ s i t k
      exact hl
    · exact hl

theorem sstAct_formed (i : Instr) (d n : Nat) : ActKeepsForm (sstAct i d n) := by
  intro s v t k oks hv
  unfold sstAct
  dsimp only
  split
  · refine State.formed_closeNow ?_ s i t k
    have h1 : (v.remoteStores oks fun _ => leBytes n ((v.slice t k).regs.getS d).toNat).formed := State.formed_remoteStores hv oks _
    exact h1
  · exact State.formed_holdAndGo hv s t k _ _ _

/-! ### Team memory and atomics -/

theorem teamBody_formed {act : State → Nat → Nat → List Acc → State} (ha : ∀ w t k own, w.formed → (act w t k own).formed) (i : Instr) (n : Nat)
    (addr : Regs → Nat → W64) (wr rd : Bool) : KeepsForm (teamBody i n addr wr rd act) := by
  intro s u t ks _ hu
  unfold teamBody
  dsimp only
  split
  · exact eachTrap_formed hu s i _ t ks
  · refine eachSlice_formed (fun v t k hv => ?_) hu t ks
    have hr := fun wl rl => State.formed_room hv s t k wl rl
    split
    · next hw => exact Pre.formed_left (hr _ _) hw
    · next w hw =>
      refine State.formed_atOnce ?_ s i t k
      exact ha w t k _ (Pre.formed_ok (hr _ _) hw)

theorem atomLane_formed (h : s.formed) (o : AtomOp) (t : Nat) (dbl : Bool) (tm k : Nat) (x : Acc × Leaf × Nat) : (atomLane o t dbl tm k s x).formed := by
  unfold atomLane
  dsimp only
  split
  · exact State.formed_setD h _
  · exact h

theorem atomBody_formed (i : Instr) (o : AtomOp) (t x b : Nat) (dbl : Bool) : KeepsForm (atomBody i o t x b dbl) := by
  intro s u tm ks _ hu
  have hc := State.formed_gangCheck hu s tm ks i (wantAtom o dbl true u tm) (laneAddr b x) true
  unfold atomBody
  split
  · next hx => exact checkState_error hc hx
  · next v js fs hx =>
    have hv := checkState_ok hc hx
    dsimp only
    split
    · dsimp only
      refine eachSlice_formed ?_ hv tm js
      intro w tm k hw
      have hz := State.formed_foldl (f := atomLane o t dbl tm k) (l := ofSlice k (oksOf fs)) (fun u x hu => atomLane_formed hu o t dbl tm k x) hw
      generalize (ofSlice k (oksOf fs)).foldl (atomLane o t dbl tm k) w = z at hz
      split
      · dsimp only
        refine State.formed_finishSlice ?_ s i tm _
        exact hz
      · dsimp only
        refine State.formed_capacityFault ?_ tm k _
        exact hw
    · dsimp only
      refine State.formed_postMisses (eachSlice_formed (fun w tm k hw => ?_) hv tm js) tm 2 _
      exact hw

theorem atomtLane_formed (h : s.formed) (o : AtomOp) (t : Nat) (dbl : Bool) (tm k : Nat) (a : Acc) : (atomtLane o t dbl tm k s a).formed := h

/-! ### WAIT -/

theorem State.formed_waitWord (h : s.formed) (t : Nat) (oks : List (Acc × Leaf × Nat)) : (s.waitWord t oks).1.formed := by
  unfold State.waitWord
  split
  · exact h
  · split <;> exact h

theorem waitAct_formed (c : WaitCond) (a b : Nat) : ActKeepsForm (waitAct c a b) := by
  intro s v t k oks hv
  have hm := State.formed_waitWord hv t oks
  unfold waitAct
  dsimp only
  split
  · exact hm
  · exact hm

theorem State.formed_waitAgain (h : s.formed) (t k : Nat) : (s.waitAgain t k).formed := by
  unfold State.waitAgain
  split
  · split
    · exact h
    · next c a b _ _ =>
      have h1 := State.formed_touch h (s.team t).ctx [(s.slice t k).regs.getS a]
      dsimp only
      split
      · refine State.formed_trapAt ?_ t k _ _
        exact h1
      · refine State.formed_postMisses ?_ t 0 _
        exact h1
      · have hm := fun oks => State.formed_waitWord h1 t oks
        split
        · exact State.formed_wake (hm _) t k id
        · exact hm _
  · exact h

end

theorem Spilled.formed_held {x : Spilled} {u : State} (h : x.state.formed) (hx : x = .held u) : u.formed := by subst hx; exact h

section
variable {s u v : State}

theorem State.formed_modSlice (h : s.formed) (t k : Nat) (f : Slice → Slice) : (s.modSlice t k f).formed := h

/-! ### Channels -/

theorem State.formed_takeSlot (h : s.formed) (t k o n : Nat) (op : ChanOp) (c : Chan) : (s.takeSlot t k o n op c).formed := by
  unfold State.takeSlot
  refine State.formed_invalidate ?_ _ _
  exact h

theorem State.formed_chanAgain (h : s.formed) (t k : Nat) : (s.chanAgain t k).formed := by
  unfold State.chanAgain
  split
  · split
    · exact h
    · split
      · exact h
      · split
        · refine State.formed_trapAt ?_ t k _ _
          exact h
        · split
          · split
            · exact State.formed_wake (State.formed_takeSlot h t k _ _ _ _) t k _
            · exact h
          · exact h
  · exact h

/-! ### Accesses of threads -/

theorem State.formed_of_steady (h : s.formed) (q : s.steady u) : u.formed := q.1.form h

theorem State.formed_threadPost (h : s.formed) (w : Who) (asked : List Nat) (kind page : Nat) (m : Bool) : (s.threadPost w asked kind page m).formed :=
  State.formed_of_steady h (State.steady_threadPost (State.steady_refl s) w asked kind page m)

theorem State.formed_threadPosts (h : s.formed) (w : Who) (asked : List Nat) (kind : Nat) (qs : List (Nat × Bool)) :
    (qs.foldl (fun u q => u.threadPost w asked kind q.1 q.2) s).formed :=
  State.formed_foldl (fun _ _ hu => State.formed_threadPost hu w asked kind _ _) h

theorem State.formed_threadWrite (h : s.formed) {w : Who} {gone : List Nat} {bs : List (Nat × Byte × Byte)} (hu : s.threadWrite w gone bs = .ok u) :
    u.formed := State.formed_of_steady h (State.steady_threadWrite (State.steady_refl s) hu)

theorem State.formed_spillWrite (h : s.formed) (w : Who) (asked : List Nat) (e : Spill) (r : ThreadWrite) : (s.spillWrite w asked e r).state.formed :=
  State.formed_of_steady h (State.steady_spillWrite (State.steady_refl s) w asked e r)

/-! ### Matrix commands -/

theorem State.formed_descBytes (h : s.formed) (t k n : Nat) (oks : List (Acc × Leaf × Nat)) : (s.descBytes t k n oks).1.formed := by
  unfold State.descBytes
  split
  · exact h
  · exact State.formed_load h t k _ _ n

theorem State.formed_joinConds (h : s.formed) (t k : Nat) : (s.joinConds t k).1.formed := h

theorem State.formed_mwaitAgain (h : s.formed) (t k : Nat) : (s.mwaitAgain t k).formed := by
  unfold State.mwaitAgain
  split
  · split
    · exact State.formed_wake (State.formed_joinConds h t k) t k _
    · exact h
  · exact h

theorem State.formed_takeTurn (h : s.formed) (t : Nat) : (s.takeTurn t).formed := by
  unfold State.takeTurn
  split <;> exact h

theorem State.formed_matrixDone (h : s.formed) (t : Nat) (m : MatCmd) : (s.matrixDone t m).formed := by
  have h1 : ∀ r : LogRec, (if m.wrapped = true then s.appendLog (s.matrixWho t m).ctx r else s).formed := by
    intro r
    split
    · exact State.formed_appendLog h _ _
    · exact h
  unfold State.matrixDone
  dsimp only
  split
  · exact State.formed_appendLog (h1 _) _ _
  · exact h1 _

theorem State.formed_stepLoop (h : s.formed) (t i : Nat) : (s.stepLoop t i).formed := by
  unfold State.stepLoop
  split
  · split
    · dsimp only
      split
      · split
        · refine State.formed_matrixDone ?_ t _
          exact State.formed_takeTurn h t
        · exact State.formed_takeTurn h t
      · exact h
    all_goals exact h
  · exact h

theorem State.formed_drainWrite {a : Option (State × Option Nat)} (ha : ∀ r, a = some r → r.1.formed) (t : Nat) (m : MatCmd) (w : Who)
    (bs : List (Nat × Byte × Byte)) : ∀ r, State.drainWrite t m w a bs = some r → r.1.formed := by
  intro r hr
  unfold State.drainWrite at hr
  split at hr
  · cases hr
  · next s bad =>
    have hs : s.formed := ha (s, bad) rfl
    split at hr
    · next u hu => cases hr; exact State.formed_threadWrite hs hu
    · cases hr; exact hs
    · split at hr
      · cases hr
      · next u hu => cases hr; exact Spilled.formed_held (State.formed_spillWrite hs w m.asked _ _) hu

theorem foldl_drainWrite_formed (t : Nat) (m : MatCmd) (w : Who) (ws : List (List (Nat × Byte × Byte))) {a : Option (State × Option Nat)}
    (ha : ∀ r, a = some r → r.1.formed) : ∀ r, ws.foldl (State.drainWrite t m w) a = some r → r.1.formed := by
  induction ws generalizing a with
  | nil => exact ha
  | cons b ws ih => exact ih (State.formed_drainWrite ha t m w b)

theorem State.formed_drainTile (h : s.formed) (t i : Nat) : (s.drainTile t i).formed := by
  unfold State.drainTile
  split
  · exact h
  · next m _ =>
    split
    · exact h
    · next tile p d _ =>
      by_cases hr : (!s.mayRun t i) = true
      · rw [if_pos hr]
        exact h
      · rw [if_neg hr]
        extract_lets +onlyGivenNames w eo outs ress isBad
        have h1 := State.formed_touch h w.ctx (outs ++ ress)
        split
        · exact State.formed_matrixDone h1 t _
        · extract_lets +onlyGivenNames misses s1
          by_cases hm : (!misses.isEmpty) = true
          · rw [if_pos hm]
            exact State.formed_threadPosts h1 w m.asked 0 misses
          · rw [if_neg hm]
            extract_lets +onlyGivenNames rows fl bytes late m1
            split
            · extract_lets +onlyGivenNames bs
              refine State.formed_matrixDone (State.formed_invalidate ?_ _ none) t m1
              exact h1
            · extract_lets +onlyGivenNames ws
              split
              · exact h
              · next u bad hw =>
                have hu : u.formed := by
                  refine foldl_drainWrite_formed t m1 w ws ?_ _ hw
                  intro r hr
                  cases hr
                  exact State.formed_threadPosts h1 w m.asked 1 late
                extract_lets +onlyGivenNames m2
                split
                · exact hu
                · exact State.formed_matrixDone hu t m2

theorem State.formed_performCmd (h : s.formed) (t i : Nat) : (s.performCmd t i).formed := by
  unfold State.performCmd
  split
  · exact h
  · split
    · exact h
    · split
      · refine State.formed_matrixDone ?_ t _
        exact h
      · refine State.formed_matrixDone ?_ t _
        exact h
      · refine State.formed_matrixDone ?_ t _
        exact h
      · exact h
      · exact h

/-! ### Ranges held, and FORFEIT -/

theorem holdRange_formed (hv : v.formed) (o : RangeOp) (s : State) (t k : Nat) (base len : W64) : (holdRange o s v t k base len).1.formed := by
  have hr := State.formed_room hv s t k [.range (v.slice t k).chunk.held.length] []
  unfold holdRange
  split
  · next hw => exact Pre.formed_left hr hw
  · next w hw =>
    have h1 := Pre.formed_ok hr hw
    exact h1

theorem State.formed_release (h : s.formed) (b g : Nat) : (s.release b g).formed := (State.release_quiet (State.quiet_refl 0 s) b g).form h

theorem State.formed_forfeitBlock (h : s.formed) (b : Nat) : (s.forfeitBlock b).1.formed := by
  unfold State.forfeitBlock
  dsimp only
  split
  · exact h
  · exact State.formed_foldl (fun u g hu => State.formed_release hu b g) (Memory.wf_clear (b * 4096) 4096 h)

theorem State.formed_tableWrite (h : s.formed) (ws : List (Nat × Byte)) : (s.tableWrite ws).formed := (State.tableWrite_quiet (State.quiet_refl 0 s) ws).form h

theorem State.formed_shootdown (h : s.formed) (c : Nat) (blocks : List Nat) (va n skip : Nat) : (s.shootdown c blocks va n skip).formed := h

theorem foldl_forfeitBlock_formed (h : s.formed) (n : Nat) (bs : List Nat) :
    (bs.foldl (fun (a : State × Nat) b => let x := a.1.forfeitBlock b; (x.1, a.2 + x.2)) (s, n)).1.formed := by
  refine State.formed_foldl_pair ?_ h
  intro a b ha
  exact State.formed_forfeitBlock ha b

theorem State.formed_forfeitPage (h : s.formed) (t k : Nat) (va : W64) (l : Leaf) : (s.forfeitPage t k va l).1.formed := by
  have h1 := foldl_forfeitBlock_formed (State.formed_finishPosts h (s.team t).ctx) 0 ((s.finishPosts (s.team t).ctx).pageBlocks l)
  unfold State.forfeitPage
  dsimp only at h1 ⊢
  exact State.formed_shootdown (State.formed_tableWrite h1 _) _ _ _ _ _

theorem foldl_forfeitPage_formed (h : s.formed) (t k n : Nat) (ps : List (W64 × Leaf)) :
    (ps.foldl (fun (x : State × Nat) p => let y := x.1.forfeitPage t k p.1 p.2; (y.1, x.2 + y.2)) (s, n)).1.formed := by
  refine State.formed_foldl_pair ?_ h
  intro x p hx
  exact State.formed_forfeitPage hx t k p.1 p.2

theorem State.formed_forfeitAccount (h : s.formed) (t k c f : Nat) : (s.forfeitAccount t k c f).formed := by
  unfold State.forfeitAccount
  dsimp only
  split
  · exact h
  · refine State.formed_invalidate ?_ _ _
    exact h

theorem forfeitSlice_formed (hv : v.formed) (i : Instr) (d a b : Nat) (s : State) (t k : Nat) : (forfeitSlice i d a b s v t k).1.formed := by
  unfold forfeitSlice
  dsimp only
  split
  · exact hv
  · split
    · exact State.formed_trapIn hv s t k i _
    · split
      · exact State.formed_trapIn hv s t k i _
      · split
        · exact State.formed_trapIn hv s t k i _
        · dsimp only
          exact State.formed_modSlice (State.formed_forfeitAccount (foldl_forfeitPage_formed (State.formed_touch hv _ _) t k _ _) t k _ _) t k _

/-! ### Engine commands and their threads -/

theorem State.formed_holdEngine (hv : v.formed) (s : State) (i : Instr) (t k d : Nat) (rl : List LineId) (o : EngOp) :
    (s.holdEngine v i t k d rl o).1.formed := by
  have hr := State.formed_room hv s t k [] (.issued t :: rl)
  unfold State.holdEngine
  split
  · next hw => exact Pre.formed_left hr hw
  · next w hw =>
    have h1 := Pre.formed_ok hr hw
    refine State.formed_atOnce ?_ s i t k
    exact h1

theorem State.formed_cwaitAgain (h : s.formed) (t k : Nat) : (s.cwaitAgain t k).formed := by
  unfold State.cwaitAgain
  split
  · split
    · exact State.formed_wake h t k id
    · exact h
  · exact h

theorem State.formed_chanByEngine (h : s.formed) (o n : Nat) (op : ChanOp) (c : Chan) : (s.chanByEngine o n op c).formed := by
  unfold State.chanByEngine
  refine State.formed_invalidate ?_ _ none
  exact h

theorem State.formed_engineAcquire (h : s.formed) (e o n : Nat) : (s.engineAcquire e o n).formed := by
  unfold State.engineAcquire
  split
  · exact h
  · split
    · next c _ =>
      split
      · have h1 := State.formed_chanByEngine h o n .acq c
        exact h1
      · exact h
    · exact h

theorem State.formed_copyRead (h : s.formed) (e rk q : Nat) : (s.copyRead e rk q).formed :=
  State.formed_of_steady h (State.steady_copyRead (State.steady_refl s) e rk q)

theorem State.formed_copyWrite (h : s.formed) (e n tgt : Nat) : (s.copyWrite e n tgt).formed :=
  State.formed_of_steady h (State.steady_copyWrite (State.steady_refl s) e n tgt)

theorem State.formed_engineSent (h : s.formed) (e n : Nat) : (s.engineSent e n).formed :=
  State.formed_of_steady h (State.steady_engineSent (State.steady_refl s) e n)

/-! ### ALLRED and REPSYNC -/

theorem State.formed_roundMismatch (h : s.formed) (es : List (Nat × Engine)) : (s.roundMismatch es).formed := by
  unfold State.roundMismatch
  refine State.formed_foldl (fun u e hu => ?_) h
  exact State.formed_appendLog hu _ _

theorem State.formed_closeRound (h : s.formed) (g : Nat) : (s.closeRound g).formed := h

theorem State.formed_allredJoin (h : s.formed) (e : Nat) : (s.allredJoin e).formed := by
  unfold State.allredJoin
  dsimp only
  split
  · exact State.formed_roundMismatch h _
  · split
    · exact h
    · split <;> exact h

theorem State.formed_allredRead (h : s.formed) (e i : Nat) : (s.allredRead e i).formed := by
  unfold State.allredRead
  dsimp only
  split
  · exact h
  · exact State.formed_of_steady h (State.steady_engineRead (State.steady_refl s) e i _)

theorem State.formed_allredWrite (h : s.formed) (e i : Nat) : (s.allredWrite e i).formed :=
  State.formed_of_steady h (State.steady_allredWrite (State.steady_refl s) e i)

theorem State.formed_repCopy (h : s.formed) (e i : Nat) : (s.repCopy e i).formed := State.formed_of_steady h (State.steady_repCopy (State.steady_refl s) e i)

theorem State.formed_stopEngine (h : s.formed) (e : Nat) : (s.stopEngine e).formed :=
  State.formed_of_steady h (State.steady_stopEngine (State.steady_refl s) e)

theorem State.formed_allredCombine (h : s.formed) (g : Nat) (seq : W64) : (s.allredCombine g seq).formed := by
  unfold State.allredCombine
  split
  · exact h
  · next x _ =>
    extract_lets +onlyGivenNames es ranks away present twice
    clear_value es
    cases es with
    | nil => exact h
    | cons e0 l =>
      dsimp only
      have hv : ∀ (l : List (Nat × Engine)) (f : Engine → Engine) (n : Nat),
          (l.foldl (fun (u : State) e => u.modEngine e.1 f) { s with draws := n }).formed := by
        intro l f n
        refine State.formed_foldl ?_ ?_
        · intro u e hu
          exact hu
        · exact h
      by_cases hc : (!x.isOpen || x.round != seq || !((e0 :: l).all fun e => e.2.contributed) || !(present || twice)) = true
      · rw [if_pos hc]
        exact h
      · rw [if_neg hc]
        split
        · exact State.formed_roundMismatch h _
        · split
          · exact State.formed_closeRound (hv _ _ _) g
          · exact State.formed_closeRound (hv _ _ _) g

end

section
variable {s u v : State}

/-! ### Engine threads that end, and spilled writes -/

theorem State.formed_enginePublish (h : s.formed) (e : Engine) : (s.enginePublish e).formed := by
  unfold State.enginePublish
  split
  · split
    · split
      · exact State.formed_appendLog h _ _
      · exact State.formed_chanByEngine h _ _ _ _
    · exact h
  · exact h

theorem State.formed_engineSettle (h : s.formed) (e : Engine) : (s.engineSettle e).formed := by
  unfold State.engineSettle
  split
  · split
    · refine State.formed_invalidate ?_ _ none
      exact h
    · exact h
  · exact h

theorem State.formed_originDone (h : s.formed) (o : Origin) : (s.originDone o).formed := (State.originDone_quiet (State.quiet_refl 0 s) o).form h

theorem State.formed_engineEnd (h : s.formed) (e : Nat) : (s.engineEnd e).formed := by
  have hlog : ∀ f : Nat → LogRec, (match (s.engine e).failed with
      | some a => s.appendLog (s.engine e).ctx (f a)
      | none => s).formed := by
    intro f
    split
    · exact State.formed_appendLog h _ _
    · exact h
  have h1 := fun f => State.formed_enginePublish (State.formed_engineSettle (hlog f) (s.engine e)) (s.engine e)
  unfold State.engineEnd
  dsimp only
  split
  · exact h
  · split
    · refine State.formed_invalidate ?_ _ none
      exact h1 fun a => (s.engineWho (s.engine e)).record 0x0017 (BitVec.ofNat 64 a) (BitVec.ofNat 32 (s.engine e).ticket)
    · refine State.formed_originDone ?_ _
      exact h1 fun a => (s.engineWho (s.engine e)).record 0x0017 (BitVec.ofNat 64 a) (BitVec.ofNat 32 (s.engine e).ticket)

theorem State.formed_spillSent (h : s.formed) (x : Spill) : (s.spillSent x).formed := by
  unfold State.spillSent
  split
  · exact State.formed_engineSent h _ _
  · exact h

theorem State.formed_spillFails (h : s.formed) (x : Spill) : (s.spillFails x).formed := by
  unfold State.spillFails
  dsimp only
  split <;> exact h

theorem State.formed_drainSettle (h : s.formed) (d : Nat) (x : Spill) : (s.drainSettle d x).formed := by
  unfold State.drainSettle
  split
  · split
    · split
      · exact State.formed_matrixDone h _ _
      · exact h
    · exact h
  · exact h

theorem State.formed_spillAgain (h : s.formed) {w : Who} {gone : List Nat} {x : Spill} (hu : s.spillAgain w gone x = .ok u) : u.formed := by
  unfold State.spillAgain at hu
  split at hu
  · split at hu
    · split at hu
      · exact State.formed_of_steady h (State.steady_repPass (State.steady_refl s) hu)
      · cases hu; exact h
    · exact State.formed_threadWrite h hu
  · exact State.formed_threadWrite h hu

theorem State.formed_replaySpill (h : s.formed) (d i : Nat) : (s.replaySpill d i).formed := by
  unfold State.replaySpill
  split
  · exact h
  · next x _ =>
    have h1 : (if s.spillOpen x = true then s.reach (s.spillWho d x).1 x.bytes else s).formed := by
      split
      · exact State.formed_touch h _ _
      · exact h
    dsimp only
    generalize (if s.spillOpen x = true then s.reach (s.spillWho d x).1 x.bytes else s) = u at h1
    split
    · exact h1
    · split
      · next w hw =>
        have hw := State.formed_spillAgain h1 hw
        refine State.formed_drainSettle (State.formed_spillSent ?_ x) d x
        exact hw
      · refine State.formed_drainSettle (State.formed_spillFails ?_ x) d x
        exact h1
      · exact State.formed_threadPost h1 _ _ _ _ _
      · exact h1

/-! ### Chunk events -/

theorem State.formed_commitStep (h : s.formed) (t k : Nat) : (s.commitStep t k).formed := by
  unfold State.commitStep
  dsimp only
  split
  · exact State.formed_finishPost h t k
  · split
    · split
      · exact h
      · split
        · next s1 hs1 => exact State.formed_commitPrev h t k s1 hs1
        · exact State.formed_capacityFault h t k _
    · split
      · exact h
      · split
        · next s1 hs1 => exact State.formed_commitChunk h t k false s1 hs1
        · exact State.formed_capacityFault h t k _

theorem State.formed_commitEvent (h : s.formed) (t k : Nat) : (s.commitEvent t k).formed := by
  unfold State.commitEvent
  split
  · exact h
  · exact State.formed_tellCommit (State.formed_commitStep h t k) t k

theorem State.formed_rollbackEvent (h : s.formed) (t k : Nat) : (s.rollbackEvent t k).formed := by
  unfold State.rollbackEvent
  split
  · exact h
  · dsimp only
    split
    · exact h
    · exact State.formed_regroup (State.formed_foldl (fun u i hu => State.formed_rollbackSlice hu t i) h) _ _ _

/-! ### What the command processor reads and writes -/

theorem State.formed_cpTouch (h : s.formed) (c : Nat) (va : W64) (n : Nat) : (s.cpTouch c va n).formed := State.formed_touch h _ _

theorem State.formed_cpPost (h : s.formed) (c : Nat) (who : Nat × Nat) (kind : Nat) (ps : List (W64 × Bool)) : (s.cpPost c who kind ps).formed :=
  (State.cpPost_quiet (State.quiet_refl 0 s) c who kind ps).form h

theorem State.formed_cpReads (h : s.formed) (c : Nat) (va : W64) (n : Nat) : (s.cpReads c va n).formed :=
  (State.cpReads_quiet (State.quiet_refl 0 s) c va n).form h

theorem State.formed_writeIndex (h : s.formed) (q : Nat) : (s.writeIndex q).formed := (State.still_writeIndex (State.still_refl s) q).form h

theorem State.formed_writeIndices (h : s.formed) (c : Nat) : (s.writeIndices c).formed := (State.still_writeIndices (State.still_refl s) c).form h

theorem State.formed_writeSignal (h : s.formed) (c : Nat) (va value : W64) (add : Bool) : (s.writeSignal c va value add).formed :=
  (State.writeSignal_quiet (State.quiet_refl 0 s) c va value add).form h

theorem State.formed_admitLaunch (h : s.formed) (c : Nat) (a : W64) (bs : List Byte) (o : Origin) : (s.admitLaunch c a bs o).formed :=
  (State.admitLaunch_quiet (State.quiet_refl c s) a bs o).form h

theorem State.formed_graphStart (h : s.formed) (c : Nat) (a : W64) (bs : List Byte) (o : Origin) : (s.graphStart c a bs o).formed :=
  (State.graphStart_quiet (State.quiet_refl 0 s) c a bs o).form h

theorem State.formed_graphCheck (h : s.formed) (g : Nat) : (s.graphCheck g).formed := (State.graphCheck_quiet (State.quiet_refl 0 s) g).form h

theorem State.formed_graphTry (h : s.formed) (g : Nat) : (s.graphTry g).formed := (State.graphTry_quiet (State.quiet_refl 0 s) g).form h

theorem State.formed_graphTry_refuse (h : s.formed) (g : Nat) (v : GraphRun) : (State.graphTry.refuse s g v).formed :=
  (State.graphTry_refuse_quiet (State.quiet_refl 0 s) g v).form h

theorem State.formed_graphRefuse (h : s.formed) (g n : Nat) : (s.graphRefuse g n).formed := (State.graphRefuse_quiet (State.quiet_refl 0 s) g n).form h

theorem State.formed_nodeDone (h : s.formed) (g n : Nat) (b : Bool) : (s.nodeDone g n b).formed := (State.nodeDone_quiet (State.quiet_refl 0 s) g n b).form h

theorem State.formed_refuseLaunch (h : s.formed) (c : Nat) (a sg : W64) (o : Origin) : (s.refuseLaunch c a sg o).formed :=
  (State.refuseLaunch_quiet (State.quiet_refl 0 s) c a sg o).form h

theorem State.formed_endSignal (h : s.formed) (c : Nat) (who : Nat × Nat) (va value : W64) (add : Bool) (name : W64) :
    (s.endSignal c who va value add name).1.formed := (State.endSignal_quiet (State.quiet_refl 0 s) c who va value add name).form h

theorem State.formed_launchCheck (h : s.formed) (l : Nat) : (s.launchCheck l).formed := by
  have hr := State.formed_endSignal h (s.launch l).ctx (4, l) (s.launch l).params.signal (s.launch l).params.value (s.launch l).params.sigadd (s.launch l).addr
  unfold State.launchCheck
  dsimp only
  split
  · exact h
  · split
    · refine State.formed_foldl (fun t e ht => State.formed_admitLaunch ht _ _ _ _) (State.formed_originDone ?_ _)
      exact hr
    · exact hr

theorem State.formed_settle (h : s.formed) : s.settle.formed := by
  unfold State.settle
  exact State.formed_foldl (fun _ l ht => State.formed_launchCheck ht l)
    (State.formed_foldl (fun _ g ht => State.formed_graphCheck (State.formed_graphTry ht g) g) h)

/-! ### Host queues -/

theorem State.formed_packetDone (h : s.formed) (q idx : Nat) : (s.packetDone q idx).formed := h

theorem State.formed_modQueue (h : s.formed) (q : Nat) (f : HostQueue → HostQueue) : (s.modQueue q f).formed := h

theorem State.formed_writeNotify (h : s.formed) (q : Nat) (x : W64) : (s.writeNotify q x).formed := by
  unfold State.writeNotify
  split
  · exact h
  · dsimp only
    split
    · exact State.formed_appendLog h _ _
    · split <;> exact h

theorem State.formed_pass1 (h : s.formed) (q : Nat) (run : Option PacketRun) : (s.pass1 q run).formed :=
  State.formed_writeIndex (s := s.modQueue q _) h q

theorem State.formed_refusePacket (h : s.formed) (q : Nat) (va : W64) : (s.refusePacket q va).formed := State.formed_appendLog h _ _

theorem State.formed_actPacket (h : s.formed) (q : Nat) (bs : List Byte) : (s.actPacket q bs).formed := by
  unfold State.actPacket
  dsimp only
  split
  · exact State.formed_admitLaunch (State.formed_pass1 (State.formed_cpReads h _ _ _) q _) _ _ _ _
  · exact State.formed_graphStart (State.formed_pass1 (State.formed_cpReads h _ _ _) q _) _ _ _ _
  · split
    · exact State.formed_pass1 (State.formed_cpReads h _ _ _) q _
    · exact State.formed_modQueue (State.formed_pass1 (State.formed_cpReads h _ _ _) q _) _ _
  · exact State.formed_pass1 h q _

theorem State.formed_failPacket (h : s.formed) (q : Nat) (bs : List Byte) : (s.failPacket q bs).formed := by
  unfold State.failPacket
  dsimp only
  split
  · exact State.formed_appendLog (State.formed_pass1 h q _) _ _
  · exact State.formed_appendLog (State.formed_pass1 h q _) _ _
  · exact State.formed_pass1 (State.formed_refusePacket h q _) q _

theorem State.formed_consume (h : s.formed) (gone : List Nat) (q : Nat) (type : Option Nat) : (s.consume gone q type).formed := by
  unfold State.consume
  dsimp only
  split
  · exact h
  · split
    · exact State.formed_cpPost (State.formed_cpTouch h _ _ _) _ _ _ _
    · exact State.formed_pass1 (State.formed_refusePacket (State.formed_cpTouch h _ _ _) q _) q _
    · split
      · exact State.formed_pass1 (State.formed_refusePacket (State.formed_cpReads h _ _ _) q _) q _
      · split
        · exact h
        · split
          · exact h
          · split
            · exact State.formed_cpPost (State.formed_cpTouch h _ _ _) _ _ _ _
            · exact State.formed_failPacket (State.formed_cpTouch (State.formed_cpReads h _ _ _) _ _ _) q _
            · exact State.formed_actPacket (State.formed_cpReads h _ _ _) q _

theorem State.formed_signalNow (h : s.formed) (gone : List Nat) (q : Nat) (p : PacketRun) : (s.signalNow gone q p).formed := by
  unfold State.signalNow
  dsimp only
  split
  · exact State.formed_cpPost h _ _ _ _
  · exact State.formed_packetDone (State.formed_refusePacket (State.formed_cpTouch h _ _ _) q _) q _
  · exact State.formed_packetDone (State.formed_writeSignal h _ _ _ _) q _

theorem State.formed_rereadQueue (h : s.formed) (gone : List Nat) (q : Nat) : (s.rereadQueue gone q).formed := by
  unfold State.rereadQueue
  dsimp only
  split
  · split
    · exact h
    · split
      · exact State.formed_cpPost h _ _ _ _
      · exact State.formed_modQueue (State.formed_packetDone (State.formed_refusePacket (State.formed_cpTouch h _ _ _) q _) q _) _ _
      · split
        · exact State.formed_modQueue (State.formed_packetDone (State.formed_cpReads h _ _ _) q _) _ _
        · exact State.formed_modQueue (State.formed_cpReads h _ _ _) _ _
  · exact h

/-! ### Graph nodes -/

theorem State.formed_setNode (h : s.formed) (g n : Nat) (x : NodeState) : (s.setNode g n x).formed := h

theorem State.formed_modGraph (h : s.formed) (g : Nat) (f : GraphRun → GraphRun) : (s.modGraph g f).formed := h

theorem State.formed_nodeTouch (h : s.formed) (c : Nat) (v : Node) : (s.nodeTouch c v).formed := by
  unfold State.nodeTouch
  extract_lets n
  split
  · exact h
  · exact State.formed_cpTouch h _ _ _

theorem State.formed_copyNodeFails (h : s.formed) (c g n : Nat) (va : W64) : (s.copyNodeFails c g n va).formed :=
  State.formed_nodeDone (State.formed_appendLog h _ _) g n false

theorem State.formed_loopRead (h : s.formed) (g n k : Nat) (v : GraphRun) : (s.loopRead g n k v).formed := by
  unfold State.loopRead
  dsimp only
  split
  · exact State.formed_nodeDone (State.formed_modGraph (State.formed_cpReads h _ _ _) g _) g n false
  · split
    · exact State.formed_nodeDone (State.formed_modGraph (State.formed_appendLog (State.formed_cpReads h _ _ _) _ _) g _) g n false
    · exact State.formed_modGraph (State.formed_cpReads h _ _ _) g _

theorem State.formed_actNode (h : s.formed) (g n : Nat) (v : GraphRun) : (s.actNode g n v).formed := by
  have hr := fun m => State.formed_cpReads h v.ctx (v.node n).p0 m
  unfold State.actNode
  dsimp only
  split
  · exact State.formed_admitLaunch (State.formed_setNode (hr 256) g n .running) _ _ _ _
  · split
    · exact hr 128
    · exact State.formed_copyNodeFails (hr 128) _ g n _
  · exact State.formed_nodeDone (State.formed_writeSignal h _ _ _ _) g n false
  · split
    · exact State.formed_nodeDone (hr 8) g n false
    · exact State.formed_modGraph (State.formed_setNode (hr 8) g n .running) g _
  · exact State.formed_nodeDone (hr 8) g n _
  · exact State.formed_loopRead h g n 0 v

theorem State.formed_failNode (h : s.formed) (g n : Nat) (v : GraphRun) : (s.failNode g n v).formed := by
  unfold State.failNode
  split
  · exact State.formed_refuseLaunch h _ _ _ _
  · exact State.formed_copyNodeFails h _ g n _
  · exact State.formed_graphRefuse h g n

theorem State.formed_startNode (h : s.formed) (gone : List Nat) (g n kind : Nat) : (s.startNode gone g n kind).formed := by
  unfold State.startNode
  split
  · exact h
  · split
    · exact h
    · split
      · exact State.formed_cpPost (State.formed_nodeTouch h _ _) _ _ _ _
      · exact State.formed_failNode (State.formed_nodeTouch h _ _) g n _
      · exact State.formed_actNode h g n _

theorem State.formed_iterate (h : s.formed) (gone : List Nat) (g n : Nat) : (s.iterate gone g n).formed := by
  unfold State.iterate
  split
  · exact h
  · split
    · exact h
    · split
      · exact State.formed_graphCheck (State.formed_setNode h g n .done) g
      · split
        · exact State.formed_cpPost h _ _ _ _
        · exact State.formed_graphRefuse (State.formed_nodeTouch h _ _) g n
        · exact State.formed_loopRead h g n _ _

theorem State.formed_rereadNode (h : s.formed) (gone : List Nat) (g n : Nat) : (s.rereadNode gone g n).formed := by
  unfold State.rereadNode
  split
  · exact h
  · split
    · exact h
    · split
      · exact State.formed_cpPost h _ _ _ _
      · exact State.formed_graphRefuse (State.formed_nodeTouch h _ _) g n
      · dsimp only
        split
        · exact State.formed_nodeDone (State.formed_cpReads h _ _ _) g n false
        · exact State.formed_modGraph (State.formed_cpReads h _ _ _) g _

theorem State.formed_reread (h : s.formed) (c : Nat) : (s.reread c).formed := by
  have h1 := State.formed_foldl (f := fun u q => u.rereadQueue [] q) (l := s.queuesOf c) (fun _ q hu => State.formed_rereadQueue hu [] q) h
  unfold State.reread
  exact State.formed_foldl (fun _ g hu => State.formed_foldl (fun _ n hx => State.formed_rereadNode hx [] g n) hu) h1

/-! ### Pages that are not there for the command processor -/

theorem State.formed_queueGone (h : s.formed) (page q : Nat) : (s.queueGone page q).formed := by
  have h1 : (if s.headWaits q page = true then s.consume [page] q none else s).formed := by
    split
    · exact State.formed_consume h _ _ _
    · exact h
  unfold State.queueGone
  generalize (if s.headWaits q page = true then s.consume [page] q none else s) = s1 at h1 ⊢
  have h2 : (match (s1.queue q).signalReady with
      | some p => if (s1.cpAccess (s1.queue q).ctx p.addr 8 true).waitsFor page then s1.signalNow [page] q p else s1
      | none => s1).formed := by
    split
    · split
      · exact State.formed_signalNow h1 _ _ _
      · exact h1
    · exact h1
  extract_lets +onlyGivenNames s1' s2
  change s2.formed at h2
  clear_value s2
  extract_lets +onlyGivenNames s3
  have h3 : s3.formed := by
    show State.formed (match (s2.queue q).packets.find? fun p => p.kind == 3 with
      | some p => if (s2.cpAccess (s2.queue q).ctx p.addr 8 false).waitsFor page then s2.rereadQueue [page] q else s2
      | none => s2)
    split
    · split
      · exact State.formed_rereadQueue h2 _ _
      · exact h2
    · exact h2
  split
  · exact State.formed_modQueue h3 q _
  · exact h3

theorem State.formed_nodeGone (h : s.formed) (page g n : Nat) : (s.nodeGone page g n).formed := by
  unfold State.nodeGone
  split
  · exact h
  · split
    · exact h
    · exact State.formed_rereadNode (State.formed_iterate (State.formed_startNode h _ g n _) _ g n) _ g n

theorem State.formed_signalGone (h : s.formed) (c page : Nat) (va name : W64) : (s.signalGone c page va name).1.formed := by
  unfold State.signalGone
  split
  · exact State.formed_appendLog (State.formed_cpTouch h _ _ _) _ _
  · exact h

theorem State.formed_graphGone (h : s.formed) (page g : Nat) : (s.graphGone page g).formed := by
  unfold State.graphGone
  split
  · exact h
  · next v _ =>
    have hn : ∀ va count, (s.nodesTouch v.ctx va count).formed := fun va count => (State.nodesTouch_quiet (State.quiet_refl 0 s) v.ctx va count).form h
    split
    · split
      · exact State.formed_graphTry_refuse (hn _ _) g v
      · exact h
    · split
      · have hs := State.formed_signalGone h v.ctx page v.signal v.header
        dsimp only
        split
        · exact State.formed_graphCheck (State.formed_modGraph hs g _) g
        · exact h
      · exact State.formed_foldl (fun _ n hu => State.formed_nodeGone hu page g n) h

theorem State.formed_launchGone (h : s.formed) (page l : Nat) : (s.launchGone page l).formed := by
  have hs := State.formed_signalGone h (s.launch l).ctx page (s.launch l).params.signal (s.launch l).addr
  unfold State.launchGone
  dsimp only
  split
  · exact h
  · split
    · refine State.formed_launchCheck ?_ l
      exact hs
    · exact h

theorem State.formed_cpGone (h : s.formed) (c page : Nat) : (s.cpGone c page).formed := by
  have h1 := State.formed_foldl (f := fun u q => u.queueGone page q) (l := s.queuesOf c) (fun _ q hu => State.formed_queueGone hu page q) h
  unfold State.cpGone
  generalize (s.queuesOf c).foldl (fun u q => u.queueGone page q) s = s1 at h1 ⊢
  exact State.formed_foldl (fun _ l hu => State.formed_launchGone hu page l) (State.formed_foldl (fun _ g hu => State.formed_graphGone hu page g) h1)

/-! ### Teams placed and swapped out -/

theorem State.formed_startTeam (h : s.formed) (t : Nat) (chans : List Chan) : (s.startTeam t chans).formed := by
  unfold State.startTeam
  refine State.formed_invalidate ?_ _ none
  exact h

theorem State.formed_dropCopies (h : s.formed) (t : Nat) : (s.dropCopies t).formed := by
  unfold State.dropCopies
  exact State.formed_foldl (fun _ k hu => State.formed_modSlice hu t k _) h

theorem State.formed_freeImage (h : s.formed) (t : Nat) : (s.freeImage t).formed := (State.still_freeImage (State.still_refl s) t).form h

theorem State.formed_settleOn (h : s.formed) (t c : Nat) (floor : Bool) : (s.settleOn t c floor).formed := by
  unfold State.settleOn
  dsimp only
  split
  · exact State.formed_freeImage h t
  · exact State.formed_freeImage (State.formed_dropCopies h t) t

theorem State.formed_chanFault (h : s.formed) (t : Nat) : (s.chanFault t).formed := State.formed_contextFault h _ _ _

theorem State.formed_placeOn (h : s.formed) (gone : List Nat) (t c : Nat) (floor : Bool) : (s.placeOn gone t c floor).formed := by
  unfold State.placeOn
  split
  · exact State.formed_settleOn h t c floor
  · split
    · exact State.formed_cpPost h _ _ _ _
    · exact State.formed_chanFault h t
    · split
      · exact State.formed_chanFault h t
      · exact State.formed_settleOn (State.formed_startTeam (State.formed_cpReads h _ _ _) t _) t c floor

theorem State.formed_teamPlaced (h : s.formed) (t : Nat) : (s.teamPlaced t).formed := by
  unfold State.teamPlaced
  split
  · split
    · exact State.formed_placeOn h [] t _ false
    · exact h
  · exact h

theorem State.formed_tableGone (h : s.formed) (c page : Nat) : (s.tableGone c page).formed := by
  unfold State.tableGone
  refine State.formed_foldl (fun u t hu => ?_) h
  split
  · exact State.formed_chanFault hu t
  · exact hu

theorem State.formed_swapAway (h : s.formed) (t : Nat) : (s.swapAway t).formed := by
  have h1 := State.formed_completeTeam h t
  unfold State.swapAway
  dsimp only
  split
  · exact h1
  · exact (State.still_swapOut (State.still_refl _) t).form h1

theorem State.formed_swapped (h : s.formed) (t : Nat) : (s.swapped t).formed := by
  have h1 := State.formed_swapAway h t
  unfold State.swapped
  split
  · exact h
  · dsimp only
    split
    · exact h1
    · split
      · exact State.formed_placeOn h1 [] _ _ false
      · exact h1

theorem State.formed_runnable (h : s.formed) (t : Nat) : (s.runnable t).formed := by
  unfold State.runnable
  split <;> exact h

theorem State.formed_endQuantum (h : s.formed) (d : Nat) : (s.endQuantum d).formed := by
  unfold State.endQuantum
  split <;> exact h

theorem State.formed_floorPlace (h : s.formed) (c d : Nat) : (s.floorPlace c d).formed := by
  unfold State.floorPlace
  split
  · exact h
  · split
    · exact h
    · next t _ =>
      split
      · exact State.formed_cpPost h _ _ _ _
      · split
        · exact h
        · have h1 : (if (s.coreFor t).isSome = true then s else (s.floorVictims t).foldl (fun u v => u.swapAway v) s).formed := by
            split
            · exact h
            · exact State.formed_foldl (fun _ v hu => State.formed_swapAway hu v) h
          dsimp only
          generalize (if (s.coreFor t).isSome = true then s else (s.floorVictims t).foldl (fun u v => u.swapAway v) s) = u at h1
          split
          · exact State.formed_placeOn h1 [] t _ true
          · exact h1

theorem State.formed_logConds (h : s.formed) (t : Nat) : (s.logConds t).formed := by
  unfold State.logConds
  exact State.formed_foldl (fun _ e hu => State.formed_foldl (fun _ i hv => State.formed_appendLog hv _ _) hu) h

theorem State.formed_retire (h : s.formed) (t : Nat) : (s.retire t).formed := by
  have h1 := State.formed_freeImage (State.formed_logConds h t) t
  unfold State.retire
  split
  · exact h
  · refine State.formed_launchCheck (State.formed_invalidate ?_ _ none) _
    exact h1

end

section
variable {s u v : State}

/-! ### Mappings and faults -/

theorem State.formed_putReplicas (h : s.formed) (l : Leaf) (reps : List (Nat × Nat)) : (s.putReplicas l reps).formed := by
  unfold State.putReplicas
  split
  · exact h
  · refine State.formed_foldl ?_ h
    intro _ _ hu
    exact hu

theorem State.formed_attach (h : s.formed) (b : Nat) (gs : List Nat) : (s.attach b gs).formed := (State.attach_quiet (State.quiet_refl 0 s) b gs).form h

theorem State.formed_draw (h : s.formed) (b n : Nat) : (s.draw b n).2.formed := (State.draw_quiet (State.quiet_refl 0 s) b n).form h

theorem State.formed_setBlock (h : s.formed) (b : Nat) (v : Block) : (s.setBlock b v).formed := h

theorem State.formed_clear (h : s.formed) (a n : Nat) : ({ s with mem := s.mem.clear a n } : State).formed := Memory.wf_clear a n h

theorem State.formed_grantBlock (h : s.formed) (c : Nat) (own : Bool) (l : Leaf) (uio : Bool) (d b : Nat) : (s.grantBlock c own l uio d b).formed := by
  unfold State.grantBlock
  dsimp only
  split
  · exact State.formed_attach (State.formed_draw (State.formed_setBlock (State.formed_clear h (b * 4096) 4096) b _) b _) b _
  · split
    · exact State.formed_attach (State.formed_draw (State.formed_setBlock h b _) b _) b _
    · exact h

theorem State.formed_unmapBlock (h : s.formed) (c : Nat) (l : Leaf) (b : Nat) : (s.unmapBlock c l b).formed := by
  unfold State.unmapBlock
  dsimp only
  split <;> exact h

/-- One node of a page table written, where it may be. -/
def State.addNode (o : Option State) (n : Nat × W64) : Option State :=
  match o with
  | none => none
  | some u =>
    if n.1 % 8 = 0 ∧ !u.isHost n.1 ∧ !isFabric n.1 ∧ (u.block (blockOf n.1)).owner.isNone ∧ !(u.readWord64 n.1).getLsbD 0 ∧
        n.2.getLsbD 0 ∧ !n.2.getLsbD 6 ∧ nodeOk 0 n.2 then
      some (u.tableWrite (byteRun n.1 (leBytes 8 n.2.toNat)))
    else none

theorem State.addNode_formed {o : Option State} (ho : ∀ w, o = some w → w.formed) (n : Nat × W64) : ∀ w, State.addNode o n = some w → w.formed := by
  intro w hw
  unfold State.addNode at hw
  split at hw
  · cases hw
  · next u =>
    obtain ⟨-, hw⟩ := Option.ite_none_right_eq_some.mp hw
    rw [← Option.some.inj hw]
    exact State.formed_tableWrite (ho u rfl) _

theorem foldl_addNode_formed (ns : List (Nat × W64)) {o : Option State} (ho : ∀ w, o = some w → w.formed) :
    ∀ w, ns.foldl State.addNode o = some w → w.formed := by
  induction ns generalizing o with
  | nil => exact ho
  | cons n ns ih => exact ih (State.addNode_formed ho n)

theorem State.formed_addNodes (h : s.formed) (ns : List (Nat × W64)) : ∀ w, s.addNodes ns = some w → w.formed :=
  foldl_addNode_formed ns fun w hw => by cases hw; exact h

theorem foldl_grantBlock_formed (h : s.formed) (c : Nat) (own : Bool) (l : Leaf) (uio : Bool) (bs : List (Nat × Nat)) :
    (bs.foldl (fun u b => u.grantBlock c own l uio b.1 b.2) s).formed := State.formed_foldl (fun _ b hu => State.formed_grantBlock hu c own l uio b.1 b.2) h

theorem foldl_unmapBlock_formed (h : s.formed) (c : Nat) (l : Leaf) (bs : List Nat) : (bs.foldl (fun u b => u.unmapBlock c l b) s).formed :=
  State.formed_foldl (fun _ b hu => State.formed_unmapBlock hu c l b) h

theorem State.formed_mapLeaf (h : s.formed) (m : LeafMap) : ∀ w, s.mapLeaf m = some w → w.formed := by
  intro w hw
  unfold State.mapLeaf at hw
  extract_lets +onlyGivenNames x va full at hw
  split at hw
  · cases hw
  · split at hw
    · cases hw
    · next s0 hs0 =>
      have h0 := State.formed_addNodes (State.formed_finishPosts h m.ctx) m.nodes s0 hs0
      split at hw
      · cases hw
      · next a _ =>
        have h1 := State.formed_tableWrite h0 (byteRun a (leBytes 8 m.entry.toNat))
        extract_lets +onlyGivenNames old valid oldLeaf l lo gone come own bs at hw
        clear_value old valid oldLeaf l lo gone come own bs
        split at hw
        · cases hw; exact h0
        · split at hw
          · cases hw
          · rw [← Option.some.inj hw]
            refine State.formed_putReplicas (foldl_grantBlock_formed ?_ _ _ _ _ _) _ _
            split
            · exact foldl_unmapBlock_formed (State.formed_shootdown h1 _ _ _ _ _) _ _ _
            · exact h1

theorem State.formed_refillQueue (h : s.formed) (d : Nat) : (s.refillQueue d).formed := (State.still_refillQueue (State.still_refl s) d).form h

theorem State.formed_dropEntry (h : s.formed) (d : Nat) (f : FaultEntry) : (s.dropEntry d f).formed := by
  unfold State.dropEntry
  refine State.formed_refillQueue ?_ d
  dsimp only
  split <;> exact h

theorem State.formed_threadsGone (h : s.formed) (d c page : Nat) : (s.threadsGone d c page).formed := h

theorem State.formed_unresolvable (h : s.formed) (d : Nat) (f : FaultEntry) : (s.unresolvable d f).formed := by
  have h1 := State.formed_threadsGone (State.formed_dropEntry h d f) d f.ctx f.page
  unfold State.unresolvable
  refine State.formed_contextFault ?_ _ _ _
  split
  · exact State.formed_tableGone (State.formed_cpGone h1 _ _) _ _
  · exact h1

theorem State.formed_answerFault (h : s.formed) (d seq : Nat) (m : Option LeafMap) : (s.answerFault d seq m).formed := by
  unfold State.answerFault
  split
  · exact h
  · split
    · exact State.formed_unresolvable h d _
    · split
      · split
        · next w hw => exact State.formed_writeIndices (State.formed_settle (State.formed_dropEntry (State.formed_mapLeaf h _ w hw) d _)) _
        · exact h
      · exact h

/-! ### Requests for capacity -/

theorem State.formed_setMailbox (h : s.formed) (c : Nat) (m : Mailbox) (die : Option Nat) (restart : Bool) : (s.setMailbox c m die restart).formed := by
  unfold State.setMailbox
  refine State.formed_invalidate ?_ _ none
  exact h

theorem State.formed_ask (h : s.formed) (c : Nat) (id : W64) (wanted owed urgency : Nat) (die : Option Nat) : (s.ask c id wanted owed urgency die).formed := by
  unfold State.ask
  dsimp only
  split
  · split
    · exact h
    · exact State.formed_setMailbox h _ _ _ _
  · exact State.formed_setMailbox h _ _ _ _

theorem State.formed_balloon (h : s.formed) (c : Nat) (id : W64) (wanted urgency : Nat) : (s.balloon c id wanted urgency).formed := by
  unfold State.balloon
  split
  · exact h
  · split
    · split
      · exact h
      · exact State.formed_ask h c id _ _ _ _
    · split
      · exact h
      · exact State.formed_ask h c id _ _ _ _

theorem State.formed_raiseUrgency (h : s.formed) (c : Nat) : (s.raiseUrgency c).formed := by
  unfold State.raiseUrgency
  extract_lets x
  split
  · exact h
  · extract_lets persists
    split
    · exact State.formed_setMailbox h _ _ _ _
    · exact h

theorem State.formed_expireRequest (h : s.formed) (c : Nat) : (s.expireRequest c).formed := by
  unfold State.expireRequest
  dsimp only
  split
  · exact State.formed_contextFault (State.formed_setMailbox h _ _ _ _) _ _ _
  · exact h

/-! ### The memory system -/

theorem State.formed_writeBack (h : s.formed) (line : Nat) (keep : Bool) : (s.writeBack line keep).formed :=
  (State.writeBack_quiet (State.quiet_refl 0 s) line keep).form h

theorem State.formed_replaceLine (h : s.formed) (line : Nat) : (s.replaceLine line).formed := by
  unfold State.replaceLine
  split
  · split
    · exact h
    · exact State.formed_invalidate (State.formed_writeBack h line false) _ none
  · exact h

theorem State.formed_refillAnte (h : s.formed) (d i : Nat) : (s.refillAnte d i).formed := by
  unfold State.refillAnte
  dsimp only
  split
  · exact h
  · split <;> exact h

theorem State.formed_placeLine (h : s.formed) (line : Nat) : (s.placeLine line).formed := h

theorem State.formed_fit (h : s.formed) (line : Nat) (skip : Option Nat) (n : Nat) : (s.fit line skip n).formed :=
  (State.fit_quiet line skip n (State.quiet_refl 0 s)).form h

/-- A line captured in its set, read into it first where it was not there. -/
def State.captureLine (u : State) (l : Nat) : State :=
  (State.fit { u with llc := FMap.put u.llc l (match FMap.find? u.llc l with
    | some v => { v with pin := true }
    | none => { dirty := false, code := FMap.get 0 (u.block (blockOfLine l)).codes (lineInBlock l), sectors := [], pin := true, stamp := u.clock }),
                          clock := u.clock + 1 } l none 64).placeLine l

theorem State.formed_captureLine (h : s.formed) (l : Nat) : (s.captureLine l).formed := by
  unfold State.captureLine
  refine State.formed_placeLine (State.formed_fit ?_ l none 64) l
  exact h

theorem foldl_captureLine_formed (h : s.formed) (ls : List Nat) : (ls.foldl State.captureLine s).formed :=
  State.formed_foldl (fun _ l hu => State.formed_captureLine hu l) h

theorem State.formed_captureRow (h : s.formed) (d : Nat) (lines : List Nat) : (s.captureRow d lines).formed := by
  unfold State.captureRow
  extract_lets +onlyGivenNames ls s1
  have h1 : s1.formed := foldl_captureLine_formed h ls
  clear_value s1
  split
  · exact h
  · refine State.formed_foldl ?_ h1
    intro _ _ hu
    exact hu

theorem State.formed_occupy (h : s.formed) (o : Option Nat) (up down : Nat) : (s.occupy o up down).formed :=
  (State.occupy_quiet (State.quiet_refl 0 s) o up down).form h

theorem State.formed_replaceBme (h : s.formed) (b : Nat) : (s.replaceBme b).formed := by
  unfold State.replaceBme
  dsimp only
  split
  · refine State.formed_occupy ?_ _ _ _
    exact h
  · split
    · refine State.formed_invalidate ?_ _ none
      exact h
    · exact h

theorem State.formed_setLine (h : s.formed) (skip : Option Nat) (e : Nat × Nat) : (s.setLine skip e).formed :=
  (State.setLine_quiet (State.quiet_refl 0 s) skip e).form h

theorem State.formed_failExpander (h : s.formed) (x : Nat) : (s.failExpander x).formed := by
  unfold State.failExpander
  split
  · exact h
  · split
    · exact h
    · extract_lets lost
      have h1 : lost.formed := State.formed_foldl (fun _ l hu => State.formed_setLine hu none (l, codePoison)) h
      exact h1

/-! ### Contexts and queues -/

theorem State.formed_createCtx (h : s.formed) (c : CtxSpec) : (s.createCtx c).formed := by
  unfold State.createCtx
  dsimp only
  split <;> exact h

theorem State.formed_createQueue (h : s.formed) (q : QueueSpec) : (s.createQueue q).formed := by
  unfold State.createQueue
  split <;> exact h

theorem State.formed_dropWork (h : s.formed) (c : Nat) : (s.dropWork c).formed := by
  rw [State.dropWork_eq]
  exact State.formed_setMailbox ((State.workDropped_still s c).form h) _ _ _ _

theorem State.formed_resetCtx (h : s.formed) (c : Nat) : (s.resetCtx c).formed := by
  cases hc : (FMap.find? s.ctxs c).isSome with
  | false =>
    unfold State.resetCtx
    rw [if_pos (by simp [Option.isSome_eq_false_iff.mp hc])]
    exact h
  | true =>
    have h1 : (s.admissionStopped c).formed := (State.admissionStopped_still s c).form h
    have h2 : (s.resetDone c).formed := (State.signals_still _ c).form (State.formed_dropWork h1 c)
    rw [State.resetCtx_eq hc]
    exact h2

theorem State.formed_freeBlock (h : s.formed) (b : Nat) : (s.freeBlock b).formed := by
  unfold State.freeBlock
  dsimp only
  split
  · exact State.formed_clear h (b * 4096) 4096
  · exact State.formed_clear (State.formed_foldl (fun _ g hu => State.formed_release hu b g) h) (b * 4096) 4096

theorem State.formed_destroyCtx (h : s.formed) (c : Nat) : (s.destroyCtx c).formed := by
  have h1 := fun bs : List Nat => State.formed_foldl (l := bs) (fun u b hu => State.formed_freeBlock (s := u) hu b) (State.formed_resetCtx h c)
  unfold State.destroyCtx
  split
  · exact h
  · exact h1 _

/-! ### The host and the module -/

theorem State.formed_hostRefused (h : s.formed) (npa : Nat) (write : Bool) : (s.hostRefused npa write).formed := by
  unfold State.hostRefused
  dsimp only
  split
  · exact State.formed_appendLog h _ _
  · exact h

theorem State.formed_hostReads (h : s.formed) (npa : Nat) : (s.hostReads npa).formed := by
  unfold State.hostReads
  dsimp only
  split
  · exact h
  · split
    · exact h
    · refine State.formed_hostRefused ?_ _ _
      exact h

theorem State.formed_agentWrite (h : s.formed) (ws : List (Nat × Byte)) (skip : Option Nat) : (s.agentWrite ws skip).formed :=
  (State.agentWrite_quiet (State.quiet_refl 0 s) ws skip).form h

theorem State.formed_hostWrites (h : s.formed) (npa : Nat) (bs : List Byte) : (s.hostWrites npa bs).formed := by
  have h1 := State.formed_agentWrite h (byteRun npa bs) none
  unfold State.hostWrites
  split
  · exact h
  · split
    · exact State.formed_hostRefused h _ _
    · extract_lets b r s1
      split
      · split
        · exact State.formed_appendLog h1 _ _
        · exact h1
      · exact h1

theorem State.formed_pokeBytes (h : s.formed) (a : Nat) (bs : List Byte) : (s.pokeBytes a bs).formed := State.wf_pokeBytes s a bs h

theorem State.formed_hostSnoops (h : s.formed) (npa : Nat) (inv : Bool) : (s.hostSnoops npa inv).formed := by
  have h1 := State.formed_invalidate h [.mem (lineOf npa)] none
  unfold State.hostSnoops
  split
  · exact h
  · dsimp only
    split
    · exact State.formed_pokeBytes h1 _ _
    · exact h1

theorem State.formed_defineGroup (h : s.formed) (g : GroupSpec) : (s.defineGroup g).formed := by
  unfold State.defineGroup
  split <;> exact h

theorem State.formed_endGroup (h : s.formed) (g : Nat) : (s.endGroup g).formed := by
  unfold State.endGroup
  split
  · exact h
  · exact State.formed_roundMismatch h _

theorem State.formed_emptyL1 (h : s.formed) (c : Nat) : (s.emptyL1 c).formed := by
  unfold State.emptyL1
  exact State.formed_foldl (fun _ t hu => State.formed_dropCopies hu t) h

theorem State.formed_gateCore (h : s.formed) (d n : Nat) : (s.gateCore d n).formed := by
  unfold State.gateCore
  split
  · split
    · exact State.formed_emptyL1 h _
    · exact h
  · exact h

theorem State.formed_appendRepair (h : s.formed) (f : RepairMap → RepairMap) : (s.appendRepair f).formed := h

theorem State.formed_retirePart (h : s.formed) (p : Part) : (s.retirePart p).formed := by
  unfold State.retirePart
  cases p
  case core d n =>
    dsimp only
    split <;> exact h
  all_goals
    dsimp only
    split
    · exact State.formed_appendRepair h _
    · exact h

theorem State.formed_partWorn (h : s.formed) (p : Part) (retry : Bool) (n : Nat) : (s.partWorn p retry n).formed := by
  unfold State.partWorn
  extract_lets c k old limit s1
  split
  · exact h
  · split
    · refine State.formed_retirePart ?_ p
      exact h
    · exact h

theorem State.formed_bringIn (h : s.formed) (d n : Nat) : (s.bringIn d n).formed := by
  unfold State.bringIn
  split
  · split
    · exact State.formed_appendRepair (s := ((State.emptyL1 s _).modCore _ _).modCore _ _) (State.formed_emptyL1 h _) _
    · exact h
  · exact h

theorem State.formed_moduleReset (h : s.formed) (cause : Nat) : (s.moduleReset cause).formed := by
  have h1 : Memory.wf (s.mem.filter fun e => s.isHost e.1) = true := Memory.wf_filter _ h
  unfold State.moduleReset
  dsimp only
  split <;> exact h1

theorem State.formed_thermalReset (h : s.formed) : s.thermalReset.formed :=
  State.formed_moduleReset (State.formed_foldl (fun _ c hu => State.formed_resetCtx hu c) h) 1

theorem State.formed_healthReport (h : s.formed) : s.healthReport.formed := by
  unfold State.healthReport
  split <;> exact h

/-! ### Traps of software, RTE, records, counters -/

theorem State.formed_recordBytes (h : s.formed) (t k n : Nat) (oks : List (Acc × Leaf × Nat)) : (s.recordBytes t k n oks).1.formed := by
  unfold State.recordBytes
  refine State.formed_foldl_pair ?_ h
  intro a x ha
  exact State.formed_load ha t k _ _ _

theorem State.formed_trapOwn (h : s.formed) (t k : Nat) (i : Instr) (cause n : Nat) (resume : W64) : (s.trapOwn t k i cause n resume).formed := by
  unfold State.trapOwn
  extract_lets +onlyGivenNames pc s0
  have h0 : s0.formed := h
  clear_value s0
  split
  · exact State.formed_capacityFault h0 t k _
  · next s1 hs1 =>
    have h2 := State.formed_deliver (State.formed_commitChunk h0 t k true s1 hs1) t k (s0.slice t k).fpxen pc pc
    dsimp only
    split
    · exact h2
    · exact State.formed_enterHandler h2 t k _

theorem State.formed_badFrame (h : s.formed) (t k : Nat) (pc : W64) : (s.badFrame t k pc).formed := State.formed_contextFault h _ _ _

theorem State.formed_rteFrame (h : s.formed) (t k : Nat) (waits : Bool) : (s.rteFrame t k waits).1.formed := by
  have h1 := State.formed_touch h (s.team t).ctx [s.frameAddr t k]
  unfold State.rteFrame
  extract_lets s1 pc
  clear_value pc
  change s1.formed at h1
  clear_value s1
  split
  · exact State.formed_trapAt h1 t k _ _
  · refine State.formed_postMisses ?_ t 0 _
    exact h1
  · next oks _ =>
    have hd := State.formed_descBytes h1 t k 128 oks
    split
    · exact h1
    · dsimp only
      split
      · exact State.formed_badFrame hd t k pc
      · exact hd

theorem State.formed_rte (h : s.formed) (waits : Bool) (st : State) (t k : Nat) : (st.rte waits s t k).1.formed := by
  unfold State.rte
  dsimp only
  split
  · exact State.formed_trapIn h st t k _ _
  · split
    · exact State.formed_rteFrame h t k waits
    · have hp := State.formed_preIn (v := s.modSlice t k fun v => { v with chunk := { v.chunk with instrs := v.chunk.instrs + 1 } }) h st t k
      split
      · next hw => exact Pre.formed_left hp hw
      · next hw => exact State.formed_rteFrame (Pre.formed_ok hp hw) t k waits

theorem State.formed_moreEvicts (h : s.formed) (t n : Nat) (free : W64) : (s.moreEvicts t n free).formed := by
  unfold State.moreEvicts
  split <;> exact h

/-! ### The order of moves -/

theorem State.formed_modEach (h : s.formed) (t : Nat) (ks : List Nat) (f : Slice → Slice) : (s.modEach t ks f).formed := by
  unfold State.modEach
  exact State.formed_foldl (fun _ k hu => State.formed_modSlice hu t k f) h

theorem State.formed_fetchTrap (h : s.formed) (x : Trap) (pc : W64) : (s.fetchTrap x pc).formed := by
  unfold State.fetchTrap
  refine State.formed_orLater h (State.formed_partTrapped (State.formed_regroup (State.formed_foldl (fun u k hu => ?_) h) _ _ _) s) _ _
  split
  · exact hu
  · exact State.formed_takeTrap hu _ k _

theorem State.formed_countOpp (h : s.formed) (c q : Nat) : (s.countOpp c q).formed := by
  unfold State.countOpp
  dsimp only
  split <;> exact h

theorem State.formed_opportunity (h : s.formed) (c q : Nat) (busy : List (Nat × Nat)) : (s.opportunity c q busy).1.formed := by
  have h1 : ∀ (l : List (Nat × Nat × W64)) ready best, (l.foldl (fun u x => u.regangJoin x.1 x.2.1 x.2.2) (s.ageGangs c q ready best)).formed := by
    intro l ready best
    refine State.formed_foldl ?_ ?_
    · intro u x hu
      exact State.formed_regangJoin hu _ _ _
    · exact h
  unfold State.opportunity
  dsimp only
  split
  · exact h
  · have h2 := State.formed_countOpp (h1 (s.joins c q) (s.readyGangs c q busy) (bestOf (s.readyGangs c q busy))) c q
    split
    · exact h2
    · exact State.formed_modEach h2 _ _ _

end

section
variable {s : State}

/-! ### Instructions that are more than one of the shapes above -/

theorem State.formed_roomThen (s : State) {v : State} (hv : v.formed) (t k : Nat) (wl rl : List LineId) (f : State → Slice → Slice) (d : Did) :
    (match s.room v t k wl rl with
      | .left w => (w, Did.gone)
      | .ok w => (w.modSlice t k (f w), d)).1.formed := by
  have hr := State.formed_room hv s t k wl rl
  split
  · next hw => exact Pre.formed_left hr hw
  · next hw =>
    have h1 := Pre.formed_ok hr hw
    exact h1

theorem gateOp_formed (h : s.formed) (i : Instr) (a : Nat) (o : Regs → GateOp) : Result.formed (gateOp i a o s) := by
  unfold gateOp
  refine issueEach_formed (fun st _ _ _ v t k _ _ hv => ?_) h i
  dsimp only
  split
  · exact State.formed_trapIn hv st t k i _
  · exact State.formed_holdAndGo hv st t k _ _ _

theorem chanBlock_formed (h : s.formed) (i : Instr) (d a : Nat) (op : ChanOp) : Result.formed (chanBlock i d a op s) := by
  unfold chanBlock
  refine issueEach_formed (fun st _ _ _ v t k _ _ hv => ?_) h i
  have hp := State.formed_preIn hv st t k
  split
  · next hw => exact Pre.formed_left hp hw
  · next w hw =>
    have h1 := Pre.formed_ok hp hw
    split
    · exact State.formed_trapIn h1 st t k i _
    · split
      · split
        · exact State.formed_modSlice (State.formed_takeSlot h1 t k _ _ _ _) t k _
        · exact State.formed_sleep h1 t k _
      · exact State.formed_sleep h1 t k _

theorem chanTry_formed (h : s.formed) (i : Instr) (d a : Nat) (op : ChanOp) : Result.formed (chanTry i d a op s) := by
  unfold chanTry
  refine issueEach_formed (fun st _ _ _ v t k _ _ hv => ?_) h i
  split
  · exact State.formed_trapIn hv st t k i _
  · next o n _ =>
    have hr := State.formed_room hv st t k [] [.chan o n]
    split
    · next hw => exact Pre.formed_left hr hw
    · next w hw =>
      have h1 := Pre.formed_ok hr hw
      split
      · split
        · refine State.formed_atOnce ?_ st i t k
          exact h1
        · exact h1
      · exact h1

theorem chanRelease_formed (h : s.formed) (i : Instr) (a : Nat) (op : ChanOp) : Result.formed (chanRelease i a op s) := by
  unfold chanRelease
  refine issueEach_formed (fun st _ _ _ v t k _ _ hv => ?_) h i
  split
  · exact State.formed_trapIn hv st t k i _
  · exact State.formed_holdAndGo hv st t k _ _ _

theorem matrixIssue_formed (h : s.formed) (i : Instr) (d : Nat) (loop : Option (BitVec 64 × BitVec 64 × Bool)) (cmd : List W64 → List Byte → MatOp) :
    Result.formed (matrixIssue i d loop cmd s) := by
  unfold matrixIssue
  extract_lets early drains
  clear_value early drains
  refine issue_formed (sliceAccess_formed ?_ i 0 false _) h i
  intro st v t k oks hv
  dsimp only
  split
  · exact State.formed_trapIn hv st t k i _
  · have hd := State.formed_descBytes hv t k 64 oks
    split
    · split
      · exact State.formed_trapIn hd st t k i _
      · exact State.formed_holdAndGo hd st t k _ _ _
    · exact State.formed_holdAndGo hv st t k _ _ _

theorem holdMatrix_formed (h : s.formed) (i : Instr) (op : Regs → MatOp) : Result.formed (holdMatrix i op s) := by
  unfold holdMatrix
  exact issueEach_formed (fun st _ _ _ v t k _ _ hv => State.formed_holdAndGo hv st t k _ _ _) h i

theorem eachRange_formed (h : s.formed) (i : Instr) (a b : Nat) (limited : Bool) {act : State → State → Nat → Nat → W64 → W64 → State × Did}
    (ha : ∀ st v t k base len, v.formed → (act st v t k base len).1.formed) : Result.formed (eachRange i a b limited act s) := by
  unfold eachRange
  refine issueEach_formed (fun st _ _ _ v t k _ _ hv => ?_) h i
  dsimp only
  split
  · exact hv
  · split
    · exact State.formed_trapIn hv st t k i _
    · exact ha st v t k _ _ hv

theorem checkedRange_formed (h : s.formed) (i : Instr) (a b : Nat) (w : Want) (o : RangeOp) : Result.formed (checkedRange i a b w o s) := by
  unfold checkedRange
  refine issue_formed ?_ h i
  intro st u t ks hst hu
  beta_reduce
  extract_lets +onlyGivenNames bad out
  have hout : out.1.formed := eachSlice_formed (fun v t k hv => State.formed_trapIn hv st t k i _) hu t _
  clear_value out
  split
  · exact hout
  · dsimp only
    refine sliceAccess_formed ?_ i 4 false _ st out.1 t _ hst hout
    intro st v t k _ hv
    dsimp only
    split
    · exact hv
    · exact holdRange_formed hv o st t k _ _

theorem afterCommits_formed {f : State → Result} (hf : Result.formed (f s)) (h : s.formed) : Result.formed (afterCommits f s) := by
  unfold afterCommits
  split
  · exact Result.formed_next h
  · exact hf

theorem readCounter_formed (h : s.formed) (i : Instr) (d : Nat) (rl : Nat → List LineId) (f : State → Nat → W64) : Result.formed (readCounter i d rl f s) := by
  unfold readCounter
  exact issueEach_formed (fun st _ _ _ v t k _ _ hv => State.formed_roomThen st hv t k [] (rl t) _ .plain) h i

theorem recordOp_formed (h : s.formed) (i : Instr) (a n : Nat) (op : W64 → List Byte → Held) : Result.formed (recordOp i a n op s) := by
  unfold recordOp
  refine issue_formed (sliceAccess_formed ?_ i 0 false _) h i
  intro st v t k oks hv
  dsimp only
  exact State.formed_holdAndGo (State.formed_recordBytes hv t k n oks) st t k _ _ _

theorem trapOp_formed (h : s.formed) (i : Instr) (cause n step : Nat) : Result.formed (trapOp i cause n step s) := by
  unfold trapOp
  refine issueEach_formed (fun st _ _ _ v t k _ _ hv => ?_) h i
  have hp := State.formed_preIn hv st t k
  split
  · next hw => exact Pre.formed_left hp hw
  · next hw =>
    dsimp only
    exact State.formed_trapOwn (Pre.formed_ok hp hw) t k i cause n _

theorem eachTraps_formed (h : s.formed) (i : Instr) (x : Trap) : Result.formed (eachTraps i x s) := by
  unfold eachTraps
  exact issue_formed (fun st u t ks _ hu => eachTrap_formed hu st i x t ks) h i

/-! ### Team memory -/

theorem execTld_formed (h : s.formed) (t x b : Nat) (dbl : Bool) (l : Nat) : Result.formed (execTld t x b dbl l s) := by
  unfold execTld
  refine issue_formed (teamBody_formed ?_ _ _ _ _ _) h _
  intro w tm k xs hw
  refine State.formed_foldl ?_ hw
  intro v a hv
  exact hv

theorem execTst_formed (h : s.formed) (t x b : Nat) (dbl : Bool) (l : Nat) : Result.formed (execTst t x b dbl l s) := by
  unfold execTst
  refine issue_formed (teamBody_formed ?_ _ _ _ _ _) h _
  intro w tm k xs hw
  split
  · exact hw
  · exact hw

theorem execAtomt_formed (h : s.formed) (o : AtomOp) (t x b : Nat) (dbl : Bool) : Result.formed (execAtomt o t x b dbl s) := by
  unfold execAtomt
  refine issue_formed (teamBody_formed ?_ _ _ _ _ _) h _
  intro w tm k xs hw
  exact State.formed_foldl (fun v a hv => atomtLane_formed hv o t dbl tm k a) hw

theorem execRedt_formed (h : s.formed) (o : AtomOp) (t x b : Nat) (dbl : Bool) : Result.formed (execRedt o t x b dbl s) := by
  unfold execRedt
  refine issue_formed (teamBody_formed ?_ _ _ _ _ _) h _
  intro w tm k xs hw
  split
  · exact hw
  · exact hw

/-! ### Synchronisation -/

theorem execBar_formed (h : s.formed) (n : Nat) : Result.formed (execBar n s) := by
  unfold execBar
  refine issueEach_formed (fun st _ _ _ v t k _ _ hv => ?_) h _
  have hp := State.formed_preIn hv st t k
  split
  · next hw => exact State.formed_barCheck (State.formed_arrive (Pre.formed_ok hp hw) t k n) t
  · next hw => exact Pre.formed_left hp hw

theorem execGwait_formed (h : s.formed) (p a b : Nat) : Result.formed (execGwait p a b s) := by
  unfold execGwait
  refine issueEach_formed (fun st _ _ _ v t k _ _ hv => ?_) h _
  have hp := State.formed_preIn hv st t k
  split
  · next hw => exact Pre.formed_left hp hw
  · next w hw =>
    have h1 := Pre.formed_ok hp hw
    dsimp only
    split
    · exact State.formed_trapIn h1 st t k _ _
    · split
      · exact h1
      · exact h1

/-! ### Matrix reads, joins and scales -/

theorem execMscl_formed (h : s.formed) (a b n : Nat) : Result.formed (execMscl a b n s) := by
  unfold execMscl
  refine issueEach_formed (fun st _ _ _ v t k _ _ hv => ?_) h _
  dsimp only
  split
  · exact State.formed_trapIn hv st t k _ _
  · exact State.formed_holdAndGo hv st t k _ _ _

theorem execMrd_formed (h : s.formed) (d a t l : Nat) : Result.formed (execMrd d a t l s) := by
  unfold execMrd
  refine issueEach_formed (fun st _ _ _ v tm k _ _ hv => ?_) h _
  dsimp only
  split
  · exact hv
  · exact hv

theorem execMwait_formed (h : s.formed) : Result.formed (execMwait s) := by
  unfold execMwait
  refine issueCloser_formed (fun v t k hv => ?_) h _
  dsimp only
  split
  · exact hv
  · exact hv

/-! ### Ranges and capacity -/

theorem execCdisc_formed (h : s.formed) (a b : Nat) : Result.formed (execCdisc a b s) := by
  unfold execCdisc
  refine eachRange_formed h _ a b false ?_
  intro st v t k base len hv
  dsimp only
  split
  · exact State.formed_trapIn hv st t k _ _
  · exact holdRange_formed (State.formed_touch hv _ _) .disc st t k base len

theorem execForfeit_formed (h : s.formed) (d a b : Nat) : Result.formed (execForfeit d a b s) := by
  unfold execForfeit
  refine issueEach_formed (fun st _ _ _ v t k _ _ hv => ?_) h _
  have hp := State.formed_preIn hv st t k
  split
  · next hw => exact forfeitSlice_formed (Pre.formed_ok hp hw) _ d a b st t k
  · next hw => exact Pre.formed_left hp hw

theorem execBalrd_formed (h : s.formed) (d : Nat) : Result.formed (execBalrd d s) := by
  unfold execBalrd
  exact issueEach_formed (fun st _ _ _ v t k _ _ hv => State.formed_roomThen st hv t k [] [.mailbox (v.team t).ctx] _ .plain) h _

theorem execBalack_formed (h : s.formed) (a b : Nat) : Result.formed (execBalack a b s) := by
  unfold execBalack
  refine issueCloser_formed (fun v t k hv => ?_) h _
  dsimp only
  refine State.formed_modSlice ?_ t k _
  split
  · refine State.formed_invalidate ?_ _ _
    exact hv
  · exact hv

theorem execCsize_formed (h : s.formed) (blk : Bool) (d a : Nat) : Result.formed (execCsize blk d a s) := by
  unfold execCsize
  refine afterCommits_formed (issue_formed (sliceAccess_formed ?_ _ 0 false _) h _) h
  intro st v t k oks hv
  dsimp only
  split
  · exact hv
  · exact State.formed_roomThen st hv t k [] _ _ .plain

/-! ### Engine commands -/

theorem execCopy_formed (h : s.formed) (f : Binding) (d a b : Nat) : Result.formed (execCopy f d a b s) := by
  unfold execCopy
  refine issue_formed (sliceAccess_formed ?_ _ 0 false _) h _
  intro st v t k oks hv
  have hd := State.formed_descBytes hv t k 128 oks
  beta_reduce
  extract_lets +onlyGivenNames r va hb
  change r.1.formed at hd
  clear_value r
  split
  · exact State.formed_trapIn hd st t k _ _
  · exact State.formed_holdEngine hd st _ t k d _ _

theorem execAllred_formed (h : s.formed) (d a : Nat) : Result.formed (execAllred d a s) := by
  unfold execAllred
  refine issue_formed (sliceAccess_formed ?_ _ 0 false _) h _
  intro st v t k oks hv
  have hd := State.formed_descBytes hv t k 64 oks
  beta_reduce
  extract_lets +onlyGivenNames r va
  change r.1.formed at hd
  clear_value r
  split
  · exact State.formed_trapIn hd st t k _ _
  · exact State.formed_holdEngine hd st _ t k d _ _

theorem execRepsync_formed (h : s.formed) (d a b : Nat) : Result.formed (execRepsync d a b s) := by
  unfold execRepsync
  refine issueEach_formed (fun st _ _ _ v t k _ _ hv => ?_) h _
  dsimp only
  split
  · exact State.formed_trapIn hv st t k _ _
  · split
    · exact State.formed_trapIn hv st t k _ _
    · exact State.formed_holdEngine (State.formed_touch hv _ _) st _ t k d _ _

theorem execCwait_formed (h : s.formed) (a : Nat) : Result.formed (execCwait a s) := by
  unfold execCwait
  refine issueCloser_formed (fun v t k hv => ?_) h _
  dsimp only
  split
  · exact hv
  · exact hv

theorem State.formed_engineAccess (h : s.formed) (e i : Nat) : (s.engineAccess e i).formed := by
  unfold State.engineAccess
  dsimp only
  split
  · exact h
  · split
    · split
      · exact State.formed_engineAcquire h e _ _
      · split
        · exact State.formed_copyRead h e _ _
        · exact State.formed_copyWrite h e _ _
    · split
      · exact State.formed_allredJoin h e
      · split
        · exact State.formed_allredRead h e _
        · exact State.formed_allredWrite h e _
    · exact State.formed_repCopy h e i

/-! ### Signals, registers of the context, counters -/

theorem execSignal_formed (h : s.formed) (d a : Nat) : Result.formed (execSignal d a s) := by
  unfold execSignal
  refine issue_formed (sliceAccess_formed ?_ _ 1 false _) h _
  intro st v t k oks hv
  exact State.formed_holdAndGo hv st t k _ _ _

theorem execCsrw_formed (h : s.formed) (a n : Nat) : Result.formed (execCsrw a n s) := by
  unfold execCsrw
  refine issueEach_formed (fun st _ _ _ v t k _ _ hv => ?_) h _
  dsimp only
  split
  · exact State.formed_trapIn hv st t k _ _
  · exact State.formed_holdAndGo hv st t k _ _ _

theorem execPcrd_formed (h : s.formed) (d n : Nat) : Result.formed (execPcrd d n s) := by
  unfold execPcrd
  refine issueEach_formed (fun st _ _ _ v t k _ _ hv => ?_) h _
  exact State.formed_modSlice (State.formed_moreEvicts (s := v.drawn) hv t n _) t k _

theorem execLogrd_formed (h : s.formed) (d n : Nat) : Result.formed (execLogrd d n s) := by
  unfold execLogrd
  exact issueEach_formed (fun st _ _ _ v t k _ _ hv => State.formed_roomThen st hv t k [] _ _ .plain) h _

/-! ### REGANG, EXIT, RTE -/

theorem execRegang_formed (h : s.formed) : Result.formed (execRegang s) := by
  unfold execRegang
  dsimp only
  split
  · exact issueRegs_formed h _ _
  · have hi := issueRegs_formed h .regang fun _ _ _ r => .ok r
    split
    · next u hu =>
      have hu := hi u hu
      refine Result.formed_next ?_
      split
      · refine State.formed_regangJoin ?_ _ _ _
        exact hu
      · exact hu
    · exact hi

theorem execExit_formed (h : s.formed) : Result.formed (execExit s) := by
  unfold execExit
  exact issueEach_formed (fun _ _ _ _ v t k _ _ hv => State.formed_exitSlice hv t k) h _

theorem execRte_formed (h : s.formed) : Result.formed (execRte s) := by
  unfold execRte
  exact issueEach_formed (fun st _ _ _ v t k _ _ hv => State.formed_rte hv _ st t k) h _

theorem execCmit_formed (h : s.formed) : Result.formed (execCmit s) := by
  unfold execCmit
  exact issueEach_formed (fun _ _ _ _ v t k _ _ hv => hv) h _

theorem execFenceio_formed (h : s.formed) : Result.formed (execFenceio s) := by
  unfold execFenceio
  refine issueCloser_formed (fun v t k hv => ?_) h _
  exact hv

theorem execSrd_formed (h : s.formed) (d n : Nat) : Result.formed (execSrd d n s) := by
  unfold execSrd
  split
  · refine issueCloser_formed (fun v t k hv => ?_) (State.formed_clockOn h) _
    exact hv
  · exact issueRegs_formed h _ _

end

section
variable {s : State}

theorem State.formed_unpinRow (h : s.formed) (d : Nat) (ls : List Nat) : (s.unpinRow d ls).formed := (State.unpinRow_quiet (State.quiet_refl 0 s) d ls).form h

theorem execWriteImage_formed (h : s.formed) (img : Image) : Result.formed (execWriteImage img s) := by
  unfold execWriteImage
  refine event_formed ?_
  exact h

/-- The events, each of which is its operation, gangs parted. -/
theorem exec_formed_event {i : Instr} (hi : isEvent i = true) (h : s.formed) : Result.formed (exec i s) := by
  cases i with
  | chunkCommit t k => exact event_formed (f := fun u => u.commitEvent t k) (State.formed_commitEvent h t k)
  | rollback t k => exact event_formed (f := fun u => u.rollbackEvent t k) (State.formed_rollbackEvent h t k)
  | faultAnswer die seq map => exact event_formed (f := fun u => u.answerFault die seq map) (State.formed_answerFault h die seq map)
  | waitWake t k => exact event_formed (f := fun u => (u.atGang t k).waitAgain t k) (State.formed_waitAgain (s := s.atGang t k) h t k)
  | gwaitWake t k => exact event_formed (f := fun u => u.gateAgain t k) (State.formed_gateAgain h t k)
  | channelWake t k => exact event_formed (f := fun u => (u.atGang t k).chanAgain t k) (State.formed_chanAgain (s := s.atGang t k) h t k)
  | cwaitWake t k => exact event_formed (f := fun u => u.cwaitAgain t k) (State.formed_cwaitAgain h t k)
  | mwaitWake t k => exact event_formed (f := fun u => u.mwaitAgain t k) (State.formed_mwaitAgain h t k)
  | engineComplete e => exact event_formed (f := fun u => u.engineEnd e) (State.formed_engineEnd h e)
  | spillReplay die j => exact event_formed (f := fun u => u.replaySpill die j) (State.formed_replaySpill h die j)
  | allredRound g seq => exact event_formed (f := fun u => u.allredCombine g seq) (State.formed_allredCombine h g seq)
  | kStep t j => exact event_formed (f := fun u => u.stepLoop t j) (State.formed_stepLoop h t j)
  | drain t j => exact event_formed (f := fun u => u.drainTile t j) (State.formed_drainTile h t j)
  | matrixCommandPerform t j => exact event_formed (f := fun u => u.performCmd t j) (State.formed_performCmd h t j)
  | writeBack line => exact event_formed (f := fun u => u.replaceLine line) (State.formed_replaceLine h line)
  | anteRefill die x => exact event_formed (f := fun u => u.refillAnte die x) (State.formed_refillAnte h die x)
  | rowCapture die lines => exact event_formed (f := fun u => u.captureRow die lines) (State.formed_captureRow h die lines)
  | rowUnpin die lines => exact event_formed (f := fun u => u.unpinRow die lines) (State.formed_unpinRow h die lines)
  | bmePoisonReplace block => exact event_formed (f := fun u => u.replaceBme block) (State.formed_replaceBme h block)
  | balloonRequest ctx id wanted urgency => exact event_formed (f := fun u => u.balloon ctx id wanted urgency) (State.formed_balloon h ctx id wanted urgency)
  | balloonUrgencyRaise ctx => exact event_formed (f := fun u => u.raiseUrgency ctx) (State.formed_raiseUrgency h ctx)
  | balloonRequestExpiry ctx => exact event_formed (f := fun u => u.expireRequest ctx) (State.formed_expireRequest h ctx)
  | teamPlace t => exact event_formed (f := fun u => u.teamPlaced t) (State.formed_teamPlaced h t)
  | teamSwapOut t => exact event_formed (f := fun u => u.swapped t) (State.formed_swapped h t)
  | teamRunnable t => exact event_formed (f := fun u => u.runnable t) (State.formed_runnable h t)
  | quantumEnd die => exact event_formed (f := fun u => u.endQuantum die) (State.formed_endQuantum h die)
  | residencyFloor ctx die => exact event_formed (f := fun u => u.floorPlace ctx die) (State.formed_floorPlace h ctx die)
  | teamRetire t => exact event_formed (f := fun u => u.retire t) (State.formed_retire h t)
  | notifyRegisterWrite q v => exact event_formed (f := fun u => u.writeNotify q v) (State.formed_writeNotify h q v)
  | launchPacket q => exact event_formed (f := fun u => u.consume [] q (some 1)) (State.formed_consume h [] q (some 1))
  | graphPacket q => exact event_formed (f := fun u => u.consume [] q (some 2)) (State.formed_consume h [] q (some 2))
  | waitsigPacket q => exact event_formed (f := fun u => u.consume [] q (some 3)) (State.formed_consume h [] q (some 3))
  | notifiedReread ctx => exact event_formed (f := fun u => u.reread ctx) (State.formed_reread h ctx)
  | kernelNode g n => exact event_formed (f := fun u => u.startNode [] g n 1) (State.formed_startNode h [] g n 1)
  | copyNode g n => exact event_formed (f := fun u => u.startNode [] g n 2) (State.formed_startNode h [] g n 2)
  | signalNode g n => exact event_formed (f := fun u => u.startNode [] g n 3) (State.formed_startNode h [] g n 3)
  | waitNode g n => exact event_formed (f := fun u => u.startNode [] g n 4) (State.formed_startNode h [] g n 4)
  | condNode g n => exact event_formed (f := fun u => u.startNode [] g n 5) (State.formed_startNode h [] g n 5)
  | loopNode g n => exact event_formed (f := fun u => u.startNode [] g n 6) (State.formed_startNode h [] g n 6)
  | loopIteration g n => exact event_formed (f := fun u => u.iterate [] g n) (State.formed_iterate h [] g n)
  | contextCreate c => exact event_formed (f := fun u => u.createCtx c) (State.formed_createCtx h c)
  | queueCreate q => exact event_formed (f := fun u => u.createQueue q) (State.formed_createQueue h q)
  | contextReset ctx => exact event_formed (f := fun u => u.resetCtx ctx) (State.formed_resetCtx h ctx)
  | contextDestroy ctx => exact event_formed (f := fun u => u.destroyCtx ctx) (State.formed_destroyCtx h ctx)
  | hostRead npa => exact event_formed (f := fun u => u.hostReads npa) (State.formed_hostReads h npa)
  | hostWrite npa bytes => exact event_formed (f := fun u => u.hostWrites npa bytes) (State.formed_hostWrites h npa bytes)
  | hostSnoop npa inv => exact event_formed (f := fun u => u.hostSnoops npa inv) (State.formed_hostSnoops h npa inv)
  | expanderLinkDown x => exact event_formed (f := fun u => u.failExpander x) (State.formed_failExpander h x)
  | expanderTimeout x => exact event_formed (f := fun u => u.failExpander x) (State.formed_failExpander h x)
  | groupEnd g => exact event_formed (f := fun u => u.endGroup g) (State.formed_endGroup h g)
  | collectiveGroupDefine g => exact event_formed (f := fun u => u.defineGroup g) (State.formed_defineGroup h g)
  | healthThreshold p => exact event_formed (f := fun u => u.partWorn p.part p.retry p.count) (State.formed_partWorn h p.part p.retry p.count)
  | spareBringIn die n => exact event_formed (f := fun u => u.bringIn die n) (State.formed_bringIn h die n)
  | corePowerGate die n => exact event_formed (f := fun u => u.gateCore die n) (State.formed_gateCore h die n)
  | thermalReset => exact event_formed (f := State.thermalReset) (State.formed_thermalReset h)
  | powerOn => exact event_formed (f := fun u => u.moduleReset 2) (State.formed_moduleReset h 2)
  | moduleReset => exact event_formed (f := fun u => u.moduleReset 0) (State.formed_moduleReset h 0)
  | getHealth => exact event_formed (f := State.healthReport) (State.formed_healthReport h)
  | engineSectorAccess e j => exact event_formed (f := fun u => u.engineAccess e j) (State.formed_engineAccess h e j)
  | levelChange t k => exact event_formed (f := fun u => u.modSlice t k Slice.relevel) h
  | regangTimeout t home pc =>
    refine event_formed (f := fun u => if u.regangDue t home pc then u.regangJoin t home pc else u) ?_
    split
    · exact State.formed_regangJoin h t home pc
    · exact h
  | signalPacket q =>
    refine event_formed (f := fun u => match (u.queue q).signalReady with
      | some p => u.signalNow [] q p
      | none => u.consume [] q (some 4)) ?_
    split
    · exact State.formed_signalNow h [] q _
    · exact State.formed_consume h [] q (some 4)
  | leafEntryChange m =>
    refine event_formed (f := fun u => (u.mapLeaf m).getD u) ?_
    cases hm : s.mapLeaf m with
    | none => exact h
    | some w => exact State.formed_mapLeaf h m w hm
  | promiseChange ctx pages =>
    refine event_formed (f := fun u =>
      if (u.ctx ctx).mapped ≤ pages ∧ u.promised ctx + pages ≤ promiseMax then u.modCtx ctx fun x => { x with promise := pages } else u) ?_
    split <;> exact h
  | quotaChange ctx granules => exact event_formed (f := fun u => u.modCtx ctx fun x => { x with quota := (granules : Int) }) h
  | expanderBringBack x =>
    exact event_formed (f := fun u => { u with expanders := FMap.modify u.expanders x fun v => { v with failed := false } }) h
  | linkFailure l => exact event_formed (f := fun u => { u with module := { u.module with links := u.module.links.filter (· != l) } }) h
  | junctionThrottle die => exact event_formed (f := fun u => u.modDie die fun v => { v with step := min 8 (v.step + 1) }) h
  | getIdentityCertificate => exact event_formed (f := fun u => { u with out := u.out ++ [.certificate u.module.certificate] }) h
  | getAttestationReport nonce =>
    exact event_formed (f := fun u => { u with out := u.out ++ [.report (u.module.report nonce u.draws)], draws := u.draws + 1 }) h
  | setPowerLimit watts =>
    refine event_formed (f := fun u =>
      if u.module.inReset ∨ watts < 1600 ∨ 2600 < watts ∨ watts % 50 ≠ 0 then u else { u with module := { u.module with powerLimit := watts } }) ?_
    split <;> exact h
  | writeImage img =>
    exact execWriteImage_formed h img
  | _ => cases hi

/-- The instructions that read and write the registers of their slices alone. -/
def onRegs : Instr → Bool
  | .sadd .. | .ssub .. | .smul .. | .smulh .. | .smulhN .. | .sdiv .. | .sdivN .. | .srem .. | .sremN .. | .sand .. | .sor .. | .sxor .. | .sshl .. | .sshr ..
  | .ssra .. | .smin .. | .sminN .. | .smax .. | .smaxN .. | .sslt .. | .ssltn .. | .saddi .. | .sandi .. | .sori .. | .sxori .. | .sshli .. | .ssel .. | .slui ..
  | .swr .. | .smovv .. | .smovvLane .. | .smovvTlane .. | .vrdl .. | .nop .. | .mode .. | .moder .. | .br .. | .brCc .. | .bany .. | .ball .. | .bnone .. | .call ..
  | .ret .. | .jmpr .. | .vadd .. | .vsub .. | .vmul .. | .vmulh .. | .vmad .. | .vmin .. | .vmax .. | .vshl .. | .vshr .. | .vabs .. | .vneg .. | .vaddi ..
  | .vpopc .. | .vclz .. | .vbrev .. | .vand .. | .vor .. | .vxor .. | .vnot .. | .vsel .. | .vcmp .. | .vmovi .. | .vfadd .. | .vfsub .. | .vfmul .. | .vfma ..
  | .vfmin .. | .vfmax .. | .vfabs .. | .vfneg .. | .vfcmp .. | .vrcp .. | .vrsq .. | .vsqrt .. | .vexp2 .. | .vlog2 .. | .vsin .. | .vcos .. | .vtanh .. | .verf ..
  | .vsigm .. | .pand .. | .por .. | .pxor .. | .pnot .. | .pset .. | .vcvt .. | .vqnt .. | .vdqnt .. | .vpack .. | .vunpk .. | .vclass .. | .vperm .. | .vbperm ..
  | .vslide .. | .vshfl .. | .vbcast .. | .vred .. | .vscan .. | .vballot .. | .vcount .. | .pref .. | .rdnpa .. | .rdcap .. | .specrd .. | .csrr .. => true
  | _ => false

/-- An instruction on registers alone is one of their issue. -/
theorem exec_formed_onRegs {i : Instr} (hi : onRegs i = true) (h : s.formed) : Result.formed (exec i s) := by
  cases i with
  | sadd | ssub | smul | smulh | smulhN | sdiv | sdivN | srem | sremN | sand | sor | sxor | sshl | sshr | ssra | smin | sminN | smax | smaxN | sslt | ssltn =>
    dsimp only [exec, execSadd, execSsub, execSmul, execSmulh, execSmulhN, execSdiv, execSdivN, execSrem, execSremN, execSand, execSor,
      execSxor, execSshl, execSshr, execSsra, execSmin, execSminN, execSmax, execSmaxN, execSslt, execSsltn, scalarOp, regOp]
    exact issueRegs_formed h _ _
  | saddi | sandi | sori | sxori | sshli =>
    dsimp only [exec, execSaddi, execSandi, execSori, execSxori, execSshli, immOp, regOp]
    exact issueRegs_formed h _ _
  | ssel | slui | swr | smovv | smovvLane | vrdl | nop | mode | moder | vand | vor | vxor | vnot | vsel | vcmp | vmovi | vfcmp | pand | por | pxor | pnot |
    pset | vpack | vunpk | vclass | vbperm | pref | rdcap =>
    dsimp only [exec, execSsel, execSlui, execSwr, execSmovv, execSmovvLane, execVrdl, execNop, execMode, execModer, execVand, execVor,
      execVxor, execVnot, execVsel, execVcmp, execVmovi, execVfcmp, execPand, execPor, execPxor, execPnot, execPset, execVpack, execVunpk, execVclass,
      execVbperm, execPref, execRdcap, regOp]
    exact issueRegs_formed h _ _
  | smovvTlane | call | vcvt | vqnt | vdqnt | vperm | vred | vscan | vballot | vcount | rdnpa | specrd | csrr =>
    dsimp only [exec, execSmovvTlane, execCall, execVcvt, execVqnt, execVdqnt, execVperm, execVred, execVscan, execVballot, execVcount,
      execRdnpa, execSpecrd, execCsrr]
    exact issueRegs_formed h _ _
  | br | brCc | bany | ball | bnone =>
    dsimp only [exec, execBr, execBrCc, execBany, execBall, execBnone, branchOp]
    exact issueRegs_formed h _ _
  | ret | jmpr =>
    dsimp only [exec, execRet, execJmpr, jumpOp]
    exact issueRegs_formed h _ _
  | vadd | vsub | vmul | vmulh | vmad | vmin | vmax | vshl | vshr | vabs | vneg | vaddi | vpopc | vclz | vbrev =>
    dsimp only [exec, execVadd, execVsub, execVmul, execVmulh, execVmad, execVmin, execVmax, execVshl, execVshr, execVabs, execVneg,
      execVaddi, execVpopc, execVclz, execVbrev, intOp, regOp]
    exact issueRegs_formed h _ _
  | vfadd | vfsub | vfmul | vfma | vfmin | vfmax | vfabs | vfneg =>
    dsimp only [exec, execVfadd, execVfsub, execVfmul, execVfma, execVfmin, execVfmax, execVfabs, execVfneg, floatOp, regOp]
    exact issueRegs_formed h _ _
  | vrcp | vrsq | vsqrt | vexp2 | vlog2 | vsin | vcos | vtanh | verf | vsigm =>
    dsimp only [exec, execVrcp, execVrsq, execVsqrt, execVexp2, execVlog2, execVsin, execVcos, execVtanh, execVerf, execVsigm, specialOp,
      regOp]
    exact issueRegs_formed h _ _
  | vslide | vshfl | vbcast =>
    dsimp only [exec, execVslide, execVshfl, execVbcast, crossOp]
    exact issueRegs_formed h _ _
  | _ => cases hi

/-- The instructions whose issue does more than write registers. -/
theorem exec_formed_issued {i : Instr} (hi : (onRegs i || isEvent i) = false) (h : s.formed) : Result.formed (exec i s) := by
  cases i with
  | srd d n => exact execSrd_formed h d n
  | regang => exact execRegang_formed h
  | exit => exact execExit_formed h
  | vld t x b dbl l =>
    dsimp only [exec, execVld]
    exact issue_formed (loadBody_formed _ _ _ _) h _
  | vldc t b dbl o =>
    dsimp only [exec, execVldc]
    exact issue_formed (loadBody_formed _ _ _ _) h _
  | vst t x b dbl l =>
    dsimp only [exec, execVst, storeLanes]
    exact issue_formed (storeBody_formed _ _ _ _ _ _) h _
  | vstc t b dbl o =>
    dsimp only [exec, execVstc, storeLanes]
    exact issue_formed (storeBody_formed _ _ _ _ _ _) h _
  | red o t x b dbl =>
    dsimp only [exec, execRed]
    exact issue_formed (storeBody_formed _ _ _ _ _ _) h _
  | sld d b wd o =>
    dsimp only [exec, execSld]
    exact issue_formed (sliceAccess_formed (sldAct_formed _ _ _) _ _ _ _) h _
  | sst d b wd o =>
    dsimp only [exec, execSst]
    exact issue_formed (sliceAccess_formed (sstAct_formed _ _ _) _ _ _ _) h _
  | tld t x b dbl l => exact execTld_formed h t x b dbl l
  | tst t x b dbl l => exact execTst_formed h t x b dbl l
  | atomt o t x b dbl => exact execAtomt_formed h o t x b dbl
  | redt o t x b dbl => exact execRedt_formed h o t x b dbl
  | atom o t x b dbl =>
    dsimp only [exec, execAtom]
    exact issue_formed (atomBody_formed _ _ _ _ _ _) h _
  | wait c a b =>
    dsimp only [exec, execWait]
    exact issue_formed (sliceAccess_formed (waitAct_formed _ _ _) _ _ _ _) h _
  | cwb a b =>
    dsimp only [exec, execCwb]
    exact eachRange_formed h _ a b false fun st v t k base len hv => holdRange_formed hv .wb st t k base len
  | cinv a b =>
    dsimp only [exec, execCinv]
    exact eachRange_formed h _ a b false fun st v t k base len hv => holdRange_formed hv .inv st t k base len
  | cdisc a b => exact execCdisc_formed h a b
  | rsvpin a b =>
    dsimp only [exec, execRsvpin]
    exact checkedRange_formed h _ a b _ .pin
  | rsvunpin a b =>
    dsimp only [exec, execRsvunpin]
    exact checkedRange_formed h _ a b _ .unpin
  | czero a b =>
    dsimp only [exec, execCzero]
    exact checkedRange_formed h _ a b _ .zero
  | bar n => exact execBar_formed h n
  | ginit a b =>
    dsimp only [exec, execGinit]
    exact gateOp_formed h _ a _
  | gexpect a b =>
    dsimp only [exec, execGexpect]
    exact gateOp_formed h _ a _
  | garrive a =>
    dsimp only [exec, execGarrive]
    exact gateOp_formed h _ a _
  | gwait p a b => exact execGwait_formed h p a b
  | chacq d a =>
    dsimp only [exec, execChacq]
    exact chanBlock_formed h _ d a .acq
  | chtake d a =>
    dsimp only [exec, execChtake]
    exact chanBlock_formed h _ d a .take
  | chacqNb d a =>
    dsimp only [exec, execChacqNb]
    exact chanTry_formed h _ d a .acq
  | chtakeNb d a =>
    dsimp only [exec, execChtakeNb]
    exact chanTry_formed h _ d a .take
  | chpub a =>
    dsimp only [exec, execChpub]
    exact chanRelease_formed h _ a .pub
  | chfree a =>
    dsimp only [exec, execChfree]
    exact chanRelease_formed h _ a .free
  | cmit => exact execCmit_formed h
  | rsvrd d =>
    dsimp only [exec, execRsvrd]
    exact afterCommits_formed (issueRegs_formed h _ _) h
  | forfeit d a b => exact execForfeit_formed h d a b
  | balrd d => exact execBalrd_formed h d
  | balack a b => exact execBalack_formed h a b
  | csize blk d a => exact execCsize_formed h blk d a
  | mloop d fa fb t ka l =>
    dsimp only [exec, execMloop]
    exact matrixIssue_formed h _ d _ _
  | mdrain d t =>
    dsimp only [exec, execMdrain]
    exact matrixIssue_formed h _ d none _
  | mzero t =>
    dsimp only [exec, execMzero]
    exact holdMatrix_formed h _ _
  | mwr d x t l =>
    dsimp only [exec, execMwr]
    exact holdMatrix_formed h _ _
  | mscl a b n => exact execMscl_formed h a b n
  | mwait => exact execMwait_formed h
  | mrd d x t l => exact execMrd_formed h d x t l
  | copy f d a b => exact execCopy_formed h f d a b
  | allred d a => exact execAllred_formed h d a
  | repsync d a b => exact execRepsync_formed h d a b
  | cwait a => exact execCwait_formed h a
  | cseq d =>
    dsimp only [exec, execCseq]
    exact readCounter_formed h _ d _ _
  | cspill d =>
    dsimp only [exec, execCspill]
    exact readCounter_formed h _ d _ _
  | launchN a =>
    dsimp only [exec, execLaunchN]
    exact recordOp_formed h _ a 256 _
  | launchT a =>
    dsimp only [exec, execLaunchT]
    exact recordOp_formed h _ a 256 _
  | graphgo a =>
    dsimp only [exec, execGraphgo]
    exact recordOp_formed h _ a 64 _
  | signal d a => exact execSignal_formed h d a
  | trap n =>
    dsimp only [exec, execTrap]
    exact trapOp_formed h _ 11 n 4
  | brk n =>
    dsimp only [exec, execBrk]
    exact trapOp_formed h _ 12 n 0
  | rte => exact execRte_formed h
  | csrw a n => exact execCsrw_formed h a n
  | pcrd d n => exact execPcrd_formed h d n
  | logrd d n => exact execLogrd_formed h d n
  | fenceio => exact execFenceio_formed h
  | extensionEmulation w =>
    dsimp only [exec, execExtensionEmulation]
    exact eachTraps_formed h _ _
  | illegalInstruction w sub =>
    dsimp only [exec, execIllegalInstruction]
    exact eachTraps_formed h _ _
  | _ => cases hi

/-- Every instruction and every event keeps memory's form. -/
theorem exec_formed (h : s.formed) (i : Instr) : Result.formed (exec i s) := by
  cases hr : onRegs i with
  | true => exact exec_formed_onRegs hr h
  | false =>
    cases he : isEvent i with
    | true => exact exec_formed_event he h
    | false => exact exec_formed_issued (by rw [hr, he]; rfl) h

/-! ### Steps -/

/-- What a step does next, in a state of the canonical form. -/
def Next.formed : Next → Prop
  | .run _ s => s.formed
  | .issue _ s _ _ => s.formed
  | .stop s => s.formed

theorem State.formed_again {v : State} (hv : v.formed) (u : State) (j : Instr) (w : Window) : (u.again j v w).formed := by
  have hf : ∀ (f : Nat → Slice → Slice) (l : List Nat), (l.foldl (fun x k => x.modSlice u.cur.team k (f k)) v).formed := by
    intro f l
    exact State.formed_foldl (fun _ k hx => State.formed_modSlice hx u.cur.team k (f k)) hv
  unfold State.again
  extract_lets +onlyGivenNames t ks find ws
  split
  · exact hv
  · extract_lets z
    split
    · split
      · exact hf (fun k sl => sl.redone (ws k) (u.writes j t k) _) ks
      · exact hv
    · exact hv
    · exact hv

theorem State.formed_breaches {v : State} (hv : v.formed) (u : State) (j : Instr) : (u.breaches j v).formed := by
  have hw : ∀ l : List Window, (l.foldl (State.again u j) v).formed := fun l => State.formed_foldl (fun _ w hx => State.formed_again hx u j w) hv
  unfold State.breaches
  dsimp only
  split
  · exact hv
  · exact hw _

theorem run_formed (h : s.formed) (i : Instr) : Result.formed (run i s) := by
  intro w hw
  unfold run at hw
  split at hw
  · next v hv =>
    have h1 := exec_formed h i v hv
    cases hw
    split
    · exact h1
    · exact State.formed_breaches h1 s i
  · exact exec_formed h i w hw

theorem runIssue_formed (h : s.formed) (i : Instr) (c q : Nat) : Result.formed (runIssue i s c q) := by
  have hr := run_formed (s := s.countIssue c q) h i
  intro w hw
  unfold runIssue at hw
  split at hw
  · next v hv =>
    have h1 := hr v hv
    cases hw
    split
    · exact h1
    · exact h1
  · exact hr w hw

theorem State.formed_fetch (h : s.formed) {t : Nat} {pc : W64} {u : State} {w : W32} (hu : s.fetch t pc = .word u w) : u.formed := by
  have ht := State.formed_touch h (s.team t).ctx [pc]
  unfold State.fetch at hu
  extract_lets +onlyGivenNames c d noX at hu
  clear_value noX
  split at hu
  · cases hu
  · split at hu
    · cases hu
    · cases hu
    · extract_lets +onlyGivenNames s1 at hu
      split at hu
      · cases hu; exact ht
      · extract_lets +onlyGivenNames b new old at hu
        clear_value old
        split at hu
        · rw [← (Fetch.word.inj hu).1]; exact ht
        · rw [← (Fetch.word.inj hu).1]; exact ht

theorem State.formed_fetchGang (h : s.formed) : s.fetchGang.formed := by
  unfold State.fetchGang
  extract_lets t ks pc
  split
  · exact State.formed_postMisses (State.formed_modEach h t ks _) t 3 _
  · exact State.formed_fetchTrap (State.formed_touch h _ _) _ pc
  · next hw => exact State.formed_modEach (State.formed_fetch h hw) t ks _

theorem State.formed_retryGang (h : s.formed) (t k : Nat) : (s.retryGang t k).formed := by
  unfold State.retryGang
  split
  · exact h
  · next g _ =>
    split
    · exact h
    · have hf := State.formed_fetchGang (s := { s with cur := { team := t, ks := g.ks } }) h
      dsimp only
      split
      · exact h
      · split
        all_goals
          next hx =>
            rw [hx] at hf
            exact hf

theorem State.formed_act (h : s.formed) (m : Move) : (s.act m).formed := by
  unfold State.act
  cases m with
  | event i =>
    dsimp only
    split <;> exact h
  | opp c q busy =>
    have ho := State.formed_opportunity h c q busy
    have hf := State.formed_fetchGang ho
    dsimp only
    split
    · exact h
    · split
      · split
        all_goals
          next hx =>
            rw [hx] at hf
            exact hf
      · exact ho
  | retry t k =>
    dsimp only
    split
    · exact h
    · exact State.formed_retryGang h t k

theorem State.formed_nextMove (h : s.formed) : s.nextMove.2.formed := by
  unfold State.nextMove
  split <;> exact h

theorem step_formed (h : s.formed) : Result.formed (step s) := by
  have ha := State.formed_act (State.formed_nextMove h) s.nextMove.1
  intro w hw
  unfold step at hw
  split at hw
  · cases hw
  · cases hx : State.act s.nextMove.2 s.nextMove.1 with
    | run i u =>
      rw [hx] at hw ha
      exact run_formed ha i w hw
    | issue i u c q =>
      rw [hx] at hw ha
      exact runIssue_formed ha i c q w hw
    | stop u =>
      rw [hx] at hw ha
      cases hw
      exact ha

end

/-- Settles O6: every instruction and every event keeps the form, and so does the order of moves. -/
theorem memoryFormKept : Obligations.MemoryFormKept := fun _ u h hu => step_formed h u hu

end Sys2Proof.Machine
end

section
/-! SUPPORT. The numbers of a format, one rounding of an exact value, and the arithmetic of exact values (R69, R76 to R79, R84) -/

namespace Sys2Proof.Machine

/-- A format with an exponent field. -/
def Fmt.plain (f : Fmt) : Prop := ∀ t, f ≠ .q4 t

theorem Fmt.two_le_frac {f : Fmt} (h : f.plain) : 2 ≤ f.frac := by
  cases f with
  | q4 t => exact absurd rfl (h t)
  | _ => decide

theorem Fmt.frac_dvd_signBit (f : Fmt) : 2 ^ f.frac ∣ f.signBit := by
  rw [Fmt.signBit]
  refine pow_dvd_pow 2 ?_
  cases f with
  | q4 t => exact Nat.zero_le _
  | _ => decide

theorem Fmt.two_mul_signBit (f : Fmt) : 2 ^ f.width = 2 * f.signBit := by
  rw [Fmt.signBit, ← pow_succ']
  cases f <;> rfl

theorem Fmt.maxCode_lt_signBit (f : Fmt) : f.maxCode < f.signBit := by
  cases f with
  | q4 t => exact (by decide : 7 < 8)
  | _ => decide

theorem Fmt.frac_lt_maxCode {f : Fmt} (h : f.plain) : 2 ^ (f.frac + 1) < f.maxCode + 1 := by
  cases f with
  | q4 t => exact absurd rfl (h t)
  | _ => decide

theorem Fmt.signBit_pos (f : Fmt) : 0 < f.signBit := by simp [Fmt.signBit]

theorem Fmt.even_signBit {f : Fmt} (h : f.plain) : f.signBit % 2 = 0 :=
  Nat.mod_eq_zero_of_dvd ((dvd_pow_self 2 (by have := two_le_frac h; omega)).trans f.frac_dvd_signBit)

/-- The exponent of the unit in which the `n`-th number from 0 up is counted. -/
def Fmt.unit (f : Fmt) (n : Nat) : ℤ := max ((n / 2 ^ f.frac : Nat) : ℤ) 1 - f.bias - f.frac

/-- The `n`-th number from 0 up, the exponent unbounded above. -/
def Fmt.mag (f : Fmt) (n : Nat) : ℚ :=
  ((if n < 2 ^ f.frac then n else 2 ^ f.frac + n % 2 ^ f.frac : Nat) : ℚ) * 2 ^ f.unit n

/-- The code of `n` units of 2^(e − frac). -/
def Fmt.codeOf (f : Fmt) (e : ℤ) (n : Nat) : Nat :=
  if n < 2 ^ f.frac then n else (e + f.bias).toNat * 2 ^ f.frac + (n - 2 ^ f.frac)

theorem Fmt.codeOf_succ (f : Fmt) {e : ℤ} {n : Nat} (he : 1 - (f.bias : ℤ) ≤ e) (hn : n < 2 ^ f.frac → e = 1 - f.bias) :
    f.codeOf e (n + 1) = f.codeOf e n + 1 := by
  unfold Fmt.codeOf
  rcases lt_trichotomy (n + 1) (2 ^ f.frac) with h | h | h
  · rw [if_pos h, if_pos (by omega)]
  · have := hn (by omega)
    subst this
    rw [if_neg (by omega), if_pos (by omega)]
    simp [h]
  · rw [if_neg (by omega), if_neg (by omega)]
    omega

theorem Fmt.codeOf_mod_two {f : Fmt} (h : f.plain) (e : ℤ) (n : Nat) : f.codeOf e n % 2 = n % 2 := by
  have h2 : 2 ^ f.frac % 2 = 0 := Nat.mod_eq_zero_of_dvd (dvd_pow_self 2 (by have := two_le_frac h; omega))
  unfold Fmt.codeOf
  split
  · rfl
  · rw [Nat.add_mod, Nat.mul_mod, h2]
    omega

/-- The number that `n` units of 2^(e − frac) make, where the exponent is that of a normal number or the least one. -/
theorem Fmt.mag_codeOf (f : Fmt) {e : ℤ} {n : Nat} (he : 1 - (f.bias : ℤ) ≤ e) (hn : n < 2 ^ f.frac → e = 1 - f.bias)
    (ht : n ≤ 2 ^ (f.frac + 1)) : f.mag (f.codeOf e n) = n * 2 ^ (e - f.frac) := by
  have hp : 0 < 2 ^ f.frac := by positivity
  unfold Fmt.codeOf Fmt.mag Fmt.unit
  by_cases h : n < 2 ^ f.frac
  · simp only [h, if_true, Nat.div_eq_of_lt h]
    rw [hn h]
    norm_num
  · obtain ⟨k, hk⟩ : ∃ k : ℕ, e + f.bias = k + 1 := ⟨(e + f.bias - 1).toNat, by omega⟩
    have hk' : (e + f.bias).toNat = k + 1 := by omega
    obtain ⟨j, rfl⟩ := Nat.exists_eq_add_of_le (not_lt.mp h)
    have hlt : ¬ (k + 1) * 2 ^ f.frac + j < 2 ^ f.frac := by nlinarith
    simp only [h, if_false, hk', Nat.add_sub_cancel_left, hlt]
    rw [pow_succ] at ht
    rcases Nat.lt_or_ge j (2 ^ f.frac) with hj | hj
    · rw [Nat.mul_comm, Nat.mul_add_div hp, Nat.mul_add_mod, Nat.div_eq_of_lt hj, Nat.mod_eq_of_lt hj]
      congr 2
      push_cast
      omega
    · obtain rfl : j = 2 ^ f.frac := by omega
      have : (k + 1) * 2 ^ f.frac + 2 ^ f.frac = 2 ^ f.frac * (k + 2) := by ring
      rw [this, Nat.mul_div_cancel_left _ hp, Nat.mul_mod_right, Nat.add_zero]
      have hx : max (((k + 2 : ℕ) : ℤ)) 1 - f.bias - f.frac = (e - f.frac) + 1 := by push_cast; omega
      rw [hx, zpow_add_one₀ (by norm_num)]
      push_cast
      ring

theorem Fmt.exists_codeOf (f : Fmt) (c : Nat) : ∃ e n, 1 - (f.bias : ℤ) ≤ e ∧ (n < 2 ^ f.frac → e = 1 - (f.bias : ℤ)) ∧
    n < 2 ^ (f.frac + 1) ∧ e - f.frac = f.unit c ∧ c = f.codeOf e n := by
  have hp : 0 < 2 ^ f.frac := by positivity
  unfold Fmt.unit Fmt.codeOf
  rcases Nat.lt_or_ge c (2 ^ f.frac) with h | h
  · refine ⟨1 - f.bias, c, le_rfl, fun _ => rfl, by rw [pow_succ]; omega, ?_, by rw [if_pos h]⟩
    rw [Nat.div_eq_of_lt h]
    rfl
  · have h1 : 1 ≤ c / 2 ^ f.frac := (Nat.one_le_div_iff hp).mpr h
    have hm := Nat.mod_lt c hp
    refine ⟨(c / 2 ^ f.frac : ℕ) - f.bias, 2 ^ f.frac + c % 2 ^ f.frac, by omega, by omega, by rw [pow_succ]; omega, by omega, ?_⟩
    rw [if_neg (by omega)]
    have := Nat.div_add_mod' c (2 ^ f.frac)
    simp only [sub_add_cancel, Int.toNat_natCast]
    omega

theorem Fmt.mag_succ (f : Fmt) (c : Nat) : f.mag (c + 1) = f.mag c + 2 ^ f.unit c := by
  obtain ⟨e, n, he, hn, ht, hu, hc⟩ := f.exists_codeOf c
  rw [← hu, hc, ← f.codeOf_succ he hn, f.mag_codeOf he hn ht.le, f.mag_codeOf he (fun h => hn (by omega)) ht]
  push_cast
  ring

theorem Fmt.mag_strictMono (f : Fmt) : StrictMono f.mag :=
  strictMono_nat_of_lt_succ fun c => by rw [f.mag_succ]; exact lt_add_of_pos_right _ (by positivity)

@[simp] theorem Fmt.mag_zero (f : Fmt) : f.mag 0 = 0 := by simp [Fmt.mag]

theorem Fmt.mag_nonneg (f : Fmt) (c : Nat) : 0 ≤ f.mag c := f.mag_zero ▸ f.mag_strictMono.monotone c.zero_le

theorem Fmt.mag_le {f : Fmt} {a b : Nat} : f.mag a ≤ f.mag b ↔ a ≤ b := f.mag_strictMono.le_iff_le
theorem Fmt.mag_lt {f : Fmt} {a b : Nat} : f.mag a < f.mag b ↔ a < b := f.mag_strictMono.lt_iff_lt
theorem Fmt.mag_inj {f : Fmt} {a b : Nat} : f.mag a = f.mag b ↔ a = b := f.mag_strictMono.injective.eq_iff

theorem Fmt.mag_pos {f : Fmt} {a : Nat} : 0 < f.mag a ↔ 0 < a := by rw [← f.mag_zero, mag_lt]

/-- The least normal number. -/
theorem Fmt.mag_low (f : Fmt) : f.mag (2 ^ f.frac) = 2 ^ (1 - (f.bias : ℤ)) := by
  have hp : 0 < 2 ^ f.frac := by positivity
  unfold Fmt.mag Fmt.unit
  rw [if_neg (lt_irrefl _), Nat.mod_self, Nat.div_self hp]
  push_cast
  rw [show (max (1 : ℤ) 1 - f.bias - f.frac) = (1 - f.bias) - f.frac by simp, zpow_sub₀ (by norm_num)]
  simp
  field_simp

theorem Fmt.value_of_lt {f : Fmt} {a : Nat} (h : a < f.signBit) : f.value a = f.mag a := by
  have hp : 0 < 2 ^ f.frac := by positivity
  unfold Fmt.value Fmt.mag Fmt.unit
  simp only [Nat.mod_eq_of_lt h, Nat.div_eq_of_lt h]
  rw [if_neg (by norm_num)]
  rcases Nat.lt_or_ge a (2 ^ f.frac) with h | h
  · rw [if_pos h, Nat.mod_eq_of_lt h, Nat.div_eq_of_lt h, if_pos rfl]
    rw [show (max ((0 : ℕ) : ℤ) 1 - f.bias - f.frac) = (1 - f.bias) - f.frac by simp, zpow_sub₀ (by norm_num) _ (f.frac : ℤ)]
    simp
    ring
  · have h1 : 1 ≤ a / 2 ^ f.frac := (Nat.one_le_div_iff hp).mpr h
    rw [if_neg (by omega), if_neg (by omega), max_eq_left (by omega), zpow_sub₀ (by norm_num) _ (f.frac : ℤ)]
    push_cast
    field_simp
    simp

theorem Fmt.value_signed (f : Fmt) {a : Nat} (n : Bool) (h : a < f.signBit) : f.value (f.signed n a) = if n then -f.mag a else f.mag a := by
  cases n with
  | false => simpa [Fmt.signed] using value_of_lt h
  | true =>
    obtain ⟨k, hk⟩ := f.frac_dvd_signBit
    have hd : (a + f.signBit) / f.signBit % 2 = 1 := by rw [Nat.add_div_right _ f.signBit_pos, Nat.div_eq_of_lt h]
    have hz : a / f.signBit % 2 = 0 := by rw [Nat.div_eq_of_lt h]
    have hm : (a + f.signBit) % 2 ^ f.frac = a % 2 ^ f.frac := by rw [hk, Nat.add_mul_mod_self_left]
    rw [← value_of_lt h]
    simp only [Fmt.signed, if_true, Fmt.value, hd, hz, hm, Nat.add_mod_right]
    simp

theorem Fmt.signed_of_lt {f : Fmt} {c : Nat} (h : c < 2 ^ f.width) : c = f.signed (decide (f.signBit ≤ c)) (c % f.signBit) := by
  rw [f.two_mul_signBit] at h
  unfold Fmt.signed
  rcases Nat.lt_or_ge c f.signBit with hc | hc
  · simp [hc, Nat.mod_eq_of_lt]
  · simp only [hc, decide_true, if_true]
    rw [Nat.mod_eq_sub_mod hc, Nat.mod_eq_of_lt (by omega)]
    omega

theorem Fmt.signed_mod (f : Fmt) (n : Bool) {a : Nat} (h : a < f.signBit) : f.signed n a % f.signBit = a := by
  cases n <;> simp [Fmt.signed, Nat.mod_eq_of_lt h]

theorem Fmt.signed_div (f : Fmt) (n : Bool) {a : Nat} (h : a < f.signBit) : f.signed n a / f.signBit = if n then 1 else 0 := by
  cases n <;> simp [Fmt.signed, Nat.div_eq_of_lt h, Nat.add_div_right _ f.signBit_pos]

theorem Fmt.signed_lt (f : Fmt) (n : Bool) {a : Nat} (h : a < f.signBit) : f.signed n a < 2 ^ f.width := by
  rw [f.two_mul_signBit]
  cases n <;> simp [Fmt.signed] <;> omega

theorem Fmt.signed_finite (f : Fmt) (n : Bool) {a : Nat} (h : a ≤ f.maxCode) : f.finite (f.signed n a) := by
  have := f.maxCode_lt_signBit
  exact ⟨f.signed_lt n (by omega), by rw [f.signed_mod n (by omega)]; exact h⟩

theorem Fmt.value_of_finite {f : Fmt} {c : Nat} (h : f.finite c) :
    f.value c = if decide (f.signBit ≤ c) then -f.mag (c % f.signBit) else f.mag (c % f.signBit) := by
  conv_lhs => rw [signed_of_lt h.1]
  exact f.value_signed _ (Nat.mod_lt _ f.signBit_pos)

/-- Whether rounding takes the neighbour farther from zero, `hi`, of a magnitude `x` that lies from `lo` up and below `hi`; `neg` is the value's sign and `odd` says whether
`lo` is the odd one. -/
def Rnd.goesUp (r : Rnd) (neg : Bool) (lo x hi : ℚ) (odd : Prop) : Prop :=
  match r with
  | .rne => lo + hi < 2 * x ∨ (lo + hi = 2 * x ∧ odd)
  | .rz => False
  | .rdn => neg = true ∧ lo ≠ x
  | .rup => neg = false ∧ lo ≠ x

theorem Rnd.goesUp_mul (r : Rnd) (neg : Bool) (lo x hi : ℚ) (odd : Prop) {u : ℚ} (hu : 0 < u) :
    r.goesUp neg (lo * u) (x * u) (hi * u) odd ↔ r.goesUp neg lo x hi odd := by
  have h1 : lo * u + hi * u < 2 * (x * u) ↔ lo + hi < 2 * x := by
    rw [← add_mul, ← mul_assoc, mul_lt_mul_iff_left₀ hu]
  have h2 : lo * u + hi * u = 2 * (x * u) ↔ lo + hi = 2 * x := by
    rw [← add_mul, ← mul_assoc, mul_left_inj' hu.ne']
  have h3 : lo * u ≠ x * u ↔ lo ≠ x := not_congr (mul_left_inj' hu.ne')
  cases r <;> simp only [Rnd.goesUp, h1, h2, h3]

/-- A value is not rounded away from the neighbour that it equals. -/
theorem Rnd.not_goesUp_self (r : Rnd) (neg : Bool) {lo hi : ℚ} (odd : Prop) (h : lo < hi) : ¬ r.goesUp neg lo lo hi odd := by
  cases r <;> simp only [Rnd.goesUp, ne_eq, not_true_eq_false, and_false, not_false_eq_true]
  rintro (h' | ⟨h', -⟩) <;> linarith

/-- `n` is `k` or the number after it, as rounding takes the nearer or the farther neighbour. -/
def Rnd.picks (r : Rnd) (neg : Bool) (lo x hi : ℚ) (odd : Prop) (k n : Nat) : Prop :=
  (r.goesUp neg lo x hi odd ∧ n = k + 1) ∨ (¬ r.goesUp neg lo x hi odd ∧ n = k)

theorem natFloor_bounds (num : Nat) {den : Nat} (hd : 0 < den) :
    ((num / den : Nat) : ℚ) ≤ num / den ∧ (num / den : ℚ) < (num / den : Nat) + 1 := by
  have hq : (0 : ℚ) < den := by exact_mod_cast hd
  rw [le_div_iff₀ hq, div_lt_iff₀ hq]
  have h1 := Nat.div_mul_le_self num den
  have h2 := Nat.lt_mul_div_succ num hd
  rw [Nat.mul_comm] at h2
  exact ⟨by exact_mod_cast h1, by exact_mod_cast h2⟩

theorem natFloor_eq_iff (num : Nat) {den : Nat} (hd : 0 < den) : ((num / den : Nat) : ℚ) = num / den ↔ num % den = 0 := by
  have hq : (den : ℚ) ≠ 0 := by exact_mod_cast hd.ne'
  rw [eq_div_iff hq]
  have h1 := Nat.div_add_mod' num den
  constructor
  · intro h
    have : num / den * den = num := by exact_mod_cast h
    omega
  · intro h
    have : num / den * den = num := by omega
    exact_mod_cast this

theorem roundNat_picks (r : Rnd) (neg : Bool) (num : Nat) {den : Nat} (hd : 0 < den) :
    r.picks neg (num / den : Nat) (num / den) ((num / den : Nat) + 1) (num / den % 2 = 1) (num / den) (roundNat r neg num den) := by
  have hq : (0 : ℚ) < den := by exact_mod_cast hd
  have hm : (num : ℚ) / den = (num / den : Nat) + (num % den : Nat) / den := by
    field_simp
    exact_mod_cast (by rw [Nat.mul_comm]; exact (Nat.div_add_mod' num den).symm)
  have hz : (((num / den : Nat) : ℚ) ≠ num / den) ↔ num % den ≠ 0 := not_congr (natFloor_eq_iff num hd)
  have hlt : ((num / den : Nat) : ℚ) + ((num / den : Nat) + 1) < 2 * (num / den) ↔ den < 2 * (num % den) := by
    rw [hm, ← sub_pos, ← Nat.cast_lt (α := ℚ), ← sub_pos (b := (den : ℚ))]
    push_cast
    rw [← mul_pos_iff_of_pos_right hq]
    exact iff_of_eq (by congr 1; field_simp; ring)
  have heq : ((num / den : Nat) : ℚ) + ((num / den : Nat) + 1) = 2 * (num / den) ↔ 2 * (num % den) = den := by
    rw [hm, ← Nat.cast_inj (R := ℚ)]
    push_cast
    constructor <;> intro h
    · field_simp at h; linarith
    · field_simp; linarith
  have key : ∀ (b : Bool) (P : Prop), (b = true ↔ P) → (P ∧ (if b then num / den + 1 else num / den) = num / den + 1) ∨
      (¬ P ∧ (if b then num / den + 1 else num / den) = num / den) := by
    intro b P h
    cases b <;> simp_all
  unfold Rnd.picks roundNat
  refine key _ _ ?_
  cases r with
  | rne => simp [Rnd.goesUp, hlt, heq]
  | rz => simp [Rnd.goesUp]
  | rdn => rw [Rnd.goesUp, hz]; simp
  | rup => rw [Rnd.goesUp, hz]; simp

theorem log2Floor_bounds {num den : Nat} (hn : 0 < num) (hd : 0 < den) :
    (2 : ℚ) ^ log2Floor num den ≤ num / den ∧ (num / den : ℚ) < 2 ^ (log2Floor num den + 1) := by
  have hq : (0 : ℚ) < den := by exact_mod_cast hd
  have a1 : (2 : ℚ) ^ (Nat.log2 num : ℤ) ≤ num := by exact_mod_cast Nat.log2_self_le hn.ne'
  have a2 : (num : ℚ) < 2 ^ ((Nat.log2 num : ℤ) + 1) := by exact_mod_cast Nat.lt_log2_self (n := num)
  have b1 : (2 : ℚ) ^ (Nat.log2 den : ℤ) ≤ den := by exact_mod_cast Nat.log2_self_le hd.ne'
  have b2 : (den : ℚ) < 2 ^ ((Nat.log2 den : ℤ) + 1) := by exact_mod_cast Nat.lt_log2_self (n := den)
  have hp : ∀ z : ℤ, (0 : ℚ) < 2 ^ z := fun z => by positivity
  set e : ℤ := (Nat.log2 num : ℤ) - Nat.log2 den with he
  have up : (num / den : ℚ) < 2 ^ (e + 1) := by
    rw [div_lt_iff₀ hq]
    calc (num : ℚ) < 2 ^ ((Nat.log2 num : ℤ) + 1) := a2
      _ = 2 ^ (e + 1) * 2 ^ (Nat.log2 den : ℤ) := by rw [← zpow_add₀ (by norm_num)]; congr 1; omega
      _ ≤ _ := mul_le_mul_of_nonneg_left b1 (hp _).le
  have low : (2 : ℚ) ^ (e - 1) ≤ num / den := by
    rw [le_div_iff₀ hq]
    calc (2 : ℚ) ^ (e - 1) * den ≤ 2 ^ (e - 1) * 2 ^ ((Nat.log2 den : ℤ) + 1) := mul_le_mul_of_nonneg_left b2.le (hp _).le
      _ = 2 ^ (Nat.log2 num : ℤ) := by rw [← zpow_add₀ (by norm_num)]; congr 1; omega
      _ ≤ _ := a1
  have key : ∀ p : Prop, [Decidable p] → (p ↔ (2 : ℚ) ^ e ≤ num / den) →
      (2 : ℚ) ^ (if p then e else e - 1) ≤ num / den ∧ (num / den : ℚ) < 2 ^ ((if p then e else e - 1) + 1) := by
    intro p _ h
    split
    · exact ⟨h.mp ‹_›, up⟩
    · refine ⟨low, ?_⟩
      rw [sub_add_cancel]
      exact not_le.mp fun h' => ‹¬ p› (h.mpr h')
  unfold log2Floor
  rw [← he]
  clear_value e
  cases e with
  | ofNat n =>
    refine key _ ?_
    rw [le_div_iff₀ hq]
    simp only [Int.ofNat_eq_natCast, zpow_natCast]
    rw [mul_comm]
    exact_mod_cast Iff.rfl
  | negSucc n =>
    refine key _ ?_
    rw [le_div_iff₀ hq, zpow_negSucc, inv_mul_le_iff₀ (by positivity), mul_comm]
    exact_mod_cast Iff.rfl

/-- Rounding in units of 2^u, said of the fraction itself. -/
theorem roundUnits_spec (r : Rnd) (neg : Bool) (num : Nat) {den : Nat} (hd : 0 < den) (u : ℤ) :
    ∃ k : Nat, (k : ℚ) * 2 ^ u ≤ num / den ∧ (num / den : ℚ) < (k + 1) * 2 ^ u ∧
      r.picks neg (k * 2 ^ u) (num / den) ((k + 1) * 2 ^ u) (k % 2 = 1) k (roundUnits r neg num den u).1 ∧
      ((roundUnits r neg num den u).2 = true ↔ (k : ℚ) * 2 ^ u = num / den) := by
  have hu : (0 : ℚ) < 2 ^ u := by positivity
  have key : ∀ n' d' : Nat, 0 < d' → (n' / d' : ℚ) * 2 ^ u = num / den →
      ((n' / d' : Nat) : ℚ) * 2 ^ u ≤ num / den ∧ (num / den : ℚ) < ((n' / d' : Nat) + 1) * 2 ^ u ∧
      r.picks neg ((n' / d' : Nat) * 2 ^ u) (num / den) (((n' / d' : Nat) + 1) * 2 ^ u) (n' / d' % 2 = 1) (n' / d') (roundNat r neg n' d') ∧
      ((n' % d' == 0) = true ↔ ((n' / d' : Nat) : ℚ) * 2 ^ u = num / den) := by
    intro n' d' hd' h
    obtain ⟨h1, h2⟩ := natFloor_bounds n' hd'
    rw [← h]
    refine ⟨mul_le_mul_of_nonneg_right h1 hu.le, mul_lt_mul_of_pos_right h2 hu, ?_, ?_⟩
    · unfold Rnd.picks
      rw [Rnd.goesUp_mul _ _ _ _ _ _ hu]
      exact roundNat_picks r neg n' hd'
    · rw [mul_left_inj' hu.ne', natFloor_eq_iff n' hd', beq_iff_eq]
  cases u with
  | ofNat n =>
    refine ⟨_, key num (den * 2 ^ n) (by positivity) ?_⟩
    simp only [Int.ofNat_eq_natCast, zpow_natCast]
    push_cast
    field_simp
  | negSucc n =>
    refine ⟨_, key (num * 2 ^ (n + 1)) den hd ?_⟩
    rw [zpow_negSucc]
    push_cast
    field_simp

/-- The value of a magnitude and a sign. -/
def signedQ (neg : Bool) (x : ℚ) : ℚ := if neg then -x else x

@[simp] theorem signedQ_true (x : ℚ) : signedQ true x = -x := rfl
@[simp] theorem signedQ_false (x : ℚ) : signedQ false x = x := rfl

theorem abs_signedQ (neg : Bool) {x : ℚ} (h : 0 ≤ x) : |signedQ neg x| = x := by
  cases neg <;> simp [h]

/-- A magnitude of at least 2^e holds 2^F units of 2^(e − F). -/
theorem two_zpow_units (e : ℤ) (n : Nat) : (2 : ℚ) ^ e = 2 ^ n * 2 ^ (e - n) := by
  rw [← zpow_natCast, ← zpow_add₀ (by norm_num)]
  congr 1
  omega

theorem two_zpow_lt_iff {a b : ℤ} : (2 : ℚ) ^ a < 2 ^ b ↔ a < b := zpow_lt_zpow_iff_right₀ (by norm_num)
theorem two_zpow_le_iff {a b : ℤ} : (2 : ℚ) ^ a ≤ 2 ^ b ↔ a ≤ b := zpow_le_zpow_iff_right₀ (by norm_num)

/-- The units of a magnitude at the exponent of its format's rounding: at most twice those of a normal number, and fewer than those only at the least exponent. -/
theorem Fmt.units_bounds (f : Fmt) {num den k : Nat} (hn : 0 < num) (hd : 0 < den) {emin : ℤ}
    (h1 : (k : ℚ) * 2 ^ (max (log2Floor num den) emin - f.frac) ≤ num / den)
    (h2 : (num / den : ℚ) < (k + 1) * 2 ^ (max (log2Floor num den) emin - f.frac)) :
    k < 2 ^ (f.frac + 1) ∧ (k < 2 ^ f.frac → max (log2Floor num den) emin = emin) := by
  obtain ⟨l1, l2⟩ := log2Floor_bounds hn hd
  set e := log2Floor num den
  set ee := max e emin with hee
  have hu : (0 : ℚ) < 2 ^ (ee - f.frac) := by positivity
  constructor
  · have : (k : ℚ) * 2 ^ (ee - f.frac) < 2 ^ (f.frac + 1) * 2 ^ (ee - f.frac) := by
      calc _ ≤ _ := h1
        _ < 2 ^ (e + 1) := l2
        _ ≤ 2 ^ (ee + 1) := two_zpow_le_iff.mpr (by omega)
        _ = _ := by rw [two_zpow_units (ee + 1) (f.frac + 1)]; congr 2; push_cast; ring
    exact_mod_cast lt_of_mul_lt_mul_right this hu.le
  · intro hk
    by_contra hne
    have he : ee = e := by omega
    have : (2 : ℚ) ^ f.frac * 2 ^ (ee - f.frac) < (k + 1) * 2 ^ (ee - f.frac) := by
      rw [← two_zpow_units, he]
      rw [he] at h2
      exact l1.trans_lt h2
    have : 2 ^ f.frac < k + 1 := by exact_mod_cast lt_of_mul_lt_mul_right this hu.le
    omega

/-- The part of `tiny` that the mode decides: a value under the least normal number `low`, rounded with `last` the number before it, does not reach it. -/
def Rnd.staysUnder (r : Rnd) (z last low : ℚ) : Prop :=
  match r with
  | .rne => |z| < (last + low) / 2
  | .rz => True
  | .rdn => 0 < z ∨ |z| ≤ last
  | .rup => z < 0 ∨ |z| ≤ last

theorem Rnd.staysUnder_of_le (r : Rnd) {z last low : ℚ} (h : |z| ≤ last) (hl : last < low) : r.staysUnder z last low := by
  cases r with
  | rne => show |z| < _; linarith
  | rz => trivial
  | rdn => exact .inr h
  | rup => exact .inr h

theorem Rnd.staysUnder_iff (r : Rnd) (neg : Bool) {x last low : ℚ} (hx : 0 < x) (h : last ≤ x) :
    r.staysUnder (signedQ neg x) last low ↔ ¬ r.goesUp neg last x low True := by
  have habs := abs_signedQ neg hx.le
  cases r with
  | rne =>
    simp only [Rnd.staysUnder, Rnd.goesUp, habs, and_true, not_or, not_lt]
    exact ⟨fun _ => ⟨by linarith, by intro; linarith⟩, fun ⟨h1, h2⟩ => by
      rcases h1.lt_or_eq with h1 | h1
      · linarith
      · exact absurd h1.symm h2⟩
  | rz => simp [Rnd.staysUnder, Rnd.goesUp]
  | rdn => cases neg <;> simp [Rnd.staysUnder, Rnd.goesUp, hx, hx.le, abs_of_pos, h.ge_iff_eq', eq_comm, h.not_gt, not_lt.mpr hx.le]
  | rup => cases neg <;> simp [Rnd.staysUnder, Rnd.goesUp, hx, hx.le, abs_of_pos, h.ge_iff_eq', eq_comm, not_lt.mpr hx.le]

/-- What roundMag's third component says: rounded with no bound on the exponent below, the magnitude lies under the smallest normal number. -/
theorem Fmt.roundMag_tiny (f : Fmt) (r : Rnd) (neg : Bool) {num den : Nat} (hn : 0 < num) (hd : 0 < den) :
    (f.roundMag r neg num den).2.2 = true ↔ f.tiny r (signedQ neg (num / den)) := by
  obtain ⟨l1, l2⟩ := log2Floor_bounds hn hd
  obtain ⟨k, k1, k2, hk, -⟩ := roundUnits_spec r neg num hd (log2Floor num den - f.frac)
  have hx : (0 : ℚ) < num / den := by positivity
  have habs := abs_signedQ neg hx.le
  have hne : signedQ neg ((num : ℚ) / den) ≠ 0 := by rw [← abs_pos, habs]; exact hx
  obtain ⟨k3, -⟩ := f.units_bounds hn hd (emin := log2Floor num den) (by rwa [max_self]) (by rwa [max_self])
  show _ ↔ _ ∧ _ ∧ r.staysUnder _ _ _
  unfold Fmt.roundMag
  simp only [Bool.and_eq_true, decide_eq_true_eq, Bool.not_eq_true', Bool.and_eq_false_iff, decide_eq_false_iff_not, beq_eq_false_iff_ne, habs]
  generalize (num : ℚ) / den = x at *
  generalize (roundUnits r neg num den (log2Floor num den - f.frac)).1 = n at *
  generalize log2Floor num den = e at *
  generalize (1 : ℤ) - f.bias = emin at *
  have hlow : x < 2 ^ emin ↔ e < emin :=
    ⟨fun h => two_zpow_lt_iff.mp (l1.trans_lt h), fun h => l2.trans_le (two_zpow_le_iff.mpr (by omega))⟩
  rw [hlow, and_iff_right hne]
  refine and_congr_right fun he => ?_
  have hg : (2 : ℚ) ^ emin / 2 ^ (f.frac + 1) = 2 ^ (emin - 1 - f.frac) := by
    rw [two_zpow_units emin (f.frac + 1), mul_div_cancel_left₀ _ (by positivity)]
    congr 1
    push_cast
    ring
  have hlg : (2 : ℚ) ^ emin = 2 ^ (f.frac + 1) * 2 ^ (emin - 1 - f.frac) := by rw [← hg]; field_simp
  have hgp : (0 : ℚ) < 2 ^ (emin - 1 - f.frac) := by positivity
  rw [hg]
  rcases (show e ≤ emin - 1 by omega).lt_or_eq with hlt | rfl
  · have hle : |signedQ neg x| ≤ 2 ^ emin - 2 ^ (emin - 1 - f.frac) := by
      have h1 : (2 : ℚ) ^ (e + 1) ≤ 2 ^ (emin - 1) := two_zpow_le_iff.mpr (by omega)
      have h2 : (2 : ℚ) ^ (emin - 1 - f.frac) ≤ 2 ^ (emin - 1) := two_zpow_le_iff.mpr (by omega)
      have h3 : (2 : ℚ) ^ emin = 2 * 2 ^ (emin - 1) := by rw [← zpow_one_add₀ (by norm_num)]; congr 1; omega
      rw [habs]
      linarith
    exact iff_of_true (.inl hlt.ne) (r.staysUnder_of_le hle (by linarith))
  · generalize (2 : ℚ) ^ (emin - 1 - f.frac) = g at *
    simp only [not_true_eq_false, false_or]
    rcases (show k + 1 ≤ 2 ^ (f.frac + 1) by omega).lt_or_eq with hlt | hke
    · have hle : ((k : ℚ) + 1 + 1) * g ≤ 2 ^ (f.frac + 1) * g :=
        mul_le_mul_of_nonneg_right (by exact_mod_cast hlt) hgp.le
      refine iff_of_true ?_ (r.staysUnder_of_le (by rw [habs, hlg]; linarith) (by linarith))
      rcases hk with ⟨-, rfl⟩ | ⟨-, rfl⟩ <;> omega
    · have hkq : (k : ℚ) + 1 = 2 ^ (f.frac + 1) := by exact_mod_cast hke
      have hlast : (2 : ℚ) ^ emin - g = k * g := by rw [hlg, ← hkq]; ring
      have hodd : k % 2 = 1 := by rw [pow_succ] at hke; omega
      rw [hkq, ← hlg, ← hlast] at hk
      rw [← hlast] at k1
      rw [r.staysUnder_iff neg hx k1, Rnd.picks] at *
      simp only [hodd] at hk
      rcases hk with ⟨h, rfl⟩ | ⟨h, rfl⟩
      · exact iff_of_false (by omega) (not_not_intro h)
      · exact iff_of_true (by omega) h

/-- The code that roundMag gives is that of the number below the magnitude or of the one after it, as the mode takes it. -/
theorem Fmt.roundMag_spec {f : Fmt} (hf : f.plain) (r : Rnd) (neg : Bool) {num den : Nat} (hn : 0 < num) (hd : 0 < den) :
    ∃ k : Nat, f.mag k ≤ num / den ∧ (num / den : ℚ) < f.mag (k + 1) ∧
      r.picks neg (f.mag k) (num / den) (f.mag (k + 1)) (k % 2 = 1) k (f.roundMag r neg num den).1 ∧
      ((f.roundMag r neg num den).2.1 = true ↔ f.mag k = num / den) := by
  obtain ⟨k, k1, k2, hk, hx⟩ := roundUnits_spec r neg num hd (max (log2Floor num den) (1 - f.bias) - f.frac)
  obtain ⟨k3, k4⟩ := f.units_bounds hn hd k1 k2
  have hc : (f.roundMag r neg num den).1 =
      f.codeOf (max (log2Floor num den) (1 - f.bias)) (roundUnits r neg num den (max (log2Floor num den) (1 - f.bias) - f.frac)).1 := rfl
  have hxx : (f.roundMag r neg num den).2.1 = (roundUnits r neg num den (max (log2Floor num den) (1 - f.bias) - f.frac)).2 := rfl
  rw [hc, hxx]
  have he : 1 - (f.bias : ℤ) ≤ max (log2Floor num den) (1 - f.bias) := le_max_right _ _
  generalize max (log2Floor num den) (1 - (f.bias : ℤ)) = e at *
  generalize roundUnits r neg num den (e - f.frac) = p at *
  have m1 : f.mag (f.codeOf e k) = k * 2 ^ (e - f.frac) := f.mag_codeOf he k4 k3.le
  have m2 : f.mag (f.codeOf e k + 1) = (k + 1) * 2 ^ (e - f.frac) := by
    rw [← f.codeOf_succ he k4, f.mag_codeOf he (fun h => k4 (by omega)) k3]
    push_cast
    rfl
  refine ⟨f.codeOf e k, m1 ▸ k1, m2 ▸ k2, ?_, m1 ▸ hx⟩
  rw [m1, m2, f.codeOf_mod_two hf]
  rcases hk with ⟨h, hp⟩ | ⟨h, hp⟩
  · exact .inl ⟨h, by rw [hp, f.codeOf_succ he k4]⟩
  · exact .inr ⟨h, by rw [hp]⟩

theorem signedQ_signedQ (neg : Bool) (x : ℚ) : signedQ neg (signedQ neg x) = x := by cases neg <;> simp

theorem abs_signedQ_sub (neg : Bool) (x y : ℚ) : |signedQ neg x - signedQ neg y| = |x - y| := by
  cases neg with
  | false => rfl
  | true => rw [signedQ_true, signedQ_true, ← abs_neg]; congr 1; ring

theorem Fmt.value_signedQ (f : Fmt) {a : Nat} (n : Bool) (h : a < f.signBit) : f.value (f.signed n a) = signedQ n (f.mag a) :=
  f.value_signed n h

/-- A number of the format, seen from the side of a sign, is at most the `k`-th from 0 or at least the one after it; and its size is that of a code up to the largest. -/
theorem Fmt.exists_mirror {f : Fmt} {u : Nat} (neg : Bool) (hu : f.finite u) :
    ∃ w, f.value u = signedQ neg w ∧ (∀ k, w ≤ f.mag k ∨ f.mag (k + 1) ≤ w) ∧ ∃ j, |f.value u| = f.mag j := by
  refine ⟨signedQ neg (f.value u), (signedQ_signedQ _ _).symm, fun k => ?_, u % f.signBit, ?_⟩
  · have hk := f.mag_nonneg k
    have hu' := f.mag_nonneg (u % f.signBit)
    have hc : f.mag (u % f.signBit) ≤ f.mag k ∨ f.mag (k + 1) ≤ f.mag (u % f.signBit) := by
      rw [mag_le, mag_le]; omega
    rw [value_of_finite hu]
    cases decide (f.signBit ≤ u) <;> cases neg <;> simp only [signedQ, if_true, if_false, Bool.false_eq_true, neg_neg]
    · exact hc
    · exact .inl (by linarith)
    · exact .inl (by linarith)
    · exact hc
  · rw [value_of_finite hu]
    have hu' := f.mag_nonneg (u % f.signBit)
    split
    · rw [abs_neg, abs_of_nonneg hu']
    · rw [abs_of_nonneg hu']

/-- Of two numbers on either side of `x`, the one that round-to-nearest-even takes is the nearer, and in a tie the even one. -/
theorem Rnd.rne_nearest {neg : Bool} {lo x hi v w : ℚ} {k c : Nat} (h1 : lo ≤ x) (h2 : x < hi) (hp : Rnd.rne.picks neg lo x hi (k % 2 = 1) k c)
    (hv : v = if c = k then lo else hi) (hw : w ≤ lo ∨ hi ≤ w) : |v - x| ≤ |w - x| ∧ (|v - x| = |w - x| → w ≠ v → c % 2 = 0) := by
  unfold Rnd.picks Rnd.goesUp at hp
  rcases hp with ⟨h, rfl⟩ | ⟨h, rfl⟩
  · rw [if_neg (by omega)] at hv
    subst hv
    have hmid : lo + v ≤ 2 * x := by
      rcases h with h | ⟨h, -⟩
      · exact h.le
      · exact h.le
    rw [abs_of_pos (by linarith)]
    rcases hw with hw | hw
    · rw [abs_of_nonpos (by linarith)]
      refine ⟨by linarith, fun he _ => ?_⟩
      rcases h with h | ⟨-, h⟩
      · exact absurd he (by intro; linarith)
      · omega
    · rw [abs_of_pos (by linarith)]
      exact ⟨by linarith, fun he hne => absurd (by linarith) hne⟩
  · rw [if_pos rfl] at hv
    subst hv
    rw [not_or, not_and, not_lt] at h
    rw [abs_of_nonpos (by linarith)]
    rcases hw with hw | hw
    · rw [abs_of_nonpos (by linarith)]
      exact ⟨by linarith, fun he hne => absurd (by linarith) hne⟩
    · rw [abs_of_pos (by linarith)]
      refine ⟨by linarith [h.1], fun he _ => ?_⟩
      have := h.2 (by linarith [h.1])
      omega

/-- Rounding away from zero takes the least number that is not below the magnitude. -/
theorem Fmt.away_least {f : Fmt} {x : ℚ} {k c : Nat} (h1 : f.mag k ≤ x) (h2 : x < f.mag (k + 1))
    (hp : (f.mag k ≠ x ∧ c = k + 1) ∨ (¬ f.mag k ≠ x ∧ c = k)) :
    x ≤ f.mag c ∧ ∀ w, (w ≤ f.mag k ∨ f.mag (k + 1) ≤ w) → x ≤ w → f.mag c ≤ w := by
  rcases hp with ⟨hne, rfl⟩ | ⟨h, rfl⟩
  · exact ⟨h2.le, fun w hg hw => hg.resolve_left fun h => hne (le_antisymm h1 (hw.trans h))⟩
  · rw [not_not.mp h]
    exact ⟨le_rfl, fun w _ hw => hw⟩

/-- Rounding towards zero takes the greatest number that is not above the magnitude. -/
theorem Fmt.toward_greatest {f : Fmt} {x : ℚ} {k : Nat} (h2 : x < f.mag (k + 1)) {w : ℚ}
    (hg : w ≤ f.mag k ∨ f.mag (k + 1) ≤ w) (hw : w ≤ x) : w ≤ f.mag k :=
  hg.resolve_right fun h => absurd hw (not_le.mpr (h2.trans_le h))

theorem Fmt.nearest_of_picks {f : Fmt} (hf : f.plain) {r : Rnd} {neg : Bool} {x : ℚ} {k c : Nat} (h1 : f.mag k ≤ x) (h2 : x < f.mag (k + 1))
    (hp : r.picks neg (f.mag k) x (f.mag (k + 1)) (k % 2 = 1) k c) (hc : c ≤ f.maxCode) : f.nearest r (signedQ neg x) (f.signed neg c) := by
  have hcs := hc.trans_lt f.maxCode_lt_signBit
  have hx := (f.mag_nonneg k).trans h1
  have hpar : f.signed neg c % 2 = c % 2 := by
    have := even_signBit hf
    cases neg <;> simp [Fmt.signed] <;> omega
  have hgap := fun u (hu : f.finite u) => exists_mirror neg hu
  cases r with
  | rne =>
    intro u hu
    obtain ⟨w, hw, hg, -⟩ := hgap u hu
    have hv : f.mag c = if c = k then f.mag k else f.mag (k + 1) := by
      rcases hp with ⟨-, rfl⟩ | ⟨-, rfl⟩ <;> simp
    have := Rnd.rne_nearest h1 h2 hp hv (hg k)
    rw [f.value_signedQ neg hcs, hw, abs_signedQ_sub, abs_signedQ_sub, hpar]
    exact ⟨this.1, fun he hne => this.2 he fun h => hne (h ▸ rfl)⟩
  | rz =>
    obtain rfl : c = k := by simpa [Rnd.picks, Rnd.goesUp] using hp
    show |_| ≤ |_| ∧ ∀ u, _ → _ → _
    rw [f.value_signedQ neg hcs, abs_signedQ _ (f.mag_nonneg _), abs_signedQ _ hx]
    refine ⟨h1, fun u hu hle => ?_⟩
    obtain ⟨-, -, -, j, hj⟩ := hgap u hu
    rw [hj] at hle ⊢
    have := mag_lt.mp (hle.trans_lt h2)
    exact mag_le.mpr (by omega)
  | rdn =>
    show _ ≤ _ ∧ ∀ u, _ → _ → _
    rw [f.value_signedQ neg hcs]
    cases neg with
    | false =>
      obtain rfl : c = k := by simpa [Rnd.picks, Rnd.goesUp] using hp
      refine ⟨h1, fun u hu hle => ?_⟩
      obtain ⟨w, hw, hg, -⟩ := hgap u hu
      rw [hw] at hle ⊢
      exact toward_greatest h2 (hg c) hle
    | true =>
      obtain ⟨hxc, hl⟩ := away_least h1 h2 (by simpa only [Rnd.picks, Rnd.goesUp, true_and] using hp)
      refine ⟨neg_le_neg hxc, fun u hu hle => ?_⟩
      obtain ⟨w, hw, hg, -⟩ := hgap u hu
      rw [hw] at hle ⊢
      exact neg_le_neg (hl w (hg k) (neg_le_neg_iff.mp hle))
  | rup =>
    show _ ≤ _ ∧ ∀ u, _ → _ → _
    rw [f.value_signedQ neg hcs]
    cases neg with
    | true =>
      obtain rfl : c = k := by simpa [Rnd.picks, Rnd.goesUp] using hp
      refine ⟨neg_le_neg h1, fun u hu hle => ?_⟩
      obtain ⟨w, hw, hg, -⟩ := hgap u hu
      rw [hw] at hle ⊢
      exact neg_le_neg (toward_greatest h2 (hg c) (neg_le_neg_iff.mp hle))
    | false =>
      obtain ⟨hxc, hl⟩ := away_least h1 h2 (by simpa only [Rnd.picks, Rnd.goesUp, true_and] using hp)
      refine ⟨hxc, fun u hu hle => ?_⟩
      obtain ⟨w, hw, hg, -⟩ := hgap u hu
      rw [hw] at hle ⊢
      exact hl w (hg k) hle

theorem Fmt.narrow_or {f : Fmt} (hf : f.plain) : f.narrow = true ∨ f.maxCode + 1 < f.signBit := by
  cases f with
  | q4 t => exact absurd rfl (hf t)
  | e2m3 => exact .inl rfl
  | e3m2 => exact .inl rfl
  | _ => exact .inr (by decide)

theorem Fmt.value_maxCode (f : Fmt) : f.value f.maxCode = f.mag f.maxCode := value_of_lt f.maxCode_lt_signBit

/-- Where a format has codes past its largest number, what it rounds to is one of them just where the value overflows. -/
theorem Fmt.overflows_iff {f : Fmt} (hw : f.narrow = false) (hm : f.maxCode + 1 < f.signBit) {r : Rnd} {neg : Bool} {x : ℚ} {k c : Nat} (hx : 0 < x)
    (h1 : f.mag k ≤ x) (h2 : x < f.mag (k + 1)) (hp : r.picks neg (f.mag k) x (f.mag (k + 1)) (k % 2 = 1) k c) :
    f.overflows r (signedQ neg x) ↔ f.maxCode < c := by
  unfold Fmt.overflows
  rw [value_maxCode, value_of_lt hm, hw, abs_signedQ _ hx.le]
  simp only [Bool.false_eq_true, if_false]
  have hs : signedQ neg x < 0 ↔ neg = true := by cases neg <;> simp [hx, hx.le]
  rw [if_congr hs rfl rfl, if_congr hs rfl rfl]
  rcases lt_trichotomy k f.maxCode with h | rfl | h
  · have hlt : x < f.mag f.maxCode := h2.trans_le (mag_le.mpr h)
    have hnext : f.mag f.maxCode < f.mag (f.maxCode + 1) := mag_lt.mpr (Nat.lt_succ_self _)
    have hc : ¬ f.maxCode < c := by rcases hp with ⟨-, rfl⟩ | ⟨-, rfl⟩ <;> omega
    refine iff_of_false ?_ hc
    cases r with
    | rne => rintro (h | ⟨h, -⟩) <;> linarith
    | rz => exact not_le.mpr (hlt.trans hnext)
    | rdn => dsimp only; split <;> intro <;> linarith
    | rup => dsimp only; split <;> intro <;> linarith
  · have hc : f.maxCode < c ↔ r.goesUp neg (f.mag f.maxCode) x (f.mag (f.maxCode + 1)) (f.maxCode % 2 = 1) := by
      rcases hp with ⟨h, rfl⟩ | ⟨h, rfl⟩ <;> simp [h]
    rw [hc]
    have hne : f.mag f.maxCode < x ↔ f.mag f.maxCode ≠ x := h1.lt_iff_ne
    cases r with
    | rne => exact Iff.rfl
    | rz => exact iff_of_false (not_le.mpr h2) id
    | rdn => cases neg <;> simp [Rnd.goesUp, hne, h2]
    | rup => cases neg <;> simp [Rnd.goesUp, hne, h2]
  · have hle : f.mag (f.maxCode + 1) ≤ x := (mag_le.mpr h).trans h1
    have hnext : f.mag f.maxCode < f.mag (f.maxCode + 1) := mag_lt.mpr (Nat.lt_succ_self _)
    have hc : f.maxCode < c := by rcases hp with ⟨-, rfl⟩ | ⟨-, rfl⟩ <;> omega
    refine iff_of_true ?_ hc
    cases r with
    | rne => exact .inl (by linarith)
    | rz => exact hle
    | rdn => dsimp only; split <;> linarith
    | rup => dsimp only; split <;> linarith

/-- An exact value is finite, with the sign and the rational that it has. -/
def Ex.Is (x : Ex) (neg : Bool) (z : ℚ) : Prop := ∃ p q : Nat, 0 < q ∧ x = .fin neg p q ∧ z = signedQ neg (p / q)

theorem scale2_is (neg : Bool) (p : Nat) {q : Nat} (hq : 0 < q) (e : ℤ) : (scale2 neg p q e).Is neg (signedQ neg (p / q * 2 ^ e)) := by
  cases e with
  | ofNat n =>
    refine ⟨p * 2 ^ n, q, hq, rfl, ?_⟩
    congr 1
    simp only [Int.ofNat_eq_natCast, zpow_natCast]
    push_cast
    ring
  | negSucc n =>
    refine ⟨p, q * 2 ^ (n + 1), by positivity, rfl, ?_⟩
    congr 1
    rw [zpow_negSucc]
    push_cast
    field_simp

theorem Fmt.decode_plain {f : Fmt} (hf : f.plain) (c : Nat) : f.decode c =
    if f.hasInf && c % 2 ^ f.width % f.signBit == f.infCode then .inf (decide (c % 2 ^ f.width ≥ f.signBit))
    else if f.hasInf && decide (c % 2 ^ f.width % f.signBit > f.infCode) then
      .nan (f.wide && decide (c % 2 ^ f.width % f.signBit % 2 ^ f.frac < 2 ^ (f.frac - 1)))
    else if f == .e4m3 && c % 2 ^ f.width % f.signBit == 0x7F then .nan false
    else if c % 2 ^ f.width % f.signBit / 2 ^ f.frac = 0 then
      scale2 (decide (c % 2 ^ f.width ≥ f.signBit)) (c % 2 ^ f.width % f.signBit % 2 ^ f.frac) 1 (1 - (f.bias : Int) - f.frac)
    else scale2 (decide (c % 2 ^ f.width ≥ f.signBit)) (2 ^ f.frac + c % 2 ^ f.width % f.signBit % 2 ^ f.frac) 1
      (((c % 2 ^ f.width % f.signBit / 2 ^ f.frac : Nat) : Int) - f.bias - f.frac) := by
  cases f with
  | q4 t => exact absurd rfl (hf t)
  | _ => rfl

theorem Fmt.maxCode_lt_infCode {f : Fmt} (h : f.hasInf = true) : f.maxCode < f.infCode := by
  cases f with
  | q4 t => exact Bool.noConfusion h
  | e2m3 => exact absurd h (by decide)
  | e3m2 => exact absurd h (by decide)
  | _ => decide

/-- The code of a number decodes to it. -/
theorem Fmt.decode_finite {f : Fmt} (hf : f.plain) {c : Nat} (hc : f.finite c) : (f.decode c).Is (decide (f.signBit ≤ c)) (f.value c) := by
  have hv := value_of_finite hc
  have hne : (f == .e4m3 && c % f.signBit == 0x7F) = false := by
    rw [Bool.and_eq_false_iff, beq_eq_false_iff_ne, beq_eq_false_iff_ne]
    by_cases h : f = .e4m3
    · have h2 := hc.2
      subst h
      exact .inr (by change _ ≤ 0x7E at h2; omega)
    · exact .inl h
  have hni : (f.hasInf && c % f.signBit == f.infCode) = false ∧ (f.hasInf && decide (c % f.signBit > f.infCode)) = false := by
    cases h : f.hasInf
    · exact ⟨rfl, rfl⟩
    · have := maxCode_lt_infCode h
      have h2 := hc.2
      simp only [Bool.true_and, beq_eq_false_iff_ne, decide_eq_false_iff_not]
      omega
  rw [decode_plain hf, Nat.mod_eq_of_lt hc.1, hni.1, hni.2, hne, hv]
  simp only [Bool.false_eq_true, if_false]
  generalize decide (f.signBit ≤ c) = n
  generalize c % f.signBit = a
  have hp : 0 < 2 ^ f.frac := by positivity
  unfold Fmt.mag Fmt.unit
  rcases Nat.lt_or_ge a (2 ^ f.frac) with h | h
  · rw [if_pos (Nat.div_eq_of_lt h), if_pos h, Nat.div_eq_of_lt h, Nat.mod_eq_of_lt h]
    simpa [signedQ] using scale2_is n a one_pos (1 - (f.bias : ℤ) - f.frac)
  · have h1 : 1 ≤ a / 2 ^ f.frac := (Nat.one_le_div_iff hp).mpr h
    rw [if_neg (show ¬ a / 2 ^ f.frac = 0 by omega), if_neg (not_lt.mpr h), max_eq_left (by exact_mod_cast h1)]
    have hs := scale2_is n (2 ^ f.frac + a % 2 ^ f.frac) one_pos (((a / 2 ^ f.frac : ℕ) : ℤ) - f.bias - f.frac)
    rwa [Nat.cast_one, div_one] at hs

theorem Ex.lt_fin {p q num den : Nat} (hq : 0 < q) (hd : 0 < den) :
    (Ex.fin false p q).lt (.fin false num den) = true ↔ (p / q : ℚ) < num / den := by
  have hq' : (0 : ℚ) < q := by exact_mod_cast hq
  have hd' : (0 : ℚ) < den := by exact_mod_cast hd
  rw [div_lt_div_iff₀ hq' hd']
  simp only [Ex.lt, decide_eq_true_eq]
  exact_mod_cast Iff.rfl

theorem Fmt.encodeFin_plain {f : Fmt} (hf : f.plain) (r : Rnd) (sat ftz neg : Bool) (num den : Nat) : f.encodeFin r sat ftz neg num den =
    if f.narrow && (f.decode f.maxCode).lt (.fin false num den) then (f.signed neg f.maxCode, fOverflow ||| fInexact)
    else if f.maxCode < (f.roundMag r neg num den).1 then
      (if sat then f.signed neg f.maxCode
        else if f.hasInf then (if overflowToInf r neg then f.signed neg f.infCode else f.signed neg f.maxCode)
        else f.nanCode, fOverflow ||| fInexact)
    else if ftz && f.wide && (f.roundMag r neg num den).2.2 then (f.signed neg 0, fUnderflow ||| fInexact)
    else (f.signed neg (f.roundMag r neg num den).1, flagIf (!(f.roundMag r neg num den).2.1) fInexact |||
      flagIf ((f.roundMag r neg num den).2.2 && !(f.roundMag r neg num den).2.1) fUnderflow) := by
  cases f with
  | q4 t => exact absurd rfl (hf t)
  | _ => rfl

/-- A number below `low` is no larger than the largest, so a tiny value does not overflow. -/
theorem Fmt.mag_low_lt_max {f : Fmt} (hf : f.plain) : (2 : ℚ) ^ (1 - (f.bias : ℤ)) < f.mag f.maxCode := by
  rw [← f.mag_low, mag_lt]
  have := frac_lt_maxCode hf
  rw [pow_succ] at this
  have : 0 < 2 ^ f.frac := by positivity
  omega

/-- The two kinds of overflow in one: the code that an encoded magnitude takes, and that it is past the largest just where the value overflows. -/
theorem Fmt.encodeFin_cases {f : Fmt} (hf : f.plain) (r : Rnd) (sat ftz neg : Bool) {num den : Nat} (hn : 0 < num) (hd : 0 < den) :
    (f.overflows r (signedQ neg (num / den)) ∧ f.encodeFin r sat ftz neg num den =
      (if f.narrow || sat then f.signed neg f.maxCode else if f.hasInf then f.signed neg (if overflowToInf r neg then f.infCode else f.maxCode) else f.nanCode,
        fOverflow ||| fInexact)) ∨
    (¬ f.overflows r (signedQ neg (num / den)) ∧ ∃ k c, c ≤ f.maxCode ∧ f.mag k ≤ num / den ∧ (num / den : ℚ) < f.mag (k + 1) ∧
      r.picks neg (f.mag k) (num / den) (f.mag (k + 1)) (k % 2 = 1) k c ∧
      f.encodeFin r sat ftz neg num den =
        if ftz && f.wide && (f.roundMag r neg num den).2.2 then (f.signed neg 0, fUnderflow ||| fInexact)
        else (f.signed neg c, flagIf (decide (f.mag k ≠ num / den)) fInexact |||
          flagIf ((f.roundMag r neg num den).2.2 && decide (f.mag k ≠ num / den)) fUnderflow)) := by
  obtain ⟨k, h1, h2, hp, hx⟩ := roundMag_spec hf r neg hn hd
  have hpos : (0 : ℚ) < num / den := by positivity
  have hex : (!(f.roundMag r neg num den).2.1) = decide (f.mag k ≠ num / den) := by
    rw [Bool.eq_iff_iff, Bool.not_eq_true', decide_eq_true_eq, Ne, ← hx, Bool.not_eq_true]
  rw [encodeFin_plain hf, hex]
  generalize (f.roundMag r neg num den).2.2 = tiny
  generalize (f.roundMag r neg num den).1 = c at *
  cases hw : f.narrow with
  | false =>
    have hm := (narrow_or hf).resolve_left (by simp [hw])
    have ho := overflows_iff hw hm hpos h1 h2 hp
    simp only [Bool.false_and, Bool.false_eq_true, if_false, Bool.false_or]
    by_cases hc : f.maxCode < c
    · refine .inl ⟨ho.mpr hc, ?_⟩
      rw [if_pos hc]
      congr 2
      split_ifs <;> rfl
    · refine .inr ⟨fun h => hc (ho.mp h), k, c, not_lt.mp hc, h1, h2, hp, ?_⟩
      rw [if_neg hc]
  | true =>
    obtain ⟨p, q, hq, hd', hv⟩ := decode_finite hf (c := f.maxCode)
      ⟨f.maxCode_lt_signBit.trans_le (by rw [f.two_mul_signBit]; omega), Nat.mod_le _ _⟩
    rw [decide_eq_false (not_le.mpr f.maxCode_lt_signBit), f.value_maxCode] at *
    have ho : f.overflows r (signedQ neg (num / den)) ↔ f.mag f.maxCode < num / den := by
      unfold Fmt.overflows
      rw [hw, abs_signedQ _ hpos.le, f.value_maxCode]
      rfl
    rw [hd', Bool.true_and, Bool.true_or, if_congr (Ex.lt_fin hq hd) rfl rfl, ho, show (p / q : ℚ) = f.mag f.maxCode from hv.symm]
    by_cases hc : f.mag f.maxCode < num / den
    · refine .inl ⟨hc, ?_⟩
      rw [if_pos hc, if_pos rfl]
    · have hcm : c ≤ f.maxCode := by
        by_contra hcm
        rcases hp with ⟨hg, rfl⟩ | ⟨-, rfl⟩
        · rcases (show f.maxCode ≤ k by omega).lt_or_eq with hlt | rfl
          · exact hc ((mag_lt.mpr hlt).trans_le h1)
          · have he : f.mag f.maxCode = num / den := le_antisymm h1 (not_lt.mp hc)
            rw [← he] at hg
            exact r.not_goesUp_self neg _ (mag_lt.mpr (Nat.lt_succ_self _)) hg
        · exact hc ((mag_lt.mpr (by omega)).trans_le h1)
      refine .inr ⟨hc, k, c, hcm, h1, h2, hp, ?_⟩
      rw [if_neg hc, if_neg (not_lt.mpr hcm)]

theorem signedQ_neg_iff (neg : Bool) {x : ℚ} (h : 0 < x) : decide (signedQ neg x < 0) = neg := by
  cases neg <;> simp [h, not_lt.mpr h.le]

theorem signedQ_ne_zero (neg : Bool) {x : ℚ} (h : 0 < x) : signedQ neg x ≠ 0 := by
  cases neg <;> simp [h.ne']

theorem Rnd.picks_exact {r : Rnd} {neg : Bool} {f : Fmt} {x : ℚ} {k c : Nat} (h1 : f.mag k ≤ x) (h2 : x < f.mag (k + 1))
    (hp : r.picks neg (f.mag k) x (f.mag (k + 1)) (k % 2 = 1) k c) : f.mag c = x ↔ f.mag k = x := by
  constructor
  · intro h
    have : c < k + 1 := f.mag_lt.mp (h ▸ h2)
    rcases hp with ⟨-, rfl⟩ | ⟨-, rfl⟩
    · omega
    · exact h
  · intro h
    rcases hp with ⟨hg, rfl⟩ | ⟨-, rfl⟩
    · rw [h] at hg
      exact absurd hg (r.not_goesUp_self neg _ h2)
    · exact h

theorem Fmt.not_overflows_of_lt {f : Fmt} (hf : f.plain) {r : Rnd} {z : ℚ} (h1 : |z| < f.mag f.maxCode) : ¬ f.overflows r z := by
  unfold Fmt.overflows
  rw [f.value_maxCode]
  split
  · exact not_lt.mpr h1.le
  · rename_i hw
    rw [value_of_lt ((narrow_or hf).resolve_left hw)]
    have hnext : f.mag f.maxCode < f.mag (f.maxCode + 1) := mag_lt.mpr (Nat.lt_succ_self _)
    cases r with
    | rne => rintro (h | ⟨h, -⟩) <;> linarith
    | rz => exact not_le.mpr (by linarith)
    | rdn => dsimp only; split <;> intro <;> linarith
    | rup => dsimp only; split <;> intro <;> linarith

theorem Fmt.not_overflows_of_tiny {f : Fmt} (hf : f.plain) {r : Rnd} {z : ℚ} (h : f.tiny r z) : ¬ f.overflows r z :=
  not_overflows_of_lt hf (h.2.1.trans (mag_low_lt_max hf))

theorem Fmt.mag_maxCode_pos {f : Fmt} (hf : f.plain) : 0 < f.mag f.maxCode := by
  have := mag_low_lt_max hf
  have : (0 : ℚ) < 2 ^ (1 - (f.bias : ℤ)) := by positivity
  linarith

/-- A finite nonzero value is rounded once. -/
theorem Fmt.encodeFin_rounds {f : Fmt} (hf : f.plain) (r : Rnd) (sat ftz neg n0 : Bool) {num den : Nat} (hn : 0 < num) (hd : 0 < den) :
    f.rounds r sat ftz n0 (signedQ neg (num / den)) (f.encodeFin r sat ftz neg num den) := by
  have hpos : (0 : ℚ) < num / den := by positivity
  have hz := signedQ_ne_zero neg hpos
  have ht := f.roundMag_tiny r neg hn hd
  unfold Fmt.rounds
  dsimp only
  rw [signedQ_neg_iff neg hpos]
  refine ⟨fun h => absurd h hz, ?_⟩
  rcases encodeFin_cases hf r sat ftz neg hn hd with ⟨ho, he⟩ | ⟨ho, k, c, hc, h1, h2, hp, he⟩
  · refine ⟨fun _ => he.trans ?_, fun _ _ h => absurd ho (not_overflows_of_tiny hf h), fun _ h => absurd ho h⟩
    cases r <;> rfl
  · rw [he]
    clear he
    generalize (f.roundMag r neg num den).2.2 = t at *
    refine ⟨fun h => absurd h ho, fun h3 h4 h5 => ?_, fun _ _ h3 => ?_⟩
    · rw [if_pos (by rw [h3, h4, ht.mpr h5]; rfl)]
    · have hnt : (ftz && f.wide && t) = false := by
        rw [Bool.eq_false_iff]
        intro h
        simp only [Bool.and_eq_true] at h
        exact h3 h.1.1 h.1.2 (ht.mp h.2)
      have hcs := hc.trans_lt f.maxCode_lt_signBit
      have hv : f.value (f.signed neg c) = signedQ neg (num / den) ↔ f.mag k = num / den := by
        rw [f.value_signedQ neg hcs, ← Rnd.picks_exact h1 h2 hp]
        cases neg <;> simp
      rw [hnt, if_neg (by decide)]
      dsimp only
      rw [hv, show (f.value (f.signed neg c) ≠ signedQ neg (num / den) ↔ f.mag k ≠ num / den) from not_congr hv]
      refine ⟨f.signed_finite neg hc, f.signed_div neg hcs, nearest_of_picks hf h1 h2 hp hc, fun h => ?_, fun h h' => ?_, fun h h' => ?_⟩
      · simp [h, flagIf]
      · simp [h, flagIf, ht.mpr h', BitVec.or_comm]
      · have : t = false := by rw [← Bool.not_eq_true, ht]; exact h'
        simp [h, flagIf, this]

/-- encode_value of a finite exact value is that value rounded once; a zero keeps the sign it has. -/
theorem Fmt.encode_rounds {f : Fmt} (hf : f.plain) (r : Rnd) (sat ftz : Bool) {x : Ex} {neg : Bool} {z : ℚ} (h : x.Is neg z) :
    f.rounds r sat ftz neg z (f.encode r sat ftz x) := by
  obtain ⟨p, q, hq, rfl, rfl⟩ := h
  rcases Nat.eq_zero_or_pos p with rfl | hp
  · have he : f.encode r sat ftz (.fin neg 0 q) = (f.signed neg 0, 0) := by
      cases f with
      | q4 t => exact absurd rfl (hf t)
      | _ => rfl
    have hz : signedQ neg ((0 : ℕ) / q) = 0 := by cases neg <;> simp
    rw [he, hz]
    have ho : ¬ f.overflows r 0 := not_overflows_of_lt hf (by rw [abs_zero]; exact mag_maxCode_pos hf)
    exact ⟨fun _ => rfl, fun h => absurd h ho, fun _ _ h => absurd rfl h.1, fun h => absurd rfl h⟩
  · have he : f.encode r sat ftz (.fin neg p q) = f.encodeFin r sat ftz neg p q := if_neg (by omega)
    rw [he]
    exact encodeFin_rounds hf r sat ftz neg neg hp hq

theorem Ex.Is.sign_div {neg : Bool} {z : ℚ} {x : Ex} (h : x.Is neg z) : ∃ p q : Nat, (0 : ℚ) < q ∧ 0 < q ∧ x = .fin neg p q ∧ z = signedQ neg (p / q) := by
  obtain ⟨p, q, hq, hx, hz⟩ := h
  exact ⟨p, q, by exact_mod_cast hq, hq, hx, hz⟩

theorem Ex.Is.neg {x : Ex} {n : Bool} {z : ℚ} (h : x.Is n z) : x.neg.Is (!n) (-z) := by
  obtain ⟨p, q, hq, rfl, rfl⟩ := h
  exact ⟨p, q, hq, rfl, by cases n <;> simp⟩

theorem Ex.Is.mul {x y : Ex} {m n : Bool} {z w : ℚ} (h : x.Is m z) (h' : y.Is n w) : (x.mul y).Is (m != n) (z * w) := by
  obtain ⟨p, q, hq, rfl, rfl⟩ := h
  obtain ⟨p', q', hq', rfl, rfl⟩ := h'
  refine ⟨p * p', q * q', by positivity, rfl, ?_⟩
  have : (p : ℚ) / q * (p' / q') = (p * p' : ℕ) / (q * q' : ℕ) := by push_cast; rw [div_mul_div_comm]
  rw [← this]
  cases m <;> cases n <;> simp

/-- The exact sum, with the sign that it has where it is zero. -/
theorem Ex.Is.add {x y : Ex} {m n : Bool} {z w : ℚ} (rdn : Bool) (h : x.Is m z) (h' : y.Is n w) :
    ∃ s, (x.add rdn y).Is s (z + w) ∧ (z + w = 0 → s = if m = n then m else rdn) := by
  obtain ⟨p, q, hq, hq0, rfl, rfl⟩ := h.sign_div
  obtain ⟨p', q', hq', hq0', rfl, rfl⟩ := h'.sign_div
  have hqq : (0 : ℚ) < q * q' := by positivity
  have hadd : (p : ℚ) / q + p' / q' = (p * q' + p' * q) / (q * q') := by field_simp
  have hsub : (p : ℚ) / q - p' / q' = (p * q' - p' * q) / (q * q') := by field_simp
  by_cases hmn : m = n
  · subst hmn
    refine ⟨m, ⟨p * q' + p' * q, q * q', by positivity, by simp [Ex.add], ?_⟩, fun _ => (if_pos rfl).symm⟩
    push_cast
    rw [← hadd]
    cases m <;> simp [add_comm]
  · obtain rfl : n = !m := by cases m <;> cases n <;> simp_all
    have hsum : signedQ m (p / q) + signedQ (!m) (p' / q') = signedQ m ((p * q' - p' * q) / (q * q')) := by
      rw [← hsub]
      cases m <;> simp <;> ring
    have hbeq : (m == !m) = false := by cases m <;> rfl
    rw [hsum, if_neg hmn]
    simp only [Ex.add, hbeq, Bool.false_eq_true, if_false]
    rcases lt_trichotomy (p * q') (p' * q) with hlt | heq | hgt
    · have hl : (p : ℚ) * q' < p' * q := by exact_mod_cast hlt
      rw [if_neg hlt.ne, if_neg (by omega)]
      refine ⟨!m, ⟨p' * q - p * q', q * q', by positivity, rfl, ?_⟩, fun h => ?_⟩
      · rw [Nat.cast_sub hlt.le]
        push_cast
        cases m <;> simp <;> ring
      · have : ((p : ℚ) * q' - p' * q) / (q * q') = 0 := by cases m <;> simpa using h
        rw [div_eq_zero_iff] at this
        rcases this with h | h <;> linarith
    · have hl : (p : ℚ) * q' = p' * q := by exact_mod_cast heq
      rw [if_pos heq, hl, sub_self, zero_div]
      exact ⟨rdn, ⟨0, 1, one_pos, rfl, by cases rdn <;> cases m <;> simp⟩, fun _ => rfl⟩
    · have hl : (p' : ℚ) * q < p * q' := by exact_mod_cast hgt
      rw [if_neg hgt.ne', if_pos hgt]
      refine ⟨m, ⟨p * q' - p' * q, q * q', by positivity, rfl, ?_⟩, fun h => ?_⟩
      · rw [Nat.cast_sub hgt.le]
        push_cast
        rfl
      · have : ((p : ℚ) * q' - p' * q) / (q * q') = 0 := by cases m <;> simpa using h
        rw [div_eq_zero_iff] at this
        rcases this with h | h <;> linarith

theorem Ex.Is.divFin {x : Ex} {n : Bool} {z : ℚ} {p q : Nat} (h : x.Is n z) (hp : 0 < p) (hq : 0 < q) :
    (x.divFin p q).Is n (z / (p / q)) := by
  obtain ⟨a, b, hb, rfl, rfl⟩ := h
  refine ⟨a * q, b * p, by positivity, rfl, ?_⟩
  have : (a : ℚ) / b / (p / q) = (a * q : ℕ) / (b * p : ℕ) := by push_cast; field_simp
  rw [← this]
  cases n <;> simp [neg_div]

/-- The sign matters to a rounding only where the value is zero. -/
theorem Fmt.rounds_congr {f : Fmt} {r : Rnd} {sat ftz s n : Bool} {z : ℚ} {c : Nat × Flags} (h : f.rounds r sat ftz s z c) (hs : z = 0 → s = n) :
    f.rounds r sat ftz n z c := by
  obtain ⟨h0, h1⟩ := h
  exact ⟨fun hz => hs hz ▸ h0 hz, h1⟩

theorem Fmt.encode_add_rounds {f : Fmt} (hf : f.plain) (r : Rnd) (sat ftz : Bool) {x y : Ex} {m n : Bool} {z w : ℚ} (h : x.Is m z) (h' : y.Is n w) :
    f.rounds r sat ftz (if m = n then m else r == .rdn) (z + w) (f.encode r sat ftz (x.add (isRdn r) y)) := by
  obtain ⟨s, hs, h0⟩ := h.add (isRdn r) h'
  exact rounds_congr (encode_rounds hf r sat ftz hs) h0

/-! ### flush_source (R84) -/

theorem Fmt.div_signBit_lt {f : Fmt} {c : Nat} (h : c < 2 ^ f.width) : c / f.signBit < 2 := by
  rw [Nat.div_lt_iff_lt_mul f.signBit_pos, ← f.two_mul_signBit]
  exact h

theorem Fmt.flush_eq {f : Fmt} {c : Nat} (ftz : Bool) (h : c < 2 ^ f.width) :
    f.flush ftz c = if ftz = true ∧ f.wide = true ∧ c % f.signBit < 2 ^ f.frac then c / f.signBit * f.signBit else c := by
  rw [Fmt.flush, Nat.mod_eq_of_lt (div_signBit_lt h)]
  simp only [Bool.and_eq_true, decide_eq_true_eq, and_assoc]

theorem Fmt.flush_cases {f : Fmt} {c : Nat} (ftz : Bool) (h : c < 2 ^ f.width) :
    f.flush ftz c = c ∨ (c % f.signBit < 2 ^ f.frac ∧ f.flush ftz c = f.signed (decide (f.signBit ≤ c)) 0) := by
  rw [flush_eq ftz h]
  split
  · rename_i hc
    refine .inr ⟨hc.2.2, ?_⟩
    have := div_signBit_lt h
    rcases Nat.lt_or_ge c f.signBit with hc | hc
    · simp [Fmt.signed, Nat.div_eq_of_lt hc, not_le.mpr hc]
    · rw [show c / f.signBit = 1 by have := (Nat.one_le_div_iff f.signBit_pos).mpr hc; omega]
      simp [Fmt.signed, hc]
  · exact .inl rfl

theorem Fmt.signBit_le_signed {f : Fmt} (n : Bool) {a : Nat} (h : a < f.signBit) : decide (f.signBit ≤ f.signed n a) = n := by
  cases n <;> simp [Fmt.signed, h]

theorem Fmt.neg_flush {f : Fmt} {c : Nat} (ftz : Bool) (h : c < 2 ^ f.width) : decide (f.signBit ≤ f.flush ftz c) = decide (f.signBit ≤ c) := by
  rcases flush_cases ftz h with h | ⟨-, h⟩ <;> rw [h]
  exact signBit_le_signed _ f.signBit_pos

theorem Fmt.flush_finite {f : Fmt} {c : Nat} (ftz : Bool) (h : f.finite c) : f.finite (f.flush ftz c) := by
  rcases flush_cases ftz h.1 with h' | ⟨-, h'⟩ <;> rw [h']
  · exact h
  · exact f.signed_finite _ (Nat.zero_le _)

theorem Fmt.decode_flush {f : Fmt} (hf : f.plain) {c : Nat} (ftz : Bool) (h : f.finite c) :
    (f.decode (f.flush ftz c)).Is (decide (f.signBit ≤ c)) (f.value (f.flush ftz c)) := by
  rw [← neg_flush ftz h.1]
  exact decode_finite hf (flush_finite ftz h)

/-- A NaN's code. -/
def Fmt.nanAt (f : Fmt) (c : Nat) : Bool := (f.hasInf && decide (f.infCode < c % f.signBit)) || (f == .e4m3 && c % f.signBit == 0x7F)

/-- An infinity's code. -/
def Fmt.infAt (f : Fmt) (c : Nat) : Bool := f.hasInf && c % f.signBit == f.infCode

/-- A signalling NaN's code. -/
def Fmt.sigAt (f : Fmt) (c : Nat) : Bool := f.wide && f.nanAt c && decide (c % f.signBit % 2 ^ f.frac < 2 ^ (f.frac - 1))

theorem Fmt.hasInf_of_wide {f : Fmt} (h : f.wide = true) : f.hasInf = true := by
  cases f with
  | q4 t => exact Bool.noConfusion h
  | e2m3 => exact Bool.noConfusion h
  | e3m2 => exact Bool.noConfusion h
  | e4m3 => exact Bool.noConfusion h
  | _ => rfl

theorem Fmt.ne_e4m3_of_hasInf {f : Fmt} (h : f.hasInf = true) : (f == .e4m3) = false := by
  rw [beq_eq_false_iff_ne]
  rintro rfl
  exact Bool.noConfusion h

theorem Fmt.narrow_of_hasInf {f : Fmt} (h : f.hasInf = true) : f.narrow = false := by
  cases f with
  | q4 t => exact Bool.noConfusion h
  | e2m3 => exact Bool.noConfusion h
  | e3m2 => exact Bool.noConfusion h
  | _ => rfl

theorem Fmt.plain_of_hasInf {f : Fmt} (h : f.hasInf = true) : f.plain := by
  rintro t rfl
  exact Bool.noConfusion h

theorem Fmt.infCode_eq {f : Fmt} (h : f.hasInf = true) : f.infCode = f.maxCode + 1 ∧ f.infCode < f.signBit := by
  cases f with
  | q4 t => exact Bool.noConfusion h
  | e2m3 => exact Bool.noConfusion h
  | e3m2 => exact Bool.noConfusion h
  | e4m3 => exact Bool.noConfusion h
  | _ => decide

theorem Fmt.decode_inf {f : Fmt} {c : Nat} (hc : c < 2 ^ f.width) (h : f.infAt c = true) : f.decode c = .inf (decide (f.signBit ≤ c)) := by
  have hi : f.hasInf = true := by rw [Fmt.infAt, Bool.and_eq_true] at h; exact h.1
  rw [Fmt.infAt] at h
  rw [decode_plain (plain_of_hasInf hi), Nat.mod_eq_of_lt hc, h]
  rfl

theorem Fmt.decode_nan {f : Fmt} (hf : f.plain) {c : Nat} (hc : c < 2 ^ f.width) (h : f.nanAt c = true) : f.decode c = .nan (f.sigAt c) := by
  rw [Fmt.sigAt, h, Bool.and_true, decode_plain hf, Nat.mod_eq_of_lt hc]
  rw [Fmt.nanAt, Bool.or_eq_true, Bool.and_eq_true, Bool.and_eq_true, decide_eq_true_eq, beq_iff_eq, beq_iff_eq] at h
  rcases h with ⟨hi, h⟩ | ⟨rfl, h⟩
  · rw [if_neg (by rw [hi, Bool.true_and, beq_iff_eq]; omega), if_pos (by simp [hi, h])]
  · rw [h]
    rfl

/-- A code is that of a number, of an infinity or of a NaN. -/
theorem Fmt.finite_or {f : Fmt} (hf : f.plain) {c : Nat} (hc : c < 2 ^ f.width) : f.finite c ∨ f.infAt c = true ∨ f.nanAt c = true := by
  by_cases h : c % f.signBit ≤ f.maxCode
  · exact .inl ⟨hc, h⟩
  · right
    have hm := Nat.mod_lt c f.signBit_pos
    unfold Fmt.infAt Fmt.nanAt
    cases hi : f.hasInf with
    | true =>
      have := infCode_eq hi
      simp only [Bool.true_and, beq_iff_eq, Bool.or_eq_true, decide_eq_true_eq]
      omega
    | false =>
      cases f with
      | q4 t => exact absurd rfl (hf t)
      | e4m3 =>
        right
        change c % 0x80 < 0x80 at hm
        change ¬ c % 0x80 ≤ 0x7E at h
        have : c % Fmt.e4m3.signBit = 0x7F := by change c % 0x80 = _; omega
        simp [this]
      | e2m3 => exact absurd (by change c % 0x20 < 0x20 at hm; change c % 0x20 ≤ 0x1F; omega) h
      | e3m2 => exact absurd (by change c % 0x20 < 0x20 at hm; change c % 0x20 ≤ 0x1F; omega) h
      | _ => exact Bool.noConfusion hi

theorem Fmt.nanAt_of_finite {f : Fmt} {c : Nat} (h : f.finite c) : f.nanAt c = false := by
  obtain ⟨-, h⟩ := h
  rw [Fmt.nanAt, Bool.or_eq_false_iff, Bool.and_eq_false_iff, Bool.and_eq_false_iff, decide_eq_false_iff_not, beq_eq_false_iff_ne, beq_eq_false_iff_ne]
  constructor
  · rw [or_iff_not_imp_left, Bool.not_eq_false]
    intro hi
    have := maxCode_lt_infCode hi
    omega
  · rw [or_iff_not_imp_left, not_ne_iff]
    rintro rfl
    change c % 0x80 ≤ 0x7E at h
    change c % 0x80 ≠ _
    omega

theorem Fmt.infAt_of_finite {f : Fmt} {c : Nat} (h : f.finite c) : f.infAt c = false := by
  obtain ⟨-, h⟩ := h
  rw [Fmt.infAt, Bool.and_eq_false_iff, beq_eq_false_iff_ne, or_iff_not_imp_left, Bool.not_eq_false]
  intro hi
  have := maxCode_lt_infCode hi
  omega

theorem Fmt.nanAt_of_inf {f : Fmt} {c : Nat} (h : f.infAt c = true) : f.nanAt c = false := by
  rw [Fmt.infAt, Bool.and_eq_true, beq_iff_eq] at h
  rw [Fmt.nanAt, h.2, ne_e4m3_of_hasInf h.1]
  simp

theorem Fmt.finite_of {f : Fmt} (hf : f.plain) {c : Nat} (hc : c < 2 ^ f.width) (h : f.infAt c = false) (h' : f.nanAt c = false) : f.finite c := by
  simpa [h, h'] using finite_or hf hc

/-- Only numbers are flushed. -/
theorem Fmt.flush_of_not_finite {f : Fmt} (hf : f.plain) {c : Nat} (ftz : Bool) (hc : c < 2 ^ f.width) (h : ¬ f.finite c) : f.flush ftz c = c := by
  refine (flush_cases ftz hc).resolve_right fun h' => h ⟨hc, ?_⟩
  have := frac_lt_maxCode hf
  rw [pow_succ] at this
  omega

theorem Fmt.isNan_flush {f : Fmt} (hf : f.plain) {c : Nat} (ftz : Bool) (hc : c < 2 ^ f.width) : (f.decode (f.flush ftz c)).isNan = f.nanAt c := by
  rcases finite_or hf hc with h | h | h
  · obtain ⟨p, q, -, hd, -⟩ := decode_flush hf ftz h
    rw [hd, nanAt_of_finite h]
    rfl
  · rw [flush_of_not_finite hf ftz hc (fun hn => by rw [infAt_of_finite hn] at h; exact Bool.noConfusion h), decode_inf hc h, nanAt_of_inf h]
    rfl
  · rw [flush_of_not_finite hf ftz hc (fun hn => by rw [nanAt_of_finite hn] at h; exact Bool.noConfusion h), decode_nan hf hc h, h]
    rfl

theorem Fmt.signals_flush {f : Fmt} (hf : f.plain) {c : Nat} (ftz : Bool) (hc : c < 2 ^ f.width) : (f.decode (f.flush ftz c)).signals = f.sigAt c := by
  rcases finite_or hf hc with h | h | h
  · obtain ⟨p, q, -, hd, -⟩ := decode_flush hf ftz h
    rw [hd, Fmt.sigAt, nanAt_of_finite h]
    simp [Ex.signals]
  · rw [flush_of_not_finite hf ftz hc (fun hn => by rw [infAt_of_finite hn] at h; exact Bool.noConfusion h), decode_inf hc h, Fmt.sigAt, nanAt_of_inf h]
    simp [Ex.signals]
  · rw [flush_of_not_finite hf ftz hc (fun hn => by rw [nanAt_of_finite hn] at h; exact Bool.noConfusion h), decode_nan hf hc h]
    rfl

theorem Fmt.flush_nan {f : Fmt} (hf : f.plain) {c : Nat} (ftz : Bool) (hc : c < 2 ^ f.width) (h : f.nanAt c = true) :
    f.decode (f.flush ftz c) = .nan (f.sigAt c) := by
  rw [flush_of_not_finite hf ftz hc (fun hn => by rw [nanAt_of_finite hn] at h; exact Bool.noConfusion h), decode_nan hf hc h]

theorem Fmt.flush_inf {f : Fmt} {c : Nat} (ftz : Bool) (hc : c < 2 ^ f.width) (h : f.infAt c = true) :
    f.flush ftz c = c ∧ f.decode (f.flush ftz c) = .inf (decide (f.signBit ≤ c)) := by
  have hi : f.hasInf = true := by rw [Fmt.infAt, Bool.and_eq_true] at h; exact h.1
  have := flush_of_not_finite (plain_of_hasInf hi) ftz hc (fun hn => by rw [infAt_of_finite hn] at h; exact Bool.noConfusion h)
  exact ⟨this, by rw [this, decode_inf hc h]⟩

/-- A finite flushed code is zero just where its magnitude is. -/
theorem Fmt.decode_flush_fin {f : Fmt} (hf : f.plain) {c : Nat} (ftz : Bool) (h : f.finite c) :
    ∃ p q : Nat, 0 < q ∧ f.decode (f.flush ftz c) = .fin (decide (f.signBit ≤ c)) p q ∧
      f.value (f.flush ftz c) = signedQ (decide (f.signBit ≤ c)) (p / q) ∧ (p / q : ℚ) = f.mag (f.flush ftz c % f.signBit) ∧
      (p = 0 ↔ f.flush ftz c % f.signBit = 0) := by
  obtain ⟨p, q, hq, hd, hv⟩ := decode_flush hf ftz h
  have hm : (p / q : ℚ) = f.mag (f.flush ftz c % f.signBit) := by
    have := value_of_finite (flush_finite ftz h)
    rw [neg_flush ftz h.1, hv] at this
    revert this
    cases decide (f.signBit ≤ c) <;> simp
  refine ⟨p, q, hq, hd, hv, hm, ?_⟩
  have hq' : (q : ℚ) ≠ 0 := by exact_mod_cast hq.ne'
  rw [← f.mag_inj (a := f.flush ftz c % f.signBit) (b := 0), f.mag_zero, ← hm, div_eq_zero_iff, or_iff_left hq']
  exact_mod_cast Iff.rfl

end Sys2Proof.Machine
end

section
/-! SUPPORT. The float group and the special functions (R109 to R114, R131) -/

namespace Sys2Proof.Machine

/-- A source as flush_source leaves it. -/
def Fmt.src (f : Fmt) (ftz : Bool) (c : Nat) : Nat := if ftz = true ∧ c % f.signBit < 2 ^ f.frac then c / f.signBit * f.signBit else c
def Fmt.wNeg (f : Fmt) (c : Nat) : Bool := decide (f.signBit ≤ c)
def Fmt.wMag (f : Fmt) (ftz : Bool) (c : Nat) : Nat := f.src ftz c % f.signBit
def Fmt.wNan (f : Fmt) (c : Nat) : Bool := decide (f.infCode < c % f.signBit)
def Fmt.wSig (f : Fmt) (c : Nat) : Bool := f.wNan c && decide (c % 2 ^ f.frac < 2 ^ (f.frac - 1))
def Fmt.wInf (f : Fmt) (c : Nat) : Bool := c % f.signBit == f.infCode
/-- A code's place in the order of values, −0 below +0. -/
def Fmt.wOrder (f : Fmt) (ftz : Bool) (c : Nat) : ℤ := if f.wNeg c then -(f.wMag ftz c : ℤ) - 1 else f.wMag ftz c
/-- A code's place in the order of values, both zeros alike. -/
def Fmt.wNum (f : Fmt) (ftz : Bool) (c : Nat) : ℤ := if f.wNeg c then -(f.wMag ftz c : ℤ) else f.wMag ftz c
/-- What an infinite result becomes. -/
def Fmt.wTop (f : Fmt) (sat n : Bool) : Nat := f.signed n (if sat then f.maxCode else f.infCode)
def Fmt.noNumber (f : Fmt) : Nat × Flags := (f.nanCode, fInvalid)

/-- A float operation on flushed sources. -/
def onFlushed (o : FloatOp) (f : Fmt) (r : Rnd) (sat ftz : Bool) (d a b : Nat) : Nat × Flags :=
  o f r sat ftz (f.flush ftz d) (f.flush ftz a) (f.flush ftz b)

/-- The relation of a comparison on places. -/
def fcmpHolds (c : FcmpCond) (x y : ℤ) : Bool := 
  match c with
  | .eq => x == y
  | .ne => x != y
  | .lt => decide (x < y)
  | .le => decide (x ≤ y)
  | .un => false

section wide
variable {f : Fmt} (hw : f.wide = true)
include hw

theorem Fmt.plain_of_wide : f.plain := plain_of_hasInf (hasInf_of_wide hw)

theorem Fmt.flush_src (ftz : Bool) {c : Nat} (hc : c < 2 ^ f.width) : f.flush ftz c = f.src ftz c := by
  rw [flush_eq ftz hc, hw]
  simp [Fmt.src]

theorem Fmt.nanAt_wide (c : Nat) : f.nanAt c = f.wNan c := by
  rw [Fmt.nanAt, hasInf_of_wide hw, ne_e4m3_of_hasInf (hasInf_of_wide hw)]
  simp [Fmt.wNan]

theorem Fmt.infAt_wide (c : Nat) : f.infAt c = f.wInf c := by
  rw [Fmt.infAt, hasInf_of_wide hw, Bool.true_and]
  rfl

theorem Fmt.sigAt_wide (c : Nat) : f.sigAt c = f.wSig c := by
  rw [Fmt.sigAt, hw, nanAt_wide hw, Bool.true_and, Nat.mod_mod_of_dvd _ f.frac_dvd_signBit]
  rfl

/-- An infinity is encoded as itself, or under MODE.sat as the largest number. -/
theorem Fmt.encode_inf (r : Rnd) (sat ftz n : Bool) : f.encode r sat ftz (.inf n) = (f.wTop sat n, 0) := by
  rw [Fmt.encode, if_pos (hasInf_of_wide hw)]
  cases sat <;> rfl

theorem Fmt.encode_nan (r : Rnd) (sat ftz i : Bool) : f.encode r sat ftz (.nan i) = (f.nanCode, flagIf i fInvalid) := by
  rw [Fmt.encode, narrow_of_hasInf (hasInf_of_wide hw), Bool.or_false]

/-- A code that is no NaN decodes to a number or to an infinity; the order of their values is the order of their places. -/
theorem Fmt.decode_of_not_nan (ftz : Bool) {c : Nat} (hc : c < 2 ^ f.width) (hn : f.wNan c = false) :
    (f.wInf c = true ∧ f.wMag ftz c = f.infCode ∧ f.decode (f.flush ftz c) = .inf (f.wNeg c)) ∨
    (f.wInf c = false ∧ f.finite c ∧ f.wMag ftz c < f.infCode ∧ ∃ p q : Nat, 0 < q ∧ f.decode (f.flush ftz c) = .fin (f.wNeg c) p q ∧
      (p / q : ℚ) = f.mag (f.wMag ftz c) ∧ (p = 0 ↔ f.wMag ftz c = 0)) := by
  have hf := plain_of_wide hw
  cases hi : f.wInf c with
  | true =>
    obtain ⟨h1, h2⟩ := flush_inf ftz hc (by rw [infAt_wide hw, hi])
    refine .inl ⟨rfl, ?_, h2⟩
    rw [Fmt.wMag, ← flush_src hw ftz hc, h1]
    exact beq_iff_eq.mp hi
  | false =>
    have hfin : f.finite c := finite_of hf hc (by rw [infAt_wide hw, hi]) (by rw [nanAt_wide hw, hn])
    obtain ⟨p, q, hq, hd, -, hm, hz⟩ := decode_flush_fin hf ftz hfin
    have hlt := (flush_finite ftz hfin).2
    have := infCode_eq (hasInf_of_wide hw)
    rw [flush_src hw ftz hc] at hm hz hlt
    exact .inr ⟨rfl, hfin, by rw [Fmt.wMag]; omega, p, q, hq, hd, hm, hz⟩

/-! ### Sums and products (R109) -/

theorem Fmt.float_finite (r : Rnd) (sat ftz : Bool) {d a b : Nat} (hd : f.finite d) (ha : f.finite a) (hb : f.finite b) :
    let v (c : Nat) : ℚ := f.value (f.src ftz c)
    let zero (x y : Bool) : Bool := if x = y then x else r == .rdn
    f.rounds r sat ftz (zero (f.wNeg a) (f.wNeg b)) (v a + v b) (onFlushed addFloat f r sat ftz d a b) ∧
    f.rounds r sat ftz (zero (f.wNeg a) (!f.wNeg b)) (v a - v b) (onFlushed subFloat f r sat ftz d a b) ∧
    f.rounds r sat ftz (f.wNeg a != f.wNeg b) (v a * v b) (onFlushed mulFloat f r sat ftz d a b) ∧
    f.rounds r sat ftz (zero (f.wNeg d) (f.wNeg a != f.wNeg b)) (v d + v a * v b) (onFlushed fmaFloat f r sat ftz d a b) := by
  have hf := plain_of_wide hw
  have xd := decode_flush hf ftz hd
  have xa := decode_flush hf ftz ha
  have xb := decode_flush hf ftz hb
  rw [flush_src hw ftz hd.1] at xd
  rw [flush_src hw ftz ha.1] at xa
  rw [flush_src hw ftz hb.1] at xb
  unfold onFlushed addFloat subFloat mulFloat fmaFloat
  rw [flush_src hw ftz hd.1, flush_src hw ftz ha.1, flush_src hw ftz hb.1]
  refine ⟨encode_add_rounds hf r sat ftz xa xb, ?_, encode_rounds hf r sat ftz (xa.mul xb), encode_add_rounds hf r sat ftz xd (xa.mul xb)⟩
  have := encode_add_rounds hf r sat ftz xa xb.neg
  rwa [← sub_eq_add_neg] at this

omit hw in
theorem Ex.add_nan (rdn : Bool) {x y : Ex} (h : (x.isNan || y.isNan) = true) : x.add rdn y = .nan (x.signals || y.signals) := by
  cases x <;> cases y <;> simp_all [Ex.add, Ex.signals, Ex.isNan]

omit hw in
theorem Ex.mul_nan {x y : Ex} (h : (x.isNan || y.isNan) = true) : x.mul y = .nan (x.signals || y.signals) := by
  cases x <;> cases y <;> simp_all [Ex.mul, Ex.signals, Ex.isNan]

omit hw in
theorem Ex.add_nan_right (rdn : Bool) {x : Ex} (h : x.isNan = false) : x.add rdn (.nan true) = .nan true := by
  cases x with
  | nan i => exact Bool.noConfusion h
  | inf n => rfl
  | fin n p q => rfl

omit hw in
theorem Ex.isNan_neg (x : Ex) : x.neg.isNan = x.isNan := by cases x <;> rfl
omit hw in
theorem Ex.signals_neg (x : Ex) : x.neg.signals = x.signals := by cases x <;> rfl

omit hw in
theorem Ex.add_isNan (rdn : Bool) {x y : Ex} (h : (x.isNan || y.isNan) = true) : ∃ i, x.add rdn y = .nan i := ⟨_, add_nan rdn h⟩

theorem Fmt.float_nan (r : Rnd) (sat ftz : Bool) {a b : Nat} (d : Nat) (ha : a < 2 ^ f.width) (hb : b < 2 ^ f.width)
    (h : f.wNan a = true ∨ f.wNan b = true) :
    (∀ o ∈ [addFloat, subFloat, mulFloat], onFlushed o f r sat ftz d a b = (f.nanCode, flagIf (f.wSig a || f.wSig b) fInvalid)) ∧
    (onFlushed fmaFloat f r sat ftz d a b).1 = f.nanCode ∧
    onFlushed (pickFloat false) f r sat ftz d a b =
      (if f.wNan a = false then f.src ftz a else if f.wNan b = false then f.src ftz b else f.nanCode, flagIf (f.wSig a || f.wSig b) fInvalid) ∧
    onFlushed (pickFloat true) f r sat ftz d a b = onFlushed (pickFloat false) f r sat ftz d a b := by
  have hf := plain_of_wide hw
  have na := isNan_flush hf ftz ha
  have nb := isNan_flush hf ftz hb
  have sa := signals_flush hf ftz ha
  have sb := signals_flush hf ftz hb
  rw [nanAt_wide hw] at na nb
  rw [sigAt_wide hw] at sa sb
  have hn : ((f.decode (f.flush ftz a)).isNan || (f.decode (f.flush ftz b)).isNan) = true := by rw [na, nb, Bool.or_eq_true]; exact h
  have hn' : ((f.decode (f.flush ftz a)).isNan || (f.decode (f.flush ftz b)).neg.isNan) = true := by rw [Ex.isNan_neg]; exact hn
  refine ⟨?_, ?_, ?_, ?_⟩
  · simp only [List.mem_cons, List.not_mem_nil, or_false]
    rintro o (rfl | rfl | rfl)
    · rw [onFlushed, addFloat, Ex.add_nan _ hn, sa, sb, encode_nan hw]
    · rw [onFlushed, subFloat, Ex.add_nan _ hn', Ex.signals_neg, sa, sb, encode_nan hw]
    · rw [onFlushed, mulFloat, Ex.mul_nan hn, sa, sb, encode_nan hw]
  · obtain ⟨i, hi⟩ := Ex.add_isNan (isRdn r) (x := f.decode (f.flush ftz d)) (y := (f.decode (f.flush ftz a)).mul (f.decode (f.flush ftz b)))
      (by rw [Ex.mul_nan hn]; simp [Ex.isNan])
    rw [onFlushed, fmaFloat, hi, encode_nan hw]
  · rw [flush_src hw ftz ha] at na sa
    rw [flush_src hw ftz hb] at nb sb
    simp only [onFlushed, pickFloat, flush_src hw ftz ha, flush_src hw ftz hb, na, nb, sa, sb]
    cases hx : f.wNan a <;> cases hy : f.wNan b <;> simp_all
  · simp only [onFlushed, pickFloat, na, nb]
    cases hx : f.wNan a <;> cases hy : f.wNan b <;> simp_all

theorem Fmt.fma_nan (r : Rnd) (sat ftz : Bool) {d : Nat} (a b : Nat) (hd : d < 2 ^ f.width) (h : f.wNan d = true) :
    (onFlushed fmaFloat f r sat ftz d a b).1 = f.nanCode := by
  have hf := plain_of_wide hw
  obtain ⟨i, hi⟩ := Ex.add_isNan (isRdn r) (x := f.decode (f.flush ftz d)) (y := (f.decode (f.flush ftz a)).mul (f.decode (f.flush ftz b)))
    (by rw [isNan_flush hf ftz hd, nanAt_wide hw, h, Bool.true_or])
  rw [onFlushed, fmaFloat, hi, encode_nan hw]

theorem Fmt.float_inf (r : Rnd) (sat ftz : Bool) {d a b : Nat} (hd : d < 2 ^ f.width) (ha : a < 2 ^ f.width) (hb : b < 2 ^ f.width)
    (hi : f.wInf a = true) (hn : f.wNan b = false) :
    onFlushed addFloat f r sat ftz d a b = (if f.wInf b = true ∧ f.wNeg a ≠ f.wNeg b then f.noNumber else (f.wTop sat (f.wNeg a), 0)) ∧
    onFlushed subFloat f r sat ftz d a b = (if f.wInf b = true ∧ f.wNeg a = f.wNeg b then f.noNumber else (f.wTop sat (f.wNeg a), 0)) ∧
    onFlushed mulFloat f r sat ftz d a b = (if f.wMag ftz b = 0 then f.noNumber else (f.wTop sat (f.wNeg a != f.wNeg b), 0)) ∧
    onFlushed mulFloat f r sat ftz d b a = onFlushed mulFloat f r sat ftz d a b ∧
    (f.wMag ftz b = 0 → f.wNan d = false → onFlushed fmaFloat f r sat ftz d a b = f.noNumber) ∧
    (f.wMag ftz b ≠ 0 → f.finite d → onFlushed fmaFloat f r sat ftz d a b = (f.wTop sat (f.wNeg a != f.wNeg b), 0)) := by
  have hf := plain_of_wide hw
  have xa := (flush_inf ftz ha (by rw [infAt_wide hw, hi])).2
  have hz : f.infCode ≠ 0 := by have := infCode_eq (hasInf_of_wide hw); omega
  have hnn : ∀ r', f.encode r' sat ftz (.nan true) = f.noNumber := fun r' => encode_nan hw r' sat ftz true
  unfold onFlushed addFloat subFloat mulFloat fmaFloat
  rw [xa, show decide (f.signBit ≤ a) = f.wNeg a from rfl]
  have hinf : ∀ r' n, f.encode r' sat ftz (.inf n) = (f.wTop sat n, 0) := fun r' n => encode_inf hw r' sat ftz n
  have hadd : ∀ n, f.encode r sat ftz (Ex.add (isRdn r) (.inf (f.wNeg a)) (.inf n)) =
      if f.wNeg a ≠ n then f.noNumber else (f.wTop sat (f.wNeg a), 0) := by
    intro n
    by_cases h : f.wNeg a = n
    · simp [Ex.add, h, hinf]
    · simp [Ex.add, h, hnn]
  have hnan : f.wNan d = false → f.encode r sat ftz (Ex.add (isRdn r) (f.decode (f.flush ftz d)) (.nan true)) = f.noNumber := by
    intro h
    rw [Ex.add_nan_right _ (by rw [isNan_flush hf ftz hd, nanAt_wide hw, h]), hnn]
  have hne : (f.wNeg b != f.wNeg a) = (f.wNeg a != f.wNeg b) := by cases f.wNeg a <;> cases f.wNeg b <;> rfl
  have hfin : ∀ n, f.finite d → f.encode r sat ftz (Ex.add (isRdn r) (f.decode (f.flush ftz d)) (.inf n)) = (f.wTop sat n, 0) := by
    intro n h
    obtain ⟨p, q, -, xd, -⟩ := decode_flush hf ftz h
    rw [xd]
    exact hinf r n
  rcases decode_of_not_nan hw ftz hb hn with ⟨hib, hm, xb⟩ | ⟨hib, -, -, p, q, hq, xb, -, hp⟩
  · rw [xb, hib, hm, Ex.neg, hadd, hadd, if_neg hz]
    refine ⟨by simp, by simp, hinf _ _, ?_, fun h => absurd h hz, fun _ => hfin _⟩
    rw [Ex.mul, Ex.mul, hne]
  · rw [xb, hib]
    by_cases hp0 : p = 0
    · have hm := hp.mp hp0
      rw [hm, if_pos rfl]
      subst hp0
      exact ⟨hinf _ _, hinf _ _, hnn _, rfl, fun _ => hnan, fun h => absurd rfl h⟩
    · have hm := not_congr hp |>.mp hp0
      have h1 : Ex.mul (.inf (f.wNeg a)) (.fin (f.wNeg b) p q) = .inf (f.wNeg a != f.wNeg b) := if_neg hp0
      have h2 : Ex.mul (.fin (f.wNeg b) p q) (.inf (f.wNeg a)) = .inf (f.wNeg a != f.wNeg b) := by
        rw [← hne]
        exact if_neg hp0
      rw [h1, h2, if_neg hm]
      exact ⟨hinf _ _, hinf _ _, hinf _ _, rfl, fun h => absurd h hm, fun _ => hfin _⟩

/-! ### Order, minimum, maximum and comparison (R110, R111) -/

theorem Fmt.decode_lt (ftz : Bool) {a b : Nat} (ha : a < 2 ^ f.width) (hb : b < 2 ^ f.width) (na : f.wNan a = false) (nb : f.wNan b = false) :
    (f.decode (f.flush ftz a)).lt (f.decode (f.flush ftz b)) = decide (f.wNum ftz a < f.wNum ftz b) := by
  have hz : 0 < f.infCode := by have := infCode_eq (hasInf_of_wide hw); omega
  unfold Fmt.wNum
  rcases decode_of_not_nan hw ftz ha na with ⟨-, ma, xa⟩ | ⟨-, -, ma, p, q, hq, xa, va, pa⟩ <;>
    rcases decode_of_not_nan hw ftz hb nb with ⟨-, mb, xb⟩ | ⟨-, -, mb, p', q', hq', xb, vb, pb⟩ <;> rw [xa, xb]
  · cases f.wNeg a <;> cases f.wNeg b <;> simp [Ex.lt, ma, mb] <;> omega
  · cases f.wNeg a <;> cases f.wNeg b <;> simp [Ex.lt, ma] <;> omega
  · cases f.wNeg a <;> cases f.wNeg b <;> simp [Ex.lt, mb] <;> omega
  · have h1 : p * q' < p' * q ↔ f.wMag ftz a < f.wMag ftz b := by
      rw [← f.mag_lt (a := f.wMag ftz a), ← va, ← vb, div_lt_div_iff₀ (by exact_mod_cast hq) (by exact_mod_cast hq')]
      exact_mod_cast Iff.rfl
    have h2 : p' * q < p * q' ↔ f.wMag ftz b < f.wMag ftz a := by
      rw [← f.mag_lt (a := f.wMag ftz b), ← va, ← vb, div_lt_div_iff₀ (by exact_mod_cast hq') (by exact_mod_cast hq)]
      exact_mod_cast Iff.rfl
    cases f.wNeg a <;> cases f.wNeg b <;> simp [Ex.lt, h1, h2, pa, pb]
    rw [Bool.eq_iff_iff]
    simp
    omega

theorem Fmt.decode_below (ftz : Bool) {a b : Nat} (ha : a < 2 ^ f.width) (hb : b < 2 ^ f.width) (na : f.wNan a = false) (nb : f.wNan b = false) :
    (f.decode (f.flush ftz a)).below (f.decode (f.flush ftz b)) = decide (f.wOrder ftz a < f.wOrder ftz b) := by
  have hzero : ∀ {c : Nat}, c < 2 ^ f.width → f.wNan c = false → (f.decode (f.flush ftz c)).isZero = decide (f.wMag ftz c = 0) ∧
      (f.decode (f.flush ftz c)).isNeg = f.wNeg c := by
    intro c hc nc
    have hz : f.infCode ≠ 0 := by have := infCode_eq (hasInf_of_wide hw); omega
    rcases decode_of_not_nan hw ftz hc nc with ⟨-, mc, xc⟩ | ⟨-, -, mc, p, q, hq, xc, vc, pc⟩ <;> rw [xc]
    · exact ⟨by simp [Ex.isZero, mc, hz], rfl⟩
    · exact ⟨by simp [Ex.isZero, Bool.beq_eq_decide_eq, pc], rfl⟩
  rw [Ex.below, decode_lt hw ftz ha hb na nb, (hzero ha na).1, (hzero hb nb).1, (hzero ha na).2, (hzero hb nb).2, Bool.eq_iff_iff]
  unfold Fmt.wNum Fmt.wOrder
  cases f.wNeg a <;> cases f.wNeg b <;> simp <;> omega

theorem Fmt.float_pick (r : Rnd) (sat ftz : Bool) {a b : Nat} (d : Nat) (ha : a < 2 ^ f.width) (hb : b < 2 ^ f.width)
    (na : f.wNan a = false) (nb : f.wNan b = false) :
    onFlushed (pickFloat false) f r sat ftz d a b = (if f.wOrder ftz b < f.wOrder ftz a then f.src ftz b else f.src ftz a, 0) ∧
    onFlushed (pickFloat true) f r sat ftz d a b = (if f.wOrder ftz a < f.wOrder ftz b then f.src ftz b else f.src ftz a, 0) := by
  have hf := plain_of_wide hw
  have hnan : ∀ {c : Nat}, c < 2 ^ f.width → f.wNan c = false → (f.decode (f.flush ftz c)).isNan = false ∧ (f.decode (f.flush ftz c)).signals = false := by
    intro c hc nc
    rw [isNan_flush hf ftz hc, signals_flush hf ftz hc, nanAt_wide hw, sigAt_wide hw, Fmt.wSig, nc]
    exact ⟨rfl, rfl⟩
  simp only [onFlushed, pickFloat, (hnan ha na).1, (hnan ha na).2, (hnan hb nb).1, (hnan hb nb).2, decode_below hw ftz ha hb na nb, decode_below hw ftz hb ha nb na,
    ← flush_src hw ftz ha, ← flush_src hw ftz hb, decide_eq_true_eq, Bool.or_false, Bool.false_eq_true, if_false, if_true, Bool.and_false]
  constructor <;> split <;> rfl

theorem Fmt.float_compare (ftz : Bool) {a b : Nat} (ha : a < 2 ^ f.width) (hb : b < 2 ^ f.width) (c : FcmpCond) :
    fcmpElem c (f.decode (f.flush ftz a)) (f.decode (f.flush ftz b)) =
      (if f.wNan a || f.wNan b then (c == .ne || c == .un, flagIf (f.wSig a || f.wSig b || c == .lt || c == .le) fInvalid)
       else (fcmpHolds c (f.wNum ftz a) (f.wNum ftz b), 0)) := by
  have hf := plain_of_wide hw
  unfold fcmpElem
  rw [isNan_flush hf ftz ha, isNan_flush hf ftz hb, signals_flush hf ftz ha, signals_flush hf ftz hb, nanAt_wide hw, nanAt_wide hw, sigAt_wide hw,
    sigAt_wide hw]
  split
  · rfl
  · rename_i h
    rw [Bool.not_eq_true, Bool.or_eq_false_iff] at h
    have hl := decode_lt hw ftz ha hb h.1 h.2
    have hg := decode_lt hw ftz hb ha h.2 h.1
    have he : (f.decode (f.flush ftz a)).eq (f.decode (f.flush ftz b)) = (f.wNum ftz a == f.wNum ftz b) := by
      rw [Ex.eq, isNan_flush hf ftz ha, isNan_flush hf ftz hb, nanAt_wide hw, nanAt_wide hw, h.1, h.2, hl, hg, Bool.eq_iff_iff]
      simp
      omega
    congr 1
    cases c with
    | eq => exact he
    | ne => simp only [he]; rfl
    | lt => exact hl
    | le => simp only [hg, fcmpHolds]; rw [← decide_not, decide_eq_decide]; omega
    | un => rfl

omit hw in
theorem Fmt.xor_signBit {x : Nat} (h : x < 2 ^ f.width) : x ^^^ f.signBit = if x < f.signBit then x + f.signBit else x - f.signBit := by
  have low : ∀ y < f.signBit, y ^^^ f.signBit = y + f.signBit := by
    intro y hy
    rw [Fmt.signBit] at *
    generalize f.width - 1 = k at *
    have hm : (y ^^^ 2 ^ k) % 2 ^ k = y := by rw [Nat.xor_mod_two_pow, Nat.mod_self, Nat.xor_zero, Nat.mod_eq_of_lt hy]
    have hd : (y ^^^ 2 ^ k) / 2 ^ k = 1 := by rw [Nat.xor_div_two_pow, Nat.div_eq_of_lt hy, Nat.div_self (by positivity), Nat.zero_xor]
    have := Nat.div_add_mod (y ^^^ 2 ^ k) (2 ^ k)
    rw [hm, hd, mul_one] at this
    omega
  rw [f.two_mul_signBit] at h
  split
  · exact low x ‹_›
  · obtain ⟨y, rfl⟩ := Nat.exists_eq_add_of_le' (not_lt.mp ‹_›)
    rw [← low y (by omega), Nat.xor_assoc, Nat.xor_self, Nat.xor_zero, low y (by omega), Nat.add_sub_cancel]

/-! ### Absolute value and negation (R109) -/

theorem Fmt.float_sign (r : Rnd) (sat ftz : Bool) {a : Nat} (d b : Nat) (ha : a < 2 ^ f.width) :
    onFlushed absFloat f r sat ftz d a b = (if f.wNan a then f.nanCode else f.wMag ftz a, 0) ∧
    onFlushed negFloat f r sat ftz d a b = (if f.wNan a then f.nanCode else f.src ftz a ^^^ f.signBit, 0) := by
  have hf := plain_of_wide hw
  have hs : f.src ftz a < 2 ^ f.width := by
    rw [← flush_src hw ftz ha]
    rcases flush_cases ftz ha with h | ⟨-, h⟩ <;> rw [h]
    · exact ha
    · exact f.signed_lt _ f.signBit_pos
  unfold onFlushed absFloat negFloat
  rw [isNan_flush hf ftz ha, nanAt_wide hw, flush_src hw ftz ha]
  refine ⟨rfl, ?_⟩
  congr 2
  exact (Fmt.xor_signBit hs).symm

end wide

theorem specialFloat_nan (fn : Special) {f : Fmt} {r : Rnd} {sat ftz : Bool} {d a b : Nat} {i : Bool} (h : f.decode a = .nan i) :
    specialFloat fn f r sat ftz d a b = (f.nanCode, flagIf i fInvalid) := by
  cases fn <;> (unfold specialFloat; simp only [h])

section inf
variable {f : Fmt} {r : Rnd} {sat ftz : Bool} {d a b : Nat} {n : Bool} (h : f.decode a = .inf n)
include h

theorem specialFloat_rcp_inf : specialFloat .rcp f r sat ftz d a b = (f.signed n 0, 0) := by unfold specialFloat; simp only [h]
theorem specialFloat_rsq_inf : specialFloat .rsq f r sat ftz d a b = if n then f.noNumber else (0, 0) := by unfold specialFloat; simp only [h]; rfl
theorem specialFloat_sqrt_inf : specialFloat .sqrt f r sat ftz d a b = if n then f.noNumber else ((f.encode .rne sat ftz (.inf false)).1, 0) := by
  unfold specialFloat; simp only [h]; rfl
theorem specialFloat_exp2_inf : specialFloat .exp2 f r sat ftz d a b = if n then (0, 0) else ((f.encode .rne sat ftz (.inf false)).1, 0) := by
  unfold specialFloat; simp only [h]
theorem specialFloat_log2_inf : specialFloat .log2 f r sat ftz d a b = if n then f.noNumber else ((f.encode .rne sat ftz (.inf false)).1, 0) := by
  unfold specialFloat; simp only [h]; rfl
theorem specialFloat_sin_inf : specialFloat .sin f r sat ftz d a b = f.noNumber := by unfold specialFloat; simp only [h]; rfl
theorem specialFloat_cos_inf : specialFloat .cos f r sat ftz d a b = f.noNumber := by unfold specialFloat; simp only [h]; rfl
theorem specialFloat_tanh_inf : specialFloat .tanh f r sat ftz d a b = f.encode .rne sat ftz (.fin n 1 1) := by unfold specialFloat; simp only [h]
theorem specialFloat_erf_inf : specialFloat .erf f r sat ftz d a b = f.encode .rne sat ftz (.fin n 1 1) := by unfold specialFloat; simp only [h]
theorem specialFloat_sigm_inf : specialFloat .sigm f r sat ftz d a b = if n then (0, 0) else f.encode .rne sat ftz (.fin false 1 1) := by
  unfold specialFloat; simp only [h]

end inf

section zero
variable {f : Fmt} {r : Rnd} {sat ftz : Bool} {d a b : Nat} {n : Bool} {q : Nat} (h : f.decode a = .fin n 0 q)
include h

theorem specialFloat_rcp_zero : specialFloat .rcp f r sat ftz d a b = ((f.encode .rne sat ftz (.inf n)).1, fDivZero) := by
  unfold specialFloat; simp only [h, if_true]
theorem specialFloat_rsq_zero : specialFloat .rsq f r sat ftz d a b = ((f.encode .rne sat ftz (.inf n)).1, fDivZero) := by
  unfold specialFloat; simp only [h, if_true]
theorem specialFloat_sqrt_zero : specialFloat .sqrt f r sat ftz d a b = (a, 0) := by unfold specialFloat; simp only [h, if_true]
theorem specialFloat_log2_zero : specialFloat .log2 f r sat ftz d a b = ((f.encode .rne sat ftz (.inf true)).1, fDivZero) := by
  unfold specialFloat; simp only [h, if_true]
theorem specialFloat_sin_zero : specialFloat .sin f r sat ftz d a b = (f.signed n 0, 0) := by unfold specialFloat; simp only [h, if_true]
theorem specialFloat_cos_zero : specialFloat .cos f r sat ftz d a b = f.encode .rne sat ftz (.fin false 1 1) := by
  unfold specialFloat; simp only [h, if_true]
theorem specialFloat_tanh_zero : specialFloat .tanh f r sat ftz d a b = (f.signed n 0, 0) := by unfold specialFloat; simp only [h, if_true]
theorem specialFloat_erf_zero : specialFloat .erf f r sat ftz d a b = (f.signed n 0, 0) := by unfold specialFloat; simp only [h, if_true]
theorem specialFloat_sigm_zero : specialFloat .sigm f r sat ftz d a b = f.encode .rne sat ftz (.fin false 1 2) := by
  unfold specialFloat; simp only [h, if_true]

end zero

section finite
variable {f : Fmt} {r : Rnd} {sat ftz : Bool} {d a b : Nat} {n : Bool} {p q : Nat} (h : f.decode a = .fin n p q)
include h

theorem specialFloat_sqrt_fin (hp : p ≠ 0) :
    specialFloat .sqrt f r sat ftz d a b = if n then f.noNumber else f.encode r sat ftz (sqrtEx p q) := by
  unfold specialFloat; simp only [h, hp, if_false]; rfl
theorem specialFloat_rsq_neg (hp : p ≠ 0) (hn : n = true) : specialFloat .rsq f r sat ftz d a b = f.noNumber := by
  unfold specialFloat; simp only [h, hp, hn, if_false, if_true]; rfl
theorem specialFloat_rsq_fin (hp : p ≠ 0) (hn : n = false) (hs : f ≠ .f32) :
    specialFloat .rsq f r sat ftz d a b = f.encode .rne sat ftz (sqrtEx q p) := by
  unfold specialFloat; simp only [h, hp, hn, hs, beq_eq_false_iff_ne.mpr hs, if_false, Bool.false_eq_true]
theorem specialFloat_rcp_fin (hp : p ≠ 0) (hs : f ≠ .f32) : specialFloat .rcp f r sat ftz d a b = f.encode .rne sat ftz (.fin n q p) := by
  unfold specialFloat; simp only [h, hp, beq_eq_false_iff_ne.mpr hs, if_false, Bool.false_eq_true]
theorem specialFloat_log2_neg (hp : p ≠ 0) (hn : n = true) : specialFloat .log2 f r sat ftz d a b = f.noNumber := by
  unfold specialFloat; simp only [h, hp, hn, if_false, if_true]; rfl
theorem specialFloat_log2_pow (hp : p ≠ 0) (hn : n = false) {e : ℤ} (he : powerOfTwo p q = some e) :
    specialFloat .log2 f r sat ftz d a b = f.encode .rne sat ftz (Ex.ofInt e) := by
  unfold specialFloat; simp only [h, hp, hn, he, if_false, Bool.false_eq_true]
/-- VEXP2 of a whole number. -/
theorem specialFloat_exp2_whole (hm : p % q = 0) : specialFloat .exp2 f r sat ftz d a b =
    f.encode .rne sat ftz (scale2 false 1 1 (max (-1024) (min (if n then -((p + q - 1) / q : Nat) else (p / q : Nat)) 1024))) := by
  unfold specialFloat; simp only [h, hm, if_true]

end finite

/-- A normal number is encoded as itself and raises no flag. -/
theorem Fmt.encode_exact {f : Fmt} (hf : f.plain) (r : Rnd) (sat ftz : Bool) {x : Ex} {neg : Bool} {j : Nat} (h : x.Is neg (signedQ neg (f.mag j)))
    (hj : 2 ^ f.frac ≤ j) (hm : j < f.maxCode) : f.encode r sat ftz x = (f.signed neg j, 0) := by
  have hpos : 0 < f.mag j := mag_pos.mpr ((Nat.two_pow_pos _).trans_le hj)
  obtain ⟨p, q, hq, rfl, hv⟩ := h
  have hq' : (0 : ℚ) < q := by exact_mod_cast hq
  have hv : (p / q : ℚ) = f.mag j := by revert hv; cases neg <;> simp [eq_comm]
  have hp : 0 < p := by
    have : (0 : ℚ) < p := by rwa [← hv, div_pos_iff_of_pos_right hq'] at hpos
    exact_mod_cast this
  have he : f.encode r sat ftz (.fin neg p q) = f.encodeFin r sat ftz neg p q := if_neg (by omega)
  have ht : (f.roundMag r neg p q).2.2 = false := by
    rw [← Bool.not_eq_true, f.roundMag_tiny r neg hp hq, hv]
    rintro ⟨-, h, -⟩
    rw [abs_signedQ _ hpos.le, ← f.mag_low, mag_lt] at h
    omega
  rw [he]
  rcases encodeFin_cases hf r sat ftz neg hp hq with ⟨ho, -⟩ | ⟨-, k, c, hc, h1, h2, hpk, h⟩
  · rw [hv] at ho
    exact absurd ho (not_overflows_of_lt hf (by rw [abs_signedQ _ hpos.le]; exact mag_lt.mpr hm))
  · have hkj : k = j := by
      rw [hv, mag_le] at h1
      rw [hv, mag_lt] at h2
      omega
    subst hkj
    have hck : c = k := mag_inj.mp (((Rnd.picks_exact h1 h2 hpk).mpr hv.symm).trans hv)
    rw [h, ht, hck, hv]
    simp [flagIf]

theorem Fmt.mag_pow (f : Fmt) {k : ℤ} (hk : 1 - (f.bias : ℤ) ≤ k) : f.mag ((k + f.bias).toNat * 2 ^ f.frac) = 2 ^ k := by
  have h := f.mag_codeOf hk (n := 2 ^ f.frac) (fun h => absurd h (lt_irrefl _)) (by rw [pow_succ]; omega)
  rw [Fmt.codeOf, if_neg (lt_irrefl _), Nat.sub_self, add_zero] at h
  rw [h, two_zpow_units k f.frac]
  push_cast
  rfl

section wide
variable {f : Fmt} (hw : f.wide = true)
include hw

theorem Fmt.bias_bounds : f.frac + 2 ≤ f.bias ∧ 2 * f.bias * 2 ^ f.frac + 2 ^ f.frac = f.maxCode + 1 ∧ f.bias + f.frac - 1 < 2 ^ (f.frac + 1) ∧ f.bias < 1024 := by
  cases f with
  | q4 t => exact Bool.noConfusion hw
  | e2m3 => exact Bool.noConfusion hw
  | e3m2 => exact Bool.noConfusion hw
  | e4m3 => exact Bool.noConfusion hw
  | e5m2 => exact Bool.noConfusion hw
  | _ => decide

/-- A power of two in the normal range. -/
theorem Fmt.encode_pow (r : Rnd) (sat ftz : Bool) {x : Ex} {k : ℤ} (h : x.Is false (2 ^ k)) (h1 : 1 - (f.bias : ℤ) ≤ k) (h2 : k ≤ f.bias) :
    f.encode r sat ftz x = ((k + f.bias).toNat * 2 ^ f.frac, 0) := by
  obtain ⟨b1, b2, -, -⟩ := bias_bounds hw
  have hp := Nat.two_pow_pos f.frac
  have hle : (k + f.bias).toNat * 2 ^ f.frac ≤ 2 * f.bias * 2 ^ f.frac := Nat.mul_le_mul_right _ (by omega)
  have h2f : 2 ≤ 2 ^ f.frac := Nat.le_self_pow (by have := two_le_frac (plain_of_wide hw); omega) 2
  refine encode_exact (plain_of_wide hw) r sat ftz (neg := false) ?_ (Nat.le_mul_of_pos_left _ (by omega)) (by omega)
  rwa [signedQ_false, f.mag_pow h1]

theorem Fmt.encode_one (r : Rnd) (sat ftz : Bool) (n : Bool) : f.encode r sat ftz (.fin n 1 1) = (f.signed n (f.bias * 2 ^ f.frac), 0) := by
  obtain ⟨b1, b2, -, -⟩ := bias_bounds hw
  have hp := Nat.two_pow_pos f.frac
  have hm : f.mag (f.bias * 2 ^ f.frac) = 1 := by simpa using f.mag_pow (k := 0) (by omega)
  refine encode_exact (plain_of_wide hw) r sat ftz ⟨1, 1, one_pos, rfl, by rw [hm]; simp⟩ (Nat.le_mul_of_pos_left _ (by omega)) ?_
  have : 2 * f.bias * 2 ^ f.frac = f.bias * 2 ^ f.frac + f.bias * 2 ^ f.frac := by ring
  have : 2 * 2 ^ f.frac ≤ f.bias * 2 ^ f.frac := Nat.mul_le_mul_right _ (by omega)
  omega

/-- A whole number that has no more bits than the format's significand. -/
theorem Fmt.encode_ofInt (r : Rnd) (sat ftz : Bool) {k : ℤ} (hk : k.natAbs < 2 ^ (f.frac + 1)) :
    f.value (f.encode r sat ftz (Ex.ofInt k)).1 = k ∧ (f.encode r sat ftz (Ex.ofInt k)).2 = 0 := by
  obtain ⟨b1, b2, -, -⟩ := bias_bounds hw
  have hf := plain_of_wide hw
  rcases eq_or_ne k 0 with rfl | h0
  · have : f.encode r sat ftz (Ex.ofInt 0) = (f.signed false 0, 0) := by
      cases f with
      | q4 t => exact Bool.noConfusion hw
      | _ => rfl
    rw [this]
    exact ⟨by rw [f.value_signed _ f.signBit_pos]; simp, rfl⟩
  · have hn : k.natAbs ≠ 0 := by omega
    set e := Nat.log2 k.natAbs with he
    have l1 : 2 ^ e ≤ k.natAbs := Nat.log2_self_le hn
    have hef : e ≤ f.frac := by
      have := (Nat.pow_lt_pow_iff_right (a := 2) (by norm_num)).mp (l1.trans_lt hk)
      omega
    have hsplit : 2 ^ f.frac = 2 ^ e * 2 ^ (f.frac - e) := by rw [← pow_add]; congr 1; omega
    have l2 : k.natAbs * 2 ^ (f.frac - e) ≤ 2 ^ (f.frac + 1) := by
      have : k.natAbs < 2 ^ (e + 1) := Nat.lt_log2_self
      rw [pow_succ, hsplit]
      calc _ ≤ 2 ^ (e + 1) * 2 ^ (f.frac - e) := Nat.mul_le_mul_right _ this.le
        _ = _ := by ring
    have l3 : 2 ^ f.frac ≤ k.natAbs * 2 ^ (f.frac - e) := by rw [hsplit]; exact Nat.mul_le_mul_right _ l1
    have hm := f.mag_codeOf (e := e) (n := k.natAbs * 2 ^ (f.frac - e)) (by omega) (fun h => by omega) l2
    have hm' : f.mag (f.codeOf e (k.natAbs * 2 ^ (f.frac - e))) = k.natAbs := by
      have : (2 : ℚ) ^ ((e : ℤ) - f.frac) = (2 ^ (f.frac - e))⁻¹ := by
        rw [← zpow_natCast, ← zpow_neg]
        congr 1
        omega
      rw [hm, this]
      push_cast
      field_simp
    generalize f.codeOf e (k.natAbs * 2 ^ (f.frac - e)) = j at hm'
    have hj1 : 2 ^ f.frac ≤ j := by
      rw [← f.mag_le, f.mag_low, hm']
      calc (2 : ℚ) ^ (1 - (f.bias : ℤ)) ≤ 2 ^ (0 : ℤ) := two_zpow_le_iff.mpr (by omega)
        _ ≤ _ := by rw [zpow_zero]; exact_mod_cast Nat.one_le_iff_ne_zero.mpr hn
    have hj2 : j < f.maxCode := by
      have h2f : 2 ≤ 2 ^ f.frac := Nat.le_self_pow (by have := two_le_frac hf; omega) 2
      have htop := f.mag_pow (k := f.bias) (by omega)
      have hlt : j < (f.bias + f.bias : ℤ).toNat * 2 ^ f.frac := by
        rw [← f.mag_lt, htop, hm']
        calc (k.natAbs : ℚ) < 2 ^ (f.frac + 1) := by exact_mod_cast hk
          _ = 2 ^ ((f.frac + 1 : ℕ) : ℤ) := (zpow_natCast _ _).symm
          _ ≤ _ := two_zpow_le_iff.mpr (by omega)
      have : (f.bias + f.bias : ℤ).toNat = 2 * f.bias := by omega
      rw [this] at hlt
      omega
    have hsg : signedQ (decide (k < 0)) (k.natAbs : ℚ) = k := by
      rcases lt_or_ge k 0 with h | h
      · simp [h, Nat.cast_natAbs, abs_of_neg (show (k : ℚ) < 0 by exact_mod_cast h)]
      · simp [not_lt.mpr h, Nat.cast_natAbs, abs_of_nonneg (show (0 : ℚ) ≤ k by exact_mod_cast h)]
    have hx : (Ex.ofInt k).Is (decide (k < 0)) (signedQ (decide (k < 0)) (f.mag j)) := ⟨k.natAbs, 1, one_pos, rfl, by rw [hm']; simp⟩
    rw [encode_exact hf r sat ftz hx hj1 hj2]
    refine ⟨?_, rfl⟩
    rw [f.value_signedQ _ (hj2.trans f.maxCode_lt_signBit), hm', hsg]

end wide

theorem powerOfTwo_eq {p q : Nat} (hp : 0 < p) (hq : 0 < q) {k : ℤ} (h : (p / q : ℚ) = 2 ^ k) : powerOfTwo p q = some k := by
  obtain ⟨l1, l2⟩ := log2Floor_bounds hp hq
  rw [h, two_zpow_le_iff] at l1
  rw [h, two_zpow_lt_iff] at l2
  have hk : log2Floor p q = k := by omega
  have hq' : (q : ℚ) ≠ 0 := by exact_mod_cast hq.ne'
  rw [div_eq_iff hq'] at h
  rw [powerOfTwo, hk]
  cases k with
  | ofNat n =>
    have : p = q * 2 ^ n := by
      simp only [Int.ofNat_eq_natCast, zpow_natCast] at h
      exact_mod_cast h.trans (mul_comm _ _)
    simp [this]
  | negSucc n =>
    have : p * 2 ^ (n + 1) = q := by
      rw [zpow_negSucc] at h
      have : (p : ℚ) * 2 ^ (n + 1) = q := by rw [h]; field_simp
      exact_mod_cast this
    simp [this]

theorem isqrtFrom_spec (n : Nat) : ∀ k r, r * r ≤ n → n < (r + 2 ^ k) * (r + 2 ^ k) →
    isqrtFrom k n r * isqrtFrom k n r ≤ n ∧ n < (isqrtFrom k n r + 1) * (isqrtFrom k n r + 1) := by
  intro k
  induction k with
  | zero => exact fun r h1 h2 => ⟨h1, h2⟩
  | succ k ih =>
    intro r h1 h2
    rw [isqrtFrom]
    split
    · refine ih _ ‹_› ?_
      rw [add_assoc, ← two_mul, ← pow_succ']
      exact h2
    · exact ih _ h1 (not_le.mp ‹_›)

theorem isqrtFrom_eq (n : Nat) : isqrtFrom (Nat.log2 n / 2 + 1) n 0 = Nat.sqrt n := by
  refine Nat.eq_sqrt.mpr (isqrtFrom_spec n _ 0 (Nat.zero_le _) ?_)
  rw [Nat.zero_add, ← pow_add]
  calc n < 2 ^ (Nat.log2 n + 1) := Nat.lt_log2_self
    _ ≤ _ := Nat.pow_le_pow_right (by norm_num) (by omega)

/-- A magnitude lies to every multiple of 2^-200 as the root of a rational does. -/
def RootLike (y x : ℚ) : Prop := ∀ g : ℚ, (∃ m : Nat, g = m / 2 ^ 200) → (g ≤ y ↔ g ^ 2 ≤ x) ∧ (y ≤ g ↔ x ≤ g ^ 2)

theorem sqrtEx_spec {num den : Nat} (hn : 0 < num) (hd : 0 < den) :
    ∃ p q : Nat, 0 < p ∧ 0 < q ∧ sqrtEx num den = .fin false p q ∧ RootLike (p / q) (num / den) := by
  set n := num * den * 4 ^ 200 with hnn
  set s := Nat.sqrt n with hs
  have hnp : 0 < n := by positivity
  have hsp : 0 < s := Nat.sqrt_pos.mpr hnp
  have hD : (0 : ℚ) < den * 2 ^ 200 := by positivity
  have hx : (num / den : ℚ) = n / (den * 2 ^ 200) ^ 2 := by
    rw [hnn]
    simp only [Nat.cast_mul, Nat.cast_pow, Nat.cast_ofNat]
    rw [show (4 : ℚ) = 2 ^ 2 by norm_num, ← pow_mul, mul_pow, ← pow_mul, div_eq_div_iff (by positivity) (by positivity)]
    ring
  have grid : ∀ g : ℚ, (∃ m : Nat, g = m / 2 ^ 200) →
      ∃ j : Nat, g = j / (den * 2 ^ 200) ∧ (g ^ 2 ≤ num / den ↔ j ≤ s) ∧ (num / den ≤ g ^ 2 ↔ n ≤ j * j) := by
    rintro g ⟨m, rfl⟩
    have he : (m : ℚ) / 2 ^ 200 = (m * den : ℕ) / (den * 2 ^ 200) := by push_cast; field_simp
    refine ⟨m * den, he, ?_, ?_⟩ <;> rw [he, hx, div_pow, div_le_div_iff_of_pos_right (by positivity), sq]
    · rw [Nat.le_sqrt]
      exact_mod_cast Iff.rfl
    · exact_mod_cast Iff.rfl
  rw [sqrtEx]
  simp only [← hnn, isqrtFrom_eq, ← hs]
  split
  · rename_i h
    refine ⟨s, den * 2 ^ 200, hsp, by positivity, rfl, fun g hg => ?_⟩
    obtain ⟨j, rfl, h1, h2⟩ := grid g hg
    rw [h1, h2, ← h]
    simp only [Nat.cast_mul, Nat.cast_pow, Nat.cast_ofNat]
    rw [div_le_div_iff_of_pos_right hD, div_le_div_iff_of_pos_right hD]
    exact ⟨Nat.cast_le, Nat.cast_le.trans Nat.mul_self_le_mul_self_iff.symm⟩
  · rename_i h
    refine ⟨2 * s + 1, den * 2 ^ 201, by omega, by positivity, rfl, fun g hg => ?_⟩
    obtain ⟨j, rfl, h1, h2⟩ := grid g hg
    have hne : n ≤ j * j ↔ s + 1 ≤ j := by
      rw [Nat.succ_le_iff, hs, Nat.sqrt_lt]
      refine ⟨fun h' => h'.lt_of_ne fun he => h ?_, le_of_lt⟩
      rw [show s = j by rw [hs, he, Nat.sqrt_eq], he]
    have hD2 : ((den * 2 ^ 201 : ℕ) : ℚ) = 2 * (den * 2 ^ 200) := by push_cast; ring
    have hj : (j / (den * 2 ^ 200) : ℚ) = (2 * j : ℕ) / (2 * (den * 2 ^ 200)) := by push_cast; field_simp
    rw [h1, h2, hne, hD2, hj, div_le_div_iff_of_pos_right (by positivity), div_le_div_iff_of_pos_right (by positivity), Nat.cast_le, Nat.cast_le]
    omega

section wide
variable {f : Fmt} (hw : f.wide = true)
include hw

theorem Fmt.mag_grid (n : Nat) : ∃ m : Nat, f.mag n = m / 2 ^ 199 := by
  have hu : -199 ≤ f.unit n := by
    have hb : (f.bias : ℤ) + f.frac ≤ 200 := by
      cases f with
      | q4 t => exact Bool.noConfusion hw
      | _ => decide
    unfold Fmt.unit
    omega
  obtain ⟨k, hk⟩ := Int.eq_ofNat_of_zero_le (show 0 ≤ f.unit n + 199 by omega)
  refine ⟨(if n < 2 ^ f.frac then n else 2 ^ f.frac + n % 2 ^ f.frac) * 2 ^ k, ?_⟩
  rw [Fmt.mag, show f.unit n = k - (199 : ℕ) by push_cast; omega, zpow_sub₀ (by norm_num), zpow_natCast, zpow_natCast]
  push_cast
  ring

theorem Fmt.mag_grid200 (n : Nat) : ∃ m : Nat, f.mag n = m / 2 ^ 200 := by
  obtain ⟨m, hm⟩ := mag_grid hw n
  exact ⟨2 * m, by rw [hm, pow_succ]; push_cast; field_simp⟩

theorem Fmt.mid_grid200 (a b : Nat) : ∃ m : Nat, (f.mag a + f.mag b) / 2 = m / 2 ^ 200 := by
  obtain ⟨m, hm⟩ := mag_grid hw a
  obtain ⟨k, hk⟩ := mag_grid hw b
  exact ⟨m + k, by rw [hm, hk, pow_succ]; push_cast; field_simp⟩

/-- A root in the normal range is rounded as the exact root is. -/
theorem Fmt.root_encode (r : Rnd) (sat ftz : Bool) {p q : Nat} (hp : 0 < p) (hq : 0 < q) {x : ℚ} (hy : RootLike (p / q) x)
    (h1 : ((2 : ℚ) ^ (1 - (f.bias : ℤ))) ^ 2 ≤ x) (h2 : x < ((2 : ℚ) ^ (f.bias : ℤ)) ^ 2) :
    f.root r x (f.encode r sat ftz (.fin false p q)).1 ∧
      (f.encode r sat ftz (.fin false p q)).2 = if f.value (f.encode r sat ftz (.fin false p q)).1 ^ 2 = x then 0 else fInexact := by
  have hf := plain_of_wide hw
  obtain ⟨b1, b2, -, -⟩ := bias_bounds hw
  have h2f : 2 ≤ 2 ^ f.frac := Nat.le_self_pow (by have := two_le_frac hf; omega) 2
  have hmag := fun n => hy _ (mag_grid200 hw n)
  have hmid := fun a b => hy _ (mid_grid200 hw a b)
  have hlow : f.mag (2 ^ f.frac) ≤ p / q := (hmag _).1.mpr (by rwa [f.mag_low])
  have htop : (p / q : ℚ) < f.mag (2 * f.bias * 2 ^ f.frac) := by
    have he : f.mag (2 * f.bias * 2 ^ f.frac) = 2 ^ (f.bias : ℤ) := by
      rw [← f.mag_pow (k := f.bias) (by omega)]
      congr 2
      omega
    rw [← not_le, (hmag _).1, not_le, he]
    exact h2
  have hpos : (0 : ℚ) < p / q := by positivity
  have he : f.encode r sat ftz (.fin false p q) = f.encodeFin r sat ftz false p q := if_neg (by omega)
  rw [he]
  rcases encodeFin_cases hf r sat ftz false hp hq with ⟨ho, -⟩ | ⟨-, k, c, hc, k1, k2, hpk, h⟩
  · refine absurd ho (not_overflows_of_lt hf ?_)
    rw [abs_signedQ _ hpos.le]
    exact htop.trans (mag_lt.mpr (by omega))
  have ht : (f.roundMag r false p q).2.2 = false := by
    rw [← Bool.not_eq_true, f.roundMag_tiny r false hp hq]
    rintro ⟨-, h, -⟩
    rw [abs_signedQ _ hpos.le, ← f.mag_low] at h
    linarith
  rw [h, ht]
  clear h he
  generalize (p / q : ℚ) = y at *
  have hk1 : 2 ^ f.frac < k + 1 := mag_lt.mp (hlow.trans_lt k2)
  have hk2 : k < 2 * f.bias * 2 ^ f.frac := mag_lt.mp (k1.trans_lt htop)
  have hcm : c < f.maxCode := by rcases hpk with ⟨-, rfl⟩ | ⟨-, rfl⟩ <;> omega
  have hck : c = k ∨ c = k + 1 := by rcases hpk with ⟨-, rfl⟩ | ⟨-, rfl⟩ <;> simp
  have hcs := hcm.trans f.maxCode_lt_signBit
  have hms := f.maxCode_lt_signBit
  simp only [Bool.and_false, Bool.false_eq_true, if_false, Fmt.signed, Bool.false_and, flagIf]
  refine ⟨⟨by omega, hcm, ?_⟩, ?_⟩
  · rw [value_of_lt hcs, value_of_lt (by omega : c - 1 < f.signBit), value_of_lt (by omega : c + 1 < f.signBit)]
    have hlt : ∀ {a b}, a < b → f.mag a < f.mag b := fun h => mag_lt.mpr h
    have sq4 : ∀ a b : ℚ, (a + b) ^ 2 ≤ 4 * x ↔ ((a + b) / 2) ^ 2 ≤ x := fun a b => by rw [div_pow, div_le_iff₀ (by norm_num)]; norm_num [mul_comm]
    have sq4' : ∀ a b : ℚ, 4 * x ≤ (a + b) ^ 2 ↔ x ≤ ((a + b) / 2) ^ 2 := fun a b => by rw [div_pow, le_div_iff₀ (by norm_num)]; norm_num [mul_comm]
    cases r with
    | rne =>
      show _ ≤ _ ∧ _ ≤ _
      rw [sq4, sq4', ← (hmid _ _).1, ← (hmid _ _).2]
      rcases hpk with ⟨hg, rfl⟩ | ⟨hg, rfl⟩
      · have := hlt (Nat.lt_succ_self (k + 1))
        rw [Nat.add_sub_cancel]
        rcases hg with hg | ⟨hg, -⟩ <;> constructor <;> linarith
      · have := hlt (show c - 1 < c by omega)
        rw [Rnd.goesUp, not_or, not_lt] at hg
        exact ⟨by linarith, by linarith [hg.1]⟩
    | rz =>
      obtain rfl : c = k := by simpa [Rnd.picks, Rnd.goesUp] using hpk
      exact ⟨(hmag _).1.mp k1, not_le.mp fun h => absurd ((hmag _).1.mpr h) (not_le.mpr k2)⟩
    | rdn =>
      obtain rfl : c = k := by simpa [Rnd.picks, Rnd.goesUp] using hpk
      exact ⟨(hmag _).1.mp k1, not_le.mp fun h => absurd ((hmag _).1.mpr h) (not_le.mpr k2)⟩
    | rup =>
      obtain ⟨hyc, -⟩ := away_least k1 k2 (by simpa only [Rnd.picks, Rnd.goesUp, true_and] using hpk)
      refine ⟨not_le.mp fun h => absurd ((hmag _).2.mpr h) (not_le.mpr ?_), (hmag _).2.mp hyc⟩
      rcases hpk with ⟨⟨-, hg⟩, rfl⟩ | ⟨-, rfl⟩
      · rw [Nat.add_sub_cancel]
        exact lt_of_le_of_ne k1 hg
      · exact (hlt (show c - 1 < c by omega)).trans_le k1
  · rw [value_of_lt hcs]
    have : f.mag c ^ 2 = x ↔ f.mag k = y := by
      rw [← Rnd.picks_exact k1 k2 hpk, le_antisymm_iff, le_antisymm_iff, (hmag c).1, (hmag c).2]
    by_cases h : f.mag k = y
    · simp [h, this.mpr h]
    · simp [h, mt this.mp h]

theorem Fmt.mag_lower {j : Nat} (hj : 0 < j) : (2 : ℚ) ^ (1 - (f.bias : ℤ) - f.frac) ≤ f.mag j := by
  have h1 : f.mag 1 = 2 ^ (1 - (f.bias : ℤ) - f.frac) := by
    have := f.mag_succ 0
    rw [f.mag_zero, zero_add] at this
    rw [this, Fmt.unit, Nat.zero_div, zero_add, Nat.cast_zero, max_eq_right zero_le_one]
  rw [← h1]
  exact mag_le.mpr hj

theorem Fmt.mag_upper {j : Nat} (hm : j ≤ f.maxCode) : f.mag j < 2 ^ ((f.bias : ℤ) + 1) := by
  obtain ⟨b1, b2, -, -⟩ := bias_bounds hw
  rw [← f.mag_pow (k := f.bias + 1) (by omega), mag_lt]
  have : ((f.bias : ℤ) + 1 + f.bias).toNat = 2 * f.bias + 1 := by omega
  rw [this, Nat.add_mul, one_mul]
  omega

/-- The root of any positive number of a format, and of its reciprocal, lies in the normal range. -/
theorem Fmt.root_range {j : Nat} (hj : 0 < j) (hm : j ≤ f.maxCode) :
    (((2 : ℚ) ^ (1 - (f.bias : ℤ))) ^ 2 ≤ f.mag j ∧ f.mag j < ((2 : ℚ) ^ (f.bias : ℤ)) ^ 2) ∧
    ((2 : ℚ) ^ (1 - (f.bias : ℤ))) ^ 2 ≤ 1 / f.mag j ∧ 1 / f.mag j < ((2 : ℚ) ^ (f.bias : ℤ)) ^ 2 := by
  obtain ⟨b1, b2, -, -⟩ := bias_bounds hw
  have b0 := two_le_frac (plain_of_wide hw)
  have hp := Nat.two_pow_pos f.frac
  have hlo := mag_lower hw hj
  have hhi := mag_upper hw hm
  have hpos : 0 < f.mag j := mag_pos.mpr hj
  have sq : ∀ e : ℤ, ((2 : ℚ) ^ e) ^ 2 = 2 ^ (2 * e) := fun e => by rw [← zpow_natCast, ← zpow_mul]; congr 1; push_cast; ring
  rw [sq, sq, le_div_iff₀ hpos, div_lt_iff₀ hpos]
  refine ⟨⟨le_trans (two_zpow_le_iff.mpr (by omega)) hlo, hhi.trans_le (two_zpow_le_iff.mpr (by omega))⟩, ?_, ?_⟩
  · calc (2 : ℚ) ^ (2 * (1 - (f.bias : ℤ))) * f.mag j ≤ 2 ^ (2 * (1 - (f.bias : ℤ))) * 2 ^ ((f.bias : ℤ) + 1) :=
        mul_le_mul_of_nonneg_left hhi.le (by positivity)
      _ = 2 ^ (2 * (1 - (f.bias : ℤ)) + (f.bias + 1)) := (zpow_add₀ (by norm_num) _ _).symm
      _ ≤ 2 ^ (0 : ℤ) := two_zpow_le_iff.mpr (by omega)
      _ = 1 := zpow_zero _
  · calc (1 : ℚ) = 2 ^ (0 : ℤ) := (zpow_zero _).symm
      _ < 2 ^ (2 * (f.bias : ℤ) + (1 - f.bias - f.frac)) := two_zpow_lt_iff.mpr (by omega)
      _ = 2 ^ (2 * (f.bias : ℤ)) * 2 ^ (1 - (f.bias : ℤ) - f.frac) := zpow_add₀ (by norm_num) _ _
      _ ≤ _ := mul_le_mul_of_nonneg_left hlo (by positivity)

end wide

section wide
variable {f : Fmt} (hw : f.wide = true)
include hw

/-- A number other than zero, as the special functions see it. -/
theorem Fmt.special_operand (ftz : Bool) {a : Nat} (ha : f.finite a) (h0 : f.value (f.src ftz a) ≠ 0) :
    ∃ p q j : Nat, 0 < p ∧ 0 < q ∧ 0 < j ∧ j ≤ f.maxCode ∧ f.decode (f.flush ftz a) = .fin (f.wNeg a) p q ∧
      f.value (f.src ftz a) = signedQ (f.wNeg a) (p / q) ∧ (p / q : ℚ) = f.mag j := by
  have hf := plain_of_wide hw
  obtain ⟨p, q, hq, hd, hv, hm, hz⟩ := decode_flush_fin hf ftz ha
  have hfin := flush_finite ftz ha
  rw [flush_src hw ftz ha.1] at hv hm hz hfin
  have hp : p ≠ 0 := by
    rintro rfl
    refine h0 (hv.trans ?_)
    cases decide (f.signBit ≤ a) <;> simp
  exact ⟨p, q, f.src ftz a % f.signBit, Nat.pos_of_ne_zero hp, hq, Nat.pos_of_ne_zero (mt hz.mpr hp), hfin.2, hd, hv, hm⟩

section finite
variable (r : Rnd) (sat ftz : Bool) {a : Nat} (d b : Nat) (ha : f.finite a) (h0 : f.value (f.src ftz a) ≠ 0)
include ha h0

theorem Fmt.special_sqrt (hn : f.wNeg a = false) :
    f.root r (f.value (f.src ftz a)) (onFlushed (specialFloat .sqrt) f r sat ftz d a b).1 ∧ (onFlushed (specialFloat .sqrt) f r sat ftz d a b).2 =
      if f.value (onFlushed (specialFloat .sqrt) f r sat ftz d a b).1 ^ 2 = f.value (f.src ftz a) then 0 else fInexact := by
  obtain ⟨p, q, j, hp, hq, hj, hm, hd, hv, hmag⟩ := special_operand hw ftz ha h0
  obtain ⟨p', q', hp', hq', he, hy⟩ := sqrtEx_spec hp hq
  rw [hn] at hd hv
  obtain ⟨⟨h1, h2⟩, -⟩ := root_range hw hj hm
  rw [onFlushed, specialFloat_sqrt_fin hd hp.ne', if_neg (by decide), he, hv, signedQ_false]
  exact root_encode hw r sat ftz hp' hq' hy (hmag ▸ h1) (hmag ▸ h2)

theorem Fmt.special_negative (hn : f.wNeg a = true) : ∀ fn ∈ [Special.rsq, .sqrt, .log2], onFlushed (specialFloat fn) f r sat ftz d a b = f.noNumber := by
  obtain ⟨p, q, j, hp, hq, hj, hm, hd, hv, hmag⟩ := special_operand hw ftz ha h0
  simp only [List.mem_cons, List.not_mem_nil, or_false]
  rintro fn (rfl | rfl | rfl) <;> rw [onFlushed]
  · exact specialFloat_rsq_neg hd hp.ne' hn
  · rw [specialFloat_sqrt_fin hd hp.ne', hn, if_pos rfl]
  · exact specialFloat_log2_neg hd hp.ne' hn

theorem Fmt.special_rcp (hs : f ≠ .f32) :
    f.rounds .rne sat ftz (f.wNeg a) (1 / f.value (f.src ftz a)) (onFlushed (specialFloat .rcp) f r sat ftz d a b) := by
  obtain ⟨p, q, j, hp, hq, hj, hm, hd, hv, hmag⟩ := special_operand hw ftz ha h0
  rw [onFlushed, specialFloat_rcp_fin hd hp.ne' hs, hv]
  refine encode_rounds (plain_of_wide hw) .rne sat ftz ⟨q, p, hp, rfl, ?_⟩
  cases f.wNeg a <;> simp

theorem Fmt.special_rsq (hs : f ≠ .f32) (hn : f.wNeg a = false) :
    f.root .rne (1 / f.value (f.src ftz a)) (onFlushed (specialFloat .rsq) f r sat ftz d a b).1 ∧ (onFlushed (specialFloat .rsq) f r sat ftz d a b).2 =
      if f.value (onFlushed (specialFloat .rsq) f r sat ftz d a b).1 ^ 2 * f.value (f.src ftz a) = 1 then 0 else fInexact := by
  obtain ⟨p, q, j, hp, hq, hj, hm, hd, hv, hmag⟩ := special_operand hw ftz ha h0
  obtain ⟨p', q', hp', hq', he, hy⟩ := sqrtEx_spec hq hp
  obtain ⟨-, h1, h2⟩ := root_range hw hj hm
  have hx : (q / p : ℚ) = 1 / f.value (f.src ftz a) := by rw [hv, hn, signedQ_false, one_div_div]
  rw [← hmag, show (p / q : ℚ) = f.value (f.src ftz a) by rw [hv, hn, signedQ_false]] at h1 h2
  rw [hx] at hy
  rw [onFlushed, specialFloat_rsq_fin hd hp.ne' hn hs, he]
  obtain ⟨g1, g2⟩ := root_encode hw .rne sat ftz hp' hq' hy h1 h2
  refine ⟨g1, g2.trans ?_⟩
  rw [if_congr (eq_div_iff h0) rfl rfl]

theorem Fmt.special_log2 {k : ℤ} (hk : f.value (f.src ftz a) = 2 ^ k) :
    f.value (onFlushed (specialFloat .log2) f r sat ftz d a b).1 = k ∧ (onFlushed (specialFloat .log2) f r sat ftz d a b).2 = 0 := by
  obtain ⟨p, q, j, hp, hq, hj, hm, hd, hv, hmag⟩ := special_operand hw ftz ha h0
  have hpos : (0 : ℚ) < p / q := by positivity
  have h2 : (0 : ℚ) < 2 ^ k := by positivity
  have hn : f.wNeg a = false := by
    rw [← Bool.not_eq_true]
    intro hn
    rw [hk, hn, signedQ_true] at hv
    linarith
  rw [hk, hn, signedQ_false] at hv
  obtain ⟨b1, b2, b3, -⟩ := bias_bounds hw
  have b0 := two_le_frac (plain_of_wide hw)
  have hlo := mag_lower hw hj
  have hhi := mag_upper hw hm
  rw [← hmag, ← hv, two_zpow_le_iff] at hlo
  rw [← hmag, ← hv, two_zpow_lt_iff] at hhi
  rw [onFlushed, specialFloat_log2_pow hd hp.ne' hn (powerOfTwo_eq hp hq hv.symm)]
  exact encode_ofInt hw .rne sat ftz (by omega)

end finite

/-- VEXP2 of a whole number, zero among them. -/
theorem Fmt.special_exp2 (r : Rnd) (sat ftz : Bool) {a : Nat} (d b : Nat) (ha : f.finite a) {k : ℤ} (hk : f.value (f.src ftz a) = k)
    (h1 : 1 - (f.bias : ℤ) ≤ k) (h2 : k ≤ f.bias) :
    onFlushed (specialFloat .exp2) f r sat ftz d a b = ((k + f.bias).toNat * 2 ^ f.frac, 0) := by
  obtain ⟨p, q, hq, hd, hv, -, -⟩ := decode_flush_fin (plain_of_wide hw) ftz ha
  rw [flush_src hw ftz ha.1, hk] at hv
  have hq' : (q : ℚ) ≠ 0 := by exact_mod_cast hq.ne'
  obtain ⟨-, -, -, b4⟩ := bias_bounds hw
  generalize decide (f.signBit ≤ a) = n at *
  have hp : p = k.natAbs * q := by
    have h3 : (p / q : ℚ) = k.natAbs := by
      have := congrArg abs hv
      rw [abs_signedQ _ (by positivity), ← Int.cast_abs, Int.abs_eq_natAbs, Int.cast_natCast] at this
      exact this.symm
    rw [div_eq_iff hq'] at h3
    exact_mod_cast h3
  have hm : p % q = 0 := by rw [hp, Nat.mul_mod_left]
  have he : (if n then -((p + q - 1) / q : Nat) else (p / q : Nat) : ℤ) = k := by
    have hx : (p / q : ℚ) = k.natAbs := by rw [hp]; push_cast; field_simp
    rw [hx] at hv
    rw [hp, Nat.mul_div_cancel _ hq, Nat.add_sub_assoc hq, Nat.mul_comm, Nat.mul_add_div hq, Nat.div_eq_of_lt (by omega)]
    cases n with
    | false =>
      have : k = k.natAbs := Int.cast_injective (α := ℚ) (by rw [Int.cast_natCast]; exact hv)
      exact this.symm
    | true =>
      have : k = -(k.natAbs : ℤ) := Int.cast_injective (α := ℚ) (by rw [Int.cast_neg, Int.cast_natCast]; exact hv)
      rw [if_pos rfl, Nat.add_zero]
      exact this.symm
  rw [onFlushed, specialFloat_exp2_whole hd hm, he, min_eq_left (by omega), max_eq_right (by omega)]
  refine encode_pow hw .rne sat ftz ?_ h1 h2
  simpa using scale2_is false 1 one_pos k

end wide

section wide
variable {f : Fmt} (hw : f.wide = true)
include hw

theorem Fmt.special_nan (fn : Special) (r : Rnd) (sat ftz : Bool) {a : Nat} (d b : Nat) (ha : a < 2 ^ f.width) (hn : f.wNan a = true) :
    onFlushed (specialFloat fn) f r sat ftz d a b = (f.nanCode, flagIf (f.wSig a) fInvalid) := by
  rw [onFlushed, specialFloat_nan fn (flush_nan (plain_of_wide hw) ftz ha (by rw [nanAt_wide hw, hn])), sigAt_wide hw]

theorem Fmt.flush_zero (ftz n : Bool) : f.flush ftz (f.signed n 0) = f.signed n 0 ∧ ∃ q, f.decode (f.flush ftz (f.signed n 0)) = .fin n 0 q := by
  have hf := plain_of_wide hw
  have hfin := f.signed_finite n (Nat.zero_le f.maxCode)
  have hs := f.signBit_le_signed n f.signBit_pos
  have hfl : f.flush ftz (f.signed n 0) = f.signed n 0 := by
    rcases flush_cases ftz hfin.1 with h | ⟨-, h⟩ <;> rw [h]
    rw [hs]
  obtain ⟨p, q, -, hd, -, -, hz⟩ := decode_flush_fin hf ftz hfin
  rw [hs, hz.mpr (by rw [hfl, f.signed_mod n f.signBit_pos])] at hd
  exact ⟨hfl, q, hd⟩

theorem Fmt.flush_infinity (ftz n : Bool) : f.decode (f.flush ftz (f.signed n f.infCode)) = .inf n := by
  have hlt := (infCode_eq (hasInf_of_wide hw)).2
  have hi : f.infAt (f.signed n f.infCode) = true := by
    rw [infAt_wide hw, Fmt.wInf, f.signed_mod n hlt, beq_self_eq_true]
  rw [(flush_inf ftz (f.signed_lt n hlt) hi).2, f.signBit_le_signed n hlt]

section table
variable (r : Rnd) (sat ftz : Bool) (d b : Nat) (n : Bool)

/-- The special functions of a zero. -/
theorem Fmt.special_zero : let un (fn : Special) := onFlushed (specialFloat fn) f r sat ftz d (f.signed n 0) b
    un .rcp = (f.wTop sat n, fDivZero) ∧ un .rsq = (f.wTop sat n, fDivZero) ∧ un .sqrt = (f.signed n 0, 0) ∧ un .exp2 = (f.bias * 2 ^ f.frac, 0) ∧
    un .log2 = (f.wTop sat true, fDivZero) ∧ un .sin = (f.signed n 0, 0) ∧ un .cos = (f.bias * 2 ^ f.frac, 0) ∧ un .tanh = (f.signed n 0, 0) ∧
    un .erf = (f.signed n 0, 0) ∧ un .sigm = ((f.bias - 1) * 2 ^ f.frac, 0) := by
  obtain ⟨hfl, q, hd⟩ := flush_zero hw ftz n
  obtain ⟨b1, -⟩ := bias_bounds hw
  have hexp := special_exp2 hw r sat ftz d b (f.signed_finite n (Nat.zero_le f.maxCode)) (k := 0)
    (by
      rw [← flush_src hw ftz (f.signed_lt n f.signBit_pos), hfl, f.value_signedQ n f.signBit_pos, f.mag_zero]
      cases n <;> simp) (by omega) (by omega)
  have hhalf : f.encode .rne sat ftz (.fin false 1 2) = ((f.bias - 1) * 2 ^ f.frac, 0) := by
    have := encode_pow hw .rne sat ftz (x := .fin false 1 2) (k := -1) ⟨1, 2, by norm_num, rfl, by norm_num⟩ (by omega) (by omega)
    rw [this]
    congr 2
    omega
  rw [zero_add, Int.toNat_natCast] at hexp
  unfold onFlushed at *
  refine ⟨?_, ?_, ?_, hexp, ?_, ?_, ?_, ?_, ?_, ?_⟩ <;> dsimp only
  · rw [specialFloat_rcp_zero hd, encode_inf hw]
  · rw [specialFloat_rsq_zero hd, encode_inf hw]
  · rw [specialFloat_sqrt_zero hd, hfl]
  · rw [specialFloat_log2_zero hd, encode_inf hw]
  · rw [specialFloat_sin_zero hd]
  · rw [specialFloat_cos_zero hd, encode_one hw]; rfl
  · rw [specialFloat_tanh_zero hd]
  · rw [specialFloat_erf_zero hd]
  · rw [specialFloat_sigm_zero hd, hhalf]

/-- The special functions of an infinity. -/
theorem Fmt.special_inf : let un (fn : Special) := onFlushed (specialFloat fn) f r sat ftz d (f.signed n f.infCode) b
    let one := f.bias * 2 ^ f.frac
    un .rcp = (f.signed n 0, 0) ∧ un .sin = f.noNumber ∧ un .cos = f.noNumber ∧ un .tanh = (f.signed n one, 0) ∧ un .erf = (f.signed n one, 0) ∧
    un .sigm = (if n then 0 else one, 0) ∧ un .exp2 = (if n then 0 else f.wTop sat false, 0) ∧ un .rsq = (if n then f.noNumber else (0, 0)) ∧
    un .sqrt = (if n then f.noNumber else (f.wTop sat false, 0)) ∧ un .log2 = (if n then f.noNumber else (f.wTop sat false, 0)) := by
  have hd := flush_infinity hw ftz n
  unfold onFlushed
  refine ⟨?_, ?_, ?_, ?_, ?_, ?_, ?_, ?_, ?_, ?_⟩ <;> dsimp only
  · rw [specialFloat_rcp_inf hd]
  · rw [specialFloat_sin_inf hd]
  · rw [specialFloat_cos_inf hd]
  · rw [specialFloat_tanh_inf hd, encode_one hw]
  · rw [specialFloat_erf_inf hd, encode_one hw]
  · rw [specialFloat_sigm_inf hd, encode_one hw]; cases n <;> rfl
  · rw [specialFloat_exp2_inf hd, encode_inf hw]; cases n <;> rfl
  · rw [specialFloat_rsq_inf hd]
  · rw [specialFloat_sqrt_inf hd, encode_inf hw]
  · rw [specialFloat_log2_inf hd, encode_inf hw]

/-- The logarithm of one is +0. -/
theorem Fmt.special_log2_one : onFlushed (specialFloat .log2) f r sat ftz d (f.bias * 2 ^ f.frac) b = (0, 0) := by
  have hf := plain_of_wide hw
  obtain ⟨b1, b2, -, -⟩ := bias_bounds hw
  have hp := Nat.two_pow_pos f.frac
  have hle : f.bias * 2 ^ f.frac ≤ f.maxCode := by
    have h2 : 2 * f.bias * 2 ^ f.frac = f.bias * 2 ^ f.frac + f.bias * 2 ^ f.frac := by ring
    have h3 : 1 * 2 ^ f.frac ≤ f.bias * 2 ^ f.frac := Nat.mul_le_mul_right _ (by omega)
    omega
  have hlt := hle.trans_lt f.maxCode_lt_signBit
  have hfin : f.finite (f.bias * 2 ^ f.frac) := f.signed_finite false hle
  have hsrc : f.src ftz (f.bias * 2 ^ f.frac) = f.bias * 2 ^ f.frac := by
    rw [Fmt.src, if_neg]
    rw [Nat.mod_eq_of_lt hlt, not_and, not_lt]
    exact fun _ => Nat.le_mul_of_pos_left _ (by omega)
  have hv : f.value (f.src ftz (f.bias * 2 ^ f.frac)) = 1 := by
    rw [hsrc, value_of_lt hlt]
    simpa using f.mag_pow (k := 0) (by omega)
  obtain ⟨p, q, j, hp, hq, -, -, hd, hv', -⟩ := special_operand hw ftz hfin (by rw [hv]; norm_num)
  have hn : f.wNeg (f.bias * 2 ^ f.frac) = false := decide_eq_false (not_le.mpr hlt)
  rw [hv, hn, signedQ_false] at hv'
  rw [onFlushed, specialFloat_log2_pow hd hp.ne' hn (powerOfTwo_eq hp hq (k := 0) (by rw [zpow_zero, hv']))]
  cases f with
  | q4 t => exact Bool.noConfusion hw
  | _ => rfl

end table

end wide

theorem floatFmt_wide (t : Nat) : (floatFmt t).wide = true := by
  unfold floatFmt
  split <;> rfl

theorem floatFmt_ne_f32 {t : Nat} (h : t = 8 ∨ t = 9) : floatFmt t ≠ .f32 := by
  rcases h with rfl | rfl <;> decide

theorem Fmt.value_pow {f : Fmt} (hw : f.wide = true) {k : ℤ} (h1 : 1 - (f.bias : ℤ) ≤ k) (h2 : k ≤ f.bias) :
    f.value ((k + f.bias).toNat * 2 ^ f.frac) = 2 ^ k := by
  obtain ⟨b1, b2, -, -⟩ := bias_bounds hw
  have hp := Nat.two_pow_pos f.frac
  have hle : (k + f.bias).toNat * 2 ^ f.frac ≤ 2 * f.bias * 2 ^ f.frac := Nat.mul_le_mul_right _ (by omega)
  have := f.maxCode_lt_signBit
  rw [value_of_lt (by omega), f.mag_pow h1]

/-- The relations of VFCMP, as the obligation writes them out. -/
theorem fcmpHolds_eq (c : FcmpCond) (x y : ℤ) : fcmpHolds c x y =
    match c with
    | .eq => x == y
    | .ne => x != y
    | .lt => decide (x < y)
    | .le => decide (x ≤ y)
    | .un => false := by
  cases c <;> rfl

theorem Fmt.special_exp2_value {f : Fmt} (hw : f.wide = true) (r : Rnd) (sat ftz : Bool) {a : Nat} (d b : Nat) (ha : f.finite a) {k : ℤ}
    (hk : f.value (f.src ftz a) = k) (h1 : 1 - (f.bias : ℤ) ≤ k) (h2 : k ≤ f.bias) :
    f.value (onFlushed (specialFloat .exp2) f r sat ftz d a b).1 = 2 ^ k ∧ (onFlushed (specialFloat .exp2) f r sat ftz d a b).2 = 0 := by
  rw [special_exp2 hw r sat ftz d b ha hk h1 h2]
  exact ⟨value_pow hw h1 h2, rfl⟩

theorem State.sets_of_floatOp {s : State} {t d a b : Nat} {ks : List Nat} {i : Instr} (o : FloatOp) (ha : s.acts t ks)
    (hm : touchesMemory i = false) (he : exec i s = floatOp i o d a b s) :
    s.sets t ks i fun _ r => (intLanes (floatElem o r.mode) d a b r).adv :=
  State.sets_of_regOp ha hm he fun _ _ => rfl

theorem State.sets_of_specialOp {s : State} {t d a : Nat} {ks : List Nat} {i : Instr} (fn : Special) (ha : s.acts t ks)
    (hm : touchesMemory i = false) (he : exec i s = specialOp i fn d a s) :
    s.sets t ks i fun _ r => (intLanes (floatElem (specialFloat fn) r.mode) d a a r).adv :=
  State.sets_of_regOp ha hm he fun _ _ => rfl

/-- What VFCMP makes of the registers, but for the program counter. -/
def fcmpRegs (c : FcmpCond) (p a b : Nat) (r : Regs) : Regs :=
  (r.mergeP p (testLanes fun j => (fcmpLane c r a b j).1)).raise (laneFlags r fun j => (fcmpLane c r a b j).2)

theorem State.sets_of_vfcmp {s : State} {t : Nat} {ks : List Nat} (c : FcmpCond) (p a b : Nat) (ha : s.acts t ks) :
    s.sets t ks (.vfcmp c p a b) fun _ r => (fcmpRegs c p a b r).adv :=
  State.sets_of_regOp (g := fcmpRegs c p a b) ha rfl rfl fun _ _ => rfl

/-- Settles O18. The forms set their registers lane by lane; on the codes of the three formats, which have infinities, a result of numbers is one rounding of the exact
value, and a result of zeros, infinities and NaNs is read off the cases of the operation. -/
theorem vectorFloatResults : Obligations.VectorFloatResults := by
  refine ⟨fun s t ks ha d a b p l c => ?_, fun m hm => ?_⟩
  · exact ⟨State.sets_of_floatOp addFloat ha rfl rfl, State.sets_of_floatOp subFloat ha rfl rfl, State.sets_of_floatOp mulFloat ha rfl rfl,
      State.sets_of_floatOp fmaFloat ha rfl rfl, State.sets_of_floatOp (pickFloat false) ha rfl rfl, State.sets_of_floatOp (pickFloat true) ha rfl rfl,
      State.sets_of_floatOp absFloat ha rfl rfl, State.sets_of_floatOp negFloat ha rfl rfl, State.sets_of_vfcmp c p a b ha,
      State.sets_of_specialOp .rcp ha rfl rfl, State.sets_of_specialOp .rsq ha rfl rfl, State.sets_of_specialOp .sqrt ha rfl rfl,
      State.sets_of_specialOp .exp2 ha rfl rfl, State.sets_of_specialOp .log2 ha rfl rfl, State.sets_of_specialOp .sin ha rfl rfl,
      State.sets_of_specialOp .cos ha rfl rfl, State.sets_of_specialOp .tanh ha rfl rfl, State.sets_of_specialOp .erf ha rfl rfl,
      State.sets_of_specialOp .sigm ha rfl rfl⟩
  · have hw := floatFmt_wide (modeType m)
    have hs : modeType m ≠ 10 → floatFmt (modeType m) ≠ .f32 := fun h => floatFmt_ne_f32 (by omega)
    refine ⟨fun d a b hd ha hb => Fmt.float_finite hw _ _ _ hd ha hb, fun d a b ha hb hd => ⟨?nan, ?nanD, ?pick, ?inf, ?abs, ?neg, ?cmp⟩,
      fun a ha h0 => ⟨fun hn => Fmt.special_sqrt hw _ _ _ 0 a ha h0 hn, fun hn => Fmt.special_negative hw _ _ _ 0 a ha h0 hn,
        fun h => Fmt.special_rcp hw _ _ _ 0 a ha h0 (hs h), fun h hn => Fmt.special_rsq hw _ _ _ 0 a ha h0 (hs h) hn,
        fun k hk h1 h2 => Fmt.special_exp2_value hw _ _ _ 0 a ha hk h1 h2, fun k hk => Fmt.special_log2 hw _ _ _ 0 a ha h0 hk⟩,
      fun fn a ha hn => Fmt.special_nan hw fn _ _ _ 0 a ha hn, fun n => ?table⟩
    case nan => exact fun h => Fmt.float_nan hw _ _ _ d ha hb h
    case nanD => exact fun h => Fmt.fma_nan hw _ _ _ a b hd h
    case pick => exact fun na nb => Fmt.float_pick hw _ _ _ d ha hb na nb
    case inf => exact fun hi hn => Fmt.float_inf hw _ _ _ hd ha hb hi hn
    case abs => exact (Fmt.float_sign hw _ _ _ d b ha).1
    case neg => exact (Fmt.float_sign hw _ _ _ d b ha).2
    case cmp =>
      intro c
      have := Fmt.float_compare hw (modeFtz m) ha hb c
      rw [fcmpHolds_eq] at this
      exact this
    case table =>
      obtain ⟨z1, z2, z3, z4, z5, z6, z7, z8, z9, z10⟩ := Fmt.special_zero hw (modeRnd m) (modeSat m) (modeFtz m) 0 ((floatFmt (modeType m)).signed n 0) n
      obtain ⟨i1, i2, i3, i4, i5, i6, i7, i8, i9, i10⟩ :=
        Fmt.special_inf hw (modeRnd m) (modeSat m) (modeFtz m) 0 ((floatFmt (modeType m)).signed n (floatFmt (modeType m)).infCode) n
      exact ⟨z1, z2, z3, z4, z5, z6, z7, z8, z9, z10, i1, i2, i3, i4, i5, i6, i7, i8, i9, i10, Fmt.special_log2_one hw _ _ _ 0 _⟩

end Sys2Proof.Machine
end

section
/-! SUPPORT. Conversion, quantisation and the pack group (R70, R72, R74, R76 to R80, R116 to R121) -/

namespace Sys2Proof.Machine

theorem elemType_bits (t : Nat) : (elemType t).bits = typeWidth t := by
  unfold elemType
  cases h : fmtOfCode t .int with
  | none => rfl
  | some f =>
    unfold fmtOfCode at h
    split at h <;> cases h <;> rfl

theorem typeWidth_mem (t : Nat) : typeWidth t ∈ [8, 16, 32, 64] := by
  unfold typeWidth
  split <;> decide

/-- How many elements of a type that is no 64-bit one a register holds. -/
theorem perReg_eq {t : Nat} (h : typeWidth t ≤ 32) : perReg t = 32 / typeWidth t ∧ (32 / typeWidth t = 1 ∨ 32 / typeWidth t = 2 ∨ 32 / typeWidth t = 4) := by
  have hm := typeWidth_mem t
  unfold perReg
  simp only [List.mem_cons, List.not_mem_nil, or_false] at hm
  rcases hm with hm | hm | hm | hm <;> rw [hm] at h ⊢ <;> simp at h ⊢

/-- The registers of both sides hold the same number of elements. -/
theorem cvtGroup_mul {e o : Nat} (he : e = 1 ∨ e = 2 ∨ e = 4) (ho : o = 1 ∨ o = 2 ∨ o = 4) : cvtGroup e o * e = max e o := by
  rcases he with rfl | rfl | rfl <;> rcases ho with rfl | rfl | rfl <;> rfl

/-- Lists of `m` in turn are one list, indexed by quotient and remainder. -/
theorem flatMap_range_range {α : Type} (g : Nat → Nat → α) {m : Nat} (hm : 0 < m) (n : Nat) :
    ((List.range n).flatMap fun k => (List.range m).map (g k)) = (List.range (n * m)).map fun j => g (j / m) (j % m) := by
  induction n with
  | zero => simp
  | succ n ih =>
    rw [List.range_succ, List.flatMap_append, ih, Nat.succ_mul, List.range_add, List.map_append, List.map_map]
    congr 1
    simp only [List.flatMap_cons, List.flatMap_nil, List.append_nil]
    refine List.map_congr_left fun i hi => ?_
    have hi := List.mem_range.mp hi
    rw [Function.comp_apply, Nat.mul_comm n m, Nat.mul_add_div hm, Nat.div_eq_of_lt hi, Nat.mul_add_mod, Nat.mod_eq_of_lt hi, Nat.add_zero]

/-- Element `j` of a group of registers of a lane. -/
def Regs.groupElem (r : Regs) (w first l j : Nat) : Nat := (r.getV (first + j / (32 / w)) l).toNat / 2 ^ (w * (j % (32 / w))) % 2 ^ w

theorem groupElements_eq (r : Regs) {w : Nat} (n first l : Nat) (h : w ≠ 64) (hw : 0 < 32 / w) :
    groupElements r w n first l = (List.range (n * (32 / w))).map (r.groupElem w first l) := by
  rw [groupElements, if_neg h, group, List.flatMap_map]
  exact flatMap_range_range (fun k j => (r.getV (first + k) l).toNat / 2 ^ (w * j) % 2 ^ w) hw n

/-- Registers of one lane set in a row. -/
theorem foldl_setV_getV (r : Regs) (d : Nat) {l : Nat} (hl : l < 4) (v : Nat → W32) (n : Nat) {x j : Nat} (hj : j < 4) :
    ((List.range n).foldl (fun q k => q.setV (d + k) l (v k)) r).getV x j = if j = l ∧ d ≤ x ∧ x < d + n then v (x - d) else r.getV x j := by
  induction n with
  | zero => simp
  | succ n ih =>
    rw [List.range_succ, List.foldl_append, List.foldl_cons, List.foldl_nil, Regs.getV_setV _ _ hl hj, ih]
    by_cases hx : x = d + n ∧ j = l
    · rw [if_pos hx, if_pos (by omega), hx.1, Nat.add_sub_cancel_left]
    · rw [if_neg hx]
      refine if_congr ?_ rfl rfl
      omega

/-- What putElements leaves in a lane: its own alone. -/
theorem putElements_getV_other (r : Regs) (w n d : Nat) {l x j : Nat} (xs : List Nat) (hl : l < 4) (hj : j < 4) (h : j ≠ l) :
    (putElements r w n d l xs).getV x j = r.getV x j := by
  unfold putElements
  split
  · rw [Regs.setPair, Regs.getV_setV _ _ hl hj, if_neg (fun hx => h hx.2), Regs.getV_setV _ _ hl hj, if_neg (fun hx => h hx.2)]
  · rw [foldl_setV_getV r d hl _ n hj, if_neg (fun hx => h hx.1)]

/-- An element that putElements put into its group. -/
theorem putElements_elem (r : Regs) {w n d l j : Nat} (xs : List Nat) (hl : l < 4) (hw : w ≠ 64) (hp : 0 < 32 / w) (hj : j < n * (32 / w)) :
    (putElements r w n d l xs).groupElem w d l j = xs.getD j 0 % 2 ^ w := by
  have hjd : j / (32 / w) < n := Nat.div_lt_of_lt_mul (by rwa [Nat.mul_comm])
  have hjm : j % (32 / w) < 32 / w := Nat.mod_lt _ hp
  have hlen : ((xs.drop (j / (32 / w) * (32 / w))).take (32 / w)).length ≤ 32 / w := List.length_take_le _ _
  have hlt : joinElements w ((xs.drop (j / (32 / w) * (32 / w))).take (32 / w)) < 2 ^ 32 :=
    (joinElements_lt _ _).trans_le (Nat.pow_le_pow_right (by decide) ((Nat.mul_le_mul_left _ hlen).trans (Nat.mul_div_le _ _)))
  have hget : ((xs.drop (j / (32 / w) * (32 / w))).take (32 / w)).getD (j % (32 / w)) 0 = xs.getD j 0 := by
    rw [List.getD_eq_getElem?_getD, List.getD_eq_getElem?_getD, List.getElem?_take_of_lt hjm, List.getElem?_drop, Nat.div_add_mod']
  unfold Regs.groupElem putElements
  rw [if_neg hw, foldl_setV_getV r d hl _ n hl, if_pos ⟨rfl, Nat.le_add_right _ _, Nat.add_lt_add_left hjd _⟩, Nat.add_sub_cancel_left,
    BitVec.toNat_ofNat, Nat.mod_eq_of_lt hlt, joinElements_get, hget]

theorem Regs.getPair_setPair (r : Regs) {d l : Nat} (hl : l < 4) (v : W64) : (r.setPair d l v).getPair d l = v := by
  rw [Regs.getPair, Regs.setPair, Regs.getV_setV _ _ hl hl, if_pos ⟨rfl, rfl⟩, Regs.getV_setV _ _ hl hl, if_neg (by omega), Regs.getV_setV _ _ hl hl,
    if_pos ⟨rfl, rfl⟩, append_high_low]

/-- What VCVT puts into one lane. -/
def cvtLane (d a st dt : Nat) (r q : Regs) (l : Nat) : Regs :=
  putElements q (elemType dt).bits (cvtGroup (perReg dt) (perReg st)) d l
    (((groupElements r (elemType st).bits (cvtGroup (perReg st) (perReg dt)) a l).map (cvtElem (elemType st) (elemType dt) r.mode)).map (·.1))

/-- A part of one active lane of what VCVT leaves is what that lane's turn makes of it. -/
theorem cvtLanes_makes {α : Type} (P : Regs → α) {d a st dt : Nat} {r : Regs} {l : Nat} {v : α} (hl : l < 4) (hact : r.active.getLsbD l = true)
    (hP : ∀ q q' : Regs, (∀ x, q.getV x l = q'.getV x l) → P q = P q') (hv : ∀ q, P (cvtLane d a st dt r q l) = v) :
    P (cvtLanes d a st dt r) = v := by
  refine eachLane_makes P r (nodup_laneList _) (mem_laneList.2 ⟨hl, hact⟩) (fun q => ?_) fun q k hk hne => ?_
  · exact (hP ((cvtLane d a st dt r q l).raise (unionFlags _)) (cvtLane d a st dt r q l) fun _ => rfl).trans (hv q)
  · exact hP _ _ fun x => putElements_getV_other q _ _ _ _ (lt_of_mem_laneList hk) hl hne.symm

/-- lastFit answers the last of a list of magnitudes that is no larger than the value, or the given number where none is. -/
theorem lastFit_spec (num den : Nat) (vs : List Nat) (i best : Nat) :
    (lastFit num den vs i best = best ∧ ∀ k v : Nat, vs[k]? = some v → ¬ v * den ≤ num * 8) ∨
    ∃ k v : Nat, lastFit num den vs i best = i + k ∧ vs[k]? = some v ∧ v * den ≤ num * 8 ∧ ∀ j w : Nat, k < j → vs[j]? = some w → ¬ w * den ≤ num * 8 := by
  induction vs generalizing i best with
  | nil => exact .inl ⟨rfl, fun k v h => by simp at h⟩
  | cons v vs ih =>
    rw [lastFit]
    rcases ih (i + 1) (if v * den ≤ num * 8 then i else best) with ⟨h1, h2⟩ | ⟨k, w, h1, h2, h3, h4⟩
    · rw [h1]
      split
      · refine .inr ⟨0, v, rfl, rfl, ‹_›, fun j w hj hw => ?_⟩
        obtain ⟨j, rfl⟩ := Nat.exists_eq_add_of_lt hj
        exact h2 _ w (by simpa using hw)
      · refine .inl ⟨rfl, fun k w hw => ?_⟩
        cases k with
        | zero =>
          obtain rfl : v = w := by simpa using hw
          assumption
        | succ k => exact h2 k w (by simpa using hw)
    · refine .inr ⟨k + 1, w, by rw [h1]; omega, by simpa using h2, h3, fun j w hj hw => ?_⟩
      obtain ⟨j, rfl⟩ := Nat.exists_eq_add_of_lt (show 0 < j by omega)
      exact h4 _ w (show k < 0 + j by omega) (by simpa using hw)

/-- The magnitudes of a sign-magnitude type, in eighths. -/
def Q4.eighth (t : Q4) (m : Nat) : Nat := t.eighths.getD m 0

theorem Q4.eighth_zero (t : Q4) : t.eighth 0 = 0 := by cases t <;> rfl

theorem Q4.eighth_lt (t : Q4) {m : Nat} (h : m < 7) : t.eighth m < t.eighth (m + 1) := by
  cases t <;> interval_cases m <;> decide

theorem Q4.eighth_mono (t : Q4) {m n : Nat} (hn : n < 8) (h : m ≤ n) : t.eighth m ≤ t.eighth n := by
  induction n with
  | zero => rw [Nat.le_zero.mp h]
  | succ n ih =>
    rcases h.lt_or_eq with h | rfl
    · exact (ih (by omega) (by omega)).trans (t.eighth_lt (by omega)).le
    · exact le_rfl

theorem Q4.eighths_get (t : Q4) {m : Nat} (h : m < 8) : t.eighths[m]? = some (t.eighth m) := by
  cases t <;> interval_cases m <;> rfl

theorem Q4.eighths_length (t : Q4) : t.eighths.length = 8 := by cases t <;> rfl

/-- The largest magnitude of a type that is at most a value. -/
theorem Q4.lastFit_eighths (t : Q4) (num den : Nat) : lastFit num den t.eighths 0 0 < 8 ∧
    t.eighth (lastFit num den t.eighths 0 0) * den ≤ num * 8 ∧
    (lastFit num den t.eighths 0 0 < 7 → num * 8 < t.eighth (lastFit num den t.eighths 0 0 + 1) * den) := by
  rcases lastFit_spec num den t.eighths 0 0 with ⟨-, h⟩ | ⟨k, v, h1, h2, h3, h4⟩
  · exact absurd (by rw [t.eighth_zero, Nat.zero_mul]; exact Nat.zero_le _) (h 0 _ (t.eighths_get (by decide)))
  · rw [h1, Nat.zero_add]
    have hk : k < 8 := by
      rw [← t.eighths_length]
      exact (List.getElem?_eq_some_iff.mp h2).1
    rw [t.eighths_get hk] at h2
    obtain rfl := Option.some.inj h2
    exact ⟨hk, h3, fun hk7 => not_le.mp (h4 (k + 1) _ (Nat.lt_succ_self k) (t.eighths_get (by omega)))⟩

/-- The value of a code of a sign-magnitude type. -/
theorem q4Value_eq {t : Q4} (ht : t ≠ .int) {c : Nat} (hc : c < 16) : q4Value t c = signedQ (decide (8 ≤ c)) ((t.eighth (c % 8) : ℚ) / 8) := by
  cases t with
  | int => exact absurd rfl ht
  | _ => interval_cases c <;> simp [q4Value, signedQ, Q4.eighth, Q4.eighths] <;> norm_num

theorem q4Value_int {c : Nat} (hc : c < 16) : q4Value .int c = if c < 8 then (c : ℚ) else c - 16 := by
  interval_cases c <;> simp [q4Value] <;> norm_num

/-- A code whose value is the very value to be rounded. -/
theorem Q4.nearest_of_eq {t : Q4} {r : Rnd} {z : ℚ} {c : Nat} (hc : c < 16) (h8 : t ≠ .int → c ≠ 8) (h : q4Value t c = z) : t.nearest r z c := by
  refine ⟨hc, h8, ?_⟩
  cases r with
  | rne =>
    refine fun u _ => ⟨by rw [h, sub_self, abs_zero]; exact abs_nonneg _, fun he hne => absurd ?_ hne⟩
    rw [h, sub_self, abs_zero, eq_comm, abs_eq_zero, sub_eq_zero] at he
    rw [he, h]
  | rz => exact ⟨by rw [h], by rw [h]; exact mul_self_nonneg z, fun u _ _ hu => by rw [h]; exact hu⟩
  | rdn => exact ⟨h.le, fun u _ hu => by rw [h]; exact hu⟩
  | rup => exact ⟨h.ge, fun u _ hu => by rw [h]; exact hu⟩

/-- Of the two values of a type around a magnitude, the one that a mode takes. -/
theorem Q4.nearest_of_picks {t : Q4} {r : Rnd} {neg : Bool} {lo x hi : ℚ} {k n c : Nat} (hc : c < 16) (h8 : t ≠ .int → c ≠ 8) (h0 : 0 ≤ lo) (h1 : lo ≤ x)
    (hx : 0 < x) (h2 : x < hi) (hp : r.picks neg lo x hi (k % 2 = 1) k n) (hv : q4Value t c = signedQ neg (if n = k then lo else hi)) (hpar : c % 2 = n % 2)
    (hgap : ∀ u < 16, signedQ neg (q4Value t u) ≤ lo ∨ hi ≤ signedQ neg (q4Value t u)) : t.nearest r (signedQ neg x) c := by
  have hmir : ∀ u, q4Value t u = signedQ neg (signedQ neg (q4Value t u)) := fun u => (signedQ_signedQ _ _).symm
  have hup : ¬ lo ≠ x → n = k + 1 → r ≠ .rne → False := fun h hn hr => by
    rw [not_not] at h
    subst h
    rcases hp with ⟨hg, -⟩ | ⟨-, rfl⟩
    · exact r.not_goesUp_self neg _ h2 hg
    · omega
  refine ⟨hc, h8, ?_⟩
  have hdown : ∀ w, (w ≤ lo ∨ hi ≤ w) → w ≤ x → w ≤ lo := fun w hg hw => hg.resolve_right fun h => absurd (h2.trans_le (h.trans hw)) (lt_irrefl x)
  have hleast : (lo ≠ x ∧ n = k + 1) ∨ (¬ lo ≠ x ∧ n = k) →
      x ≤ (if n = k then lo else hi) ∧ ∀ w, (w ≤ lo ∨ hi ≤ w) → x ≤ w → (if n = k then lo else hi) ≤ w := by
    rintro (⟨hne, rfl⟩ | ⟨h, rfl⟩)
    · rw [if_neg (by omega)]
      exact ⟨h2.le, fun w hg hw => hg.resolve_left fun h => hne (le_antisymm h1 (hw.trans h))⟩
    · rw [if_pos rfl, not_not.mp h]
      exact ⟨le_rfl, fun w _ hw => hw⟩
  cases r with
  | rne =>
    intro u hu
    have hu' := hgap u hu
    rw [hmir u]
    generalize signedQ neg (q4Value t u) = w at hu'
    have := Rnd.rne_nearest h1 h2 hp (v := if n = k then lo else hi) rfl hu'
    rw [hv, abs_signedQ_sub, abs_signedQ_sub, hpar]
    exact ⟨this.1, fun he hne => this.2 he fun h => hne (h ▸ rfl)⟩
  | rz =>
    obtain rfl : n = k := by simpa [Rnd.picks, Rnd.goesUp] using hp
    rw [if_pos rfl] at hv
    show |_| ≤ |_| ∧ _ ∧ ∀ u, _ → _ → _ → _
    have hprod : ∀ a b : ℚ, signedQ neg a * signedQ neg b = a * b := fun a b => by cases neg <;> simp
    rw [hv, abs_signedQ _ h0, abs_signedQ _ hx.le, hprod]
    refine ⟨h1, mul_nonneg h0 hx.le, fun u hu hs hle => ?_⟩
    have hu' := hgap u hu
    rw [hmir u] at hs hle ⊢
    generalize signedQ neg (q4Value t u) = w at hu' hs hle
    rw [hprod] at hs
    have hw : 0 ≤ w := nonneg_of_mul_nonneg_left hs hx
    rw [abs_signedQ _ hw] at hle ⊢
    exact hdown w hu' hle
  | rdn =>
    show _ ≤ _ ∧ ∀ u, _ → _ → _
    cases neg with
    | false =>
      obtain rfl : n = k := by simpa [Rnd.picks, Rnd.goesUp] using hp
      rw [if_pos rfl] at hv
      rw [hv]
      exact ⟨h1, fun u hu hle => hdown _ (hgap u hu) hle⟩
    | true =>
      obtain ⟨hxc, hl⟩ := hleast (by simpa only [Rnd.picks, Rnd.goesUp, true_and] using hp)
      rw [hv]
      refine ⟨neg_le_neg hxc, fun u hu hle => ?_⟩
      have hu' := hgap u hu
      rw [hmir u] at hle ⊢
      exact neg_le_neg (hl _ hu' (neg_le_neg_iff.mp hle))
  | rup =>
    show _ ≤ _ ∧ ∀ u, _ → _ → _
    cases neg with
    | true =>
      obtain rfl : n = k := by simpa [Rnd.picks, Rnd.goesUp] using hp
      rw [if_pos rfl] at hv
      rw [hv]
      refine ⟨neg_le_neg h1, fun u hu hle => ?_⟩
      have hu' := hgap u hu
      rw [hmir u] at hle ⊢
      exact neg_le_neg (hdown _ hu' (neg_le_neg_iff.mp hle))
    | false =>
      obtain ⟨hxc, hl⟩ := hleast (by simpa only [Rnd.picks, Rnd.goesUp, true_and] using hp)
      rw [hv]
      exact ⟨hxc, fun u hu hle => hl _ (hgap u hu) hle⟩

/-- The end of a type's range, in eighths, as the code that stands for it. -/
theorem Q4.bound_eq {t : Q4} (ht : t ≠ .int) (neg : Bool) : (t.bound neg).1 = t.eighth 7 ∧ (t.bound neg).2 = if neg then 15 else 7 := by
  cases t with
  | int => exact absurd rfl ht
  | _ => cases neg <;> exact ⟨rfl, rfl⟩

theorem Q4.round_nearest_int (r : Rnd) (neg : Bool) {num den : Nat} (hn : 0 < num) (hd : 0 < den) (hb : num * 8 ≤ (Q4.int.bound neg).1 * den) :
    Q4.int.nearest r (signedQ neg (num / den)) (Q4.int.round r neg num den).1 := by
  have hp := roundNat_picks r neg num hd
  obtain ⟨h1, h2⟩ := natFloor_bounds num hd
  have hx : (0 : ℚ) < num / den := by positivity
  have hle : num ≤ (if neg then 8 else 7) * den := by cases neg <;> simp [Q4.bound] at hb ⊢ <;> omega
  have hk : num / den ≤ if neg then 8 else 7 := Nat.div_le_of_le_mul (by rwa [Nat.mul_comm])
  have hnb : roundNat r neg num den ≤ if neg then 8 else 7 := by
    rcases hp with ⟨hg, h⟩ | ⟨-, h⟩
    · rcases hk.lt_or_eq with hk | hk
      · omega
      · have he : ((num / den : Nat) : ℚ) = num / den := by
          refine le_antisymm h1 ?_
          rw [hk, div_le_iff₀ (by exact_mod_cast hd)]
          exact_mod_cast hle
        rw [← he] at hg
        exact absurd hg (r.not_goesUp_self neg _ (by linarith))
    · omega
  have hround : (Q4.int.round r neg num den).1 = if neg then (16 - roundNat r neg num den) % 16 else roundNat r neg num den := rfl
  rw [hround]
  have hval : (roundNat r neg num den : ℚ) = if roundNat r neg num den = num / den then ((num / den : Nat) : ℚ) else (num / den : Nat) + 1 := by
    rcases hp with ⟨-, h⟩ | ⟨-, h⟩ <;> rw [h]
    · rw [if_neg (by omega)]; push_cast; rfl
    · rw [if_pos rfl]
  generalize roundNat r neg num den = n at *
  have hc : (if neg then (16 - n) % 16 else n) < 16 := by cases neg <;> simp at hnb ⊢ <;> omega
  have hint : ∀ u < 16, ∃ i : ℤ, signedQ neg (q4Value .int u) = i := by
    intro u hu
    rw [q4Value_int hu]
    cases neg <;> split
    · exact ⟨u, by simp⟩
    · exact ⟨u - 16, by simp⟩
    · exact ⟨-u, by simp⟩
    · exact ⟨16 - u, by simp⟩
  refine Q4.nearest_of_picks hc (fun h => absurd rfl h) (Nat.cast_nonneg _) h1 hx h2 hp ?_ ?_ fun u hu => ?_
  · rw [q4Value_int hc, ← hval]
    cases neg with
    | false =>
      simp only [Bool.false_eq_true, if_false] at hnb ⊢
      rw [if_pos (by omega)]
      rfl
    | true =>
      simp only [if_true] at hnb ⊢
      rcases Nat.eq_zero_or_pos n with rfl | hpos
      · simp
      · rw [Nat.mod_eq_of_lt (by omega), if_neg (by omega), Nat.cast_sub (by omega), signedQ_true]
        push_cast
        ring
  · cases neg <;> simp at hnb ⊢ <;> omega
  · obtain ⟨i, hi⟩ := hint u hu
    rw [hi]
    rcases le_or_gt i (num / den : Nat) with h | h
    · have := Int.cast_le (R := ℚ) |>.mpr h
      rw [Int.cast_natCast] at this
      exact .inl this
    · have := Int.cast_le (R := ℚ) |>.mpr (Int.add_one_le_of_lt h)
      rw [Int.cast_add, Int.cast_natCast, Int.cast_one] at this
      exact .inr this

/-- The code of a sign-magnitude type with a magnitude's number and a sign. -/
def q4Code (neg : Bool) (m : Nat) : Nat := if m = 0 then 0 else if neg then m + 8 else m

theorem q4Code_spec {t : Q4} (ht : t ≠ .int) (neg : Bool) {m : Nat} (h : m < 8) :
    q4Code neg m < 16 ∧ q4Code neg m ≠ 8 ∧ q4Code neg m % 2 = m % 2 ∧ q4Value t (q4Code neg m) = signedQ neg ((t.eighth m : ℚ) / 8) := by
  have hc : q4Code neg m < 16 ∧ q4Code neg m ≠ 8 ∧ q4Code neg m % 2 = m % 2 ∧ q4Code neg m % 8 = m ∧ (m ≠ 0 → (8 ≤ q4Code neg m ↔ neg = true)) := by
    unfold q4Code
    cases neg <;> split <;> simp <;> omega
  obtain ⟨h1, h2, h3, h4, h5⟩ := hc
  refine ⟨h1, h2, h3, ?_⟩
  rw [q4Value_eq ht h1, h4]
  rcases eq_or_ne m 0 with rfl | h0
  · rw [t.eighth_zero]
    cases neg <;> simp [signedQ]
  · rw [show decide (8 ≤ q4Code neg m) = neg by rw [Bool.eq_iff_iff, decide_eq_true_eq]; exact h5 h0]

/-- Whether a sign-magnitude type's rounding goes from the magnitude `m` to the next. -/
def Q4.goes (t : Q4) (r : Rnd) (neg : Bool) (num den m : Nat) : Bool :=
  if t.eighth m * den == num * 8 then false else
    match r with
    | .rne => decide (16 * num > (t.eighth m + t.eighths.getD (m + 1) (t.eighth m)) * den) ||
        (decide (16 * num = (t.eighth m + t.eighths.getD (m + 1) (t.eighth m)) * den) && m % 2 == 1)
    | .rz => false
    | .rdn => neg
    | .rup => !neg

theorem Q4.round_eq {t : Q4} (ht : t ≠ .int) (r : Rnd) (neg : Bool) (num den : Nat) : (t.round r neg num den).1 =
    q4Code neg (if t.goes r neg num den (lastFit num den t.eighths 0 0) then lastFit num den t.eighths 0 0 + 1 else lastFit num den t.eighths 0 0) := by
  cases t with
  | int => exact absurd rfl ht
  | _ => cases r <;> rfl

theorem Q4.goes_iff (t : Q4) (r : Rnd) (neg : Bool) {num den m : Nat} (hd : 0 < den) (hm : m < 7) (he : t.eighth m * den ≠ num * 8) :
    t.goes r neg num den m = true ↔ r.goesUp neg ((t.eighth m : ℚ) / 8) (num / den) ((t.eighth (m + 1) : ℚ) / 8) (m % 2 = 1) := by
  have hd' : (0 : ℚ) < den := by exact_mod_cast hd
  have hnext : t.eighths.getD (m + 1) (t.eighth m) = t.eighth (m + 1) := by
    rw [List.getD_eq_getElem?_getD, t.eighths_get (by omega)]
    rfl
  have hne : (t.eighth m : ℚ) / 8 ≠ num / den := by
    rw [Ne, div_eq_div_iff (by norm_num) hd'.ne']
    exact_mod_cast he
  have hsum : (t.eighth m : ℚ) / 8 + t.eighth (m + 1) / 8 = ((t.eighth m + t.eighth (m + 1) : ℕ) : ℚ) / 8 := by push_cast; ring
  have htwo : 2 * ((num : ℚ) / den) = (2 * num : ℕ) / den := by push_cast; ring
  have hlt : (t.eighth m : ℚ) / 8 + t.eighth (m + 1) / 8 < 2 * (num / den) ↔ (t.eighth m + t.eighth (m + 1)) * den < 16 * num := by
    rw [hsum, htwo, div_lt_div_iff₀ (by norm_num) hd', show 16 * num = 2 * num * 8 by ring]
    exact_mod_cast Iff.rfl
  have heq : (t.eighth m : ℚ) / 8 + t.eighth (m + 1) / 8 = 2 * (num / den) ↔ 16 * num = (t.eighth m + t.eighth (m + 1)) * den := by
    rw [hsum, htwo, div_eq_div_iff (by norm_num) hd'.ne', show 16 * num = 2 * num * 8 by ring, eq_comm]
    exact_mod_cast Iff.rfl
  unfold Q4.goes
  rw [if_neg (by simpa using he), hnext]
  cases r with
  | rne => simp only [Rnd.goesUp, hlt, heq, Bool.or_eq_true, Bool.and_eq_true, decide_eq_true_eq, beq_iff_eq, gt_iff_lt]
  | rz => simp [Rnd.goesUp]
  | rdn => simp [Rnd.goesUp, hne]
  | rup => simp [Rnd.goesUp, hne]

theorem Q4.round_nearest_eighths {t : Q4} (ht : t ≠ .int) (r : Rnd) (neg : Bool) {num den : Nat} (hn : 0 < num) (hd : 0 < den)
    (hb : num * 8 ≤ (t.bound neg).1 * den) : t.nearest r (signedQ neg (num / den)) (t.round r neg num den).1 := by
  have hd' : (0 : ℚ) < den := by exact_mod_cast hd
  have hx : (0 : ℚ) < num / den := by positivity
  obtain ⟨hm, h1, h2⟩ := t.lastFit_eighths num den
  rw [(bound_eq ht neg).1] at hb
  rw [Q4.round_eq ht]
  generalize lastFit num den t.eighths 0 0 = m at *
  have hlo : (t.eighth m / 8 : ℚ) = num / den ↔ t.eighth m * den = num * 8 := by
    rw [div_eq_div_iff (by norm_num) hd'.ne']
    exact_mod_cast Iff.rfl
  by_cases he : t.eighth m * den = num * 8
  · obtain ⟨c1, c2, -, c4⟩ := q4Code_spec ht neg hm
    rw [show t.goes r neg num den m = false from if_pos (beq_iff_eq.mpr he)]
    exact Q4.nearest_of_eq c1 (fun _ => c2) (by rw [← hlo.mpr he]; exact c4)
  · have hm7 : m < 7 := by
      by_contra h
      obtain rfl : m = 7 := by omega
      exact he (le_antisymm h1 hb)
    have hup := t.goes_iff r neg hd hm7 he
    generalize t.goes r neg num den m = up at *
    obtain ⟨c1, c2, c3, c4⟩ := q4Code_spec ht neg (m := if up then m + 1 else m) (by split <;> omega)
    have q1 : (t.eighth m / 8 : ℚ) ≤ num / den := by
      rw [div_le_div_iff₀ (by norm_num) hd']
      exact_mod_cast h1
    have q2 : (num / den : ℚ) < t.eighth (m + 1) / 8 := by
      rw [div_lt_div_iff₀ hd' (by norm_num)]
      exact_mod_cast h2 hm7
    refine Q4.nearest_of_picks (lo := t.eighth m / 8) (hi := t.eighth (m + 1) / 8) (k := m) (n := if up then m + 1 else m) c1 (fun _ => c2)
      (by positivity) q1 hx q2 ?_ ?_ c3 fun u hu => ?_
    · cases up with
      | true => exact .inl ⟨hup.mp rfl, rfl⟩
      | false => exact .inr ⟨fun h => Bool.noConfusion (hup.mpr h), rfl⟩
    · rw [c4]
      cases up <;> simp
    · rw [q4Value_eq ht hu]
      have hj : u % 8 < 8 := Nat.mod_lt _ (by decide)
      have hpos : ∀ n, (0 : ℚ) ≤ (t.eighth n : ℚ) / 8 := fun n => by positivity
      have hcmp : (t.eighth (u % 8) : ℚ) / 8 ≤ t.eighth m / 8 ∨ (t.eighth (m + 1) : ℚ) / 8 ≤ t.eighth (u % 8) / 8 := by
        rw [div_le_div_iff_of_pos_right (by norm_num), div_le_div_iff_of_pos_right (by norm_num)]
        rcases Nat.lt_or_ge m (u % 8) with h | h
        · exact .inr (by exact_mod_cast t.eighth_mono hj h)
        · exact .inl (by exact_mod_cast t.eighth_mono hm h)
      have hp1 := hpos (u % 8)
      have hp2 := hpos m
      cases decide (8 ≤ u) <;> cases neg <;> simp only [signedQ_true, signedQ_false, neg_neg]
      · exact hcmp
      · exact .inl (by linarith)
      · exact .inl (by linarith)
      · exact hcmp

/-- A nonzero value within a type's range is rounded as its mode says. -/
theorem Q4.round_nearest (t : Q4) (r : Rnd) (neg : Bool) {num den : Nat} (hn : 0 < num) (hd : 0 < den) (hb : num * 8 ≤ (t.bound neg).1 * den) :
    t.nearest r (signedQ neg (num / den)) (t.round r neg num den).1 := by
  by_cases ht : t = .int
  · subst ht
    exact Q4.round_nearest_int r neg hn hd hb
  · exact Q4.round_nearest_eighths ht r neg hn hd hb

theorem Fmt.nanCode_lt (f : Fmt) : f.nanCode < 2 ^ f.width := by
  cases f with
  | q4 t => exact Nat.two_pow_pos 4
  | _ => decide

theorem Fmt.encode_inf_plain {f : Fmt} (hf : f.plain) (r : Rnd) (sat ftz n : Bool) : f.encode r sat ftz (.inf n) =
    if f.narrow then (f.signed n f.maxCode, 0)
    else if f.hasInf then (f.signed n (if sat then f.maxCode else f.infCode), 0)
    else if sat then (f.signed n f.maxCode, fOverflow) else (f.nanCode, fInvalid) := by
  cases f with
  | q4 t => exact absurd rfl (hf t)
  | _ => cases sat <;> rfl

theorem Fmt.encode_nan_plain (f : Fmt) (r : Rnd) (sat ftz i : Bool) : f.encode r sat ftz (.nan i) =
    if f.narrow then (0, fInvalid) else (f.nanCode, flagIf i fInvalid) := by
  rw [Fmt.encode]
  split
  · rename_i h
    rw [h, Bool.or_true, flagIf, if_pos rfl]
    cases f with
    | q4 t => rfl
    | e2m3 => rfl
    | e3m2 => rfl
    | _ => exact Bool.noConfusion h
  · rename_i h
    rw [Bool.not_eq_true] at h
    rw [h, Bool.or_false]

/-- An exact value that is finite has a denominator above 0. -/
def Ex.proper : Ex → Prop
  | .nan _ | .inf _ => True
  | .fin _ _ q => 0 < q

theorem Ex.Is.proper {x : Ex} {n : Bool} {z : ℚ} (h : x.Is n z) : x.proper := by
  obtain ⟨p, q, hq, rfl, -⟩ := h
  exact hq

/-- A code that encode_value gives fits its format. -/
theorem Fmt.encode_lt (f : Fmt) (r : Rnd) (sat ftz : Bool) {x : Ex} (hx : x.proper) : (f.encode r sat ftz x).1 < 2 ^ f.width := by
  by_cases hf : f.plain
  · have hs : ∀ n a, a < f.signBit → f.signed n a < 2 ^ f.width := fun n a h => f.signed_lt n h
    cases x with
    | nan i =>
      rw [encode_nan_plain]
      split
      · exact Nat.two_pow_pos _
      · exact f.nanCode_lt
    | inf n =>
      rw [encode_inf_plain hf]
      split
      · exact hs _ _ f.maxCode_lt_signBit
      split
      · refine hs _ _ ?_
        split
        · exact f.maxCode_lt_signBit
        · exact (infCode_eq ‹_›).2
      split
      · exact hs _ _ f.maxCode_lt_signBit
      · exact f.nanCode_lt
    | fin n p q =>
      rcases Nat.eq_zero_or_pos p with rfl | hp
      · have : f.encode r sat ftz (.fin n 0 q) = (f.signed n 0, 0) := by
          cases f with
          | q4 t => exact absurd rfl (hf t)
          | _ => rfl
        rw [this]
        exact hs _ _ f.signBit_pos
      · have he : f.encode r sat ftz (.fin n p q) = f.encodeFin r sat ftz n p q := if_neg (by omega)
        rw [he]
        rcases encodeFin_cases hf r sat ftz n hp hx with ⟨-, h⟩ | ⟨-, k, c, hc, -, -, -, h⟩ <;> rw [h]
        · dsimp only
          split
          · exact hs _ _ f.maxCode_lt_signBit
          split
          · refine hs _ _ ?_
            split
            · exact (infCode_eq ‹_›).2
            · exact f.maxCode_lt_signBit
          · exact f.nanCode_lt
        · split
          · exact hs _ _ f.signBit_pos
          · exact hs _ _ (hc.trans_lt f.maxCode_lt_signBit)
  · obtain ⟨t, rfl⟩ : ∃ t, f = .q4 t := by simpa [Fmt.plain] using hf
    have hb : ∀ n, (t.bound n).2 < 16 := fun n => by cases t <;> cases n <;> decide
    cases x with
    | nan i => exact (by decide : 0 < 2 ^ 4)
    | inf n => exact hb n
    | fin n p q =>
      rcases Nat.eq_zero_or_pos p with rfl | hp
      · exact (by decide : 0 < 2 ^ 4)
      · have he : (Fmt.q4 t).encode r sat ftz (.fin n p q) = (Fmt.q4 t).encodeFin r sat ftz n p q := if_neg (by omega)
        rw [he, Fmt.encodeFin]
        split
        · exact hb n
        · rename_i h
          exact (t.round_nearest r n hp hx (not_lt.mp h)).1

theorem toNat_emod_lt (z : ℤ) (w : Nat) : (z % (2 ^ w : ℤ)).toNat < 2 ^ w := by
  have h := Int.emod_lt_of_pos z (show (0 : ℤ) < 2 ^ w by positivity)
  have := toNat_emod_pow z w
  zify
  rw [this]
  exact h

theorem intOfEx_lt (w : Nat) (sg : Bool) (r : Rnd) (x : Ex) : (intOfEx w sg r x).1 < 2 ^ w := by
  cases x with
  | nan i => exact Nat.two_pow_pos _
  | inf n => exact toNat_emod_lt _ _
  | fin n p q =>
    have h := fun z => toNat_emod_lt z w
    unfold intOfEx
    dsimp only
    generalize (if n = true then -(roundNat r n p q : ℤ) else roundNat r n p q) = k
    split_ifs <;> exact h _

theorem Fmt.decode_proper (f : Fmt) (c : Nat) : (f.decode c).proper := by
  by_cases hf : f.plain
  · have hs : ∀ (n : Bool) (p : Nat) (e : ℤ), (scale2 n p 1 e).proper := fun n p e => (scale2_is n p one_pos e).proper
    rw [decode_plain hf]
    split
    · trivial
    split
    · trivial
    split
    · trivial
    split
    · exact hs _ _ _
    · exact hs _ _ _
  · obtain ⟨t, rfl⟩ : ∃ t, f = .q4 t := by simpa [Fmt.plain] using hf
    cases t with
    | int =>
      show Ex.proper (if decide (c % 16 ≥ 8) then _ else _)
      split <;> exact Nat.one_pos
    | _ => exact (by decide : 0 < 8)

theorem ElemType.width_le_bits (f : Fmt) : f.width ≤ (ElemType.float f).bits := by
  unfold ElemType.bits
  dsimp only
  split
  · assumption
  · exact le_rfl

/-- What VCVT makes of an element fits the destination's elements. -/
theorem cvtElem_lt (u v : ElemType) (m : BitVec 16) (x : Nat) : (cvtElem u v m x).1 < 2 ^ v.bits := by
  have hw : ∀ g : Fmt, 2 ^ g.width ≤ 2 ^ (ElemType.float g).bits := fun g => Nat.pow_le_pow_right (by decide) (ElemType.width_le_bits g)
  cases u with
  | int ws sg =>
    cases v with
    | int w sd => exact intResult_lt _ _ _ _
    | float g => exact (g.encode_lt _ _ _ (x := Ex.ofInt _) Nat.one_pos).trans_le (hw g)
  | float f =>
    cases v with
    | int w sd => exact intOfEx_lt _ _ _ _
    | float g => exact (g.encode_lt _ _ _ (f.decode_proper _)).trans_le (hw g)

/-! ### Places -/

/-- Element `j` of the destination group is what VCVT makes of element `j` of the source group. -/
theorem cvtLanes_elem (r : Regs) (d a st dt : Nat) (hu : (elemType st).bits ≤ 32) (hv : (elemType dt).bits ≤ 32) {l : Nat} (hl : l < 4)
    (hact : r.active.getLsbD l = true) {j : Nat} (hj : j < max (32 / (elemType st).bits) (32 / (elemType dt).bits)) :
    (cvtLanes d a st dt r).groupElem (elemType dt).bits d l j = (cvtElem (elemType st) (elemType dt) r.mode (r.groupElem (elemType st).bits a l j)).1 := by
  have hlt := cvtElem_lt (elemType st) (elemType dt) r.mode (r.groupElem (elemType st).bits a l j)
  obtain ⟨pu, cu⟩ := perReg_eq (t := st) (by rwa [elemType_bits] at hu)
  obtain ⟨pv, cv⟩ := perReg_eq (t := dt) (by rwa [elemType_bits] at hv)
  rw [← elemType_bits] at pu cu pv cv
  refine cvtLanes_makes (fun q => q.groupElem (elemType dt).bits d l j) hl hact (fun q q' h => by simp only [Regs.groupElem, h]) fun q => ?_
  rw [cvtLane, pu, pv, groupElements_eq _ _ _ _ (by omega) (by omega), putElements_elem _ _ hl (by omega) (by omega)]
  · rw [cvtGroup_mul cu cv, List.getD_eq_getElem?_getD, List.getElem?_map, List.getElem?_map, List.getElem?_map, List.getElem?_range hj]
    exact Nat.mod_eq_of_lt hlt
  · rw [cvtGroup_mul cv cu, max_comm]
    exact hj

theorem Regs.groupElem_zero (r : Regs) (first l : Nat) : r.groupElem 32 first l 0 = (r.getV first l).toNat := by
  show (r.getV first l).toNat / 1 % 2 ^ 32 = _
  rw [Nat.div_one, Nat.mod_eq_of_lt (BitVec.isLt _)]

theorem bits_of_64 {t : Nat} (h : (elemType t).bits = 64) : perReg t = 0 := by
  rw [elemType_bits] at h
  unfold perReg
  rw [h]
  rfl

theorem bits_of_32 {t : Nat} (h : (elemType t).bits = 32) : perReg t = 1 := by
  rw [elemType_bits] at h
  unfold perReg
  rw [h]
  rfl

/-- A side of a 64-bit type is one pair (R116). -/
theorem cvtLanes_pairs (r : Regs) (d a st dt : Nat) {l : Nat} (hl : l < 4) (hact : r.active.getLsbD l = true) :
    ((elemType st).bits = 64 → (elemType dt).bits = 64 → ((cvtLanes d a st dt r).getPair d l).toNat =
      (cvtElem (elemType st) (elemType dt) r.mode (r.getPair a l).toNat).1) ∧
    ((elemType st).bits = 64 → (elemType dt).bits = 32 → ((cvtLanes d a st dt r).getV d l).toNat =
      (cvtElem (elemType st) (elemType dt) r.mode (r.getPair a l).toNat).1) ∧
    ((elemType st).bits = 32 → (elemType dt).bits = 64 → ((cvtLanes d a st dt r).getPair d l).toNat =
      (cvtElem (elemType st) (elemType dt) r.mode (r.getV a l).toNat).1) := by
  have hlt := cvtElem_lt (elemType st) (elemType dt) r.mode
  have hpair : ∀ q q' : Regs, (∀ x, q.getV x l = q'.getV x l) → (q.getPair d l).toNat = (q'.getPair d l).toNat := fun q q' h => by
    simp only [Regs.getPair, h]
  have hput : ∀ (q : Regs) (n x : Nat), x < 2 ^ 64 → ((putElements q 64 n d l [x]).getPair d l).toNat = x := fun q n x h => by
    rw [putElements, if_pos rfl, Regs.getPair_setPair _ hl, BitVec.toNat_ofNat]
    exact Nat.mod_eq_of_lt h
  refine ⟨fun hu hv => ?_, fun hu hv => ?_, fun hu hv => ?_⟩ <;> rw [hv] at hlt
  · refine cvtLanes_makes (fun q => (q.getPair d l).toNat) hl hact hpair fun q => ?_
    rw [cvtLane, hu, hv, groupElements, if_pos rfl]
    exact hput _ _ _ (hlt _)
  · refine cvtLanes_makes (fun q => (q.getV d l).toNat) hl hact (fun q q' h => by rw [h]) fun q => ?_
    rw [cvtLane, hu, hv, groupElements, if_pos rfl, bits_of_64 hu, bits_of_32 hv]
    have := putElements_elem q (w := 32) (n := 1) (d := d) (j := 0) [(cvtElem (elemType st) (elemType dt) r.mode (r.getPair a l).toNat).1] hl (by decide) (by decide)
      (by decide)
    rw [List.getD_cons_zero, Nat.mod_eq_of_lt (hlt _)] at this
    rwa [Regs.groupElem_zero] at this
  · refine cvtLanes_makes (fun q => (q.getPair d l).toNat) hl hact hpair fun q => ?_
    have hg : groupElements r 32 1 a l = [(r.getV a l).toNat] := by
      rw [groupElements_eq _ _ _ _ (by decide) (by decide)]
      exact congrArg (fun x => [x]) (r.groupElem_zero a l)
    rw [cvtLane, hu, hv, bits_of_64 hv, bits_of_32 hu, show cvtGroup 1 0 = 1 from rfl, hg]
    exact hput _ _ _ (hlt _)

/-! ### Integers (R117) -/

theorem cvt_int_int (m : BitVec 16) {wf wt : Nat} (sf sg : Bool) {x : Nat} (h : x < 2 ^ wf) :
    let n : ℤ := if sf = true ∧ 2 ^ (wf - 1) ≤ x then (x : ℤ) - 2 ^ wf else x
    let z := cvtElem (.int wf sf) (.int wt sg) m x
    (z.1 : ℤ) = (if modeSat m then max (intLo wt sg) (min (intHi wt sg) n) else n) % 2 ^ wt ∧
      z.2 = (if modeSat m = true ∧ (n < intLo wt sg ∨ intHi wt sg < n) then fIsat else 0) := by
  intro n z
  have hz : z = intResult wt sg (modeSat m) n := by
    show intResult wt sg (modeSat m) (intOfBits wf sf x) = _
    rw [intOfBits_of_lt sf h]
  rw [hz, intResult_fst, intResult_snd]
  refine ⟨rfl, if_congr (and_congr_right fun _ => ?_) rfl rfl⟩
  rw [not_and_or, not_le, not_le]

theorem Ex.ofInt_is (k : ℤ) : (Ex.ofInt k).Is (decide (k < 0)) k := by
  refine ⟨k.natAbs, 1, one_pos, rfl, ?_⟩
  rcases lt_or_ge k 0 with h | h
  · simp [h, Nat.cast_natAbs, abs_of_neg (show (k : ℚ) < 0 by exact_mod_cast h)]
  · simp [not_lt.mpr h, Nat.cast_natAbs, abs_of_nonneg (show (0 : ℚ) ≤ k by exact_mod_cast h)]

theorem cvt_int_float (m : BitVec 16) {wf : Nat} (sf : Bool) {g : Fmt} (hg : g.plain) {x : Nat} (h : x < 2 ^ wf) :
    let n : ℤ := if sf = true ∧ 2 ^ (wf - 1) ≤ x then (x : ℤ) - 2 ^ wf else x
    g.rounds (modeRnd m) (modeSat m) (modeFtz m) false n (cvtElem (.int wf sf) (.float g) m x) := by
  intro n
  have hz : cvtElem (.int wf sf) (.float g) m x = g.encode (modeRnd m) (modeSat m) (modeFtz m) (Ex.ofInt n) := by
    show g.encode _ _ _ (Ex.ofInt (intOfBits wf sf x)) = _
    rw [intOfBits_of_lt sf h]
  rw [hz]
  refine Fmt.rounds_congr (Fmt.encode_rounds hg _ _ _ (Ex.ofInt_is n)) fun h0 => ?_
  have : n = 0 := by exact_mod_cast h0
  rw [this]
  rfl

/-! ### A float to an integer (R76, R77, R117) -/

/-- A rounding mode takes one whole number. -/
theorem Rnd.whole_unique {r : Rnd} {z : ℚ} {j k : ℤ} (hj : r.whole z j) (hk : r.whole z k) : j = k := by
  cases r with
  | rne =>
    obtain ⟨j1, j2⟩ := hj
    obtain ⟨k1, k2⟩ := hk
    by_contra hne
    have h1 : 1 ≤ |j - k| := Int.one_le_abs (sub_ne_zero.mpr hne)
    have hq : (1 : ℚ) ≤ |(j : ℚ) - k| := by exact_mod_cast h1
    have htri : |(j : ℚ) - k| ≤ |j - z| + |k - z| := by
      rw [abs_sub_comm (k : ℚ)]
      exact abs_sub_le _ _ _
    have hje := j2 (by linarith)
    have hke := k2 (by linarith)
    have hone : |j - k| ≤ 1 := by
      have : |(j : ℚ) - k| ≤ 1 := by linarith
      exact_mod_cast this
    rw [abs_le] at hone
    have : j - k ≠ 0 := sub_ne_zero.mpr hne
    omega
  | rz =>
    obtain ⟨j1, j2, j3⟩ := hj
    obtain ⟨k1, k2, k3⟩ := hk
    have hab : |j| = |k| := by
      have h1 : (|j| : ℤ) < |k| + 1 := by
        have : |(j : ℚ)| < |(k : ℚ)| + 1 := by linarith
        exact_mod_cast this
      have h2 : (|k| : ℤ) < |j| + 1 := by
        have : |(k : ℚ)| < |(j : ℚ)| + 1 := by linarith
        exact_mod_cast this
      omega
    rcases abs_eq_abs.mp hab with h | h
    · exact h
    · have hz : (j : ℚ) * z = 0 := by
        subst h
        push_cast at j3 ⊢
        linarith
      rcases mul_eq_zero.mp hz with h0 | h0
      · have : j = 0 := by exact_mod_cast h0
        omega
      · rw [h0, abs_zero] at j1
        have : (j : ℚ) = 0 := abs_nonpos_iff.mp j1
        have : j = 0 := by exact_mod_cast this
        omega
  | rdn =>
    obtain ⟨j1, j2⟩ := hj
    obtain ⟨k1, k2⟩ := hk
    have h1 : j < k + 1 := by exact_mod_cast (by linarith : (j : ℚ) < k + 1)
    have h2 : k < j + 1 := by exact_mod_cast (by linarith : (k : ℚ) < j + 1)
    omega
  | rup =>
    obtain ⟨j1, j2⟩ := hj
    obtain ⟨k1, k2⟩ := hk
    have h1 : j < k + 1 := by exact_mod_cast (by linarith : (j : ℚ) < k + 1)
    have h2 : k < j + 1 := by exact_mod_cast (by linarith : (k : ℚ) < j + 1)
    omega

/-- A magnitude rounded to a whole number, with its sign. -/
def signedInt (neg : Bool) (n : Nat) : ℤ := if neg then -(n : ℤ) else n

theorem signedInt_cast (neg : Bool) (n : Nat) : ((signedInt neg n : ℤ) : ℚ) = signedQ neg n := by cases neg <;> simp [signedInt]

theorem Rnd.picks_whole {r : Rnd} {neg : Bool} {x : ℚ} {k n : Nat} (h1 : (k : ℚ) ≤ x) (h2 : x < k + 1)
    (hp : r.picks neg (k : ℚ) x (k + 1) (k % 2 = 1) k n) : r.whole (signedQ neg x) (signedInt neg n) := by
  have hx : 0 ≤ x := (Nat.cast_nonneg k).trans h1
  have hn : (0 : ℚ) ≤ n := Nat.cast_nonneg n
  have haway : (((k : ℚ) ≠ x ∧ n = k + 1) ∨ (¬ (k : ℚ) ≠ x ∧ n = k)) → x ≤ n ∧ (n : ℚ) < x + 1 := by
    rintro (⟨hne, rfl⟩ | ⟨he, rfl⟩)
    · have := lt_of_le_of_ne h1 hne
      push_cast
      exact ⟨h2.le, by linarith⟩
    · rw [not_not.mp he]
      exact ⟨le_rfl, by linarith⟩
  cases r with
  | rne =>
    show 2 * |_| ≤ 1 ∧ (2 * |_| = 1 → _)
    rw [signedInt_cast, abs_signedQ_sub]
    have hpar : signedInt neg n % 2 = 0 ↔ n % 2 = 0 := by unfold signedInt; split <;> omega
    rw [hpar]
    rcases hp with ⟨hg, rfl⟩ | ⟨hg, rfl⟩
    · push_cast
      rw [abs_of_pos (by linarith)]
      rcases hg with hg | ⟨hg, ho⟩
      · exact ⟨by linarith, fun h => by linarith⟩
      · exact ⟨by linarith, fun _ => by omega⟩
    · rw [Rnd.goesUp, not_or, not_and, not_lt] at hg
      rw [abs_of_nonpos (by linarith)]
      refine ⟨by linarith [hg.1], fun h => ?_⟩
      have := hg.2 (by linarith)
      omega
  | rz =>
    obtain rfl : n = k := by simpa [Rnd.picks, Rnd.goesUp] using hp
    show |_| ≤ |_| ∧ |_| < |_| + 1 ∧ 0 ≤ _
    rw [signedInt_cast, abs_signedQ _ hn, abs_signedQ _ hx]
    refine ⟨h1, h2, ?_⟩
    have := mul_nonneg hn hx
    cases neg <;> simpa using this
  | rdn =>
    show _ ≤ _ ∧ _ < _ + 1
    rw [signedInt_cast]
    cases neg with
    | false =>
      obtain rfl : n = k := by simpa [Rnd.picks, Rnd.goesUp] using hp
      exact ⟨h1, h2⟩
    | true =>
      obtain ⟨a1, a2⟩ := haway (by simpa only [Rnd.picks, Rnd.goesUp, true_and] using hp)
      simp only [signedQ_true]
      exact ⟨by linarith, by linarith⟩
  | rup =>
    show _ ≤ _ ∧ _ < _ + 1
    rw [signedInt_cast]
    cases neg with
    | true =>
      obtain rfl : n = k := by simpa [Rnd.picks, Rnd.goesUp] using hp
      simp only [signedQ_true]
      exact ⟨by linarith, by linarith⟩
    | false =>
      obtain ⟨a1, a2⟩ := haway (by simpa only [Rnd.picks, Rnd.goesUp, true_and] using hp)
      exact ⟨a1, a2⟩

/-- A finite value to an integer: the whole number that the mode takes, clamped, with inexact where it is another and invalid where it is out of range. -/
theorem intOfEx_fin (w : Nat) (sg : Bool) (r : Rnd) {x : Ex} {neg : Bool} {z : ℚ} (h : x.Is neg z) {k : ℤ} (hk : r.whole z k) :
    ((intOfEx w sg r x).1 : ℤ) = max (intLo w sg) (min (intHi w sg) k) % 2 ^ w ∧
    (intOfEx w sg r x).2 = flagIf (decide (z ≠ k)) fInexact ||| flagIf (decide (k < intLo w sg ∨ intHi w sg < k)) fInvalid := by
  obtain ⟨p, q, hq, rfl, rfl⟩ := h
  have hp := roundNat_picks r neg p hq
  obtain ⟨h1, h2⟩ := natFloor_bounds p hq
  have hw := Rnd.picks_whole h1 h2 hp
  obtain rfl := Rnd.whole_unique hw hk
  have hflag : (p % q != 0) = decide (signedQ neg (p / q) ≠ (signedInt neg (roundNat r neg p q) : ℤ)) := by
    rw [signedInt_cast, Bool.eq_iff_iff, bne_iff_ne, decide_eq_true_eq, not_iff_not, ← natFloor_eq_iff p hq]
    have hinj : signedQ neg (p / q) = signedQ neg (roundNat r neg p q) ↔ (p / q : ℚ) = roundNat r neg p q := by cases neg <;> simp
    rw [hinj]
    constructor
    · intro he
      rcases hp with ⟨hg, -⟩ | ⟨-, hn⟩
      · rw [he] at hg
        exact absurd hg (r.not_goesUp_self neg _ (by linarith))
      · rw [hn, he]
    · intro he
      rcases hp with ⟨-, hn⟩ | ⟨-, hn⟩
      · rw [hn] at he
        push_cast at he
        linarith
      · rw [he, hn]
  have hle := intLo_le_intHi w sg
  have hx : intOfEx w sg r (.fin neg p q) =
      if signedInt neg (roundNat r neg p q) < intLo w sg then ((intLo w sg % (2 ^ w : ℤ)).toNat, fInvalid ||| flagIf (p % q != 0) fInexact)
      else if intHi w sg < signedInt neg (roundNat r neg p q) then ((intHi w sg % (2 ^ w : ℤ)).toNat, fInvalid ||| flagIf (p % q != 0) fInexact)
      else ((signedInt neg (roundNat r neg p q) % (2 ^ w : ℤ)).toNat, flagIf (p % q != 0) fInexact) := rfl
  rw [hx, hflag]
  generalize signedInt neg (roundNat r neg p q) = n
  split
  · rename_i hlt
    rw [toNat_emod_pow, BitVec.or_comm, min_eq_right (by omega), max_eq_left (by omega)]
    exact ⟨rfl, by rw [show decide (n < intLo w sg ∨ intHi w sg < n) = true by simp [hlt], flagIf, flagIf, if_pos rfl]⟩
  split
  · rename_i hlt
    rw [toNat_emod_pow, BitVec.or_comm, min_eq_left (by omega), max_eq_right hle]
    exact ⟨rfl, by rw [show decide (n < intLo w sg ∨ intHi w sg < n) = true by simp [hlt], flagIf, flagIf, if_pos rfl]⟩
  · rename_i h1 h2
    rw [toNat_emod_pow, min_eq_right (by omega), max_eq_right (by omega)]
    refine ⟨rfl, ?_⟩
    rw [show decide (n < intLo w sg ∨ intHi w sg < n) = false by simp; omega]
    exact BitVec.or_zero.symm

/-- An element's bits above its format are not read. -/
theorem Fmt.decode_flush_mod {f : Fmt} (hf : f.plain) (ftz : Bool) (x : Nat) : f.decode (f.flush ftz x) = f.decode (f.flush ftz (x % 2 ^ f.width)) := by
  have hmod : x % 2 ^ f.width % f.signBit = x % f.signBit := Nat.mod_mod_of_dvd _ ⟨2, by rw [f.two_mul_signBit, Nat.mul_comm]⟩
  have hdiv : x % 2 ^ f.width / f.signBit % 2 = x / f.signBit % 2 := by
    rw [f.two_mul_signBit, Nat.mul_comm, Nat.mod_mul_right_div_self, Nat.mod_mod]
  unfold Fmt.flush
  rw [hmod, hdiv]
  split
  · rfl
  · rw [decode_plain hf, decode_plain hf (x % 2 ^ f.width), Nat.mod_mod]

section
variable {f : Fmt} (hf : f.plain) (m : BitVec 16) (wt : Nat) (sg : Bool) {g : Fmt} (x : Nat)
include hf

theorem cvt_float_nan (h : f.nanAt (x % 2 ^ f.width) = true) :
    cvtElem (.float f) (.int wt sg) m x = (0, fInvalid) ∧
    cvtElem (.float f) (.float g) m x = (if g.narrow then (0, fInvalid) else (g.nanCode, flagIf (f.sigAt (x % 2 ^ f.width)) fInvalid)) := by
  have hd := Fmt.flush_nan hf (modeFtz m) (Nat.mod_lt x (Nat.two_pow_pos _)) h
  rw [← Fmt.decode_flush_mod hf] at hd
  unfold cvtElem
  dsimp only
  rw [hd]
  exact ⟨rfl, g.encode_nan_plain _ _ _ _⟩

theorem cvt_float_inf (hg : g.plain) (h : f.infAt (x % 2 ^ f.width) = true) :
    ((cvtElem (.float f) (.int wt sg) m x).1 : ℤ) = (if decide (f.signBit ≤ x % 2 ^ f.width) then intLo wt sg else intHi wt sg) % 2 ^ wt ∧
    (cvtElem (.float f) (.int wt sg) m x).2 = fInvalid ∧
    cvtElem (.float f) (.float g) m x = (if g.narrow then (g.signed (decide (f.signBit ≤ x % 2 ^ f.width)) g.maxCode, 0)
      else if g.hasInf then (g.signed (decide (f.signBit ≤ x % 2 ^ f.width)) (if modeSat m then g.maxCode else g.infCode), 0)
      else if modeSat m then (g.signed (decide (f.signBit ≤ x % 2 ^ f.width)) g.maxCode, fOverflow) else (g.nanCode, fInvalid)) := by
  have hd := (Fmt.flush_inf (modeFtz m) (Nat.mod_lt x (Nat.two_pow_pos _)) h).2
  rw [← Fmt.decode_flush_mod hf] at hd
  unfold cvtElem
  dsimp only
  rw [hd]
  exact ⟨toNat_emod_pow _ _, rfl, Fmt.encode_inf_plain hg _ _ _ _⟩

theorem cvt_float_finite (hg : g.plain) (h : x % 2 ^ f.width % f.signBit ≤ f.maxCode) :
    g.rounds (modeRnd m) (modeSat m) (modeFtz m) (decide (f.signBit ≤ x % 2 ^ f.width)) (f.value (f.flush (modeFtz m) (x % 2 ^ f.width)))
      (cvtElem (.float f) (.float g) m x) ∧
    ∀ k : ℤ, (modeRnd m).whole (f.value (f.flush (modeFtz m) (x % 2 ^ f.width))) k →
      ((cvtElem (.float f) (.int wt sg) m x).1 : ℤ) = max (intLo wt sg) (min (intHi wt sg) k) % 2 ^ wt ∧
      (cvtElem (.float f) (.int wt sg) m x).2 = flagIf (decide (f.value (f.flush (modeFtz m) (x % 2 ^ f.width)) ≠ k)) fInexact |||
        flagIf (decide (k < intLo wt sg ∨ intHi wt sg < k)) fInvalid := by
  have hd := Fmt.decode_flush hf (modeFtz m) ⟨Nat.mod_lt x (Nat.two_pow_pos _), h⟩
  rw [← Fmt.decode_flush_mod hf] at hd
  unfold cvtElem
  dsimp only
  exact ⟨Fmt.encode_rounds hg _ _ _ hd, fun k hk => intOfEx_fin wt sg _ hd hk⟩

end

/-- A rational as an exact value. -/
def exOf (x : ℚ) : Ex := .fin (decide (x < 0)) x.num.natAbs x.den

theorem natAbs_num_div_den (x : ℚ) : (x.num.natAbs / x.den : ℚ) = |x| := by
  rw [Nat.cast_natAbs, Int.cast_abs, ← Nat.abs_cast x.den, ← abs_div, Rat.num_div_den]

theorem exOf_is (x : ℚ) : (exOf x).Is (decide (x < 0)) x := by
  refine ⟨x.num.natAbs, x.den, x.den_pos, rfl, ?_⟩
  rw [natAbs_num_div_den]
  rcases lt_or_ge x 0 with h | h
  · simp [h, abs_of_neg h]
  · simp [not_lt.mpr h, abs_of_nonneg h]

theorem any_isNan_exOf (xs : List ℚ) : (xs.map exOf).any Ex.isNan = false := by
  rw [List.any_map, List.any_eq_false]
  intro x _
  simp [exOf, Ex.isNan]

/-- The larger of two magnitudes, as quantise_block takes it. -/
def largerEx (m x : Ex) : Ex := if m.lt x.abs then x.abs else m

/-- The largest magnitude of a block. -/
theorem foldl_largerEx (xs : List ℚ) (a b : Nat) (hb : 0 < b) : ∃ p q : Nat, 0 < q ∧ (xs.map exOf).foldl largerEx (.fin false a b) = .fin false p q ∧
    (a / b : ℚ) ≤ p / q ∧ (∀ x ∈ xs, |x| ≤ p / q) ∧ ((p / q : ℚ) = a / b ∨ ∃ x ∈ xs, (p / q : ℚ) = |x|) := by
  induction xs generalizing a b with
  | nil => exact ⟨a, b, hb, rfl, le_rfl, by simp, .inl rfl⟩
  | cons x xs ih =>
    have habs : (exOf x).abs = .fin false x.num.natAbs x.den := rfl
    have hlt := Ex.lt_fin (p := a) (num := x.num.natAbs) hb x.den_pos
    rw [natAbs_num_div_den] at hlt
    rw [List.map_cons, List.foldl_cons, largerEx, habs]
    by_cases h : (a / b : ℚ) < |x|
    · rw [if_pos (hlt.mpr h)]
      obtain ⟨p, q, hq, h1, h2, h3, h4⟩ := ih x.num.natAbs x.den x.den_pos
      rw [natAbs_num_div_den] at h2 h4
      refine ⟨p, q, hq, h1, h.le.trans h2, ?_, .inr ?_⟩
      · simp only [List.mem_cons, forall_eq_or_imp]
        exact ⟨h2, h3⟩
      · rcases h4 with h4 | ⟨y, hy, h4⟩
        · exact ⟨x, by simp, h4⟩
        · exact ⟨y, by simp [hy], h4⟩
    · rw [if_neg (by rw [hlt]; exact h)]
      obtain ⟨p, q, hq, h1, h2, h3, h4⟩ := ih a b hb
      refine ⟨p, q, hq, h1, h2, ?_, h4.imp_right ?_⟩
      · simp only [List.mem_cons, forall_eq_or_imp]
        exact ⟨(not_lt.mp h).trans h2, h3⟩
      · rintro ⟨y, hy, h4⟩
        exact ⟨y, by simp [hy], h4⟩

/-- An e4m3 code that is no NaN decodes to its number. -/
theorem e4m3_decode {c : Nat} (h : c ≤ 0x7E) : ∃ p q : Nat, 0 < q ∧ Fmt.e4m3.decode c = .fin false p q ∧ Fmt.e4m3.value c = (p / q : ℚ) ∧
    Fmt.e4m3.value c = Fmt.e4m3.mag c := by
  have hlt : c < Fmt.e4m3.signBit := by change c < 128; omega
  obtain ⟨p, q, hq, hd, hv⟩ := Fmt.decode_finite (f := .e4m3) (by rintro t ⟨⟩) (c := c) ⟨by change c < 256; omega, by change c % 128 ≤ 0x7E; omega⟩
  rw [decide_eq_false (not_le.mpr hlt)] at hd hv
  exact ⟨p, q, hq, hd, hv, Fmt.value_of_lt hlt⟩

/-- leastE4m3 answers the first of its codes that is no less than a value. -/
theorem leastE4m3_spec {num den : Nat} (hd : 0 < den) (k c : Nat) (hk : k + c ≤ 0x7F) :
    (∀ c', leastE4m3 num den k c = some c' → c ≤ c' ∧ c' < c + k ∧ (num / den : ℚ) ≤ Fmt.e4m3.value c' ∧
      ∀ j, c ≤ j → j < c' → Fmt.e4m3.value j < num / den) ∧
    (leastE4m3 num den k c = none → ∀ j, c ≤ j → j < c + k → Fmt.e4m3.value j < num / den) := by
  have hd' : (0 : ℚ) < den := by exact_mod_cast hd
  induction k generalizing c with
  | zero => exact ⟨fun c' h => by simp [leastE4m3] at h, fun _ j h1 h2 => by omega⟩
  | succ k ih =>
    obtain ⟨p, q, hq, hdec, hv, -⟩ := e4m3_decode (c := c) (by omega)
    have hq' : (0 : ℚ) < q := by exact_mod_cast hq
    have hle : num * q ≤ p * den ↔ (num / den : ℚ) ≤ Fmt.e4m3.value c := by
      rw [hv, div_le_div_iff₀ hd' hq']
      exact_mod_cast Iff.rfl
    obtain ⟨h1, h2⟩ := ih (c + 1) (by omega)
    rw [leastE4m3, hdec]
    dsimp only
    by_cases h : num * q ≤ p * den
    · rw [if_pos h]
      refine ⟨fun c' hc => ?_, fun hc => absurd hc (Option.some_ne_none c)⟩
      obtain rfl := Option.some.inj hc
      exact ⟨le_rfl, by omega, hle.mp h, fun j _ _ => by omega⟩
    · rw [if_neg h]
      have hc : Fmt.e4m3.value c < num / den := not_le.mp fun h' => h (hle.mpr h')
      refine ⟨fun c' he => ?_, fun he j j1 j2 => ?_⟩
      · obtain ⟨g1, g2, g3, g4⟩ := h1 c' he
        refine ⟨by omega, by omega, g3, fun j j1 j2 => ?_⟩
        rcases j1.lt_or_eq with j1 | rfl
        · exact g4 j j1 j2
        · exact hc
      · rcases j1.lt_or_eq with j1 | rfl
        · exact h2 he j j1 (by omega)
        · exact hc

/-- The largest magnitude that a block's codes may stand for, over its scale (R80). -/
def Fmt.most (f : Fmt) : ℚ := f.qmaxEighths / 8

theorem Fmt.most_pos (f : Fmt) : 0 < f.most := by
  unfold Fmt.most
  cases f with
  | q4 t => cases t <;> norm_num [Fmt.qmaxEighths]
  | _ => norm_num [Fmt.qmaxEighths]

theorem Fmt.qmaxEighths_pos (f : Fmt) : 0 < f.qmaxEighths := by
  cases f with
  | q4 t => cases t <;> decide
  | _ => decide

/-- A block without NaN whose largest magnitude is not zero. -/
theorem quantiseBlock_eq {xs : List Ex} (f : Fmt) (r : Rnd) {a b qc qn qd : Nat} {fl : Flags} (hn : xs.any Ex.isNan = false)
    (ha : xs.foldl largerEx (.fin false 0 1) = .fin false a b) (h0 : a ≠ 0)
    (hl : (leastE4m3 (a * 8) (b * f.qmaxEighths) 0x7F 0 = some qc ∧ fl = 0) ∨
      (leastE4m3 (a * 8) (b * f.qmaxEighths) 0x7F 0 = none ∧ qc = 0x7E ∧ fl = fOverflow)) (hd : Fmt.e4m3.decode qc = .fin false qn qd) :
    quantiseBlock xs f r = (xs.map fun x => f.encode r true false (x.divFin qn qd), BitVec.ofNat 16 (f.entryBits + qc), fl) := by
  have ha' : xs.foldl (fun m x => if m.lt x.abs then x.abs else m) (Ex.fin false 0 1) = .fin false a b := ha
  have hz : (Ex.fin false a b).isZero = false := beq_eq_false_iff_ne.mpr h0
  unfold quantiseBlock
  rcases hl with ⟨hl, rfl⟩ | ⟨hl, rfl, rfl⟩
  · simp only [hn, ha', hz, hl, hd, Bool.false_eq_true, if_false]
  · simp only [hn, ha', hz, hl, hd, Bool.false_eq_true, if_false]

theorem quantiseBlock_zero {xs : List Ex} (f : Fmt) (r : Rnd) {b : Nat} (hn : xs.any Ex.isNan = false)
    (ha : xs.foldl largerEx (.fin false 0 1) = .fin false 0 b) : quantiseBlock xs f r = (xs.map fun _ => (0, 0), BitVec.ofNat 16 f.entryBits, 0) := by
  have ha' : xs.foldl (fun m x => if m.lt x.abs then x.abs else m) (Ex.fin false 0 1) = .fin false 0 b := ha
  unfold quantiseBlock
  simp only [hn, ha', Bool.false_eq_true, if_false]
  rfl

/-- A block of zeros. -/
theorem quantise_zeros {xs : List ℚ} (f : Fmt) (r : Rnd) (h : ∀ x ∈ xs, x = 0) :
    quantiseBlock (xs.map exOf) f r = (xs.map fun _ => (0, 0), BitVec.ofNat 16 f.entryBits, 0) := by
  obtain ⟨p, q, hq, h1, -, h3, h4⟩ := foldl_largerEx xs 0 1 one_pos
  have hp : p = 0 := by
    have hz : (p / q : ℚ) = 0 := by
      rcases h4 with h4 | ⟨x, hx, h4⟩
      · rw [h4]; simp
      · rw [h4, h x hx, abs_zero]
    rw [div_eq_zero_iff] at hz
    rcases hz with hz | hz
    · exact_mod_cast hz
    · exact absurd (by exact_mod_cast hz) hq.ne'
  subst hp
  rw [quantiseBlock_zero f r (any_isNan_exOf xs) h1, List.map_map]
  rfl

/-- A block of numbers, not all zero: the scale is the least e4m3 number that brings the largest magnitude `top` within range, or the largest with overflow. -/
theorem quantise_numbers {xs : List ℚ} (f : Fmt) (r : Rnd) (h : ∃ x ∈ xs, x ≠ 0) : ∃ (top : ℚ) (qc qn qd : Nat) (fl : Flags),
    0 < top ∧ (∀ x ∈ xs, |x| ≤ top) ∧ (∃ x ∈ xs, top = |x|) ∧ qc ≤ 0x7E ∧ 0 < qn ∧ 0 < qd ∧ Fmt.e4m3.value qc = (qn / qd : ℚ) ∧
    quantiseBlock (xs.map exOf) f r = (xs.map fun x => f.encode r true false ((exOf x).divFin qn qd), BitVec.ofNat 16 (f.entryBits + qc), fl) ∧
    (top ≤ 448 * f.most → top ≤ Fmt.e4m3.value qc * f.most ∧ (∀ c < qc, Fmt.e4m3.value c * f.most < top) ∧ fl = 0) ∧
    (448 * f.most < top → qc = 0x7E ∧ fl = fOverflow) := by
  obtain ⟨a, b, hb, h1, -, h3, h4⟩ := foldl_largerEx xs 0 1 one_pos
  obtain ⟨x0, hx0, hne⟩ := h
  have htop : (0 : ℚ) < a / b := (abs_pos.mpr hne).trans_le (h3 x0 hx0)
  have hb' : (0 : ℚ) < b := by exact_mod_cast hb
  have ha0 : a ≠ 0 := by
    rintro rfl
    simp at htop
  have h4 := h4.resolve_left (by simpa using htop.ne')
  have hden : 0 < b * f.qmaxEighths := Nat.mul_pos hb f.qmaxEighths_pos
  have hm := f.most_pos
  have hscale : ((a * 8 : ℕ) / (b * f.qmaxEighths : ℕ) : ℚ) = a / b / f.most := by
    have : (f.qmaxEighths : ℚ) ≠ 0 := by exact_mod_cast f.qmaxEighths_pos.ne'
    rw [Fmt.most]
    push_cast
    field_simp
  obtain ⟨hsome, hnone⟩ := leastE4m3_spec (num := a * 8) hden 0x7F 0 (by decide)
  rw [hscale] at hsome hnone
  have h448 : Fmt.e4m3.value 0x7E = 448 := by
    norm_num [Fmt.value, Fmt.signBit, Fmt.width, Fmt.frac, Fmt.bias]
  have hfin : ∀ (qc : Nat) (fl : Flags), qc ≤ 0x7E → 0 < Fmt.e4m3.value qc →
      (leastE4m3 (a * 8) (b * f.qmaxEighths) 0x7F 0 = some qc ∧ fl = 0) ∨ (leastE4m3 (a * 8) (b * f.qmaxEighths) 0x7F 0 = none ∧ qc = 0x7E ∧ fl = fOverflow) →
      ∃ qn qd : Nat, 0 < qn ∧ 0 < qd ∧ Fmt.e4m3.value qc = (qn / qd : ℚ) ∧
        quantiseBlock (xs.map exOf) f r = (xs.map fun x => f.encode r true false ((exOf x).divFin qn qd), BitVec.ofNat 16 (f.entryBits + qc), fl) := by
    intro qc fl hqc hpos hl
    obtain ⟨qn, qd, hqd, hd, hv, -⟩ := e4m3_decode hqc
    have hqn : 0 < qn := by
      rw [Nat.pos_iff_ne_zero]
      rintro rfl
      rw [hv] at hpos
      simp at hpos
    refine ⟨qn, qd, hqn, hqd, hv, ?_⟩
    rw [quantiseBlock_eq f r (any_isNan_exOf xs) h1 ha0 hl hd, List.map_map]
    rfl
  cases hl : leastE4m3 (a * 8) (b * f.qmaxEighths) 0x7F 0 with
  | some qc =>
    obtain ⟨-, g2, g3, g4⟩ := hsome qc hl
    obtain ⟨qn, qd, e1, e2, e3, e4⟩ := hfin qc 0 (by omega) ((by positivity : (0 : ℚ) < a / b / f.most).trans_le g3) (.inl ⟨hl, rfl⟩)
    refine ⟨a / b, qc, qn, qd, 0, htop, h3, h4, by omega, e1, e2, e3, e4, fun _ => ⟨(div_le_iff₀ hm).mp g3, fun c hc => ?_, rfl⟩, fun hlt => ?_⟩
    · exact (lt_div_iff₀ hm).mp (g4 c (Nat.zero_le _) hc)
    · have hq : Fmt.e4m3.value qc ≤ 448 := by
        obtain ⟨-, -, -, -, -, m1⟩ := e4m3_decode (c := qc) (by omega)
        obtain ⟨-, -, -, -, -, m2⟩ := e4m3_decode (c := 0x7E) le_rfl
        rw [← h448, m1, m2]
        exact Fmt.mag_le.mpr (by omega)
      have := (div_le_iff₀ hm).mp g3
      exact absurd (this.trans (mul_le_mul_of_nonneg_right hq hm.le)) (not_le.mpr hlt)
  | none =>
    have hmax := hnone hl 0x7E (by decide) (by decide)
    rw [h448, lt_div_iff₀ hm] at hmax
    obtain ⟨qn, qd, e1, e2, e3, e4⟩ := hfin 0x7E fOverflow le_rfl (by rw [h448]; norm_num) (.inr ⟨hl, rfl, rfl⟩)
    exact ⟨a / b, 0x7E, qn, qd, fOverflow, htop, h3, h4, le_rfl, e1, e2, e3, e4, fun hle => absurd hmax (not_lt.mpr hle), fun _ => ⟨rfl, rfl⟩⟩

/-- The scale and the type that a block's entry carries. -/
theorem entry_parts (f : Fmt) {q : Nat} (hq : q < 256) : ((BitVec.ofNat 16 (f.entryBits + q)).setWidth 8).toNat = q ∧
    (BitVec.ofNat 16 (f.entryBits + q)).toNat / 256 = f.entryBits / 256 := by
  have hb : f.entryBits % 256 = 0 ∧ f.entryBits ≤ 0x300 := by
    cases f with
    | q4 t => cases t <;> decide
    | _ => decide
  rw [BitVec.toNat_setWidth, BitVec.toNat_ofNat]
  constructor <;> omega

/-- A 4-bit type's conversion of a value within range. -/
theorem q4_encode_nearest (t : Q4) (r : Rnd) (sat ftz : Bool) {x : Ex} {neg : Bool} {z : ℚ} (h : x.Is neg z) (hz : |z| ≤ (Fmt.q4 t).most) :
    t.nearest r z ((Fmt.q4 t).encode r sat ftz x).1 := by
  obtain ⟨p, q, hq, rfl, rfl⟩ := h
  have hq' : (0 : ℚ) < q := by exact_mod_cast hq
  rw [abs_signedQ _ (by positivity)] at hz
  rcases Nat.eq_zero_or_pos p with rfl | hp
  · refine Q4.nearest_of_eq (by decide : (0 : Nat) < 16) (fun _ => (by decide : (0 : Nat) ≠ 8)) ?_
    have h0 : q4Value t 0 = 0 := by cases t <;> simp [q4Value]
    show q4Value t 0 = _
    rw [h0]
    cases neg <;> simp
  · have hb : p * 8 ≤ (t.bound neg).1 * q := by
      have hle : (Fmt.q4 t).qmaxEighths ≤ (t.bound neg).1 := by cases t <;> cases neg <;> decide
      have h1 : (p : ℚ) * 8 ≤ (Fmt.q4 t).qmaxEighths * q := by
        rw [Fmt.most, div_le_div_iff₀ hq' (by norm_num)] at hz
        exact hz
      have h2 : p * 8 ≤ (Fmt.q4 t).qmaxEighths * q := by exact_mod_cast h1
      exact h2.trans (Nat.mul_le_mul_right _ hle)
    have he : (Fmt.q4 t).encode r sat ftz (.fin neg p q) = (Fmt.q4 t).encodeFin r sat ftz neg p q := if_neg (by omega)
    rw [he, Fmt.encodeFin, if_neg (not_lt.mpr hb)]
    exact t.round_nearest r neg hp hq hb

/-- A code of a 4-bit type decodes to its value. -/
theorem q4_decode_is (t : Q4) {c : Nat} (hc : c < 16) : ∃ neg, (t.decode c).Is neg (q4Value t c) := by
  cases t with
  | int =>
    rw [q4Value_int hc]
    have hd : Q4.int.decode c = if decide (c % 16 ≥ 8) then .fin true (16 - c % 16) 1 else .fin false (c % 8) 1 := rfl
    rw [hd, Nat.mod_eq_of_lt hc]
    rcases Nat.lt_or_ge c 8 with h | h
    · rw [if_neg (by simpa using h), if_pos h, Nat.mod_eq_of_lt h]
      exact ⟨false, c, 1, one_pos, rfl, by simp⟩
    · rw [if_pos (by simpa using h), if_neg (by omega)]
      refine ⟨true, 16 - c, 1, one_pos, rfl, ?_⟩
      rw [Nat.cast_sub hc.le]
      simp
  | pow2 =>
    rw [q4Value_eq (by decide) hc]
    have hd : Q4.pow2.decode c = .fin (decide (c % 16 ≥ 8) && c % 8 != 0) (Q4.pow2.eighth (c % 8)) 8 := rfl
    rw [hd, Nat.mod_eq_of_lt hc]
    refine ⟨_, _, 8, by norm_num, rfl, ?_⟩
    rcases Nat.eq_zero_or_pos (c % 8) with h | h
    · rw [h, Q4.eighth_zero]
      simp [signedQ]
    · rw [show (c % 8 != 0) = true by simp; omega, Bool.and_true]
      rfl
  | e2m1 =>
    rw [q4Value_eq (by decide) hc]
    refine ⟨_, Q4.e2m1.eighth (c % 8), 8, by norm_num, ?_, rfl⟩
    have hd : Q4.e2m1.decode c = .fin (decide (c % 16 ≥ 8)) (Q4.e2m1.eighth (c % 8)) 8 := rfl
    rw [hd, Nat.mod_eq_of_lt hc]
  | hyb =>
    rw [q4Value_eq (by decide) hc]
    refine ⟨_, Q4.hyb.eighth (c % 8), 8, by norm_num, ?_, rfl⟩
    have hd : Q4.hyb.decode c = .fin (decide (c % 16 ≥ 8)) (Q4.hyb.eighth (c % 8)) 8 := rfl
    rw [hd, Nat.mod_eq_of_lt hc]

/-! ### VDQNT (R119) -/

/-- Only f32, f16 and bf16 have signalling NaNs. -/
theorem Fmt.signals_of_not_wide {f : Fmt} (hw : f.wide = false) (c : Nat) : (f.decode c).signals = false := by
  by_cases hf : f.plain
  · rw [decode_plain hf, hw]
    have hs : ∀ (n : Bool) (p : Nat) (e : ℤ), (scale2 n p 1 e).signals = false := fun n p e => by
      obtain ⟨p', q', -, h, -⟩ := scale2_is n p one_pos e
      rw [h]
      rfl
    split
    · rfl
    split
    · rfl
    split
    · rfl
    split
    · exact hs _ _ _
    · exact hs _ _ _
  · obtain ⟨t, rfl⟩ : ∃ t, f = .q4 t := by simpa [Fmt.plain] using hf
    cases t with
    | int =>
      show Ex.signals (if decide (c % 16 ≥ 8) then _ else _) = false
      split <;> rfl
    | _ => rfl

theorem slotFmtCode_lt (s : BitVec 64) : slotFmtCode s < 16 := BitVec.isLt _

/-- The formats of a block's slot. -/
theorem fmtOfCode_block {c : Nat} (h1 : 0xB ≤ c) (h2 : c < 16) (t : Q4) : ∃ f, fmtOfCode c t = some f ∧ f.wide = false := by
  interval_cases c
  · exact ⟨_, rfl, rfl⟩
  · exact ⟨_, rfl, rfl⟩
  · exact ⟨_, rfl, rfl⟩
  · exact ⟨_, rfl, rfl⟩
  · exact ⟨_, rfl, rfl⟩

theorem blockSlot_parts {s : BitVec 64} (h : blockSlot s = true) : slotScales s = true ∧ 0xB ≤ slotFmtCode s := by
  simp only [blockSlot, Bool.and_eq_true, decide_eq_true_eq] at h
  exact ⟨h.1.2, h.2⟩

/-- The scale of a block, by its entry. -/
theorem scaleValue_eq {s : BitVec 64} (h : slotScales s = true) (v : W32) :
    scaleValue s (v.setWidth 16) = if (v.setWidth 8).toNat ≥ 0x80 then .nan false else Fmt.e4m3.decode (v.setWidth 8).toNat := by
  have he : ((v.setWidth 16).extractLsb' 0 8).toNat = (v.setWidth 8).toNat := by
    simp only [BitVec.extractLsb'_toNat, BitVec.toNat_setWidth]
    omega
  rw [scaleValue, h, if_pos rfl, he]

theorem scaleValue_nan {s : BitVec 64} (h : slotScales s = true) {v : W32} (hv : 0x7F ≤ (v.setWidth 8).toNat) :
    scaleValue s (v.setWidth 16) = .nan false := by
  rw [scaleValue_eq h]
  split
  · rfl
  · rw [show (v.setWidth 8).toNat = 0x7F by omega]
    rfl

theorem scaleValue_is {s : BitVec 64} (h : slotScales s = true) {v : W32} (hv : (v.setWidth 8).toNat < 0x7F) :
    (scaleValue s (v.setWidth 16)).Is false (Fmt.e4m3.value (v.setWidth 8).toNat) := by
  rw [scaleValue_eq h, if_neg (by omega)]
  obtain ⟨p, q, hq, hd, hv, -⟩ := e4m3_decode (c := (v.setWidth 8).toNat) (by omega)
  exact ⟨p, q, hq, hd, hv⟩

section dequant
variable {slot : BitVec 64} (r : Regs) (a b l : Nat) (hs : blockSlot slot = true)
include hs

theorem dequantLane_nan (he : 0x7F ≤ ((r.getV (a + 1) l).setWidth 8).toNat) (hy : (r.getV b l).toNat % 2 ^ 31 ≤ 0x7F800000) :
    dequantLane slot r a b l = ((floatFmt (modeType r.mode)).nanCode, 0) := by
  obtain ⟨h1, h2⟩ := blockSlot_parts hs
  have hlt : (r.getV b l).toNat < 2 ^ Fmt.f32.width := BitVec.isLt _
  have hn : Fmt.f32.nanAt (r.getV b l).toNat = false := by
    rw [Fmt.nanAt_wide rfl]
    exact decide_eq_false (not_lt.mpr hy)
  have hx : (Fmt.f32.decode (Fmt.f32.flush (modeFtz r.mode) (r.getV b l).toNat)).signals = false := by
    rw [Fmt.signals_flush (Fmt.plain_of_wide rfl) _ hlt, Fmt.sigAt, hn]
    simp
  have hd : (slotDecode slot ((r.getV (a + 1) l).setWidth 16) ((r.getV a l).toNat % 2 ^ slotWidth slot)).signals = false := by
    obtain ⟨f, hf, hw⟩ := fmtOfCode_block h2 (slotFmtCode_lt slot) (slotQ4 slot ((r.getV (a + 1) l).setWidth 16))
    rw [slotDecode, hf]
    exact Fmt.signals_of_not_wide hw _
  unfold dequantLane
  dsimp only
  rw [scaleValue_nan h1 he, Ex.mul_nan (y := .nan false) (by simp [Ex.isNan]), hd, Ex.mul_nan (by rfl), hx]
  exact Fmt.encode_nan (floatFmt_wide _) _ _ _ _

theorem dequantLane_rounds (he : ((r.getV (a + 1) l).setWidth 8).toNat < 0x7F) (hy : Fmt.f32.finite (r.getV b l).toNat) {neg : Bool} {z : ℚ}
    (hd : (slotDecode slot ((r.getV (a + 1) l).setWidth 16) ((r.getV a l).toNat % 2 ^ slotWidth slot)).Is neg z) :
    (floatFmt (modeType r.mode)).rounds (modeRnd r.mode) (modeSat r.mode) (modeFtz r.mode) (neg != decide (2 ^ 31 ≤ (r.getV b l).toNat))
      (z * Fmt.e4m3.value ((r.getV (a + 1) l).setWidth 8).toNat * Fmt.f32.value (Fmt.f32.src (modeFtz r.mode) (r.getV b l).toNat))
      (dequantLane slot r a b l) := by
  obtain ⟨h1, h2⟩ := blockSlot_parts hs
  have hx := Fmt.decode_flush (Fmt.plain_of_wide rfl) (modeFtz r.mode) hy
  have hm := (hd.mul (scaleValue_is h1 he)).mul hx
  rw [Fmt.flush_src rfl _ hy.1, Bool.bne_false] at hm
  have hl : dequantLane slot r a b l = (floatFmt (modeType r.mode)).encode (modeRnd r.mode) (modeSat r.mode) (modeFtz r.mode)
      (Ex.mul (Ex.mul (slotDecode slot ((r.getV (a + 1) l).setWidth 16) ((r.getV a l).toNat % 2 ^ slotWidth slot)) (scaleValue slot ((r.getV (a + 1) l).setWidth 16)))
        (Fmt.f32.decode (Fmt.f32.src (modeFtz r.mode) (r.getV b l).toNat))) := by
    rw [← Fmt.flush_src rfl _ hy.1]
    rfl
  rw [hl]
  exact Fmt.encode_rounds (Fmt.plain_of_wide (floatFmt_wide _)) _ _ _ hm

end dequant

/-- A slot's format that is not of the 4-bit family does not depend on a type. -/
theorem fmtOfCode_plain {c : Nat} {t t' : Q4} {f : Fmt} (h : fmtOfCode c t = some f) (hf : f.plain) : fmtOfCode c t' = some f := by
  unfold fmtOfCode at h ⊢
  split at h <;> cases h
  case h_8 => exact absurd rfl (hf t)
  all_goals rfl

theorem evenElements_range (g : Nat → Nat) (k : Nat) : evenElements ((List.range (2 * k)).map g) = (List.range k).map fun j => g (2 * j) := by
  induction k generalizing g with
  | zero => rfl
  | succ k ih =>
    have h2 : (List.range (2 * (k + 1))).map g = g 0 :: g 1 :: (List.range (2 * k)).map fun j => g (j + 2) := by
      rw [show 2 * (k + 1) = 2 * k + 1 + 1 by ring, List.range_succ_eq_map, List.range_succ_eq_map]
      simp [Function.comp_def]
    rw [h2, evenElements, ih, List.range_succ_eq_map]
    simp [Function.comp_def, Nat.mul_add]

/-- An element of a lane's word that was put together from elements that fill it. -/
theorem ofNat_joinElements_get {w : Nat} {xs : List Nat} (h : w * xs.length ≤ 32) (j : Nat) :
    (BitVec.ofNat 32 (joinElements w xs)).toNat / 2 ^ (w * j) % 2 ^ w = xs.getD j 0 % 2 ^ w := by
  have hlt := (joinElements_lt w xs).trans_le (Nat.pow_le_pow_right (by decide) h)
  rw [BitVec.toNat_ofNat, Nat.mod_eq_of_lt hlt, joinElements_get]

/-- Element `j` of a vector register's lane. -/
def Regs.raw (r : Regs) (w x l j : Nat) : Nat := (r.getV x l).toNat / 2 ^ (w * j) % 2 ^ w

theorem Regs.raw_lt (r : Regs) (w x l j : Nat) : r.raw w x l j < 2 ^ w := Nat.mod_lt _ (Nat.two_pow_pos _)

/-- An element as VPACK reads it: of the 6-bit types, the low six bits. -/
def sixOf (t x : Nat) : Nat := if t = 0xD ∨ t = 0xE then x % 64 else x

theorem sixOf_lt {t w x : Nat} (h : x < 2 ^ w) : sixOf t x < 2 ^ w := by
  unfold sixOf
  split
  · exact (Nat.mod_le _ _).trans_lt h
  · exact h

theorem getD_map_range (g : Nat → Nat) {n j : Nat} (h : j < n) : ((List.range n).map g).getD j 0 = g j := by
  rw [List.getD_eq_getElem?_getD, List.getElem?_map, List.getElem?_range h]
  rfl

theorem packLane_elem (r : Regs) (a b l : Nat) (hw : typeWidth (modeType r.mode) = 8 ∨ typeWidth (modeType r.mode) = 16) {j : Nat}
    (hj : j < 32 / typeWidth (modeType r.mode) / 2) :
    (packLane r a b l).toNat / 2 ^ (typeWidth (modeType r.mode) * j) % 2 ^ typeWidth (modeType r.mode) =
      sixOf (modeType r.mode) (r.raw (typeWidth (modeType r.mode)) a l (2 * j)) ∧
    (packLane r a b l).toNat / 2 ^ (typeWidth (modeType r.mode) * (32 / typeWidth (modeType r.mode) / 2 + j)) % 2 ^ typeWidth (modeType r.mode) =
      sixOf (modeType r.mode) (r.raw (typeWidth (modeType r.mode)) b l (2 * j)) := by
  have hpack : packLane r a b l = BitVec.ofNat 32 (joinElements (typeWidth (modeType r.mode))
      (evenElements (typeElements (modeType r.mode) (r.getV a l).toNat) ++ evenElements (typeElements (modeType r.mode) (r.getV b l).toNat))) := rfl
  have heven : ∀ x, evenElements (typeElements (modeType r.mode) (r.getV x l).toNat) =
      (List.range (32 / typeWidth (modeType r.mode) / 2)).map fun j => sixOf (modeType r.mode) (r.raw (typeWidth (modeType r.mode)) x l (2 * j)) := by
    intro x
    rw [← evenElements_range fun j => sixOf (modeType r.mode) (r.raw (typeWidth (modeType r.mode)) x l j),
      show 2 * (32 / typeWidth (modeType r.mode) / 2) = 32 / typeWidth (modeType r.mode) by rcases hw with h | h <;> rw [h], typeElements, elements,
      List.map_map]
    rfl
  rw [hpack, heven, heven]
  generalize typeWidth (modeType r.mode) = w at *
  have hlen : w * ((List.range (32 / w / 2)).map (fun j => sixOf (modeType r.mode) (r.raw w a l (2 * j))) ++
      (List.range (32 / w / 2)).map fun j => sixOf (modeType r.mode) (r.raw w b l (2 * j))).length ≤ 32 := by
    rw [List.length_append, List.length_map, List.length_map, List.length_range]
    rcases hw with rfl | rfl <;> decide
  have hmod : ∀ x, sixOf (modeType r.mode) (r.raw w x l (2 * j)) % 2 ^ w = sixOf (modeType r.mode) (r.raw w x l (2 * j)) :=
    fun x => Nat.mod_eq_of_lt (sixOf_lt (r.raw_lt w x l _))
  rw [ofNat_joinElements_get hlen, ofNat_joinElements_get hlen]
  constructor
  · rw [List.getD_append _ _ _ _ (by simpa using hj), getD_map_range _ hj, hmod]
  · rw [List.getD_append_right _ _ _ _ (by simp), List.length_map, List.length_range, Nat.add_sub_cancel_left, getD_map_range _ hj, hmod]

/-- An element widened to twice its bits, with its sign where its type has one. -/
theorem widened_eq {w : Nat} (hw : 0 < w) (sg : Bool) {x : Nat} (h : x < 2 ^ w) :
    (intOfBits w sg x % (2 ^ (2 * w) : ℤ)).toNat = if sg = true ∧ 2 ^ (w - 1) ≤ x then x + 2 ^ (2 * w) - 2 ^ w else x := by
  have hle : 2 ^ w ≤ 2 ^ (2 * w) := Nat.pow_le_pow_right (by decide) (by omega)
  have hq : (2 : ℤ) ^ w ≤ 2 ^ (2 * w) := by exact_mod_cast hle
  have hx : (x : ℤ) < 2 ^ w := by exact_mod_cast h
  rw [intOfBits_of_lt sg h]
  split
  · have he : ((x : ℤ) - 2 ^ w) % 2 ^ (2 * w) = x - 2 ^ w + 2 ^ (2 * w) := by
      rw [← Int.add_emod_right, Int.emod_eq_of_lt (by omega) (by omega)]
    rw [he]
    zify [(by omega : 2 ^ w ≤ x + 2 ^ (2 * w))]
    rw [Int.toNat_of_nonneg (by omega)]
    ring
  · rw [Int.emod_eq_of_lt (by omega) (by omega), Int.toNat_natCast]

theorem unpackLane_elem (h : Half) (r : Regs) (a l : Nat) {w : Nat} (hw : typeWidth (modeType r.mode) = w) (hw' : w = 8 ∨ w = 16) {j : Nat}
    (hj : j < 32 / w / 2) {x : Nat} (hx : x = r.raw w a l (match h with | .lo => j | .hi => 32 / w / 2 + j)) :
    (unpackLane h r a l).toNat / 2 ^ (2 * w * j) % 2 ^ (2 * w) =
      if typeSigned (modeType r.mode) = true ∧ 2 ^ (w - 1) ≤ x then x + 2 ^ (2 * w) - 2 ^ w else x := by
  have hn : 32 / w / 2 + 32 / w / 2 = 32 / w := by rcases hw' with rfl | rfl <;> rfl
  have hlen : 2 * w * (32 / w / 2) ≤ 32 := by rcases hw' with rfl | rfl <;> decide
  have hxlt : x < 2 ^ w := hx ▸ r.raw_lt _ _ _ _
  have hhalf : ∃ g : Nat → Nat, unpackLane h r a l = BitVec.ofNat 32 (joinElements (2 * w) (((List.range (32 / w / 2)).map g).map
      fun x => (intOfBits w (typeSigned (modeType r.mode)) x % (2 ^ (2 * w) : ℤ)).toNat)) ∧ g j = x := by
    subst hw
    cases h with
    | lo =>
      refine ⟨r.raw _ a l, ?_, hx.symm⟩
      have ht : (elements (typeWidth (modeType r.mode)) 32 (r.getV a l).toNat).take (32 / typeWidth (modeType r.mode) / 2) =
          (List.range (32 / typeWidth (modeType r.mode) / 2)).map (r.raw (typeWidth (modeType r.mode)) a l) := by
        rw [elements, ← List.map_take, List.take_range, min_eq_left (by omega)]
        rfl
      rw [← ht]
      rfl
    | hi =>
      refine ⟨fun j => r.raw _ a l (32 / typeWidth (modeType r.mode) / 2 + j), ?_, hx.symm⟩
      have ht : (elements (typeWidth (modeType r.mode)) 32 (r.getV a l).toNat).drop (32 / typeWidth (modeType r.mode) / 2) =
          (List.range (32 / typeWidth (modeType r.mode) / 2)).map
            fun j => r.raw (typeWidth (modeType r.mode)) a l (32 / typeWidth (modeType r.mode) / 2 + j) := by
        rw [elements, ← List.map_drop]
        conv_lhs => rw [← hn, List.range_add]
        rw [List.drop_left' (by rw [List.length_range, hn]), List.map_map]
        rfl
      rw [← ht]
      rfl
  obtain ⟨g, hun, hgj⟩ := hhalf
  rw [hun, List.map_map, ofNat_joinElements_get (by rw [List.length_map, List.length_range]; exact hlen), getD_map_range _ hj, Function.comp_apply, hgj,
    Nat.mod_eq_of_lt (toNat_emod_lt _ _), widened_eq (by omega) _ hxlt]

/-- The class of a code, of a format with an exponent field (R121). -/
theorem classOf_eq {f : Fmt} (hf : f.plain) (c : Nat) : classOf f c =
    if f.hasInf = true ∧ c % f.signBit = f.infCode then (if f.signBit ≤ c % 2 ^ f.width then 0 else 7)
    else if f.maxCode < c % f.signBit then (if f.hasInf = true ∧ c % f.signBit % 2 ^ f.frac < 2 ^ (f.frac - 1) then 8 else 9)
    else if c % f.signBit = 0 then (if f.signBit ≤ c % 2 ^ f.width then 3 else 4)
    else if c % f.signBit < 2 ^ f.frac then (if f.signBit ≤ c % 2 ^ f.width then 2 else 5)
    else if f.signBit ≤ c % 2 ^ f.width then 1 else 6 := by
  have hm := Nat.mod_lt c f.signBit_pos
  have hfr : 2 ^ f.frac = 2 * 2 ^ (f.frac - 1) := by
    rw [← pow_succ']
    congr 1
    have := Fmt.two_le_frac hf
    omega
  have hq : c % f.signBit % 2 ^ f.frac / 2 ^ (f.frac - 1) = 1 ↔ ¬ c % f.signBit % 2 ^ f.frac < 2 ^ (f.frac - 1) := by
    have h1 := Nat.mod_lt (c % f.signBit) (Nat.two_pow_pos f.frac)
    rw [Nat.div_eq_iff (Nat.two_pow_pos _)]
    omega
  unfold classOf
  simp only [decide_eq_true_eq, ge_iff_le, gt_iff_lt, Bool.and_eq_true, beq_iff_eq, hq]
  generalize c % f.signBit = a at *
  by_cases hi : f.hasInf = true
  · have h4 : ¬ f = .e4m3 := beq_eq_false_iff_ne.mp (Fmt.ne_e4m3_of_hasInf hi)
    have hic := Fmt.infCode_eq hi
    simp only [hi, h4, true_and, false_and, if_false]
    by_cases h1 : a = f.infCode
    · simp [h1]
    · rw [if_neg h1, if_neg h1, if_congr (show f.infCode < a ↔ f.maxCode < a by omega) rfl rfl]
      split
      · rw [ite_not]
      · rfl
  · simp only [hi, false_and, if_false, Bool.false_eq_true]
    have h4 : (f = .e4m3 ∧ a = 0x7F) ↔ f.maxCode < a := by
      cases f with
      | q4 t => exact absurd rfl (hf t)
      | e4m3 =>
        change a < 128 at hm
        change _ ↔ 0x7E < a
        simp
        omega
      | e2m3 => change a < 32 at hm; change _ ↔ 0x1F < a; simp; omega
      | e3m2 => change a < 32 at hm; change _ ↔ 0x1F < a; simp; omega
      | _ => exact absurd rfl hi
    rw [if_congr h4 rfl rfl]

theorem classOf_lt (f : Fmt) (c : Nat) : classOf f c < 10 := by
  unfold classOf
  dsimp only
  split_ifs <;> decide

theorem classLane_elem (r : Regs) (a l : Nat) {f : Fmt} {q : Q4} (hf : fmtOfCode (modeType r.mode) q = some f) (ht : modeType r.mode ≠ 0xF) {j : Nat}
    (hj : j < 32 / typeWidth (modeType r.mode)) :
    (classLane r a l).toNat / 2 ^ (typeWidth (modeType r.mode) * j) % 2 ^ typeWidth (modeType r.mode) =
      classOf f (r.raw (typeWidth (modeType r.mode)) a l j) := by
  have hf' : fmtOfCode (modeType r.mode) .int = some f := by
    unfold fmtOfCode at hf ⊢
    split at hf <;> cases hf
    case h_8 => exact absurd ‹_› ht
    all_goals rfl
  have hlane : classLane r a l = BitVec.ofNat 32 (joinElements (typeWidth (modeType r.mode))
      ((elements (typeWidth (modeType r.mode)) 32 (r.getV a l).toNat).map (classOf f))) := by
    unfold classLane
    simp only [hf']
  have hw : 8 ≤ typeWidth (modeType r.mode) := by
    have := typeWidth_mem (modeType r.mode)
    simp only [List.mem_cons, List.not_mem_nil, or_false] at this
    omega
  have hlt : classOf f (r.raw (typeWidth (modeType r.mode)) a l j) < 2 ^ typeWidth (modeType r.mode) :=
    (classOf_lt _ _).trans ((by decide : 10 < 2 ^ 8).trans_le (Nat.pow_le_pow_right (by decide) hw))
  rw [hlane, elements, List.map_map, ofNat_joinElements_get (by rw [List.length_map, List.length_range]; exact Nat.mul_div_le _ _), getD_map_range _ hj]
  exact Nat.mod_eq_of_lt hlt

/-- A block of numbers quantised: its scale, its flags and its codes. -/
theorem quantise_parts {xs : List ℚ} (f : Fmt) (r : Rnd) (h : ∃ x ∈ xs, x ≠ 0) :
    let q := quantiseBlock (xs.map exOf) f r
    let e := (q.2.1.setWidth 8).toNat
    q.2.1.toNat / 256 = f.entryBits / 256 ∧
    (e ≤ 0x7E ∧ ((∀ x ∈ xs, |x| ≤ 448 * f.most) → (∀ x ∈ xs, |x| ≤ Fmt.e4m3.value e * f.most) ∧
      (∀ c < e, ∃ x ∈ xs, Fmt.e4m3.value c * f.most < |x|) ∧ q.2.2 = 0)) ∧
    ((∃ x ∈ xs, 448 * f.most < |x|) → e = 0x7E ∧ q.2.2 = fOverflow) ∧
    (∀ p ∈ xs.zip q.1, f.plain → f.rounds r true false (decide (p.1 < 0)) (p.1 / Fmt.e4m3.value e) p.2) ∧
    ∀ t, f = .q4 t → (∀ x ∈ xs, |x| ≤ 448 * f.most) → ∀ p ∈ xs.zip q.1, t.nearest r (p.1 / Fmt.e4m3.value e) p.2.1 := by
  intro q e
  obtain ⟨top, qc, qn, qd, fl, -, hall, ⟨x1, hx1, htop⟩, hqc, hqn, hqd, hv, hq, hin, hover⟩ := quantise_numbers f r h
  obtain ⟨he, hb⟩ := entry_parts f (q := qc) (by omega)
  have hqe : e = qc := by
    show ((quantiseBlock (xs.map exOf) f r).2.1.setWidth 8).toNat = qc
    rw [hq, he]
  have hcode : ∀ p ∈ xs.zip q.1, p.1 ∈ xs ∧ p.2 = f.encode r true false ((exOf p.1).divFin qn qd) := by
    intro p hp
    have hq1 : q.1 = xs.map fun x => f.encode r true false ((exOf x).divFin qn qd) := by
      show (quantiseBlock (xs.map exOf) f r).1 = _
      rw [hq]
    rw [hq1, List.zip_map_right, List.mem_map] at hp
    obtain ⟨p', hp', rfl⟩ := hp
    obtain ⟨h1, h2⟩ := List.of_mem_zip hp'
    have h12 : p'.1 = p'.2 := by
      rw [List.zip, List.zipWith_self] at hp'
      obtain ⟨x, -, rfl⟩ := List.mem_map.mp hp'
      rfl
    exact ⟨h1, by simp [Prod.map, h12]⟩
  have hle : (∀ x ∈ xs, |x| ≤ 448 * f.most) → top ≤ 448 * f.most := fun h => htop ▸ h x1 hx1
  have hfl : q.2.2 = fl := by
    show (quantiseBlock (xs.map exOf) f r).2.2 = fl
    rw [hq]
  have hdiv : ∀ x, ((exOf x).divFin qn qd).Is (decide (x < 0)) (x / Fmt.e4m3.value qc) := fun x => by
    rw [hv]
    exact (exOf_is x).divFin hqn hqd
  have hpos : 0 < Fmt.e4m3.value qc := by rw [hv]; positivity
  refine ⟨?_, ?_, ?_, ?_, ?_⟩
  · show (quantiseBlock (xs.map exOf) f r).2.1.toNat / 256 = _
    rw [hq, hb]
  · rw [hqe, hfl]
    refine ⟨hqc, fun h => ?_⟩
    obtain ⟨h1, h2, h3⟩ := hin (hle h)
    exact ⟨fun x hx => (hall x hx).trans h1, fun c hc => ⟨x1, hx1, htop ▸ h2 c hc⟩, h3⟩
  · rintro ⟨x, hx, h⟩
    rw [hqe, hfl]
    exact hover (h.trans_le (hall x hx))
  · intro p hp hf
    rw [hqe, (hcode p hp).2]
    exact Fmt.encode_rounds hf r true false (hdiv p.1)
  · rintro t rfl h p hp
    obtain ⟨hp1, hp2⟩ := hcode p hp
    rw [hqe, hp2]
    refine q4_encode_nearest t r true false (hdiv p.1) ?_
    rw [abs_div, abs_of_pos hpos, div_le_iff₀ hpos, mul_comm]
    exact (hall _ hp1).trans (hin (hle h)).1

/-- A code of R35 or R75 other than the 4-bit family's names a format with an exponent field. -/
theorem plain_of_fmtOfCode {c : Nat} {t : Q4} {f : Fmt} (h : fmtOfCode c t = some f) (hc : c ≠ 0xF) : f.plain := by
  unfold fmtOfCode at h
  rintro t' rfl
  split at h <;> cases h
  exact hc rfl

theorem slotDecode_plain {slot : BitVec 64} {f : Fmt} (hf : f.plain) (h : fmtOfCode (slotFmtCode slot) .int = some f) (entry : BitVec 16) (c : Nat) :
    slotDecode slot entry c = f.decode c := by
  rw [slotDecode, fmtOfCode_plain h hf]

theorem slotDecode_q4 {slot : BitVec 64} (h : slotFmtCode slot = 0xF) (entry : BitVec 16) (c : Nat) :
    slotDecode slot entry c = (slotQ4 slot entry).decode c := by
  rw [slotDecode, h]
  rfl

theorem slotWidth_q4 {slot : BitVec 64} (h : slotFmtCode slot = 0xF) : slotWidth slot = 4 := by
  rw [slotWidth, h]
  rfl

/-- The class of a code, of which only the format's own bits count. -/
theorem classOf_mod {f : Fmt} (hf : f.plain) (c : Nat) : classOf f c = classOf f (c % 2 ^ f.width) := by
  have hmod : c % 2 ^ f.width % f.signBit = c % f.signBit := Nat.mod_mod_of_dvd _ ⟨2, by rw [f.two_mul_signBit, Nat.mul_comm]⟩
  rw [classOf_eq hf, classOf_eq hf, hmod, Nat.mod_mod]

/-- A block with a NaN. -/
theorem quantise_nan {xs : List Ex} (f : Fmt) (r : Rnd) (h : xs.any Ex.isNan = true) : quantiseBlock xs f r =
    (xs.map fun _ => (0, 0), BitVec.ofNat 16 (f.entryBits + 0x7F), fInvalid) := if_pos h

/-! ### The instructions -/

/-- What VCVT makes of a slice's registers, through a slot. -/
def vcvtRegs (slot : BitVec 64) (d a u : Nat) (r : Regs) : Regs := (cvtLanes d a (cvtType u slot) (cvtType (modeType r.mode) slot) r).adv

/-- What VQNT makes of a slice's registers, from the block's codes, its entry and its flags. -/
def vqntRegs (d base : Nat) (q : List (Nat × Flags) × BitVec 16 × Flags) (r : Regs) : Regs :=
  ((eachLane (laneList r.active) (fun o j =>
    ((o.setV d j (BitVec.ofNat 32 (q.1.getD (base + j) (0, 0)).1)).setV (d + 1) j (q.2.1.setWidth 32)).raise (q.1.getD (base + j) (0, 0)).2) r).raise q.2.2).adv

/-- What VDQNT makes of a slice's registers, through a slot. -/
def vdqntRegs (slot : BitVec 64) (d a b : Nat) (r : Regs) : Regs := (eachLane (laneList r.active) (fun q j =>
  (q.setV d j (BitVec.ofNat 32 (dequantLane slot r a b j).1)).raise (dequantLane slot r a b j).2) r).adv

section sets
variable {s : State} {t : Nat} {ks : List Nat} (ha : s.acts t ks)
include ha

theorem State.vcvt_sets (d a k : Nat) (u : BitVec 4) (l : Nat) : s.sets t ks (.vcvt d a k u l) fun _ r => vcvtRegs ((s.slots t).getD k 0) d a u.toNat r :=
  State.sets_of_issueRegs (g := fun st t _ r => .ok (vcvtRegs ((st.slots t).getD k 0) d a u.toNat r)) ha rfl rfl fun _ _ => rfl

theorem State.vqnt_sets (d a k l : Nat) : s.sets t ks (.vqnt d a k l) fun x r => vqntRegs d (4 * posOf x ks)
    (quantiseBlock ((List.range 32).map (s.quantSource x r a)) (slotBlockFmt ((s.slots t).getD k 0)) (modeRnd r.mode)) r := by
  refine State.sets_of_issueRegs (g := fun st t x r => .ok (vqntRegs d (4 * posOf x st.cur.ks)
    (quantiseBlock ((List.range 32).map (st.quantSource x (st.ownSeen x r) a)) (slotBlockFmt ((st.slots t).getD k 0)) (modeRnd r.mode)) r)) ha rfl rfl
    fun x _ => ?_
  have hown : s.ownSeen x (s.slice t x).regs = (s.slice t x).regs := by rw [State.ownSeen, ha.1]; exact ite_self _
  rw [hown, ha.1]

theorem State.vdqnt_sets (d a b k : Nat) : s.sets t ks (.vdqnt d a b k) fun _ r => vdqntRegs ((s.slots t).getD k 0) d a b r :=
  State.sets_of_issueRegs (g := fun st t _ r => .ok (vdqntRegs ((st.slots t).getD k 0) d a b r)) ha rfl rfl fun _ _ => rfl

theorem State.singleLanes_sets {i : Instr} (d : Nat) (f : Regs → Nat → W32) (hm : touchesMemory i = false)
    (he : exec i s = regOp i (fun r => singleLanes (f r) d r) s) : s.sets t ks i fun _ r => (singleLanes (f r) d r).adv :=
  State.sets_of_regOp (g := fun r => singleLanes (f r) d r) ha hm he fun _ _ => rfl

end sets

/-- Settles O19. The places of VCVT's elements and the values of one are said apart; a block's scale is the first code that leastE4m3 meets, and each of its codes one rounding
of the quotient, in the 4-bit family to one of the sixteen values. -/
theorem vectorConversionResults : Obligations.VectorConversionResults := by
  refine ⟨fun s t ks ha d a b k l u h => ⟨?_, ?_, ?_, ?_, ?_, ?_⟩, ?places, ?pairs, ?elements, ?block, ?blockNan, ?dequant, ?pack⟩
  · exact State.vcvt_sets ha d a k u l
  · exact State.vqnt_sets ha d a k l
  · exact State.vdqnt_sets ha d a b k
  · exact State.singleLanes_sets ha d (fun r => packLane r a b) rfl rfl
  · exact State.singleLanes_sets ha d (fun r => unpackLane h r a) rfl rfl
  · exact State.singleLanes_sets ha d (fun r => classLane r a) rfl rfl
  case places => exact fun r d a st dt hu hv l hl hact j hj => cvtLanes_elem r d a st dt hu hv hl hact hj
  case pairs => exact fun r d a st dt l hl hact => cvtLanes_pairs r d a st dt hl hact
  case elements =>
    intro m wf wt sf sg f g x _ _ hf hg
    have hy := Fmt.flush_eq (f := f) (modeFtz m) (Nat.mod_lt x (Nat.two_pow_pos f.width))
    refine ⟨fun hx => ?_, fun hn => cvt_float_nan hf m wt sg x hn, fun hi => cvt_float_inf hf m wt sg x hg hi, fun hfin => ?_⟩
    · obtain ⟨h1, h2⟩ := cvt_int_int m sf sg (wt := wt) hx
      exact ⟨h1, h2, cvt_int_float m sf hg hx⟩
    · have := cvt_float_finite hf m wt sg x hg hfin
      rw [hy] at this
      exact this
  case block =>
    intro xs f rnd hw ex q e most
    have hmost : most = f.most := by
      cases f with
      | q4 t => cases t <;> norm_num [most, Fmt.most, Fmt.qmaxEighths]
      | _ => norm_num [most, Fmt.most, Fmt.qmaxEighths]
    rw [hmost]
    clear_value most
    have hidx : q.2.1.toNat / 256 = f.entryBits / 256 := by
      by_cases hz : ∃ x ∈ xs, x ≠ 0
      · exact (quantise_parts f rnd hz).1
      · have hq : q = _ := quantise_zeros f rnd fun x hx => by_contra fun h0 => hz ⟨x, hx, h0⟩
        rw [hq]
        exact (entry_parts f (by decide : 0 < 256)).2
    refine ⟨hidx.trans ?_, fun hz => ?_, fun hz => ?_, fun hz => (quantise_parts f rnd hz).2.2.2.2⟩
    · clear hidx hmost e q
      cases f with
      | q4 t => cases t <;> rfl
      | _ => rfl
    · have hq : q = _ := quantise_zeros f rnd hz
      refine ⟨?_, by rw [hq], by rw [hq]⟩
      show (q.2.1.setWidth 8).toNat = 0
      rw [hq]
      exact (entry_parts f (by decide : 0 < 256)).1
    · obtain ⟨-, h1, h2, h3, -⟩ := quantise_parts f rnd hz
      exact ⟨h1, h2, fun p hp hf => h3 p hp hf⟩
  case blockNan =>
    intro xs f rnd h
    rw [quantise_nan f rnd h]
    exact ⟨rfl, (entry_parts f (by decide)).1, rfl⟩
  case dequant =>
    intro slot r a b l hs _
    refine ⟨fun he hy => dequantLane_nan r a b l hs he hy, fun he hy => ⟨fun f hf hcode hfin => ?_, fun hcode => ?_⟩⟩
    · refine dequantLane_rounds r a b l hs he hy ?_
      rw [slotDecode_plain hf hcode]
      exact Fmt.decode_finite hf hfin
    · have hc : (r.getV a l).toNat % 2 ^ slotWidth slot < 16 := by
        rw [slotWidth_q4 hcode]
        exact Nat.mod_lt _ (by decide)
      obtain ⟨neg, hd⟩ := q4_decode_is (slotQ4 slot ((r.getV (a + 1) l).setWidth 16)) hc
      refine ⟨_, dequantLane_rounds r a b l hs he hy (neg := neg) ?_⟩
      rw [slotDecode_q4 hcode]
      exact hd
  case pack =>
    intro r a b l _
    refine ⟨fun hw j hj => packLane_elem r a b l hw hj, fun hw j hj h => ?_, fun f q hf ht j hj => ?_⟩
    · exact unpackLane_elem h r a l rfl hw hj rfl
    · have hp := plain_of_fmtOfCode hf ht
      have hel := classLane_elem r a l hf ht hj
      rw [classOf_mod hp, classOf_eq hp, Nat.mod_mod] at hel
      exact hel

end Sys2Proof.Machine
end
